-- ==== Sys2Proof/Word.lean ====
section
/-!
DEFINITION. The word types of the TQ-40 model: bytes, NQI handles (R37), the 32-bit words of registers and lanes.
-/

namespace Sys2Proof

/-- One byte of a memory or a record (R12: multi-byte fields are little-endian). -/
abbrev Byte := BitVec 8

/-- A 32-bit word: a register, a vector lane, an FP32 value. -/
abbrev Word := BitVec 32

/-- A 64-bit word: a scalar or address register, a dispatch reference, a cookie. -/
abbrev DWord := BitVec 64

/-- An NQI handle (R37): TYPE in [31:28], GEN in [27:20], SLOT in [19:0]. -/
abbrev Handle := BitVec 32

/-- A sparse table keyed by a number: the first entry of a key counts. -/
abbrev Tab (α : Type) := List (Nat × α)

end Sys2Proof
end

