-- ==== Sys2Proof/Syntax.lean ====
section
/-!
DEFINITION. The commands of the block: one constructor of `Instr` for each row of spec/opcode_table.json, with the row's operands.
A packet row carries the packet's header (`Hdr`) and its parameters at the widths of R88 to R98; a register row carries the path that
makes the access (R507); an event row carries what the surroundings bring with the event (a reading, a far end's answer, a test result).
-/

namespace Sys2Proof

/-- The header of a packet (R74), with the queue slot whose ring the QE fetched it from. `rsvd` says that some reserved field of the
header or of the parameters holds a nonzero value; `opcode` is kept only where it is not the row's own. -/
structure Hdr where
  q       : Nat
  flags   : BitVec 8
  cont    : Nat
  context : Handle
  fence   : Handle
  tag     : Word
  fval    : DWord
  rsvd    : Bool
  deriving DecidableEq, Repr

/-- A party that reaches a register (R507). -/
inductive Path where
  /-- a host port's request, with its PASID if it carries one; `tee`: in the interface's selective IDE stream with the T bit set (R318) -/
  | host (port : Nat) (pasid : Option Nat) (tee : Bool)
  /-- a host port's request that is an AtomicOp, or that sets Execute or Privileged Mode (R393) -/
  | hostOdd (port : Nat)
  /-- control core n -/
  | core (n : Nat)
  | mmc
  /-- the debug access port -/
  | debug
  deriving DecidableEq, Repr

/-- QUEUE_CREATE's parameters (R88). -/
structure QueueArgs where
  target    : Handle
  ringAddr  : Nat
  ringObj   : Handle
  log2      : Nat
  cls       : Nat
  weight    : Nat
  replyAddr : Nat
  replyObj  : Handle
  deriving DecidableEq, Repr

/-- One DISPATCH binding (R92). -/
structure Bind where
  obj   : Handle
  index : Nat
  off   : Nat
  deriving DecidableEq, Repr

/-- DISPATCH's parameters (R91). -/
structure DispArgs where
  program : Handle
  count   : Nat
  polder  : Nat
  entry   : Nat
  save    : Handle
  binds   : List Bind
  cookie  : DWord
  deriving DecidableEq, Repr

/-- DISPATCH_REMOTE's parameters (R91). -/
structure RemoteArgs where
  link   : Nat
  arg    : Handle
  result : Handle
  func   : DWord
  argLen : Nat
  cookie : DWord
  deriving DecidableEq, Repr

/-- KV_APPEND's parameters (R189). -/
structure AppendArgs where
  obj    : Handle
  layer0 : Nat
  nlay   : Nat
  seq    : Nat
  source : Handle
  srcOff : Nat
  pos    : Nat
  count  : Nat
  form   : Nat
  polder : Nat
  cookie : DWord
  deriving DecidableEq, Repr

/-- KV_ATTEND's parameters (R190). -/
structure AttendArgs where
  obj     : Handle
  layer   : Nat
  nq      : Nat
  queries : Handle
  results : Handle
  qOff    : Nat
  sigma   : Word
  outFmt  : Nat
  opts    : Nat
  polder  : Nat
  rOff    : Nat
  ret     : Nat
  port    : Nat
  cookie  : DWord
  deriving DecidableEq, Repr

/-- SLICE_CREATE's parameters (R96). -/
structure SliceArgs where
  pasid     : Nat
  port      : Nat
  mode      : Nat
  qCtx      : Nat
  qQueue    : Nat
  qFence    : Nat
  qFrame    : Nat
  hostBw    : Nat
  linkBw    : Nat
  evtAddr   : Nat
  evtLog2   : Nat
  vector    : Nat
  ringAddr  : Nat
  ringLog2  : Nat
  weight    : Nat
  replyAddr : Nat
  deriving DecidableEq, Repr

/-- LINK_SHAPE's parameters (R96). -/
structure ShapeArgs where
  link     : Nat
  overhead : Nat
  slice    : Handle
  weight   : Nat
  rate     : Nat
  burst    : Nat
  deriving DecidableEq, Repr

/-- What a packet carries whose opcode `op` no table assigns, or whose KIND (0xE0) or MODE (0x4B) is reserved: `sel` is that KIND or MODE, and the rest
stands where RESET_REQUEST and KV_EVICT have their parameters (R98, R192; `seq` is RESET_REQUEST's logical number). -/
structure RawArgs where
  op     : Nat
  sel    : Nat
  obj    : Handle
  seq    : Nat
  newLen : Nat
  cookie : DWord
  deriving DecidableEq, Repr

/-- The outcome of a known-answer run of one cluster (R450): which physical engines pass, and whether each shared part passes. -/
structure KatResult where
  pass  : BitVec 17
  store : Bool
  mover : Bool
  csq   : Bool
  icu   : Bool
  deriving DecidableEq, Repr

/-- A certificate chain as it is presented (R291, R310): the leaf's public key is the one that it must be, every signature verifies, and the digest
of the root that the chain reaches. -/
structure Chain where
  leafOk : Bool
  sigOk  : Bool
  root   : Nat
  deriving DecidableEq, Repr

/-- The fused secrets and trust anchors (R291). -/
structure Fused where
  root    : Nat
  idKey   : Nat
  linkKey : Nat
  imgKey  : Nat
  rootDig : Nat
  dbgDig  : Nat
  deriving DecidableEq, Repr

/-- A TDISP INTERFACE_ID (R401): bytes 0 to 3, the slice handle of bytes 4 to 7, bytes 8 to 11. -/
structure IfaceId where
  func  : Word
  slice : Handle
  rest  : Word
  deriving DecidableEq, Repr

/-- An end-entity credential of the bundle (R330): its digest, and its role. -/
structure Cred where
  digest : Nat
  role   : Nat
  deriving DecidableEq, Repr

/-- The operator's credential bundle (R330); `sigOk`: it verifies under a key whose digest is `signer`. -/
structure Bundle where
  sigOk   : Bool
  signer  : Nat
  creds   : List Cred
  vendors : List Nat
  deriving DecidableEq, Repr

/-- A debug token as the debug port loads it (R334); `sigOk`: the signature verifies under a key whose digest is `signer`. -/
structure Token where
  magic     : Word
  version   : Nat
  scope     : BitVec 8
  rsvd      : Bool
  device    : DWord
  challenge : DWord
  lifetime  : Nat
  sigOk     : Bool
  signer    : Nat
  deriving DecidableEq, Repr

/-- A firmware image as the integrator's store presents it: the header of the native container (R442) or of the legacy one (R337; its `component`,
`version` and `certLen` are not used), the results of the checks of its signature, its tag and the digest of its body, and the descriptor and pairing
table of R443. `rsvd`, `padOk`: a reserved byte of the header is nonzero; the zero bytes of descriptor and entries are zero. `chain`: the signer's;
`key`: the image key under which a legacy body decrypts; `digest`: SHA-384 of the image. -/
structure Image where
  present   : Bool
  legacy    : Bool
  magic     : Nat
  format    : Nat
  hdrLen    : Nat
  bodyLen   : Nat
  svn       : Nat
  component : Nat
  version   : Word
  certLen   : Nat
  keySlot   : Nat
  rsvd      : Bool
  chain     : Chain
  sigOk     : Bool
  tagOk     : Bool
  bodyOk    : Bool
  key       : Nat
  digest    : Nat
  tableOff  : Nat
  padOk     : Bool
  pairs     : List (Nat × Word)
  deriving DecidableEq, Repr

/-- One licence record (R454); `sigOk`: its signature verifies under the chain's leaf key, `rsvd`: a reserved byte is nonzero. -/
structure LicRec where
  feature : Nat
  value   : Nat
  device  : DWord
  serial  : DWord
  rsvd    : Bool
  sigOk   : Bool
  deriving DecidableEq, Repr

/-- The licence set (R454); `digest`: SHA-384 of its bytes. -/
structure LicSet where
  magic    : Nat
  format   : Nat
  count    : Nat
  chainLen : Nat
  rsvd     : Nat
  chain    : Chain
  recs     : List LicRec
  digest   : Nat
  deriving DecidableEq, Repr

/-- What the far end of a link brings to a training (R346, R347); the Booleans say which steps succeed; `chain`: its link identity's, `share`: its
ephemeral public key (R311). -/
structure FarEnd where
  signal   : Bool
  phy      : Bool
  lanes    : Nat
  ident    : DWord
  attach   : Bool
  width    : Nat
  vcs      : Nat
  ded      : List Nat
  cap      : Nat
  coord    : Nat × Nat × Nat
  rdisp    : Bool
  chain    : Chain
  share    : Nat × Nat
  certDig  : Nat
  deriving DecidableEq, Repr

/-- One link's part of the link configuration record (R440 stage 8). -/
structure LinkCfg where
  link   : Nat
  attach : Bool
  vcs    : Nat
  dir    : Nat
  enable : Bool
  deriving DecidableEq, Repr

/-- The link configuration record of the integrator's store. -/
structure LinkRecord where
  bifur : Word
  dims  : Nat × Nat × Nat
  kind  : Nat
  coord : Nat × Nat × Nat
  links : List LinkCfg
  deriving DecidableEq, Repr

/-- Everything outside the block that a bring-up reads or tests (R440): the fuses (R291; `slots`: the digests of the burnt slots, `fuseGood`: the
physical engines that no fuse marks bad; `device`, `linkDev`: the first 8 bytes of the digests of the two public keys, R334, R348), the integrator's
store with the identity certificates, licences and the credential bundle (R330), and the outcomes of its tests. -/
structure Boot where
  svn       : Nat
  stepping  : Nat
  burnt     : BitVec 4
  revoked   : BitVec 4
  slots     : List Nat
  fused     : Fused
  device    : DWord
  linkDev   : DWord
  fuseGood  : List (BitVec 17)
  mmcFw     : Image
  romVer    : Word
  links     : Option LinkRecord
  fw        : Image
  golden    : Image
  hubOk     : Bool
  ucode     : Image
  kat       : List KatResult
  stackOk   : BitVec 20
  far       : List (Nat × FarEnd)
  lics      : LicSet
  idCert    : Chain
  linkCert  : Chain
  bundle    : Bundle
  admin     : Option Nat
  entropyOk : Bool
  bootUs    : Nat
  deriving DecidableEq, Repr

/-- A data flit's link-layer fields (R349), and the checks' results: FEC (R341) and the GCM tag. -/
structure Flit where
  seq   : BitVec 16
  vc    : Nat
  kph   : Bool
  fill  : Nat
  ctr   : Nat
  fecOk : Bool
  tagOk : Bool
  deriving DecidableEq, Repr

/-- A control flit's body (R350), and the tag check's result. -/
structure CtlFlit where
  kph      : Bool
  ack      : BitVec 16
  ackValid : Bool
  nak      : Bool
  freed    : List Nat
  reqKind  : Nat
  reqArg   : Nat
  reqId    : Nat
  reply    : Nat
  replyId  : Nat
  tagOk    : Bool
  deriving DecidableEq, Repr

/-- A link message (R368) as it stands on a link, with its data bytes; `bad`: a reserved bit or byte of its header is nonzero (R368). A sealed
message's data are encrypted, and its trailer carries the seal counter and the GCM tag (R377). -/
structure Msg where
  mtype   : Nat
  flags   : BitVec 8
  units   : Nat
  tag     : Nat
  binding : Nat
  src     : Nat
  dst     : Nat
  addr    : DWord
  len     : Nat
  route   : BitVec 8
  data    : List Byte
  sealCtr : Nat
  sealTag : List Byte
  bad     : Bool
  deriving DecidableEq, Repr

/-- The registers that SLICE_REBIND writes (R275). -/
inductive RebindReg where
  | bind
  | vec
  deriving DecidableEq, Repr

/-- Who opens an SPDM session, and where (R294); a link endpoint by its fabric address (R314, R369). -/
inductive SessWhere where
  | hostPort (port : Nat)
  | link (a : Nat)
  | mgmt
  deriving DecidableEq, Repr

/-- The parties that use mailboxes (R430). -/
inductive Party where
  | control
  | mmc
  | pool
  | csq (cluster : Nat)
  deriving DecidableEq, Repr

/-- A lost port's cause (R394, R408). -/
inductive PortLoss where
  | linkDown
  | perst
  | hotReset
  | linkDisable
  | flr
  | d3hot
  deriving DecidableEq, Repr

/-- Why a link goes down by itself (R365). -/
inductive DownReason where
  | noSignal
  | protocol
  | integrity
  | retrain
  | notice
  deriving DecidableEq, Repr

/-- What reaches the management port outside a session (R411, R412): the I3C bus owner's address assignments, and MCTP control requests. -/
inductive MctpReq where
  | setdasa (addr : Nat)
  | entdaa (addr : Nat)
  | setEid (eid : Nat)
  | getEid
  | getUuid
  | getVersion
  | getTypes
  /-- a message type outside R412's table -/
  | other (ty : Nat)
  deriving DecidableEq, Repr

/-- An SPDM request (R322, R323, R401): discovery, measurements, and what a session adds; the interface report is TDISP's. -/
inductive SpdmReq where
  | version
  | capabilities
  | algorithms
  | digests
  | certificate (slot : Nat) (off : Nat) (len : Nat)
  | challenge (slot : Nat)
  | measurements (index : Nat) (signed : Bool)
  | keyUpdate
  | heartbeat
  | interfaceReport (id : IfaceId)
  deriving DecidableEq, Repr

/-- A component of a firmware update (R413) as it is brought. -/
inductive Component where
  /-- 0x0001, 0x0002, 0x0003 or 0x0004 -/
  | image (id : Nat) (i : Image)
  /-- 0x0010 -/
  | licences (l : LicSet)
  /-- 0x0011 -/
  | bundle (b : Bundle)
  /-- 0x0012 -/
  | certs (id : Chain) (link : Chain)
  /-- an identifier that R413 does not list -/
  | unknown (id : Nat)
  deriving DecidableEq, Repr

/-- A PLDM request (R413): type 0, a numeric sensor of type 2, a component of type 5 at VerifyComplete. -/
inductive PldmReq where
  | types
  | sensor (n : Nat)
  | update (c : Component)
  deriving DecidableEq, Repr

/-- An IDE stream (R400): the port's Link IDE stream, or the selective stream of an interface. -/
inductive IdeStream where
  | link
  | selective (id : IfaceId)
  deriving DecidableEq, Repr

/-- What an uncorrectable SRAM error strikes (R497). -/
inductive EccWhere where
  /-- logical engine, store code of HUB_SRAMLAST (1 store, 2 registers, 3 accumulators) -/
  | engine (e : Nat) (store : Nat)
  | staging (cluster : Nat)
  | kvPartial (cluster : Nat) (disp : DWord)
  | save (cluster : Nat) (disp : DWord)
  | csq (cluster : Nat)
  | hub
  | keyStore
  deriving DecidableEq, Repr

/-- A PRI response code (R398). -/
inductive PriCode where
  | success
  | invalid
  | failure
  deriving DecidableEq, Repr

/-- The work that waits on a host page request (R398): a mover's read of a buffer, or bytes that it stores, at an offset; a packet-ring fetch; a
reply or event record of a context; other bytes written for a context. -/
inductive PriFor where
  | buffer (disp : DWord) (engine : Nat) (buf : Nat) (off : Nat)
  | store (disp : DWord) (engine : Nat) (buf : Nat) (off : Nat)
  | fetch (queue : Nat)
  | record (ctx : Nat)
  | write (ctx : Nat)
  deriving DecidableEq, Repr

/-- A command to the block, or an event that reaches it. -/
inductive Instr where
  -- object lifecycle (R88)
  | ctxCreate (h : Hdr) (ring : Nat) (log2 : Nat) (vec : Nat)
  | ctxDestroy (h : Hdr) (target : Handle)
  | queueCreate (h : Hdr) (a : QueueArgs)
  | ctxSetRing (h : Hdr) (addr : Nat) (obj : Handle) (log2 : Nat) (vec : Nat)
  | queueDestroy (h : Hdr) (queue : Handle)
  | queueStart (h : Hdr) (queue : Handle)
  | queueStop (h : Hdr) (queue : Handle)
  | moCreate (h : Hdr) (base : Nat) (len : Nat) (ty : Nat) (mflags : BitVec 8)
  | moFree (h : Hdr) (obj : Handle)
  | moSeal (h : Hdr) (obj : Handle)
  | fenceCreate (h : Hdr) (init : DWord)
  | fenceFree (h : Hdr) (f : Handle)
  | programLoad (h : Hdr) (obj : Handle) (off : Nat)
  | programFree (h : Hdr) (prog : Handle)
  | queueSetWeight (h : Hdr) (queue : Handle) (weight : Nat)
  -- memory and mapping (R90)
  | moFill (h : Hdr) (obj : Handle) (val : Byte) (off : Nat) (len : Nat)
  | moCopy (h : Hdr) (src : Handle) (dst : Handle) (srcOff : Nat) (dstOff : Nat) (len : Nat)
  | moPlaceHint (h : Hdr) (obj : Handle) (policy : Nat)
  -- dispatch and KV (R91)
  | dispatch (h : Hdr) (a : DispArgs)
  | dispatchRemote (h : Hdr) (a : RemoteArgs)
  | kvAppend (h : Hdr) (a : AppendArgs)
  | kvAttend (h : Hdr) (a : AttendArgs)
  | kvFork (h : Hdr) (obj : Handle) (parent : Nat) (child : Nat) (pfx : Nat) (cookie : DWord)
  | kvEvictRelease (h : Hdr) (obj : Handle) (seq : Nat) (cookie : DWord)
  | kvEvictTruncate (h : Hdr) (obj : Handle) (seq : Nat) (newLen : Nat) (cookie : DWord)
  | kvEvictFormat (h : Hdr) (obj : Handle) (seq : Nat) (cookie : DWord)
  -- fences and events (R93)
  | fenceSignal (h : Hdr)
  | fenceWait (h : Hdr) (f : Handle) (target : DWord)
  | fenceNotify (h : Hdr) (f : Handle) (target : DWord) (cookie : DWord)
  | fenceReset (h : Hdr) (f : Handle) (val : DWord)
  | ctxSetSlowdown (h : Hdr) (thr : Nat)
  -- transactions (R94)
  | txnBegin (h : Hdr)
  | txnCommit (h : Hdr) (t : Handle)
  | txnAbort (h : Hdr) (t : Handle)
  -- queries (R95)
  | queryAlmanac (h : Hdr) (obj : Handle) (off : Nat)
  | queryFence (h : Hdr) (f : Handle)
  | queryContext (h : Hdr) (target : Handle) (obj : Handle) (off : Nat)
  | queryMo (h : Hdr) (obj : Handle)
  | queryQueue (h : Hdr) (queue : Handle)
  | queryDigest (h : Hdr) (src : Handle) (dst : Handle) (off : Nat)
  -- slice administration (R96)
  | sliceCreate (h : Hdr) (a : SliceArgs)
  | sliceDestroy (h : Hdr) (slice : Handle)
  | sliceSetQuota (h : Hdr) (slice : Handle) (field : Nat) (val : Nat)
  | sliceSetShare (h : Hdr) (slice : Handle) (polder : Nat) (weight : Nat)
  | polderShape (h : Hdr) (polder : Nat) (units : BitVec 64) (dayUs : Nat)
  | polderCalendar (h : Hdr) (polder : Nat) (feast : BitVec 64) (excl : BitVec 64)
  | polderAdmit (h : Hdr) (target : Handle) (polder : Nat) (kind : Nat) (days : BitVec 64) (prog : Handle)
  | linkShape (h : Hdr) (a : ShapeArgs)
  | pdFramesBacked (h : Hdr) (req : Nat) (status : Nat)
  | sliceDirtyLog (h : Hdr) (slice : Handle) (on : Nat) (hostMap : Nat) (poolMap : Nat) (ranges : Option (List (Nat × Nat × Nat)))
  | sliceQuiesce (h : Hdr) (slice : Handle)
  | sliceResume (h : Hdr) (slice : Handle)
  | sluiceSet (h : Hdr) (stack : Nat) (cap : Nat)
  | embankmentSet (h : Hdr) (pct : Nat)
  | placementMode (h : Hdr) (mode : Nat)
  -- security and maintenance packets (R97, R98)
  | keyRotate (h : Hdr) (target : Handle)
  | keyPolicy (h : Hdr) (target : Handle) (ival : Nat) (cap : Nat)
  | attestReport (h : Hdr) (obj : Handle) (nonce : List Byte)
  | resetRequestEngine (h : Hdr) (n : Nat)
  | resetRequestCluster (h : Hdr) (n : Nat)
  | resetRequestPolder (h : Hdr) (n : Nat)
  | innerReset (h : Hdr) (n : Nat) (kat : List KatResult)
  | katRun (h : Hdr) (cluster : Nat) (r : KatResult)
  | stackRetire (h : Hdr) (stack : Nat)
  | unassignedOpcode (h : Hdr) (op : RawArgs)
  -- register commands
  | qeDbTailWrite (p : Path) (queue : Nat) (val : Word)
  | qeDbEvtConsWrite (p : Path) (ctx : Nat) (val : Word)
  | back (p : Path)
  | table (p : Path)
  | untable (p : Path)
  | query (p : Path)
  | pleInvGo (p : Path)
  | invalidationDone
  | pleReqDoneWrite (p : Path) (width : Nat) (val : DWord)
  | hubS0Go (p : Path) (lost : Bool)
  | sliceRebind (p : Path) (slice : Nat) (reg : RebindReg) (val : Word)
  | hubHpwinWrite (p : Path) (port : Nat) (k : Nat) (word : Nat) (val : Word)
  | msixVectorUnmask (port : Nat) (vec : Nat)
  | evcClaimRead (core : Nat)
  | evcEoiWrite (core : Nat) (id : Nat)
  | evcPendSetWrite (p : Path) (w : Nat) (bits : Word)
  | evcPendClrWrite (p : Path) (w : Nat) (bits : Word)
  | evcMaskSetWrite (p : Path) (w : Nat) (bits : Word)
  | evcMaskClrWrite (p : Path) (w : Nat) (bits : Word)
  | mbxSend (who : Party) (m : Nat) (width : Nat) (msg : DWord)
  | mbxRecv (who : Party) (m : Nat) (width : Nat)
  | pdAttach
  | pdDetach
  | lnkCtrlRetrain (p : Path) (l : Nat)
  | lnkCtrlWidthGo (p : Path) (l : Nat)
  | lnkCtrlRekey (p : Path) (l : Nat)
  | lnkCtrlDown (p : Path) (l : Nat)
  | lnkCfgEnableWrite (p : Path) (l : Nat) (on : Bool)
  | lnkTopoLock (p : Path)
  | pwrCcsleepReq (p : Path)
  | registerReadClear (p : Path) (bar : Nat) (off : Nat)
  | registerWrite (p : Path) (bar : Nat) (off : Nat) (width : Nat) (val : DWord)
  | debugTokenLoad (t : Token)
  | dbgCtrlClose
  | debugLifetimeExpiry
  -- engines and dispatches
  | bundleIssue (disp : DWord) (k : Nat)
  | barrierRelease (disp : DWord) (id : Nat)
  | moverOpComplete (disp : DWord) (k : Nat) (tag : Nat)
  | dispatchStart (polder : Nat)
  | dispatchComplete (disp : DWord)
  | kvOpComplete (disp : DWord)
  | contextFaulted (ctx : Nat)
  | preemptFullStop (disp : DWord) (k : Nat)
  | preemptSaveStart (disp : DWord)
  | preemptSaveDone (disp : DWord)
  -- scheduling and placement timers
  | dayBoundary (polder : Nat)
  | eveStart (polder : Nat) (ctx : Nat)
  | shareDeficitCharge (polder : Nat)
  | slowdownEpoch (interference : List (Nat × Nat))
  | pleEpoch
  | moveStart (stack : Nat)
  | moveCopyDone (lpf : Nat)
  | rateUpdate (mhz : List Nat)
  | txnTimeout (txn : Nat)
  | backRequestTimeout (req : Nat)
  | sweepComplete (ctx : Nat)
  | autoKeyRotate (ctx : Nat)
  -- hardware events
  | stackPhyTrainingLoss (stack : Nat) (retrained : Bool)
  | uncorrectableRead (stack : Nat) (lpf : Nat) (sector : Nat)
  | sramUncorrectableError (w : EccWhere) (addr : Nat) (b : Boot)
  | entropyHealthFail
  | entropyRecover
  -- links
  | linkTrainingStart (l : Nat) (far : FarEnd)
  | dataFlitReceived (l : Nat) (f : Flit)
  | controlFlitReceived (l : Nat) (f : CtlFlit)
  | idleFlitReceived (l : Nat)
  | controlFlitSend (l : Nat)
  | replayTimeout (l : Nat)
  | rekey (l : Nat) (tx : Bool)
  | retrain (l : Nat) (far : FarEnd)
  | widthChange (l : Nat) (lanes : Nat)
  | linkDown (l : Nat) (r : DownReason)
  | memRd (l : Nat) (m : Msg)
  | memWr (l : Nat) (m : Msg)
  | cpl (l : Nat) (m : Msg)
  | resultStoreTimeout (disp : DWord)
  | pathLost (l : Nat) (m : Msg)
  | doorbell (l : Nat) (m : Msg)
  | rdispSend (l : Nat)
  | rdispDone (l : Nat) (m : Msg)
  | rdispTimeout (l : Nat) (slot : Nat)
  | secured (l : Nat) (m : Msg)
  | reservedMtype (l : Nat) (m : Msg)
  | messageForward (l : Nat) (m : Msg)
  -- host ports
  | cxlMemRead (port : Nat) (hpa : Nat) (len : Nat)
  | cxlMemWrite (port : Nat) (hpa : Nat) (data : List Byte)
  | hostPortLoss (port : Nat) (why : PortLoss)
  | atsInvalidation (port : Nat) (pasid : Nat) (base : Nat) (len : Nat)
  | priResponse (port : Nat) (id : Nat) (code : PriCode)
  | priTimeout (port : Nat) (id : Nat)
  | startInterface (port : Nat) (sess : Nat) (id : IfaceId)
  | lockInterface (port : Nat) (sess : Nat) (id : IfaceId)
  | stopInterface (port : Nat) (sess : Nat) (id : IfaceId)
  | bindClaim (port : Nat) (sess : Nat) (vendor : Nat) (cmd : Nat) (id : IfaceId) (value : Nat)
  | ideKmKeyProg (port : Nat) (sess : Nat) (stream : IdeStream) (keySet : Nat) (tx : Bool) (go : Bool)
  | ideIntegrityFailure (port : Nat) (slice : Handle)
  | getMeasurements (w : SessWhere) (sess : Option Nat) (r : SpdmReq)
  | keyExchange (w : SessWhere) (slice : Option Handle) (share : Nat × Nat) (selfRooted : Bool) (leaf : Nat) (rootDigest : Nat) (chainOk : Bool)
  -- the management port
  | mctpControl (unit : Nat) (r : MctpReq)
  | pldmFirmwareUpdate (sess : Nat) (r : PldmReq)
  | claimSlot (sess : Nat) (digest : Nat)
  | burnSlot (sess : Nat) (slot : Nat) (digest : Nat) (signer : Nat) (sigOk : Bool)
  | revokeSlot (sess : Nat) (slot : Nat) (signer : Nat) (sigOk : Bool)
  | burnSvn (sess : Nat) (svn : Nat) (signer : Nat) (sigOk : Bool)
  | resetBlock (sess : Nat) (b : Boot)
  | resetCold (sess : Nat) (b : Boot)
  -- resets
  | coldReset
  | coldResetRelease (b : Boot)
  | blockReset (cause : Nat) (b : Boot)
  | watchdogExpiry (core : Nat) (b : Boot)
  | fatalInternalError (b : Boot)
  -- supply, power, temperature
  | supplyWarn
  | dipEnd (minMv : Nat) (ticks : Nat)
  | supplyClear
  | supplyReset (minMv : Nat) (ticks : Nat) (b : Boot)
  | powerMeasurement (mv : Nat) (ma : Nat) (avsOk : Bool)
  | thermalCeilingStep (temps : List Nat)
  | thermalTrip (die : Nat) (b : Boot)
  | wiredInputChange (i : Nat) (level : Bool) (samples : Nat)
  | clusterNapEntry (c : Nat)
  | clusterDeepEntry (c : Nat)
  | clusterWake (c : Nat)
  | controlClusterDown
  | controlClusterWake
  | moFillCopyWorkEnd (disp : DWord)
  | hostPortLinkUp (port : Nat) (rate : Nat) (width : Nat) (cxl : Bool)
  | sessionEnd (sess : Nat)
  | trainingFlitReceived (l : Nat)
  deriving DecidableEq, Repr

end Sys2Proof
end

