-- ==== Sys2Proof/Decode.lean ====
section
/-!
DEFINITION. The words that spell commands by bits: the command table gives no row a bit pattern (spec/opcode_table.json lists commands, not
encodings), so there is none.
-/

namespace Sys2Proof

/-- The command that a word spells by the table's bits: no row of the table gives bits. -/
def decodeTableWord (_nbits _w : Nat) : Option Instr := none

end Sys2Proof
end

