-- ==== Sys2Proof/Machine/Tab.lean ====
section
/-!
DEFINITION. Sparse tables (`Tab`), byte lists, and the canonical memory: a list of (address, byte) pairs with strictly rising addresses
and no zero byte. An unlisted byte reads 0 (R210: a frame that is bound holds encrypted zeros where nothing has written; log entry 12).
-/

namespace Sys2Proof.Machine

/-- The entry of key `j`. -/
def tget {α : Type} : Tab α → Nat → Option α
  | [], _ => none
  | (k, v) :: t, j => if k = j then some v else tget t j

/-- The entry of key `j`, or the value an absent entry stands for. -/
def tgetD {α : Type} (t : Tab α) (j : Nat) (d : α) : α := (tget t j).getD d

/-- Put `v` at key `j`, keeping keys in order. -/
def tset {α : Type} : Tab α → Nat → α → Tab α
  | [], j, v => [(j, v)]
  | (k, w) :: t, j, v => if j < k then (j, v) :: (k, w) :: t else if k = j then (j, v) :: t else (k, w) :: tset t j v

/-- Drop every entry of key `j`. -/
def tdel {α : Type} (t : Tab α) (j : Nat) : Tab α := t.filter (fun e => e.1 != j)

/-- Apply `f` to the entry of key `j`, if there is one. -/
def tmod {α : Type} (t : Tab α) (j : Nat) (f : α → α) : Tab α :=
  match tget t j with
  | some v => tset t j (f v)
  | none => t

/-- Apply `f` to every entry. -/
def tmap {α : Type} (t : Tab α) (f : Nat → α → α) : Tab α := t.map (fun e => (e.1, f e.1 e.2))

/-- Key `j` has an entry. -/
def thas {α : Type} (t : Tab α) (j : Nat) : Bool := (tget t j).isSome

/-- The keys whose entries meet `p`. -/
def tkeys {α : Type} (t : Tab α) (p : α → Bool) : List Nat := (t.filter (fun e => p e.2)).map (·.1)

/-! ## Little-endian bytes (R12) -/

/-- The `n` low bytes of `v`, byte 0 first. -/
def leBytes : Nat → Nat → List Byte
  | 0, _ => []
  | n + 1, v => BitVec.ofNat 8 v :: leBytes n (v / 256)

/-- The number that little-endian bytes spell. -/
def leNat : List Byte → Nat
  | [] => 0
  | b :: l => b.toNat + 256 * leNat l

/-- The same as numbers, for the RESULT bytes of a reply. -/
def leNats : Nat → Nat → List Nat
  | 0, _ => []
  | n + 1, v => v % 256 :: leNats n (v / 256)

/-- Bits [lo + w - 1 : lo] of `v`. -/
def bits (v lo w : Nat) : Nat := v / 2 ^ lo % 2 ^ w

/-- 1 for true. -/
def b1 (b : Bool) : Nat := if b then 1 else 0

/-- Round up to a quotient. -/
def ceilDiv (a b : Nat) : Nat := (a + b - 1) / b

/-- The element at position `i` modulo the length. -/
def nth (l : List Nat) (i : Nat) : Option Nat := if l = [] then none else l[i % l.length]?

/-- Insert by a strict "comes before". -/
def insSorted {α : Type} (lt : α → α → Bool) (a : α) : List α → List α
  | [] => [a]
  | b :: l => if lt b a then b :: insSorted lt a l else a :: b :: l

/-- Insertion sort; of equal elements the earlier stays first. -/
def sortBy {α : Type} (lt : α → α → Bool) : List α → List α
  | [] => []
  | a :: l => insSorted (fun x y => lt x y) a (sortBy lt l)

/-! ## Canonical memory -/

/-- What an unlisted address reads as (R210; log entry 12). -/
def memDefault : Byte := 0

/-- The byte at address `a`. -/
def memGet : List Host.Cell → Nat → Byte
  | [], _ => memDefault
  | (k, b) :: m, a => if k = a then b else memGet m a

/-- The listed bytes among those that lie upward from address `a`. -/
def memCells : Nat → List Byte → List Host.Cell
  | _, [] => []
  | a, b :: l => if b = memDefault then memCells (a + 1) l else (a, b) :: memCells (a + 1) l

/-- Write bytes upward from address `a`, keeping the canonical form. -/
def memPut (m : List Host.Cell) (a : Nat) (l : List Byte) : List Host.Cell :=
  let e := a + l.length
  m.filter (fun c => c.1 < a) ++ (memCells a l ++ m.filter (fun c => e ≤ c.1))

/-- Read `n` bytes upward from address `a`. -/
def memRead (m : List Host.Cell) (a n : Nat) : List Byte :=
  let w := m.filter (fun c => a ≤ c.1 && c.1 < a + n)
  (List.range n).map fun i => memGet w (a + i)

/-- Forget the bytes of [a, a + n). -/
def memClear (m : List Host.Cell) (a n : Nat) : List Host.Cell := m.filter (fun c => c.1 < a || a + n ≤ c.1)

/-- The canonical form: addresses strictly rising, no default byte listed. -/
def Memory.wf : List Host.Cell → Bool
  | [] => true
  | [c] => c.2 != memDefault
  | c :: d :: m => c.2 != memDefault && decide (c.1 < d.1) && Memory.wf (d :: m)

end Sys2Proof.Machine
end

