-- ==== Sys2Proof/Machine/Aes.lean ====
section
/-!
DEFINITION. AES-256 with XTS, GHASH, GCM and key wrap, as the standards that spec/10 names define them (FIPS 197, IEEE 1619, NIST SP 800-38D, RFC 3394):
PRESUMED (log entry 4). Keys and blocks are bytes in their order.
-/

namespace Sys2Proof.Machine

/-! ## AES-256 (FIPS 197) -/

/-- The substitution table, entry 0 in the lowest byte. -/
def aesTable : Nat :=
  0x16bb54b00f2d99416842e6bf0d89a18cdf2855cee9871e9b948ed9691198f8e19e1dc186b95735610ef6034866b53e708a8bbd4b1f74dde8c6b4a61c2e2578ba08ae7a65eaf4566ca94ed58d6d37c8e779e4959162acd3c25c2406490a3a32e0db0b5ede14b8ee4688902a22dc4f816073195d643d7ea7c41744975fec130ccdd2f3ff1021dab6bcf5389d928f40a351a89f3c507f02f94585334d43fbaaefd0cf584c4a39becb6a5bb1fc20ed00d153842fe329b3d63b52a05a6e1b1a2c830975b227ebe28012079a059618c323c7041531d871f1e5a534ccf73f362693fdb7c072a49cafa2d4adf04759fa7dc982ca76abd7fe2b670130c56f6bf27b777c63

/-- SubBytes of one byte. -/
def aesSub (x : Byte) : Byte := BitVec.ofNat 8 (bits aesTable (8 * x.toNat) 8)

/-- Multiplication by x in GF(2^8). -/
def xtime (x : Byte) : Byte := (x <<< 1) ^^^ (if x.getLsbD 7 then 0x1B else 0)

/-- The 60 words of the key schedule. -/
def aesWords (key : List Byte) : List (List Byte) :=
  (List.range 52).foldl (fun ws j =>
    let i := j + 8
    let t := ws.getD (i - 1) []
    let u := if i % 8 = 0 then xorBytes ((t.drop 1 ++ t.take 1).map aesSub) [BitVec.ofNat 8 (2 ^ (i / 8 - 1)), 0, 0, 0]
      else if i % 8 = 4 then t.map aesSub else t
    ws ++ [xorBytes (ws.getD (i - 8) []) u]) ((List.range 8).map fun i => (key.drop (4 * i)).take 4)

/-- ShiftRows of a state that lies column by column. -/
def shiftRows (s : List Byte) : List Byte := (List.range 16).map fun i => s.getD (i % 4 + 4 * ((i / 4 + i % 4) % 4)) 0

/-- MixColumns. -/
def mixColumns (s : List Byte) : List Byte :=
  (List.range 16).map fun i =>
    let at_ (j : Nat) : Byte := s.getD (4 * (i / 4) + (i + j) % 4) 0
    xtime (at_ 0) ^^^ xtime (at_ 1) ^^^ at_ 1 ^^^ at_ 2 ^^^ at_ 3

/-- AES-256 of a 16-byte block. -/
@[irreducible] def aes256 (key block : List Byte) : List Byte :=
  let ws := aesWords key
  let rk (r : Nat) : List Byte := ((ws.drop (4 * r)).take 4).flatten
  let mid := (List.range 13).foldl (fun s r => xorBytes (mixColumns (shiftRows (s.map aesSub))) (rk (r + 1))) (xorBytes block (rk 0))
  xorBytes (shiftRows (mid.map aesSub)) (rk 14)

/-! ## XTS (IEEE 1619) -/

/-- The tweak of the next block: multiplication by x in GF(2^128). -/
def xtsNext (t : Nat) : Nat := (2 * t % 2 ^ 128) ^^^ (if t.testBit 127 then 0x87 else 0)

/-- The blocks of a data unit, `n` of them, from tweak `t` on. -/
def xtsGo (key : List Byte) : Nat → Nat → List Byte → List Byte
  | 0, _, _ => []
  | n + 1, t, d =>
    let m := leBytes 16 t
    xorBytes (aes256 key (xorBytes (d.take 16) m)) m ++ xtsGo key n (xtsNext t) (d.drop 16)

/-- AES-256-XTS of a data unit of whole blocks: the data key, then the tweak key. -/
def xtsSeal (keys : List Byte) (unit : Nat) (d : List Byte) : List Byte :=
  xtsGo (keys.take 32) (d.length / 16) (leNat (aes256 (keys.drop 32) (leBytes 16 unit))) d

/-! ## GHASH and GCM (NIST SP 800-38D) -/

/-- The product of two blocks, as big-endian numbers, in GCM's field. -/
def gfMul (x y : Nat) : Nat :=
  ((List.range 128).foldl (fun (a : Nat × Nat) i =>
    (if x.testBit (127 - i) then a.1 ^^^ a.2 else a.1, (a.2 / 2) ^^^ (if a.2 % 2 = 1 then 0xE1 * 2 ^ 120 else 0))) (0, y)).1

/-- GHASH's blocks, `n` of them, from `y` on. -/
def ghashGo (h : Nat) : Nat → Nat → List Byte → Nat
  | 0, y, _ => y
  | n + 1, y, d => ghashGo h n (gfMul (y ^^^ beNat (d.take 16)) h) (d.drop 16)

/-- Bytes with zeros up to a whole number of blocks. -/
def padBlock (d : List Byte) : List Byte := d ++ List.replicate ((16 - d.length % 16) % 16) 0

/-- GHASH of additional data and text, length block included: a 16-byte block. -/
@[irreducible] def ghash (h : List Byte) (a c : List Byte) : List Byte :=
  let d := padBlock a ++ padBlock c ++ beBytes 8 (8 * a.length) ++ beBytes 8 (8 * c.length)
  beBytes 16 (ghashGo (beNat h) (d.length / 16) 0 d)

/-- GCM's key stream for counter values from `i` on, `n` blocks. -/
def gcmStream (key iv : List Byte) (i n : Nat) : List Byte := (List.range n).flatMap fun j => aes256 key (iv ++ beBytes 4 (i + j))

/-- AES-256-GCM under a 12-byte IV: ciphertext and 16-byte tag. -/
def gcmSeal (key iv aad plain : List Byte) : List Byte × List Byte :=
  let c := xorBytes plain (gcmStream key iv 2 ((plain.length + 15) / 16))
  (c, xorBytes (ghash (aes256 key (List.replicate 16 0)) aad c) (gcmStream key iv 1 1))

/-! ## Key wrap (RFC 3394) -/

/-- One pass over the blocks of a key, from step number `t` on. -/
def wrapGo (kek : List Byte) : Nat → List Byte → List (List Byte) → List Byte × List (List Byte)
  | _, a, [] => (a, [])
  | t, a, r :: l =>
    let b := aes256 kek (a ++ r)
    let x := wrapGo kek (t + 1) (xorBytes (b.take 8) (beBytes 8 t)) l
    (x.1, b.drop 8 :: x.2)

/-- AES-256 key wrap of a key of whole 8-byte blocks. -/
def keyWrap (kek d : List Byte) : List Byte :=
  let n := d.length / 8
  let rs := (List.range n).map fun i => (d.drop (8 * i)).take 8
  let x := (List.range 6).foldl (fun (s : List Byte × List (List Byte)) j => wrapGo kek (n * j + 1) s.1 s.2) (List.replicate 8 0xA6, rs)
  x.1 ++ x.2.flatten

end Sys2Proof.Machine
end

