-- ==== Sys2Proof/Machine/Curve.lean ====
section
/-!
DEFINITION. The curve P-384 with ECDH and ECDSA, as FIPS 186-5 and NIST SP 800-56A define them: PRESUMED (log entry 4). A point is its coordinates;
the point at infinity is none.
-/

namespace Sys2Proof.Machine

/-- The field's prime. -/
def p384 : Nat := 2 ^ 384 - 2 ^ 128 - 2 ^ 96 + 2 ^ 32 - 1

/-- The order of the base point. -/
def n384 : Nat := 0xFFFFFFFFFFFFFFFFFFFFFFFFFFFFFFFFFFFFFFFFFFFFFFFFC7634D81F4372DDF581A0DB248B0A77AECEC196ACCC52973

/-- The base point. -/
def g384 : Nat × Nat :=
  (0xAA87CA22BE8B05378EB1C71EF320AD746E1D3B628BA79B9859F741E082542A385502F25DBF55296C3A545E3872760AB7,
   0x3617DE4A96262C6F5D9E98BF9292DC29F8F41DBD289A147CE9DA3113B5F0B8C00A60B1CE1D7E819D7A431D7C90EA0E5F)

/-- `x` to the power whose low `n` bits of `e` say, modulo `m`. -/
def powMod (m x e : Nat) : Nat → Nat
  | 0 => 1 % m
  | n + 1 => (let y := powMod m x e n; y * y % m * (if e.testBit (384 - (n + 1)) then x else 1)) % m

/-- The inverse modulo a prime below 2^384. -/
def invMod (m x : Nat) : Nat := powMod m x (m - 2) 384

/-- The sum of two points. -/
def addPt : Option (Nat × Nat) → Option (Nat × Nat) → Option (Nat × Nat)
  | none, q => q
  | q, none => q
  | some (x1, y1), some (x2, y2) =>
    if x1 = x2 ∧ (y1 + y2) % p384 = 0 then none
    else
      let l := (if x1 = x2 then (3 * x1 * x1 + p384 - 3) * invMod p384 (2 * y1) else (y2 + p384 - y1) * invMod p384 ((x2 + p384 - x1) % p384)) % p384
      let x3 := (l * l + 2 * p384 - x1 - x2) % p384
      some (x3, (l * (x1 + p384 - x3) + p384 - y1) % p384)

/-- The multiple of a point by the low 384 bits of `k`, from the top `n` of them. -/
def mulPt (k : Nat) (q : Option (Nat × Nat)) : Nat → Option (Nat × Nat)
  | 0 => none
  | n + 1 => let r := mulPt k q n; let d := addPt r r; if k.testBit (384 - (n + 1)) then addPt d q else d

/-- A private key from 384 drawn bits: 1 to n - 1. -/
def keyOf (d : Nat) : Nat := d % (n384 - 1) + 1

/-- The public key of a private key. -/
@[irreducible] def publicKey (d : Nat) : Nat × Nat := (mulPt d (some g384) 384).getD (0, 0)

/-- ECDH: the shared secret, the x coordinate as 48 big-endian bytes. -/
@[irreducible] def ecdh (d : Nat) (q : Nat × Nat) : List Byte := beBytes 48 ((mulPt d (some q) 384).elim 0 (·.1))

/-- ECDSA with the secret number `k`: r and s, 48 big-endian bytes each. -/
@[irreducible] def ecdsa (d k : Nat) (digest : List Byte) : List Byte :=
  let r := (publicKey k).1 % n384
  beBytes 48 r ++ beBytes 48 (invMod n384 k * (beNat digest + r * d) % n384)

end Sys2Proof.Machine
end

