-- ==== Sys2Proof/Config.lean ====
section
/-!
DEFINITION. What the manual leaves open: the free values. Each is an opaque constant without a body, so nothing in Lean can compute it
and every proved statement holds whatever it is. The step applies `Config.free` to the counter `State.free`, which it advances at each use.
-/

namespace Sys2Proof.Config

/-- FREE VALUE. A value the manual does not state, one for each draw (log entry 2): the slot a create takes, a DRBG output,
an order the block chooses, a byte read from host memory. -/
opaque free : Nat → Nat

/-- FREE VALUE. A result of an approximated vector function (R135 bounds its error and does not state the result), as a function of
the function's code and of its operand (log entry 3). -/
opaque approx : Nat → Word → Word

/-- FREE VALUE. The energy that a context's activity adds, in microjoules (R264 gives no coefficients; log entry 5). -/
opaque energy : Nat → Nat

/-- FREE VALUE. Which of a polder's clusters, by its number in their list, is nearest to a stack on BNET, whose distances the manual does not give
(R201; log entry 209). -/
opaque nearest : Nat → List Nat → Nat

/-- FREE VALUE. The hash that picks a link of a trunk (R379 names its inputs and gives no function; log entry 28). -/
opaque hash : Nat → Nat

/-- FREE VALUE. The 896 bits of the table key set, or of the internal one (`true`), from the root secret and the boot nonce: R294 names the
sources and not the derivation (log entry 219). -/
opaque sysKm : Nat → Nat → Bool → Nat

/-- FREE VALUE. The physical sector address, in the internal region of its stack, of an entry of a link's replay extension (R206 gives no layout of the
region; log entry 251). -/
opaque spillAt : Nat → Nat → Nat

/-- FREE VALUE. Crebry's vendor ID, whose number the manual does not give (R392, R402; log entry 255). -/
opaque vendorId : Nat

/-- FREE VALUE. The IDCODE of the debug access port (R416; log entry 259). -/
opaque idcode : Nat

/-- FREE VALUE. Bytes of the identity certificate chain, which the integrator's store brings (R291, R325; log entry 4). -/
opaque certLen : Nat

/-- FREE VALUE. Byte i of the identity certificate chain (log entry 4). -/
opaque certByte : Nat → Byte

end Sys2Proof.Config
end

