-- ==== Sys2Proof/Machine/State.lean ====
section
/-!
DEFINITION. The state of the TQ-40: everything the manual gives the block, as plain data, and the queue of waiting commands. Tables are
sparse (`Tab`); an entry that is absent stands for an empty slot, or for the reset value its accessor in Machine/Ops.lean names.
-/

namespace Sys2Proof.Machine

/-- Why the machine stops: no command stops the block, so there is no reason. -/
inductive Fault where
  deriving DecidableEq, Repr

/-- Why a command has no meaning. -/
inductive Refusal where
  /-- raised only by an arm of `exec` whose command has no meaning yet; safe -/
  | notModelled (mnemonic : String)
  deriving DecidableEq, Repr

/-- The status codes (R99). -/
inductive Status where
  | ok | stale | busy | noSlot | quota | badHandle | badParam | badState | denied | notLicensed
  | aborted | faulted | integrity | linkDown | timeout | txnConflict | txnAbsent | txnTooLarge | heldVersion | deviceLost
  deriving DecidableEq, Repr

/-- Why an access fails: class of R494, status, and what the fault registers record of it. `lost`: the access is the first write of a frame that is
lost by it (R221, R234). -/
structure AccErr where
  cls   : Nat
  st    : Status
  cva   : Nat
  lpf   : Option Nat
  stack : Option Nat
  lost  : Bool := false
  deriving DecidableEq, Repr

/-! ## Objects (R34 to R69) -/

/-- The slots of one object type (R38): the generation of each slot that has been issued before, and the parked slots with the
context slot (for contexts, the slice slot) that owned them. -/
structure SlotMgr where
  gens   : Tab Nat
  parked : List (Nat × Nat)
  deriving DecidableEq, Repr

/-- Context states other than FREE (R42), which is an absent entry. -/
inductive CtxState where
  | active | faulted | destroying
  deriving DecidableEq, Repr

/-- An event record (R63) before its PHASE bit is known. `note`: while it is held it stays in its notification record (R65). -/
structure EvRec where
  typ       : Nat
  coalesced : Bool
  status    : Status
  obj       : Handle
  cookie    : DWord
  value     : DWord
  detail    : DWord
  note      : Bool
  deriving DecidableEq, Repr

/-- The place of a ring (R45, R88): an IO address with the null handle, or an offset into a pool-backed object. -/
structure Ring where
  addr : Nat
  obj  : Handle
  log2 : Nat
  deriving DecidableEq, Repr

/-- The context fault register set (R495). -/
structure FaultRegs where
  status  : Status
  cls     : Nat
  cause   : Nat
  count   : Word
  disp    : DWord
  prog    : Handle
  bundle  : Nat
  engine  : Nat
  buffer  : Nat
  trap    : Nat
  offset  : DWord
  cva     : DWord
  lpf     : Nat
  time    : DWord
  srcKind : Nat
  src     : Nat
  valid   : Word
  deriving DecidableEq, Repr

/-- The accounting counters (R264, R266). -/
structure Acct where
  engineNs    : DWord
  progressHs  : DWord
  poolRead    : DWord
  poolWrite   : DWord
  link        : DWord
  host        : DWord
  energyUj    : DWord
  dispatches  : DWord
  preemptions : Word
  overruns    : Word
  suspensions : Word
  slowdown    : BitVec 16
  threshold   : BitVec 16
  deriving DecidableEq, Repr

/-- A context's key-rotation sweep (R304 to R307). -/
inductive Sweep where
  | none | running | paused
  /-- stopped for good, both seasons stay live -/
  | stopped
  deriving DecidableEq, Repr

/-- A context slot that is not FREE. -/
structure Ctx where
  gen       : Nat
  state     : CtxState
  slice     : Nat
  root      : Bool
  ring      : Ring
  vector    : Nat
  prod      : Word
  cons      : Word
  armed     : Bool
  held      : List EvRec
  owesFault : Bool
  fault     : FaultRegs
  acct      : Acct
  nonce     : Nat
  season    : Nat
  prevLive  : Bool
  sweep     : Sweep
  lastRot   : Nat
  keyIval   : Nat
  keyCap    : Nat
  thrArmed  : Bool
  epochNs   : Nat
  rolled    : Option Handle
  deriving DecidableEq, Repr

/-- Queue states (R49). -/
inductive QState where
  | stopped | running | waiting | halted | destroying
  deriving DecidableEq, Repr

/-- A wait that a queue holds at a FENCE_WAIT (R59). -/
structure Wait where
  fence  : Nat
  target : DWord
  count  : Word
  tag    : Word
  deriving DecidableEq, Repr

/-- A FENCE_SIGNAL that waits for earlier work of its queue (R84). -/
structure PendSig where
  order : Nat
  count : Word
  tag   : Word
  fence : Nat
  value : DWord
  deriving DecidableEq, Repr

/-- A reply that waits until the block may write to its slice's host memory again (R286, R316). -/
structure HeldRep where
  count : Word
  tag   : Word
  op    : Nat
  st    : Status
  flags : Nat
  res   : List Nat
  deriving DecidableEq, Repr

/-- A queue slot in use. `weight`: as created; `inForce`: the weight in force in each polder that has had a day boundary since (R258). `fwBusy`: the
count of a firmware packet whose reply is not yet written (R84); `look`: what the QE has read of a packet at HEAD that it could not issue, its counts
and ORDERED (R48, R75); `heldRep`: the replies that wait for the slice's writes. -/
structure Queue where
  gen     : Nat
  ctx     : Nat
  cls     : Nat
  weight  : Nat
  nextWt  : Nat
  inForce : Tab Nat
  ring    : Ring
  rring   : Ring
  tail    : Word
  head    : Word
  state   : QState
  halt    : Status
  wait    : Option Wait
  fwBusy  : Option Word
  signals : List PendSig
  deficit : Tab Int
  look    : Option (Nat × Bool)
  heldRep : List HeldRep
  deriving DecidableEq, Repr

/-- A memory object (R51 to R54). `freed`: its handle has been freed (ORPHANED while `refs` is above zero). -/
structure Mo where
  gen     : Nat
  ctx     : Nat
  base    : Nat
  len     : Nat
  ty      : Nat
  flags   : BitVec 8
  isSealed : Bool
  freed   : Bool
  refs    : Nat
  digest  : Nat
  policy  : Nat
  home    : Option Nat
  saver   : Option DWord
  saving  : Bool
  formatted : Bool
  deriving DecidableEq, Repr

/-- A fence (R56 to R61). -/
structure Fence where
  gen     : Nat
  ctx     : Nat
  value   : DWord
  faulted : Bool
  status  : Status
  disp    : DWord
  stale   : Nat
  freed   : Bool
  refs    : Nat
  deriving DecidableEq, Repr

/-- An armed notification (R60), with the context that armed it. -/
structure Note where
  fence  : Nat
  target : DWord
  cookie : DWord
  ctx    : Nat
  deriving DecidableEq, Repr

/-- A buffer-table entry (R145). -/
structure BufEnt where
  index    : Nat
  ty       : Nat
  rd       : Bool
  wr       : Bool
  optional : Bool
  hostOk   : Bool
  align    : Nat
  minLen   : Nat
  deriving DecidableEq, Repr

/-- A code block (R146). -/
structure Block where
  first   : Nat
  count   : Nat
  wcHs    : Nat
  loopMax : Nat
  deriving DecidableEq, Repr

/-- A cheap point with its live-range record (R147). -/
structure CheapPt where
  bundle : Nat
  size   : Nat
  vmask  : BitVec 32
  pmask  : BitVec 8
  gens   : Bool
  smask  : BitVec 32
  amask  : BitVec 16
  lwa    : BitVec 32
  ranges : List (Nat × Nat)
  deriving DecidableEq, Repr

/-- A loaded program (R143 to R149); its code and its constants stand in its image object, at these offsets. -/
structure Program where
  gen       : Nat
  ctx       : Nat
  obj       : Nat
  freed     : Bool
  refs      : Nat
  fmtMask   : BitVec 32
  engMin    : Nat
  engMax    : Nat
  codeBase  : Nat
  codeOff   : Nat
  bundles   : Nat
  constBase : Nat
  constOff  : Nat
  constLen  : Nat
  bufs      : List BufEnt
  blocks    : List Block
  cheaps    : List CheapPt
  digest    : Nat
  deriving DecidableEq, Repr

/-- A setting (R100): one stageable packet's effect. -/
inductive Setting where
  | quota (slice : Handle) (field : Nat) (val : Nat)
  | share (slice : Handle) (polder : Nat) (weight : Nat)
  | shape (polder : Nat) (units : BitVec 64) (dayUs : Nat)
  | calendar (polder : Nat) (feast : BitVec 64) (excl : BitVec 64)
  | admission (ctx : Handle) (polder : Nat) (kind : Nat) (days : BitVec 64) (prog : Handle)
  | link (a : ShapeArgs)
  | sluice (stack : Nat) (cap : Nat)
  | embankment (pct : Nat)
  | mode (m : Nat)
  | keyPolicy (ctx : Handle) (ival : Nat) (cap : Nat)
  | slowdown (ctx : Handle) (thr : Nat)
  | qweight (queue : Handle) (weight : Nat)
  deriving DecidableEq, Repr

/-- An open transaction (R101). `left`: the time of the 100 ms still left while its slice is quiesced (R285). -/
structure Txn where
  gen      : Nat
  ctx      : Nat
  beginSeq : Nat
  settings : List Setting
  last     : Nat
  left     : Option Nat
  deriving DecidableEq, Repr

/-- A firmware packet that is issued and waits for the firmware (R83, R84): its queue and count, its opcode and header, and the command. -/
structure FwWait where
  queue : Nat
  count : Word
  code  : Nat
  hdr   : Hdr
  cmd   : Instr
  deriving DecidableEq, Repr

/-- The NQI objects, in their slots. `rr`: the slot at which the QE's next round of each class starts (R86); `fwQ`: the firmware packets that
wait, first come first (R83). -/
structure Objs where
  ctxs    : Tab Ctx
  queues  : Tab Queue
  mos     : Tab Mo
  fences  : Tab Fence
  progs   : Tab Program
  txns    : Tab Txn
  notes   : List Note
  ctxMgr  : SlotMgr
  qMgr    : SlotMgr
  moMgr   : SlotMgr
  fMgr    : SlotMgr
  pMgr    : SlotMgr
  tMgr    : SlotMgr
  seq     : Nat
  keySeq  : List ((Nat × Nat × Nat) × Nat)
  rr      : Tab Nat
  fwQ     : List FwWait
  deriving DecidableEq, Repr

/-! ## Slices (R271 to R290) -/

/-- Slice states other than FREE (R276). -/
inductive SliceState where
  | active | quiescing | quiesced | destroying
  deriving DecidableEq, Repr

/-- Dirty-log records in force (R281, R282): the ranges (IOVA base, pages, bitmap address), UNTRACKED, the pool bitmap's address, and
the bits set so far (host bitmap words as range index and bit, pool bits as LPF). -/
structure Dirty where
  ranges    : Option (List (Nat × Nat × Nat))
  hostMap   : Nat
  untracked : Bool
  poolMap   : Nat
  hostBits  : List (Nat × Nat)
  poolBits  : List Nat
  deriving DecidableEq, Repr

/-- A measurement-log entry (R324). -/
structure MrEntry where
  kind   : Nat
  ty     : Nat
  seq    : Nat
  handle : Handle
  ctx    : Handle
  digest : Nat
  deriving DecidableEq, Repr

/-- A slice slot that is not FREE. `qReply`: the SLICE_QUIESCE packet still to be answered (its queue as `order`; fence slot plus one, 0 for
none). -/
structure Slice where
  gen      : Nat
  state    : SliceState
  pasid    : Nat
  port     : Nat
  conf     : Bool
  vecBase  : Nat
  vecCount : Nat
  qCtx     : Nat
  qQueue   : Nat
  qFence   : Nat
  qFrame   : Option Nat
  hostBw   : Nat
  linkBw   : Nat
  root     : Nat
  shares   : Tab Nat
  nextSh   : Tab Nat
  deficit  : Tab Int
  dirty    : Option Dirty
  tokens   : Nat
  tokTime  : Nat
  mr       : Nat
  mrBase   : Nat
  log      : List MrEntry
  logSeq   : Nat
  dropped  : Nat
  reports  : Nat
  qReply   : Option PendSig
  deriving DecidableEq, Repr

/-- The slice table and the slice registers of R275 that outlive a slice. -/
structure Slices where
  tab     : Tab Slice
  mgr     : SlotMgr
  bindErr : Tab Bool
  s0Evt   : DWord
  s0Q     : DWord
  s0R     : DWord
  s0Log2  : Nat
  s0QLog2 : Nat
  s0Vec   : Nat
  s0Done  : Bool
  s0Stat  : Status
  deriving DecidableEq, Repr

/-! ## Engines (R118, R151) and dispatches -/

/-- One long-window accumulator lane (R118). -/
structure Lane where
  z     : Int
  ceil  : Int
  empty : Bool
  nan   : Bool
  pinf  : Bool
  ninf  : Bool
  count : Nat
  deriving DecidableEq, Repr

/-- A buffer descriptor (R152). -/
structure Desc where
  base : Nat
  len  : Nat
  obj  : Handle
  rd   : Bool
  wr   : Bool
  deriving DecidableEq, Repr

/-- One level of the loop stack (R159): first and last bundle of the body and the iterations left after this one. -/
structure Loop where
  first : Nat
  last  : Nat
  left  : Nat
  deriving DecidableEq, Repr

/-- An outstanding mover operation (R161, R162), with what it read from the registers when it issued. `todo`: the chunks, of 4 KiB at most, that
it has not moved (local address, remote address, length: R177); `late`: the store units (address, bytes) that have yet to land (R157). -/
structure MvOp where
  op    : Nat
  tag   : Nat
  buf   : Nat
  loc   : Nat
  rem   : Nat
  row   : Nat
  rows  : Nat
  strL  : Nat
  strR  : Nat
  peer  : Nat
  rid   : Nat
  todo  : List (Nat × Nat × Nat)
  late  : List (Nat × List Byte)
  deriving DecidableEq, Repr

/-- A contribution to a reduction (R164): its engine, that engine's A[AR], the pairs as words. -/
structure Red where
  rid   : Nat
  root  : Nat
  len   : Nat
  eng   : Nat
  dest  : Nat
  pairs : List (Word × Word)
  deriving DecidableEq, Repr

/-- Bytes staged in a cluster store (R163): cluster, context virtual address of a 32-byte unit, its bytes. -/
structure Staged where
  cluster : Nat
  cva     : Nat
  data    : List Byte
  deriving DecidableEq, Repr

/-- An MMA that has not taken all its handshakes (R120, R177): its fields, the segments' addresses and strides as read at issue, the handshakes
done, and its bundle. -/
structure MxPass where
  fa   : Nat
  fb   : Nat
  klen : Nat
  aAt  : Nat
  bAt  : Nat
  aStr : Nat
  bStr : Nat
  done : Nat
  pc   : Nat
  deriving DecidableEq, Repr

/-- The part of a vector or matrix operation's store writes that falls in one aligned 32-byte unit and has not landed (R157): runs of bytes. -/
structure Unland where
  mx   : Bool
  unit : Nat
  runs : List (Nat × List Byte)
  deriving DecidableEq, Repr

/-- How an engine stands with respect to a pre-emption request (R176 to R178). -/
inductive EngStop where
  | run
  | cheap (cp : Nat)
  | full
  deriving DecidableEq, Repr

/-- The architectural state of one engine of a dispatch (R151). Vector lane n of Vv is key 512 v + n. `seed`: what a register holds that
nothing has written since the dispatch started, the free value of this place and the register's own; none: zero. `code`: the code blocks that
the store does not hold yet, in block order (R153); `pass`, `wr`: matrix and vector work under way; `trap`: the cause and code of its fault. -/
structure Engine where
  seed  : Option Nat
  store : List (Nat × Byte)
  v     : Tab Word
  p     : Tab (BitVec 512)
  s     : Tab DWord
  a     : Tab DWord
  gen   : Tab DWord
  desc  : Tab Desc
  pc    : Nat
  halted : Bool
  loops : List Loop
  rowA  : Tab Word
  colB  : Tab Word
  lanes : Tab Lane
  mv    : List MvOp
  barrier : Option Nat
  stop  : EngStop
  code  : List Nat
  pass  : Option MxPass
  wr    : List Unland
  trap  : Option (Nat × Nat)
  deriving DecidableEq, Repr

/-- What a dispatch is. -/
inductive Work where
  | program (prog : Nat) (entry : Nat) (save : Nat)
  | append (a : AppendArgs)
  /-- with the sequence and visible length of each query, as decode read them -/
  | attend (a : AttendArgs) (qs : List (Nat × Nat))
  | fork (obj : Nat) (parent : Nat) (child : Nat) (pfx : Nat)
  | evict (obj : Nat) (seq : Nat) (mode : Nat) (newLen : Nat)
  | remote (a : RemoteArgs)
  | fill (obj : Nat) (val : Byte) (off : Nat) (len : Nat)
  | copy (src : Nat) (dst : Nat) (srcOff : Nat) (dstOff : Nat) (len : Nat)
  deriving DecidableEq, Repr

/-- Where a dispatch stands. -/
inductive DState where
  | pending | running | stopping | saving | preempted
  deriving DecidableEq, Repr

/-- A saved engine (R178): which items its slot holds. -/
structure Saved where
  eng : Engine
  cp  : Option Nat
  deriving DecidableEq, Repr

/-- A work packet accepted and not yet complete (R75). `kvRes`: the blocks that it has reserved and not yet taken (R194); `sent`, `stores`: a
KV_ATTEND's results have gone out on a link, and the stores still without a completion (R203, R376). Of a KV operation: `kvHead`, the header bytes read
at its decode (R194); `kvEngs`, the engines of its first start, where it resumes (R202). -/
structure Disp where
  ref     : DWord
  ctx     : Nat
  queue   : Nat
  order   : Nat
  cls     : Nat
  polder  : Nat
  work    : Work
  fence   : Option Nat
  fval    : DWord
  count   : Nat
  engines : List Nat
  state   : DState
  asShare : Bool
  quiesced : Bool
  waitRun : Bool
  moRefs  : List Nat
  fRefs   : List Nat
  binds   : Tab Desc
  engs    : Tab Engine
  saved   : Tab Saved
  staged  : List Staged
  reds    : List Red
  started : Bool
  lastChg : Nat
  preAt   : Nat
  stores  : Nat
  sent    : Bool
  kvRes   : Nat
  kvHead  : List Byte
  kvEngs  : List Nat
  mover   : Option Nat
  deriving DecidableEq, Repr

/-! ## The scheduler (R241 to R263) -/

/-- An admission (R247). -/
structure Adm where
  ctx    : Nat
  polder : Nat
  feast  : Bool
  days   : BitVec 64
  prog   : Option Nat
  last   : List (Nat × Nat)
  deriving DecidableEq, Repr

/-- Engines that a feast admission holds, in its eve or its run (R253); `at_`: when that run starts; `took`: the exclusive jobs that were pre-empted
for them, which wait for the run's end (R259, R260). -/
structure Resv where
  ctx     : Nat
  engines : List Nat
  at_     : Nat
  inRun   : Bool
  dips    : Nat
  took    : List DWord
  deriving DecidableEq, Repr

/-- A polder (R241 to R245). -/
structure Polder where
  units    : BitVec 40
  dayUs    : Nat
  feast    : BitVec 64
  excl     : BitVec 64
  nFeast   : BitVec 64
  nExcl    : BitVec 64
  dayStart : Nat
  day      : Nat
  rot      : Word
  owner    : Option DWord
  claimant : Option DWord
  resv     : List Resv
  susp     : Bool
  deriving DecidableEq, Repr

/-- The scheduler assist. While the block is Sealed, `preempts` shows the count of the last 100 us boundary; `preHid` counts on since it, in the 100
us numbered `preAt`, and `busyAt` holds each polder's engines that held dispatches at the last 100 us boundary (R328). `warned`: polder and context of
each run that overlapped the supply warning; `dipRuns`: of each run that overlaps the dip, with the run's dips so far (R263). `resets`: the polders in
the window of a polder reset, with its start and the packet to answer (its queue as `order`; fence slot plus one, 0 for none); `dirty`: the engines
whose registers and accumulators still hold what a dispatch left there, with that dispatch's context. -/
structure Sched where
  polders  : Tab Polder
  adms     : List Adm
  disps    : List Disp
  order    : Nat
  jobs     : Tab DWord
  preempts : Word
  warned   : List (Nat × Nat)
  dipRuns  : List (Nat × Nat × Nat)
  preHid   : Word
  preAt    : Nat
  busyAt   : Tab Nat
  resets   : Tab (Nat × PendSig)
  dirty    : Tab Nat
  deriving DecidableEq, Repr

/-! ## Pool memory (R204 to R240, R299 to R303) -/

/-- The state of a backed logical frame (R210, R219). -/
inductive FrSt where
  | fresh
  | bound (stack : Nat)
  | moving (src : Nat) (dst : Nat)
  | lost
  deriving DecidableEq, Repr

/-- A frame-map entry of a backed frame (R212): its owner (none: the pool driver, a table frame), the request it was backed under. -/
structure Frame where
  st     : FrSt
  owner  : Option Nat
  obj    : Nat
  policy : Nat
  req    : Nat
  deriving DecidableEq, Repr

/-- A frame's statistics word (R224). -/
structure Stat where
  loc   : Nat
  rem   : Nat
  edge  : Nat
  cand  : Nat
  votes : Nat
  age   : Nat
  deriving DecidableEq, Repr

/-- A stack (R232, R233); `wait`: its retirement waits for another; `evac`, `reply`: frames evacuated, and the packet to answer; `smp` counts sector
accesses modulo 64 for R224's sampling. -/
structure Stack where
  inSvc   : Bool
  retiring : Bool
  wait    : Bool
  cap     : Nat
  fails   : Nat
  uncorr  : List Nat
  smp     : Nat
  evac    : Nat
  reply   : Option PendSig
  deriving DecidableEq, Repr

/-- A placement move or an evacuation, queued or running (R226). -/
structure Move where
  lpf  : Nat
  dst  : Nat
  evac : Bool
  prio : Nat
  deriving DecidableEq, Repr

/-- A request record (R208), with its KIND. -/
structure Req where
  req    : Nat
  kind   : Nat
  ctx    : Handle
  obj    : Handle
  base   : Nat
  frames : Nat
  deriving DecidableEq, Repr

/-- An MO_CREATE that waits for its frames (R89): the packet to answer and the object it makes. -/
structure Back where
  req    : Nat
  queue  : Nat
  count  : Word
  tag    : Word
  fence  : Option Nat
  fval   : DWord
  mo     : Nat
  frames : Nat
  backed : Nat
  since  : Nat
  deriving DecidableEq, Repr

/-- A cached translation (R217): the NI that holds it, context slot, virtual page, and the leaf. -/
structure TlbEnt where
  ni   : Nat
  ctx  : Nat
  page : Nat
  leaf : DWord
  deriving DecidableEq, Repr

/-- A sector's tag (R301) with the key it was written under: nonce, full season counter, sector address. -/
structure Tag where
  nonce  : Nat
  season : Nat
  cva    : Nat
  deriving DecidableEq, Repr

/-- The placement engine, the stacks and the pool's contents. `slots`: the request slots that are occupied, `recs`: the record last written into each;
`invJob`: the invalidation that runs (PLE_INV_CTRL.BUSY); `movedHid`, `movedAt` hide PLE_MOVES' count since the last 10 ms boundary while the block is
Sealed (R328). `tlb`, `pmap`: the two levels of translations that NIs hold, the second as (NI, LPF) (R217). `waitQ`: (LPF, stack) of the moves that
wait for a later epoch (R225); `evPtr`: where an evacuation's rotation stands (R233). `mapCopy`: the stacks that hold the map entries of the LPFs of a
residue modulo 20; `replayAt`: the stack of a link's replay extension (R206). `mem` holds the plaintext bytes at address 65,536 LPF + offset. -/
structure Pool where
  mem     : List Host.Cell
  tags    : Tab Tag
  bad     : List Nat
  frames  : Tab Frame
  stats   : Tab Stat
  stks    : Tab Stack
  moves   : List Move
  moveQ   : List Move
  roots   : Tab (Nat × Bool)
  fLpf    : Nat
  fCount  : Nat
  fReq    : Word
  fStat   : Status
  rStack  : Nat
  rState  : Nat
  rOwner  : Nat
  invCtx  : Nat
  invBase : Nat
  invPages : Word
  invJob  : Option (Nat × Nat × Nat)
  moved   : Word
  movedHid : Word
  movedAt : Nat
  reqNext : Nat
  slots   : Tab Req
  recs    : Tab Req
  heldReq : List Req
  pdQ     : List DWord
  backs   : List Back
  tlb     : List TlbEnt
  pmap    : List (Nat × Nat)
  waitQ   : List (Nat × Nat)
  evPtr   : Nat
  mapCopy : Tab (Nat × Nat)
  replayAt : Tab Nat
  embank  : Nat
  frozen  : Bool
  carve   : List (Nat × Nat × Nat)
  deriving DecidableEq, Repr

/-! ## Security (R291 to R340) -/

/-- The debug port's state (R333 to R335, R513): the control cores that it holds halted, their breakpoints, and the trace buffer. -/
structure Debug where
  unlocked  : Bool
  scope     : BitVec 8
  expiry    : Nat
  refused   : Bool
  challenge : DWord
  was       : Bool
  trace     : Bool
  halted    : List Nat
  brks      : List (Nat × Nat)
  buf       : List Byte
  deriving DecidableEq, Repr

/-- The key sets of an IDE stream (R400): those programmed, by number and direction (`true`: transmit), and the one in use in each direction. -/
structure Ide where
  progd : List (Nat × Bool)
  tx    : Option Nat
  rx    : Option Nat
  deriving DecidableEq, Repr

/-- A slice's TDISP interface (R316, R340), with its selective IDE stream; `vecDue`: a rebind to the claimed port has yet to write the vector window
(R320). -/
structure Tdi where
  state     : Nat
  scrubbed  : Bool
  claimPort : Nat
  claimed   : Bool
  claimSess : Option Nat
  rejects   : Nat
  binding   : Nat
  sess      : Option Nat
  vecDue    : Bool
  ide       : Ide
  deriving DecidableEq, Repr

/-- An SPDM session (R294); `leaf`: the requester's end-entity credential (R330), `secret`: the exported master secret that its key exchange agreed,
`updates`: the KEY_UPDATEs so far, `beat`: when its last HEARTBEAT came (R322). -/
structure Sess where
  id    : Nat
  at_   : SessWhere
  slice : Option Nat
  claim : Bool
  root  : Nat
  leaf  : Nat
  secret : List Byte
  updates : Nat
  beat  : Nat
  deriving DecidableEq, Repr

/-- A seal key (R314): context, fabric address of the endpoint, season, the session that it belongs to, the key, the salts and counters of both
directions, and the counters seen. -/
structure Seal where
  ctx    : Nat
  node   : Nat
  season : Nat
  sess   : Nat
  key    : List Byte
  txSalt : Nat
  rxSalt : Nat
  txCtr  : Nat
  rxTop  : Nat
  seen   : List Nat
  deriving DecidableEq, Repr

/-- A key set of the key store (R294): a context's, by slot and season, or one of the block's own two. -/
inductive KeySet where
  | ctx (c season : Nat)
  | table
  | internal
  deriving DecidableEq, Repr

/-- An inline crypto unit (R294, R295): its transport key and the key sets of which it holds a copy. -/
structure Icu where
  tkey : Nat
  sets : List KeySet
  deriving DecidableEq, Repr

/-- The security engine. `keys`: the key sets in the store; `drbg`: requests since the DRBG was last seeded (R293); `certOk`, `linkOk`: the
certificates that the SEN has accepted (R291); `vendors`, `creds`: the bundle's vendor roots and end-entity credentials (R310, R330). -/
structure Sen where
  sec      : Nat
  dbg      : Debug
  unpaired : Bool
  legacy   : Bool
  entropy  : Bool
  integ    : Word
  svn      : Nat
  burnt    : BitVec 4
  revoked  : BitVec 4
  digests  : Tab Nat
  tdi      : Tab Tdi
  sessions : List Sess
  nextSess : Nat
  seals    : List Seal
  bootNonce : Nat
  device   : DWord
  credOk   : Bool
  fused    : Fused
  linkDev  : DWord
  certOk   : Bool
  linkOk   : Bool
  vendors  : List Nat
  creds    : List Cred
  drbg     : Nat
  keys     : List KeySet
  icus     : Tab Icu
  deriving DecidableEq, Repr

/-! ## Links (R341 to R391) -/

/-- A slice's shaping on a link (R383, R386). -/
structure Flow where
  weight : Nat
  rate   : Nat
  burst  : Nat
  tokens : Nat
  time   : Nat
  deriving DecidableEq, Repr

/-- A message queued for egress (R382): its flow, its virtual channel, whether its STRICT flag is not honoured (R373), the units still to send, and its
start tag once at its flow's head. -/
structure Egr where
  flow  : Nat
  msg   : Msg
  vc    : Nat
  bulk  : Bool
  left  : Nat
  start : Option Nat
  deriving DecidableEq, Repr

/-- A data flit without an acknowledgement (R355, R357): its count, channel, FILL, key phase and counter (R312), the message that ends in it, and the
bytes that went out, which a replay sends again. -/
structure Unack where
  seq  : Nat
  vc   : Nat
  fill : Nat
  kph  : Bool
  ctr  : Nat
  fin  : Option Msg
  bytes : List Byte
  deriving DecidableEq, Repr

/-- A link (R342): its registers and its link layer. `acked`: the data flits acknowledged; `replayAt`: one above the flit at which `replayN` replays
in a row have started; `owed`: the replies that are due, 1 accept or 2 abandon, each with the number of its request; `unrepT`: when the first flit not
yet reported was accepted, `dup`: a duplicate is to be reported (R353, R354); `secTx`, `secRx`: the traffic secrets of both directions (R311),
`rekeyRx`: the far end's direction is to rekey (R312, R352); `waits`: traffic waits for a retrain (R362), `goal`: lanes that it trains to at most;
`symErr`: for each lane, the symbols corrected in a window of 1 ms and its start (R363); `strict`, `slots`, `rstores`: the strict budget of R373, the
remote dispatches and the result stores that are outstanding, with their times. -/
structure Link where
  attach   : Bool
  vcsCfg   : Nat
  dir      : Nat
  enable   : Bool
  state    : Nat
  lanes    : Nat
  reason   : Nat
  vcs      : Nat
  rdisp    : Bool
  ignored  : Nat
  width    : Nat
  peer     : DWord
  replays  : Word
  tagFail  : Word
  fecCorr  : Word
  spill    : Nat
  ded      : Tab Nat
  cap      : Nat
  rdto     : Nat
  ovh      : Nat
  full     : Nat
  expSeq   : BitVec 16
  nakOut   : Bool
  unrep    : Nat
  unrepT   : Option Nat
  dup      : Bool
  freed    : Tab Nat
  freedRep : Tab Nat
  phaseRx  : Bool
  phaseTx  : Bool
  ctrTx    : Tab Nat
  ctrRx    : Tab Nat
  ctlTx    : Nat
  sent     : Nat
  acked    : Nat
  flits    : List Unack
  lastAck  : Nat
  replayAt : Nat
  replayN  : Nat
  used     : Tab Nat
  farDed   : Tab Nat
  farCap   : Nat
  farFreed : Tab Nat
  req      : Option (Nat × Nat × Nat)
  reqId    : Nat
  owed     : List (Nat × Nat)
  waits    : Bool
  symErr   : Tab (Nat × Nat)
  goal     : Option Nat
  tagTimes : List Nat
  retrainF : Nat
  retry    : Option Nat
  ctlQ     : List Egr
  feastQ   : List Egr
  fairQ    : List Egr
  finish   : Tab Nat
  vtime    : Nat
  flows    : Tab Flow
  strict   : Nat
  strictT  : Nat
  slots    : Tab (DWord × Nat)
  rstores  : Tab (DWord × Nat)
  certDig  : Nat
  secTx    : Option (List Byte)
  secRx    : Option (List Byte)
  rekeyRx  : Bool
  deriving DecidableEq, Repr

/-- A binding-table entry (R372); `ended`: the destruction of its context has cleared VALID. -/
structure Binding where
  ctx    : Handle
  src    : Word
  valid  : Bool
  notify : Bool
  strict : Bool
  ended  : Bool
  deriving DecidableEq, Repr

/-- The link ports. -/
structure Links where
  tab   : Tab Link
  bifur : Word
  dimX  : Nat
  dimY  : Nat
  dimZ  : Nat
  kind  : Nat
  lock  : Bool
  coord : Nat × Nat × Nat
  binds : Tab Binding
  deriving DecidableEq, Repr

/-! ## Host ports (R392 to R410) -/

/-- A CXL.mem context window (R404, R407). -/
structure Win where
  ctx   : Handle
  cva   : Nat
  valid : Bool
  err   : Bool
  deriving DecidableEq, Repr

/-- An outstanding page request (R398): its host address, where one access asked, and the bytes of a write that waits. -/
structure Pri where
  id    : Nat
  pasid : Nat
  addr  : Option Nat
  data  : List Byte
  who   : PriFor
  since : Nat
  deriving DecidableEq, Repr

/-- A host port. `ats`: translations held, as PASID, base and length (R397); `cmd`, `bars`, `pasidOn`, `atsOn`, `priOn`, `fmask`: the Command
register, the BARs, the PASID, ATS and PRI enables and the MSI-X function mask of its function (R392, R399, R401); `hdm`: base and size of each HDM
decoder, in units of 256 MiB (R404); `ide`: its Link IDE stream. `msix`: address and data of the MSI-X entries that host software has written;
`unmask`: the vectors not masked. -/
structure Port where
  up      : Bool
  rate    : Nat
  width   : Nat
  cxl     : Bool
  toMs    : Nat
  memErr  : Word
  memAdr  : DWord
  memSet  : Bool
  ur      : Word
  wins    : Tab Win
  msix    : Tab (DWord × Word)
  unmask  : List Nat
  msixPnd : List Nat
  ats     : List (Nat × Nat × Nat)
  pri     : List Pri
  priId   : Nat
  priBad  : Bool
  atsOn   : Bool
  priOn   : Bool
  cmd     : Nat
  bars    : Tab Nat
  pasidOn : Bool
  fmask   : Bool
  hdm     : Tab (Nat × Nat)
  ide     : Ide
  deriving DecidableEq, Repr

/-! ## Events, mailboxes (R418 to R437) -/

/-- An event source (R418 to R420); `cond`: the condition of a level source holds. -/
structure Src where
  prio   : Nat
  target : BitVec 8
  masked : Bool
  pend   : Bool
  active : Bool
  cond   : Bool
  deriving DecidableEq, Repr

/-- A control core's claim stack (R422): (source, saved running priority), top first. -/
structure Core where
  run    : Nat
  stack  : List (Nat × Nat)
  eoiErr : Bool
  deriving DecidableEq, Repr

/-- A wired input (R427, R429). -/
structure Wire where
  filt : Nat
  mode : Nat
  raw  : Bool
  filtered : Bool
  deriving DecidableEq, Repr

/-- The event concentrator; `saved`: the retention copy of R428 is held. -/
structure Evc where
  srcs  : Tab Src
  cores : Tab Core
  wires : Tab Wire
  saved : Bool
  deriving DecidableEq, Repr

/-- A mailbox (R431, R437). -/
structure Mbox where
  msgs    : List DWord
  serr    : Bool
  rerr    : Bool
  aborted : Bool
  dropped : Nat
  vector  : Nat
  wake    : Bool
  deriving DecidableEq, Repr

/-- The mailbox unit, MMC_MBXSTAT, and whether the pool driver is attached (R435). -/
structure Mbx where
  boxes    : Tab Mbox
  mmcAbort : Bool
  mmcDrop  : Nat
  attached : Bool
  deriving DecidableEq, Repr

/-! ## Bring-up, power, the rest -/

/-- BRG_DEFECT of a cluster (R466), and the engines that failed since the last whole reset (R453). -/
structure Defect where
  good      : BitVec 17
  spareFor  : Nat
  spareUsed : Bool
  failed    : Bool
  active    : Bool
  cause     : Nat
  bad       : BitVec 17
  deriving DecidableEq, Repr

/-- Bring-up (R440, R466), the images that run and the licences in force (R454, R455). `uStore`: version and digest of the microcode in each compute
die's store, `loaded`: of what each cluster has loaded from it (R448). -/
structure Brg where
  stage    : Nat
  ready    : Bool
  maint    : Bool
  golden   : Bool
  unpaired : Bool
  fail     : Bool
  reset    : Nat
  cause    : Nat
  count    : Nat
  bootUs   : Nat
  stepping : Nat
  ucodeOk  : Bool
  fwSrc    : Bool
  legacy   : Bool
  defects  : Tab Defect
  romVer   : Word
  fwVer    : Word
  fwSvn    : Nat
  fwDig    : Nat
  ucVer    : Word
  ucDig    : Nat
  mmcVer   : Word
  mmcDig   : Nat
  lConf    : Bool
  lCq4     : Bool
  lRemote  : Bool
  lForced  : Bool
  lUnpair  : Bool
  lClust   : Nat
  lPorts   : Nat
  lDig     : Nat
  coreRst  : List Nat
  uStore   : Tab (Word × Nat)
  loaded   : Tab (Word × Nat)
  deriving DecidableEq, Repr

/-- HUB_SRAMERR, HUB_SRAMLAST and HUB_KSERR (R498). -/
structure Ecc where
  corr   : Tab Nat
  uncorr : Tab Nat
  last   : Tab (Nat × Nat × Nat)
  ksErr  : Word
  deriving DecidableEq, Repr

/-- The state of a cluster's compute domain (R478) and since when. -/
structure Clu where
  st    : Nat
  since : Nat
  deriving DecidableEq, Repr

/-- Supply, power, temperature and power states (R467 to R491). `hyst`: when the last dip ended; `psusAvg` in microwatts, `energy` in 10 pJ; `pSum`,
`pCnt`: measurements since PWR_POWER was last set; `calm`: measurements in a row below 95 % of both limits; `amps`, `temps`: the core current in mA
and each die's temperature, as last measured (R413); `hot`: since when each die is at or above 120 degrees; `lastV`: when the voltage request last
changed. -/
structure Pwr where
  warn    : Bool
  inDip   : Bool
  hyst    : Nat
  throt   : Nat
  ttrip   : Bool
  avsErr  : Bool
  vtgt    : Nat
  vdeep   : Nat
  vreq    : Nat
  meas    : Nat
  plim    : Nat
  psus    : Nat
  power   : Nat
  psusAvg : Nat
  calm    : Nat
  pceil   : Nat
  tceil   : Nat
  energy  : Nat
  pSum    : Nat
  pCnt    : Nat
  dipMv   : Nat
  dipDur  : Word
  dipCnt  : Nat
  worst   : Nat
  tthr    : Nat
  tempMax : Nat
  hot     : Tab Nat
  napDly  : Nat
  deepDly : Nat
  ccReq   : Bool
  ccUp    : Bool
  clus    : Tab Clu
  floors  : Tab Nat
  mhz     : Tab Nat
  cpow    : Tab Nat
  lastV   : Nat
  amps    : Nat
  temps   : Tab Nat
  deriving DecidableEq, Repr

/-- What the block has written into the integrator's store by firmware update (R413). -/
structure Store where
  fw     : Option Image
  golden : Option Image
  ucode  : Option Image
  mmcFw  : Option Image
  lics   : Option LicSet
  bundle : Option Bundle
  certs  : Option (Chain × Chain)
  deriving DecidableEq, Repr

/-- The management controller (R411 to R415): its dynamic I3C address, endpoint ID, staged components, the administration port. -/
structure Mmc where
  addr   : Option Nat
  eid    : Nat
  staged : Store
  admin  : Nat
  lock   : Bool
  deriving DecidableEq, Repr

/-- The almanac's own state (R71, R72): GENERATION, the parked slots that OBJECT_LIMITS shows, and the RATE entry's live value; `sum`, `cnt`: rates
not yet averaged into it. -/
structure Alm where
  gen  : DWord
  parked : Nat
  rate : Nat
  sum  : Nat
  cnt  : Nat
  deriving DecidableEq, Repr

/-- The contents of a training flit that the block sends (R346 step 2). -/
structure Hello where
  ident  : Nat
  attach : Bool
  width  : Nat
  vcs    : Nat
  ded    : List Nat
  cap    : Nat
  coord  : Nat × Nat × Nat
  dir    : Nat
  rdisp  : Bool
  deriving DecidableEq, Repr

/-- What the block drives at its ports, newest first: the model's own record of its outputs. `tee`: in the interface's selective IDE stream with the
T bit set (R318). -/
inductive Out where
  | reply (queue : Nat) (count : Word) (tag : Word) (op : Nat) (st : Status) (flags : Nat) (res : List Nat)
  | event (ctx : Nat) (slot : Nat) (phase : Bool) (r : EvRec)
  | msix (port : Nat) (vec : Nat) (tee : Bool)
  | value (p : Path) (v : Nat)
  | ur (port : Nat)
  /-- Request Retry Status to a configuration request (R456) -/
  | retryStatus (port : Nat)
  | mail (m : Nat) (who : Party) (what : Nat)
  | recv (m : Nat) (who : Party) (w : DWord)
  | spdm (sess : Nat) (ok : Bool) (body : List Nat)
  /-- an MCTP packet on the management port, after an in-band interrupt (R411, R412) -/
  | mctp (body : List Nat)
  | inBand
  | data (port : Nat) (bytes : List Byte)
  | host (port : Nat) (pasid : Nat) (addr : Nat) (bytes : List Byte) (tee : Bool)
  | read (port : Nat) (pasid : Nat) (addr : Nat) (len : Nat) (tee : Bool)
  | flit (link : Nat) (vc : Nat) (count : Nat) (fill : Nat) (kph : Bool) (ctr : Nat) (bytes : List Byte)
  | hello (link : Nat) (h : Hello)
  /-- the ephemeral public key of a link's key exchange, and the signature of its transcript (R311) -/
  | share (link : Nat) (key : Nat × Nat) (sig : List Byte)
  | msg (link : Nat) (m : Msg)
  | ctl (link : Nat) (f : CtlFlit) (ctr : Nat) (bytes : List Byte)
  | sealKey (node : Nat) (ctx : Nat) (season : Nat) (given : Bool)
  | avs (mv : Nat)
  | pageReq (port : Nat) (id : Nat) (pasid : Nat)
  | invDone (port : Nat) (pasid : Nat) (base : Nat) (len : Nat)
  /-- the debug port: pins that EXTEST drives, and a powered-off error (R336, R416) -/
  | pins (v : Nat)
  | poweredOff
  deriving DecidableEq, Repr

/-- The state of the block. `now` is the always-on counter (R477); `pending` the commands that wait, `free` the count of free values
drawn, `ringBad` the contexts whose event or reply ring has just refused a record, `out` the outputs so far: the model's own. -/
structure State where
  now     : Nat
  objs    : Objs
  slices  : Slices
  sched   : Sched
  pool    : Pool
  sen     : Sen
  links   : Links
  ports   : Tab Port
  evc     : Evc
  mbx     : Mbx
  brg     : Brg
  ecc     : Ecc
  pwr     : Pwr
  mmc     : Mmc
  alm     : Alm
  pending : List Instr
  free    : Nat
  ringBad : List (Nat × AccErr)
  out     : List Out
  deriving DecidableEq, Repr

/-! ## Reset -/

/-- A slot type none of whose slots has been issued (R38). -/
def SlotMgr.empty : SlotMgr := { gens := [], parked := [] }

/-- No NQI object. -/
def Objs.empty : Objs :=
  { ctxs := [], queues := [], mos := [], fences := [], progs := [], txns := [], notes := [], ctxMgr := .empty, qMgr := .empty,
    moMgr := .empty, fMgr := .empty, pMgr := .empty, tMgr := .empty, seq := 0, keySeq := [], rr := [], fwQ := [] }

/-- The slice registers at reset (R275). -/
def Slices.empty : Slices :=
  { tab := [], mgr := .empty, bindErr := [], s0Evt := 0, s0Q := 0, s0R := 0, s0Log2 := 6, s0QLog2 := 4, s0Vec := 0, s0Done := false,
    s0Stat := .ok }

/-- The scheduler at reset (R270). -/
def Sched.empty : Sched :=
  { polders := [], adms := [], disps := [], order := 0, jobs := [], preempts := 0, warned := [], dipRuns := [],
    preHid := 0, preAt := 0, busyAt := [], resets := [], dirty := [] }

/-- The placement engine at reset (R218, R229, R230, R237). -/
def Pool.empty : Pool :=
  { mem := [], tags := [], bad := [], frames := [], stats := [], stks := [], moves := [], moveQ := [], roots := [], fLpf := 0,
    fCount := 1, fReq := 0, fStat := .ok, rStack := 0, rState := 0, rOwner := 0, invCtx := 0, invBase := 0, invPages := 0,
    invJob := none, moved := 0, movedHid := 0, movedAt := 0, reqNext := 1, slots := [], recs := [], heldReq := [], pdQ := [], backs := [],
    tlb := [], pmap := [], waitQ := [], evPtr := 0, mapCopy := [], replayAt := [], embank := 2, frozen := true,
    carve := [] }

/-- Debug at reset: closed (R335, R513). -/
def Debug.empty : Debug :=
  { unlocked := false, scope := 0, expiry := 0, refused := false, challenge := 0, was := false, trace := false, halted := [], brks := [],
    buf := [] }

/-- The security engine at reset (R340); the fused values are 0 until the fuses are sensed. -/
def Sen.empty : Sen :=
  { sec := 0, dbg := .empty, unpaired := false, legacy := false, entropy := false, integ := 0, svn := 0, burnt := 0, revoked := 0,
    digests := [], tdi := [], sessions := [], nextSess := 0, seals := [], bootNonce := 0, device := 0, credOk := false
    fused := { root := 0, idKey := 0, linkKey := 0, imgKey := 0, rootDig := 0, dbgDig := 0 }, linkDev := 0, certOk := false, linkOk := false
    vendors := [], creds := [], drbg := 0, keys := [], icus := [] }

/-- The link ports at reset (R391). -/
def Links.empty : Links :=
  { tab := [], bifur := 0, dimX := 1, dimY := 1, dimZ := 1, kind := 0, lock := false, coord := (0, 0, 0), binds := [] }

/-- Bring-up at a cold reset (R466). -/
def Brg.empty : Brg :=
  { stage := 0, ready := false, maint := false, golden := false, unpaired := false, fail := false, reset := 0, cause := 0, count := 0,
    bootUs := 0, stepping := 0, ucodeOk := false, fwSrc := false, legacy := false, defects := [], romVer := 0, fwVer := 0, fwSvn := 0,
    fwDig := 0, ucVer := 0, ucDig := 0, mmcVer := 0, mmcDig := 0, lConf := false, lCq4 := false, lRemote := false, lForced := false,
    lUnpair := false, lClust := 0, lPorts := 0, lDig := 0, coreRst := [], uStore := [],
    loaded := [] }

/-- The PWR registers at reset (R491); both ceilings start at their upper end, 850 mV (R484, R485). -/
def Pwr.empty : Pwr :=
  { warn := false, inDip := false, hyst := 0, throt := 0, ttrip := false, avsErr := false, vtgt := 750, vdeep := 650, vreq := 750,
    meas := 0, plim := 1600, psus := 1600, power := 0, psusAvg := 0, calm := 0, pceil := 850, tceil := 850, energy := 0, pSum := 0, pCnt := 0, dipMv := 0,
    dipDur := 0, dipCnt := 0, worst := 0, tthr := 100, tempMax := 0, hot := [], napDly := 1000, deepDly := 100, ccReq := false,
    ccUp := true, clus := [], floors := [], mhz := [], cpow := [], lastV := 0,
    amps := 0, temps := [] }

/-- No component staged. -/
def Store.empty : Store := { fw := none, golden := none, ucode := none, mmcFw := none, lics := none, bundle := none, certs := none }

/-- The block while COLD_RST_N is low (R438): every domain reset, no fuse sensed, nothing placed. -/
def State.reset : State :=
  { now := 0, objs := .empty, slices := .empty, sched := .empty, pool := .empty, sen := .empty, links := .empty, ports := [],
    evc := { srcs := [], cores := [], wires := [], saved := false },
    mbx := { boxes := [], mmcAbort := false, mmcDrop := 0, attached := false }, brg := .empty,
    ecc := { corr := [], uncorr := [], last := [], ksErr := 0 }, pwr := .empty,
    mmc := { addr := none, eid := 0, staged := .empty, admin := 0, lock := false },
    alm := { gen := 0, parked := 0, rate := 0, sum := 0, cnt := 0 }, pending := [], free := 0,
    ringBad := [], out := [] }

end Sys2Proof.Machine
end

