-- ==== Sys2Proof/Machine/Ops.lean ====
section
/-!
DEFINITION. The named operations over State that every meaning shares: reading and updating an object, drawing a free value, slots and
handles (R34 to R39), status codes (R99), reference counts' lookups, units and polders.
-/

namespace Sys2Proof.Machine

/-- The outcome of a meaning. -/
abbrev Result := Host.Outcome State Fault Refusal

/-! ## Free values and outputs -/

/-- The next free value (log entry 2). -/
def State.peek (s : State) : Nat := Config.free s.free

/-- The state after `n` free values have been drawn. -/
def State.drew (s : State) (n : Nat) : State := { s with free := s.free + n }

/-- Record an output. -/
def State.emit (s : State) (o : Out) : State := { s with out := o :: s.out }

/-- `n` free bytes: what host memory answers (log entry 17). -/
def State.freeBytes (s : State) (n : Nat) : List Byte := (List.range n).map (fun i => BitVec.ofNat 8 (Config.free (s.free + i)))

/-! ## Parts of the state -/

/-- Replace the objects. -/
def State.onObjs (s : State) (f : Objs → Objs) : State := { s with objs := f s.objs }
/-- Replace the scheduler. -/
def State.onSched (s : State) (f : Sched → Sched) : State := { s with sched := f s.sched }
/-- Replace the pool. -/
def State.onPool (s : State) (f : Pool → Pool) : State := { s with pool := f s.pool }
/-- Replace the security engine. -/
def State.onSen (s : State) (f : Sen → Sen) : State := { s with sen := f s.sen }
/-- Replace the slices. -/
def State.onSlices (s : State) (f : Slices → Slices) : State := { s with slices := f s.slices }
/-- Replace the links. -/
def State.onLinks (s : State) (f : Links → Links) : State := { s with links := f s.links }
/-- Replace bring-up. -/
def State.onBrg (s : State) (f : Brg → Brg) : State := { s with brg := f s.brg }
/-- Replace power. -/
def State.onPwr (s : State) (f : Pwr → Pwr) : State := { s with pwr := f s.pwr }

/-- Context slot `c`, if not FREE. -/
def State.ctx? (s : State) (c : Nat) : Option Ctx := tget s.objs.ctxs c
/-- Queue slot `q`. -/
def State.queue? (s : State) (q : Nat) : Option Queue := tget s.objs.queues q
/-- Memory-object slot `m`. -/
def State.mo? (s : State) (m : Nat) : Option Mo := tget s.objs.mos m
/-- Fence slot `f`. -/
def State.fence? (s : State) (f : Nat) : Option Fence := tget s.objs.fences f
/-- Program slot `p`. -/
def State.prog? (s : State) (p : Nat) : Option Program := tget s.objs.progs p
/-- Slice slot `l`. -/
def State.slice? (s : State) (l : Nat) : Option Slice := tget s.slices.tab l
/-- Logical frame `f`, if backed. -/
def State.frame? (s : State) (f : Nat) : Option Frame := tget s.pool.frames f
/-- Stack `k`. -/
def State.stack? (s : State) (k : Nat) : Option Stack := tget s.pool.stks k
/-- The work packet with dispatch reference `d`. -/
def State.disp? (s : State) (d : DWord) : Option Disp := s.sched.disps.find? (fun x => x.ref == d)

/-- Put context slot `c`. -/
def State.setCtx (s : State) (c : Nat) (x : Ctx) : State := s.onObjs fun o => { o with ctxs := tset o.ctxs c x }
/-- Change context slot `c`. -/
def State.modCtx (s : State) (c : Nat) (f : Ctx → Ctx) : State := s.onObjs fun o => { o with ctxs := tmod o.ctxs c f }
/-- Change queue slot `q`. -/
def State.modQueue (s : State) (q : Nat) (f : Queue → Queue) : State := s.onObjs fun o => { o with queues := tmod o.queues q f }
/-- Change memory object `m`. -/
def State.modMo (s : State) (m : Nat) (f : Mo → Mo) : State := s.onObjs fun o => { o with mos := tmod o.mos m f }
/-- Change fence `k`. -/
def State.modFence (s : State) (k : Nat) (f : Fence → Fence) : State := s.onObjs fun o => { o with fences := tmod o.fences k f }
/-- Change program `p`. -/
def State.modProg (s : State) (p : Nat) (f : Program → Program) : State := s.onObjs fun o => { o with progs := tmod o.progs p f }
/-- Change slice `l`. -/
def State.modSlice (s : State) (l : Nat) (f : Slice → Slice) : State := s.onSlices fun o => { o with tab := tmod o.tab l f }
/-- Change frame `k`. -/
def State.modFrame (s : State) (k : Nat) (f : Frame → Frame) : State := s.onPool fun p => { p with frames := tmod p.frames k f }
/-- Change stack `k`. -/
def State.modStack (s : State) (k : Nat) (f : Stack → Stack) : State := s.onPool fun p => { p with stks := tmod p.stks k f }
/-- Change a work packet. -/
def State.modDisp (s : State) (d : DWord) (f : Disp → Disp) : State :=
  s.onSched fun x => { x with disps := x.disps.map (fun e => if e.ref == d then f e else e) }
/-- Change polder `p`. -/
def State.modPolder (s : State) (p : Nat) (f : Polder → Polder) : State := s.onSched fun x => { x with polders := tmod x.polders p f }
/-- Add to a context's accounting (R264). -/
def State.account (s : State) (c : Nat) (f : Acct → Acct) : State := s.modCtx c fun x => { x with acct := f x.acct }

/-! ## Status codes (R99) -/

/-- The value of a status code. -/
def Status.code : Status → Nat
  | .ok => 0x0000 | .stale => 0x0001 | .busy => 0x0002 | .noSlot => 0x0010 | .quota => 0x0011 | .badHandle => 0x0020
  | .badParam => 0x0021 | .badState => 0x0022 | .denied => 0x0030 | .notLicensed => 0x0031 | .aborted => 0x0040 | .faulted => 0x0041
  | .integrity => 0x0042 | .linkDown => 0x0043 | .timeout => 0x0044 | .txnConflict => 0x0050 | .txnAbsent => 0x0051
  | .txnTooLarge => 0x0052 | .heldVersion => 0x0060 | .deviceLost => 0x00F0

/-- The status that a value names; a reserved value stands for FAULTED (R389). -/
def Status.ofCode (n : Nat) : Status :=
  match n with
  | 0x0000 => .ok | 0x0001 => .stale | 0x0002 => .busy | 0x0010 => .noSlot | 0x0011 => .quota | 0x0020 => .badHandle
  | 0x0021 => .badParam | 0x0022 => .badState | 0x0030 => .denied | 0x0031 => .notLicensed | 0x0040 => .aborted | 0x0041 => .faulted
  | 0x0042 => .integrity | 0x0043 => .linkDown | 0x0044 => .timeout | 0x0050 => .txnConflict | 0x0051 => .txnAbsent
  | 0x0052 => .txnTooLarge | 0x0060 => .heldVersion | 0x00F0 => .deviceLost
  | _ => .faulted

/-! ## Slots and handles (R34, R37, R38) -/

/-- Slots of each object type, by type code. -/
def slotCount : Nat → Nat
  | 1 => 4096 | 2 => 8192 | 3 => 1048576 | 4 => 262144 | 5 => 512 | 6 => 16384 | 7 => 64 | _ => 0

/-- Notification records (R34). -/
def noteCount : Nat := 524288

/-- A handle (R37). -/
def mkHandle (ty gen slot : Nat) : Handle := BitVec.ofNat 32 (ty * 2 ^ 28 + gen * 2 ^ 20 + slot)

/-- TYPE of a handle. -/
def hType (h : Handle) : Nat := bits h.toNat 28 4
/-- GEN of a handle. -/
def hGen (h : Handle) : Nat := bits h.toNat 20 8
/-- SLOT of a handle. -/
def hSlot (h : Handle) : Nat := bits h.toNat 0 20

/-- The generation of a slot: 1 when it was never issued (R38). -/
def SlotMgr.gen (m : SlotMgr) (k : Nat) : Nat := tgetD m.gens k 1

/-- A slot's object has ended: the next generation, or parked at 255, with the slot that owned it (R38). -/
def SlotMgr.retire (m : SlotMgr) (k owner : Nat) : SlotMgr :=
  if m.gen k = 255 then { m with parked := (k, owner) :: m.parked } else { m with gens := tset m.gens k (m.gen k + 1) }

/-- The owner has ended: its parked slots return with generation 1 (R38). -/
def SlotMgr.release (m : SlotMgr) (owner : Nat) : SlotMgr :=
  (m.parked.filter (fun e => e.2 == owner)).foldl (fun a e => { a with gens := tset a.gens e.1 1 })
    { m with parked := m.parked.filter (fun e => e.2 != owner) }

/-- Slot `k` may be issued: it holds no object and is not parked. -/
def SlotMgr.freeAt {α : Type} (m : SlotMgr) (t : Tab α) (k : Nat) : Bool := !thas t k && !m.parked.any (fun e => e.1 == k)

/-- The slot a create takes: the spec does not say which of the free ones, so the free value `d` picks (log entry 2). -/
def pickSlot (n : Nat) (ok : Nat → Bool) (d : Nat) : Option Nat :=
  if 0 < n && ok (d % n) then some (d % n) else (List.range n).find? ok

/-- A context's handle. -/
def State.ctxHandle (s : State) (c : Nat) : Handle := match s.ctx? c with | some x => mkHandle 1 x.gen c | none => 0
/-- A queue's handle. -/
def State.queueHandle (s : State) (q : Nat) : Handle := match s.queue? q with | some x => mkHandle 2 x.gen q | none => 0
/-- A memory object's handle. -/
def State.moHandle (s : State) (m : Nat) : Handle := match s.mo? m with | some x => mkHandle 3 x.gen m | none => 0
/-- A fence's handle. -/
def State.fenceHandle (s : State) (f : Nat) : Handle := match s.fence? f with | some x => mkHandle 4 x.gen f | none => 0
/-- A program's handle. -/
def State.progHandle (s : State) (p : Nat) : Handle := match s.prog? p with | some x => mkHandle 6 x.gen p | none => 0
/-- A slice's handle. -/
def State.sliceHandle (s : State) (l : Nat) : Handle := match s.slice? l with | some x => mkHandle 5 x.gen l | none => 0

/-! ## Units, engines and polders (R18, R241) -/

/-- Clusters that are active: not failed and inside the licence (R440 stage 9; the almanac's CLUSTERS entry). -/
def State.active (s : State) (c : Nat) : Bool := match tget s.brg.defects c with | some d => d.active | none => false

/-- The active clusters, ascending. -/
def State.actives (s : State) : List Nat := (List.range 20).filter s.active

/-- The logical engines of a unit mask (R241). -/
def unitEngines (m : BitVec 40) : List Nat := (List.range 320).filter (fun e => m.getLsbD (e / 8))

/-- E_p, a polder's logical engine count (R241). -/
def Polder.eCount (p : Polder) : Nat := 8 * ((List.range 40).filter (fun u => p.units.getLsbD u)).length

/-- Polder `p` exists (R241, R242). -/
def State.polder? (s : State) (p : Nat) : Option Polder := tget s.sched.polders p

/-- Engines that some dispatch holds. -/
def State.busyEngines (s : State) : List Nat := s.sched.disps.flatMap (·.engines)

/-- The slice that a context slot belongs to. -/
def State.sliceOf (s : State) (c : Nat) : Nat := match s.ctx? c with | some x => x.slice | none => 0

/-- A slice's share weight in a polder (R255). -/
def State.shareOf (s : State) (l p : Nat) : Nat := match s.slice? l with | some x => tgetD x.shares p 0 | none => 0

/-- A slice is confidential. -/
def State.confSlice (s : State) (l : Nat) : Bool := match s.slice? l with | some x => x.conf | none => false

/-- An IDE stream without keys. -/
def Ide.none : Ide := { progd := [], tx := Option.none, rx := Option.none }
/-- Both directions of the stream have a key set in use. -/
def Ide.live (x : Ide) : Bool := x.tx.isSome && x.rx.isSome

/-- A slice's interface (R340); absent stands for none. -/
def Tdi.none : Tdi :=
  { state := 0, scrubbed := false, claimPort := 0, claimed := false, claimSess := Option.none, rejects := 0, binding := 0,
    sess := Option.none, vecDue := false, ide := Ide.none }
/-- The interface of slice `l`. -/
def State.tdi (s : State) (l : Nat) : Tdi := tgetD s.sen.tdi l Tdi.none
/-- Change the interface of slice `l`. -/
def State.modTdi (s : State) (l : Nat) (f : Tdi → Tdi) : State := s.onSen fun x => { x with tdi := tset x.tdi l (f (tgetD x.tdi l Tdi.none)) }

/-- The block's own requests for slice `l` go in the selective IDE stream of its interface, with the T bit set (R318). -/
def State.tee (s : State) (l : Nat) : Bool := (s.tdi l).state == 2 || (s.tdi l).state == 3

/-- The pieces, of at most `n` bytes each, of a request of `len` bytes at `addr` (R393). -/
def pieces (n addr len : Nat) : List (Nat × Nat) := (List.range ((len + n - 1) / n)).map fun i => (addr + n * i, min n (len - n * i))

/-- A host port at reset (R410). -/
def Port.reset : Port :=
  { up := false, rate := 0, width := 0, cxl := false, toMs := 10, memErr := 0, memAdr := 0, memSet := false, ur := 0, wins := [],
    msix := [], unmask := [], msixPnd := [], ats := [], pri := [], priId := 0, priBad := false, atsOn := false, priOn := false,
    cmd := 0, bars := [], pasidOn := false, fmask := false, hdm := [], ide := Ide.none }
/-- Host port `p`. -/
def State.port (s : State) (p : Nat) : Port := tgetD s.ports p Port.reset
/-- Change host port `p`. -/
def State.modPort (s : State) (p : Nat) (f : Port → Port) : State := { s with ports := tset s.ports p (f (s.port p)) }

/-- Almanac changes: GENERATION rises before and after (R72). -/
def State.almanac (s : State) : State := { s with alm := { s.alm with gen := s.alm.gen + 2 } }

/-- The next number of a 32-bit counter that saturates. -/
def satInc (w : Word) : Word := if w = BitVec.ofNat 32 0xFFFFFFFF then w else w + 1

/-- The always-on counter as software sees it (R477). -/
def State.time (s : State) : DWord := BitVec.ofNat 64 s.now

/-- A counter that the pool driver sees only at boundaries while the block is Sealed (R328): the shown and the hidden count, and the period in
which the hidden one counts; the step adds one. -/
def stepCount (hide : Bool) (period now : Nat) (shown hid : Word) (at_ : Nat) : Word × Word × Nat :=
  if hide then
    if now / period = at_ then (shown, hid + 1, at_) else (shown + hid, 1, now / period)
  else (shown + hid + 1, 0, now / period)

/-- What a read of such a counter returns, and what it leaves. -/
def readCount (hide : Bool) (period now : Nat) (shown hid : Word) (at_ : Nat) : Word × Word × Word :=
  if hide && now / period == at_ then (shown, 0, hid) else (shown + hid, 0, 0)

/-- Ticks of 10 ns in a number of microseconds. -/
def usTicks (us : Nat) : Nat := us * 100

end Sys2Proof.Machine
end

