-- ==== Sys2Proof/Machine/Crypto.lean ====
section
/-!
DEFINITION. Keys (spec/10): the key store and the ICUs' copies of its key sets (R294, R295), the derivation of memory keys (R296), what a stack
holds of a sector (R299 to R303), the keys of a link (R311, R312) and of a seal (R314), the bytes of sealed messages and of flits (R349, R350, R377),
and the DRBG (R293). A sector's tag in State names the key set that its MAC was made under (log entry 220).
-/

namespace Sys2Proof.Machine

/-! ## The DRBG (R293) -/

/-- `n` requests to the DRBG, which is seeded again after every 2^20. -/
def State.asked (s : State) (n : Nat) : State := s.onSen fun x => { x with drbg := (x.drbg + n) % 2 ^ 20 }

/-! ## The key store (R294, R295) -/

/-- The 20 ICUs at bring-up: transport keys from the DRBG, at the free values from `k` on, and the block's own two key sets. -/
def newIcus (k : Nat) : Tab Icu := (List.range 20).map fun i => (i, { tkey := Config.free (k + i) % 2 ^ 256, sets := [.table, .internal] })

/-- The store holds a new key set, and every ICU gets its copy over BNET. -/
def State.installKey (s : State) (k : KeySet) : State :=
  s.onSen fun x => { x with keys := x.keys ++ [k], icus := tmap x.icus fun _ i => { i with sets := i.sets ++ [k] } }

/-- Key sets are destroyed: their entries of the store and all 20 copies are zeroed; each ICU has acknowledged when the command ends. -/
def State.destroyKeys (s : State) (p : KeySet → Bool) : State :=
  s.onSen fun x => { x with keys := x.keys.filter (fun k => !p k), icus := tmap x.icus fun _ i => { i with sets := i.sets.filter (fun k => !p k) } }

/-- A key set of context `c`. -/
def KeySet.isOf (c : Nat) : KeySet → Bool | .ctx d _ => d == c | _ => false

/-! ## Memory key sets (R296) -/

/-- A label's bytes. -/
def ascii (t : String) : List Byte := t.toList.map fun c => BitVec.ofNat 8 c.toNat

/-- A key set (R296): the keys of XTS, the tag key, the GHASH key. -/
structure MemKeys where
  xts : List Byte
  tag : List Byte
  h   : List Byte
  deriving DecidableEq, Repr

/-- The key set in 112 bytes of key material; bit 0 is the lowest of the first byte (log entry 219). -/
def MemKeys.ofKm (km : List Byte) : MemKeys := { xts := km.take 64, tag := (km.drop 64).take 32, h := (km.drop 96).take 16 }

/-- The key set of a context with a nonce in a season. -/
def memKeys (root nonce season : Nat) (conf : Bool) : MemKeys :=
  MemKeys.ofKm (kdf108 (leBytes 32 root) (ascii "tq40 context memory") (leBytes 16 nonce ++ leBytes 4 season ++ leBytes 1 (b1 conf)) 896)

/-- The key set that an entry of the store stands for. -/
def State.keySet (s : State) : KeySet → MemKeys
  | .ctx c n => memKeys s.sen.fused.root ((s.ctx? c).elim 0 (·.nonce)) n (s.confSlice (s.sliceOf c))
  | .table => MemKeys.ofKm (leBytes 112 (Config.sysKm s.sen.fused.root s.sen.bootNonce false))
  | .internal => MemKeys.ofKm (leBytes 112 (Config.sysKm s.sen.fused.root s.sen.bootNonce true))

/-- A key set as the SEN sends it to an ICU: wrapped under that ICU's transport key (R295). -/
def Icu.wrapped (i : Icu) (k : MemKeys) : List Byte := keyWrap (leBytes 32 i.tkey) (k.xts ++ k.tag ++ k.h)

/-! ## Sectors (R299 to R303) -/

/-- A sector's ciphertext (R299): the tweak is the sector's number. -/
def MemKeys.cipher (k : MemKeys) (sec : Nat) (plain : List Byte) : List Byte := xtsSeal k.xts sec plain

/-- A sector's MAC (R300). -/
def MemKeys.mac (k : MemKeys) (sec season : Nat) (text : List Byte) : Nat :=
  leNat ((aes256 k.tag (ghash k.h (leBytes 5 sec ++ leBytes 4 season ++ leBytes 7 0) text)).take 7)

/-- A sector's sideband word (R301). -/
def sideband (mac season : Nat) : Nat := mac % 2 ^ 56 + 2 ^ 56 * (season % 16)

/-- What a stack holds of sector `i` of the pool: ciphertext and sideband, under the key set that its tag names (R299 to R303); none for a sector
that nothing has been written to. -/
def State.stored (s : State) (i : Nat) : Option (List Byte × Nat) :=
  match tget s.pool.tags i, s.frame? (i / 256) with
  | some t, some f =>
    let k := match f.owner with
      | some c => memKeys s.sen.fused.root t.nonce t.season (s.confSlice (s.sliceOf c))
      | none => s.keySet .table
    let text := k.cipher t.cva (memRead s.pool.mem (256 * i) 256)
    some (text, sideband (k.mac t.cva t.season text) t.season)
  | _, _ => none

/-! ## Links (R310 to R312) -/

/-- A root that a peer's chain may reach: Crebry's, or one of up to 8 vendor roots of the credential bundle (R310). -/
def State.trusts (s : State) (root : Nat) : Bool := root == s.sen.fused.rootDig || (s.sen.vendors.take 8).contains root

/-- A link's two traffic secrets from the shared secret and the transcript hash: this end's direction first. `low`: this end has the lower
identity. -/
def linkSecrets (z th : List Byte) (low : Bool) : List Byte × List Byte :=
  let prk := hkdfExtract th z
  let sec (d : String) : List Byte := hkdfExpand prk (ascii "tq link traffic " ++ ascii d) 48
  if low then (sec "lo>hi", sec "hi>lo") else (sec "hi>lo", sec "lo>hi")

/-- The secret after a rekey (R312). -/
def nextSecret (sec : List Byte) : List Byte := hkdfExpand sec (ascii "update") 48

/-- The AES-256-GCM key of a direction. -/
def linkKey (sec : List Byte) : List Byte := hkdfExpand sec (ascii "key") 32

/-- The IV of a flit: the salt of its virtual channel, and its counter. -/
def linkIv (sec : List Byte) (v ctr : Nat) : List Byte := hkdfExpand sec (ascii "salt " ++ leBytes 1 v) 4 ++ leBytes 8 ctr

/-- The IV of a control flit (R350): 2^63 and the control counter, which no flit of data has. -/
def ctlIv (sec : List Byte) (ctr : Nat) : List Byte := linkIv sec 0 (2 ^ 63 + ctr)

/-! ## Messages and flits as bytes (R349, R350, R368, R377) -/

/-- The header of a message (R368); bytes 0 to 27 are a seal's additional data (R377). -/
def msgHeader (m : Msg) : List Byte :=
  leBytes 1 m.mtype ++ leBytes 1 m.flags.toNat ++ leBytes 2 m.units ++ leBytes 2 m.tag ++ leBytes 2 m.binding ++ leBytes 4 m.src ++ leBytes 4 m.dst ++
    leBytes 8 m.addr.toNat ++ leBytes 4 m.len ++ leBytes 1 m.route.toNat ++ leBytes 3 0

/-- Bytes with zeros up to `n` of them. -/
def zeroPad (n : Nat) (d : List Byte) : List Byte := d ++ List.replicate (n - d.length) 0

/-- A message as its channel's stream carries it: header, data units, and the trailer of a sealed one. -/
def msgBytes (m : Msg) : List Byte :=
  let sealed := m.flags.getLsbD 1
  msgHeader m ++ zeroPad (32 * (m.units - b1 sealed)) m.data ++ (if sealed then leBytes 8 m.sealCtr ++ zeroPad 16 m.sealTag ++ leBytes 8 0 else [])

/-- The header of a data flit (R349). -/
def flitHeader (seq vc : Nat) (kph : Bool) (fill ctr : Nat) : List Byte :=
  leBytes 2 seq ++ leBytes 1 (4 * vc + 32 * b1 kph) ++ leBytes 1 fill ++ leBytes 5 ctr ++ leBytes 7 0

/-- A flit's 256 bytes: the header as additional data, the body encrypted, the tag. -/
def sealFlit (sec : Option (List Byte)) (iv : List Byte → List Byte) (header body : List Byte) : List Byte :=
  match sec with
  | some k => let c := gcmSeal (linkKey k) (iv k) header (zeroPad 224 body); header ++ c.1 ++ c.2
  | none => []

/-- A data flit that carries `body`. -/
def dataFlitBytes (sec : Option (List Byte)) (seq vc : Nat) (kph : Bool) (fill ctr : Nat) (body : List Byte) : List Byte :=
  sealFlit sec (fun k => linkIv k vc ctr) (flitHeader seq vc kph fill ctr) body

/-- The body of a control flit (R350). -/
def ctlBody (f : CtlFlit) : List Byte :=
  leBytes 2 f.ack.toNat ++ leBytes 1 (b1 f.ackValid + 2 * b1 f.nak) ++ leBytes 1 0 ++ f.freed.flatMap (leBytes 2) ++ leBytes 1 f.reqKind ++
    leBytes 1 f.reqArg ++ leBytes 1 f.reqId ++ leBytes 1 f.reply ++ leBytes 1 f.replyId

/-- A control flit: KIND 1, SEQ 0, the control counter. -/
def ctlFlitBytes (sec : Option (List Byte)) (f : CtlFlit) (ctr : Nat) : List Byte :=
  sealFlit sec (fun k => ctlIv k ctr) (leBytes 2 0 ++ leBytes 1 (1 + 32 * b1 f.kph) ++ leBytes 1 0 ++ leBytes 5 ctr ++ leBytes 7 0) (ctlBody f)

/-! ## Seals (R314, R377) -/

/-- The seal key of a context with the endpoint whose session has a master secret. -/
def sealKey (secret : List Byte) (nonce season : Nat) : List Byte :=
  hkdfExpand secret (ascii "tq seal" ++ leBytes 16 nonce ++ leBytes 4 season) 32

/-- The IV of a direction of a seal: its salt and counter. -/
def sealIv (salt ctr : Nat) : List Byte := leBytes 4 salt ++ leBytes 8 ctr

/-- A message with its data sealed, under the next counter of the sending direction. -/
def Seal.close (k : Seal) (m : Msg) : Msg :=
  let c := gcmSeal k.key (sealIv k.txSalt k.txCtr) ((msgHeader m).take 28) m.data
  { m with data := c.1, sealCtr := k.txCtr, sealTag := c.2 }

/-- The tag that a sealed message has to carry, and its data in the clear. -/
def Seal.unlock (k : Seal) (m : Msg) : List Byte × List Byte :=
  let iv := sealIv k.rxSalt m.sealCtr
  let plain := xorBytes m.data (gcmStream k.key iv 2 ((m.data.length + 15) / 16))
  ((gcmSeal k.key iv ((msgHeader m).take 28) plain).2, plain)

/-! ## SPDM sessions (R322) -/

/-- A session's exported master secret from the Diffie-Hellman secret and the transcript hash: the key schedule of the standard that R322 names
(log entry 4). -/
def spdmSecret (z th : List Byte) : List Byte :=
  let label (t : String) (ctx : List Byte) : List Byte := leBytes 2 48 ++ ascii "spdm1.3 " ++ ascii t ++ ctx
  let handshake := hkdfExtract (List.replicate 48 0) z
  let master := hkdfExtract (hkdfExpand handshake (label "derived" []) 48) (List.replicate 48 0)
  hkdfExpand master (label "exp master" th) 48

/-! ## Signatures (R311, R325) -/

/-- A signature with a private key under a secret number drawn from the DRBG, over the SHA-384 of a text. -/
def signText (key draw : Nat) (text : List Byte) : List Byte := ecdsa key (keyOf draw) (sha384Bytes text)

end Sys2Proof.Machine
end

