-- ==== Sys2Proof/Machine/Flags.lean ====
section
/-!
DEFINITION. The block's flags and notices: event sources and their pending bits (R418 to R424), mailbox notices (R430 to R434), MSI-X
vectors (R273, R399).
-/

namespace Sys2Proof.Machine

/-- An event source at reset (R429). -/
def Src.reset : Src := { prio := 0, target := 0, masked := true, pend := false, active := false, cond := false }

/-- Event source `i`. -/
def State.src (s : State) (i : Nat) : Src := tgetD s.evc.srcs i Src.reset

/-- Change event source `i`. -/
def State.modSrc (s : State) (i : Nat) (f : Src → Src) : State :=
  { s with evc := { s.evc with srcs := tset s.evc.srcs i (f (s.src i)) } }

/-- An edge source's condition occurs (R419). -/
def State.raiseEdge (s : State) (i : Nat) : State := s.modSrc i fun x => { x with pend := true }

/-- A level source's condition begins or ends (R419). -/
def State.setCond (s : State) (i : Nat) (b : Bool) : State := s.modSrc i fun x => { x with cond := b, pend := b && !x.active }

/-- Which sources are level sources (R418, R427). -/
def State.isLevel (s : State) (i : Nat) : Bool :=
  (1 ≤ i && i ≤ 32 && (match tget s.evc.wires (i - 1) with | some w => w.mode ≤ 1 | none => true)) || (35 ≤ i && i ≤ 39) || i = 43 ||
    (64 ≤ i && i < 128)

/-- A control core at reset (R422, R425). -/
def Core.reset : Core := { run := 0, stack := [], eoiErr := false }
/-- Control core `n`. -/
def State.core (s : State) (n : Nat) : Core := tgetD s.evc.cores n Core.reset
/-- Change control core `n`. -/
def State.modCore (s : State) (n : Nat) (f : Core → Core) : State := { s with evc := { s.evc with cores := tset s.evc.cores n (f (s.core n)) } }

/-- Source `i` is eligible for core `n` (R420). -/
def State.eligible (s : State) (n i : Nat) : Bool :=
  let x := s.src i
  x.pend && !x.masked && !x.active && x.target.getLsbD n && decide ((s.core n).run < x.prio)

/-! ## MSI-X -/

/-- The slice whose locked window holds vector `v` of a port (R401). -/
def State.lockedVec (s : State) (port v : Nat) : Option Nat :=
  (s.slices.tab.find? (fun e => e.2.conf && e.2.port == port && decide (e.2.vecBase ≤ v) && decide (v < e.2.vecBase + e.2.vecCount) &&
    s.tee e.1)).map (·.1)

/-- The message of a vector goes out (R399, R318). -/
def State.sendVec (s : State) (p v : Nat) : State := s.emit (.msix p v (s.lockedVec p v).isSome)

/-- Raise a vector of a host port: a message where neither it nor the function is masked, else its pending bit (R399). -/
def State.raisePort (s : State) (p v : Nat) : State :=
  if (s.port p).unmask.contains v && !(s.port p).fmask then s.sendVec p v
  else s.modPort p fun x => { x with msixPnd := v :: x.msixPnd.filter (· != v) }

/-- Raise slice-relative vector `v` of slice `l` (R273). -/
def State.raiseVec (s : State) (l v : Nat) : State :=
  match s.slice? l with
  | some x => s.raisePort x.port (x.vecBase + v)
  | none => s

/-! ## Mailboxes -/

/-- An empty mailbox (R437). -/
def Mbox.reset : Mbox := { msgs := [], serr := false, rerr := false, aborted := false, dropped := 0, vector := 1, wake := false }
/-- Mailbox `m`. -/
def State.mbox (s : State) (m : Nat) : Mbox := tgetD s.mbx.boxes m Mbox.reset
/-- Change mailbox `m`. -/
def State.modMbox (s : State) (m : Nat) (f : Mbox → Mbox) : State :=
  { s with mbx := { s.mbx with boxes := tset s.mbx.boxes m (f (s.mbox m)) } }

/-- The fixed sender of a mailbox (R430). -/
def mbxSender (m : Nat) : Party :=
  if m = 1 then .pool else if m = 3 then .mmc else if 32 ≤ m && m ≤ 51 then .csq (m - 32) else .control

/-- The fixed receiver of a mailbox (R430). -/
def mbxReceiver (m : Nat) : Party :=
  if m = 0 then .pool else if m = 2 then .mmc else if 12 ≤ m && m ≤ 31 then .csq (m - 12) else .control

/-- The code of a party in MBX_CFG (R437). -/
def partyCode : Party → Nat
  | .control => 1 | .mmc => 2 | .pool => 3 | .csq _ => 4

/-- The mailbox of an inactive cluster (R431). -/
def State.mbxDead (s : State) (m : Nat) : Bool := (12 ≤ m && m ≤ 31 && !s.active (m - 12)) || (32 ≤ m && m ≤ 51 && !s.active (m - 32))

/-- A party's power domain is up (R433). -/
def State.partyUp (s : State) (p : Party) : Bool :=
  match p with
  | .control => s.pwr.ccUp
  | .csq c => (match tget s.pwr.clus c with | some k => k.st ≤ 1 | none => true)
  | _ => true

/-- The receiver is told of nonempty (R432). -/
def State.noteNonempty (s : State) (m : Nat) : State :=
  match mbxReceiver m with
  | .control => s.setCond (64 + m) true
  | .pool => s.raiseVec 0 (s.mbox 0).vector
  | p => s.emit (.mail m p 0)

/-- The sender is told of empty (1) or aborted (2) (R432). -/
def State.noteSender (s : State) (m what : Nat) : State :=
  match mbxSender m with
  | .control => s.raiseEdge (64 + 64 * what + m)
  | .pool => s.raiseVec 0 (s.mbox 1).vector
  | p => s.emit (.mail m p what)

/-- A message enters mailbox `m` (R431 to R433): where the receiver's domain is off it asks for the wake, and the notice waits for it. -/
def State.mbxPush (s : State) (m : Nat) (w : DWord) : State :=
  let b := s.mbox m
  let s1 := s.modMbox m fun x => { x with msgs := x.msgs ++ [w] }
  if s.partyUp (mbxReceiver m) then (if b.msgs = [] then s1.noteNonempty m else s1)
  else s1.modMbox m fun x => { x with wake := true }

/-- A reset of the receiver clears mailbox `m` (R434). -/
def State.mbxClear (s : State) (m : Nat) : State :=
  let n := (s.mbox m).msgs.length
  let s1 := (s.modMbox m fun x => { x with msgs := [], wake := false })
  let s2 := if mbxReceiver m = .control then s1.setCond (64 + m) false else s1
  if n = 0 then s2
  else
    let s3 := s2.modMbox m fun x => { x with aborted := true, dropped := n }
    let s4 := if m = 3 then { s3 with mbx := { s3.mbx with mmcAbort := true, mmcDrop := n } } else s3
    s4.noteSender m 2

/-! ## Cluster power states (R478, R482) -/

/-- The compute domain of cluster `c`: Idle since the start where nothing is recorded. -/
def State.clu (s : State) (c : Nat) : Clu := tgetD s.pwr.clus c { st := 1, since := 0 }

/-- Put the compute domain of cluster `c` into a state, from now on. -/
def State.setClu (s : State) (c st : Nat) : State := s.onPwr fun p => { p with clus := tset p.clus c { st := st, since := s.now } }

/-- The clusters' work has just ended: they are Idle from now on (R480). -/
def State.idleFrom (s : State) (cs : List Nat) : State := cs.foldl (fun a c => if (a.clu c).st ≤ 1 then a.setClu c 1 else a) s

/-- The PWR fields that nothing keeps, after a reset or a wake of the clusters `cs` (R14, R491): their rates and powers, PWR_CCSLEEP.REQ. -/
def State.dashed (s : State) (cs : List Nat) : State :=
  let zero (t : Tab Nat) : Tab Nat := tmap t fun c v => if cs.contains c then 0 else v
  s.onPwr fun p => { p with ccReq := false, mhz := zero p.mhz, cpow := zero p.cpow }

/-- Cluster `c` loads its microcode from the store of its own die (R448). -/
def State.loadUcode (s : State) (c : Nat) : State :=
  s.onBrg fun x => { x with loaded := match tget x.uStore (c / 5) with | some v => tset x.loaded c v | none => tdel x.loaded c }

/-- The compute domain of cluster `c` is off, and its microcode is gone. -/
def State.dropUcode (s : State) (c : Nat) : State := s.onBrg fun x => { x with loaded := tdel x.loaded c }

/-- Cluster `c` wakes from Nap or Deep to Idle: a waiting message is announced, and a request that the control cluster go down is cancelled
(R433, R481, R482). -/
def State.wakeCluster (s : State) (c : Nat) : State :=
  if (s.clu c).st ≤ 1 then s
  else
    let s1 := ((if (s.clu c).st = 3 then s.loadUcode c else s).setClu c 1).dashed [c]
    if (s1.mbox (12 + c)).wake then (s1.modMbox (12 + c) fun x => { x with wake := false }).noteNonempty (12 + c) else s1

end Sys2Proof.Machine
end

