-- ==== Sys2Proof/Machine/LinkBase.lean ====
section
/-!
DEFINITION. A link's sending side (spec/11): which links exist (R342), virtual channels (R359), credits (R360), the egress groups and the
weighted-fair order (R382 to R384), control flits and requests (R350, R364), the next hop of a message (R379 to R381), and the messages that the block makes (R368, R370).
-/

namespace Sys2Proof.Machine

/-- A link that the port's bifurcation creates (R342). -/
def State.linkExists (s : State) (l : Nat) : Bool :=
  let mode := bits s.links.bifur.toNat (2 * (l % 16)) 2
  l < 48 && (match l / 16 with | 0 => mode ≤ 2 | 1 => mode == 2 | _ => mode == 1 || mode == 2)

/-- A slice's flow on a link before any LINK_SHAPE (R383, R386). -/
def Flow.default : Flow := { weight := 100, rate := 0, burst := 0, tokens := 0, time := 0 }

/-- Torus coordinates one step along a direction: 0 +x, 1 -x, 2 +y, 3 -y, 4 +z, 5 -z, wrapping (R378). -/
def State.step1 (s : State) (dir : Nat) : Nat × Nat × Nat :=
  let (x, y, z) := s.links.coord
  let mv (v d : Nat) (up : Bool) : Nat := if up then (v + 1) % max d 1 else (v + max d 1 - 1) % max d 1
  match dir with
  | 0 => (mv x s.links.dimX true, y, z)
  | 1 => (mv x s.links.dimX false, y, z)
  | 2 => (x, mv y s.links.dimY true, z)
  | 3 => (x, mv y s.links.dimY false, z)
  | 4 => (x, y, mv z s.links.dimZ true)
  | _ => (x, y, mv z s.links.dimZ false)

/-- Link `l`, if the bifurcation creates it. -/
def State.link? (s : State) (l : Nat) : Option Link := tget s.links.tab l
/-- Change link `l`. -/
def State.modLink (s : State) (l : Nat) (f : Link → Link) : State := s.onLinks fun k => { k with tab := tmod k.tab l f }

/-- LNK_STAT.STATE is 3. -/
def Link.up (x : Link) : Bool := x.state == 3

/-- Full width of link `l` in lanes (R342). -/
def State.fullWidth (s : State) (l : Nat) : Nat :=
  match bits s.links.bifur.toNat (2 * (l % 16)) 2, l / 16 with
  | 0, 0 => 8
  | 1, 0 => 4
  | 1, 2 => 4
  | 2, 0 => 2
  | 2, 1 => 2
  | 2, 2 => 4
  | _, _ => 0

/-! ## Virtual channels and credits -/

/-- The channel of a message (R359). -/
def vcFor (attach : Bool) (vcs : Nat) (cpl strict : Bool) (binding : Nat) (dl : Bool) : Nat :=
  if attach then
    if vcs ≤ 2 then b1 cpl
    else if vcs ≤ 4 ∨ strict = true then 2 * b1 (!strict) + b1 cpl
    else 2 + 2 * (binding % 3) + b1 cpl
  else if vcs ≤ 4 then 2 * b1 cpl + b1 dl
  else 4 * b1 (!strict) + 2 * b1 cpl + b1 dl

/-- Channels that carry the strict class alone (R359). -/
def strictVc (attach : Bool) (vcs v : Nat) : Bool :=
  if attach then 4 ≤ vcs && v ≤ 1 else 8 ≤ vcs && v ≤ 3

/-- D_v of the own receiver: LNK_VCDED, by default 256 for strict channels, else 64 (R360, R391). -/
def Link.dedOf (x : Link) (v : Nat) : Nat := tgetD x.ded v (if strictVc x.attach (2 * 2 ^ x.vcsCfg) v then 256 else 64)

/-- Receive buffers of a link in flits (R343). -/
def bufFlits (lanes : Nat) : Nat := 512 * lanes

/-- The far end's shared pool in use. -/
def Link.sharedUse (x : Link) : Nat := ((List.range 8).map fun v => tgetD x.used v 0 - tgetD x.farDed v 0).sum

/-- Flits that the replay stores hold: on-chip, and the extension while it is available (R343, R358). -/
def Link.window (x : Link) (ext : Bool) : Nat := min 32767 (256 * x.full + if ext then 4096 * x.full else 0)

/-- The replay extension of link `l` is available: its stack is in service, and not being relieved of it (R206, R233, R358). -/
def State.extension (s : State) (l : Nat) : Bool :=
  (tget s.pool.replayAt (l % 16)).any fun k => (s.stack? k).any fun x => x.inSvc && !x.retiring

/-- A data flit may go on channel v (R358, R360), but not while a retrain has traffic wait (R362); the counter stays below 2^40 (R312). -/
def Link.credit (x : Link) (ext : Bool) (v : Nat) : Bool :=
  let u := tgetD x.used v 0
  let d := tgetD x.farDed v 0
  let pool := bufFlits x.full - ((List.range 8).map fun w => tgetD x.farDed w 0).sum
  x.up && !x.waits && decide (x.flits.length < x.window ext) && decide (tgetD x.ctrTx v 0 < 2 ^ 40) &&
    (decide (u < d) || (decide (x.sharedUse < pool) && decide (u - d < min x.farCap pool)))

/-! ## Egress (R382 to R384) -/

/-- A message is of the completion class (R370). -/
def isCpl (t : Nat) : Bool := t == 0x08 || t == 0x09

/-- The control queue serves the message (R382); `bulk`: its STRICT flag is not honoured (R373). -/
def ctlMsg (m : Msg) (bulk : Bool) : Bool :=
  (m.flags.getLsbD 0 && !bulk) || m.mtype == 0x09 || m.mtype == 0x10 || m.mtype == 0x11 || (0x18 ≤ m.mtype && m.mtype ≤ 0x1A) || m.mtype == 0x20

/-- The weight of a flow on a link. -/
def Link.weightOf (x : Link) (f : Nat) : Nat := (tgetD x.flows f Flow.default).weight

/-- The head of flow f on channel v gets its start tag, and the flow its finish tag, in 1/65536 of a counted byte per weight unit (R383). A flow has
a head on each channel, so that its completions wait for none of its requests (R359; log entry 250). -/
def Link.tagHead (x : Link) (f v : Nat) : Link :=
  match x.fairQ.findIdx? (fun e => e.flow == f && e.vc == v) with
  | none => x
  | some i =>
    match x.fairQ[i]? with
    | none => x
    | some e =>
      if e.start.isSome then x
      else
        let l := (32 * (1 + e.msg.units) + x.ovh) * 65536
        let w := x.weightOf f
        let st := max x.vtime (tgetD x.finish f 0)
        { x with fairQ := x.fairQ.set i { e with start := some st }, finish := tset x.finish f (st + (if w = 0 then 0 else l / w)) }

/-- Queue a message (R382). -/
def Link.enqueue (x : Link) (e : Egr) : Link :=
  if ctlMsg e.msg e.bulk then { x with ctlQ := x.ctlQ ++ [e] }
  else if e.msg.flags.getLsbD 2 then { x with feastQ := x.feastQ ++ [e] }
  else Link.tagHead { x with fairQ := x.fairQ ++ [e] } e.flow e.vc

/-- A message of which a part has been sent. -/
def Egr.begun (e : Egr) : Bool := decide (e.left < 1 + e.msg.units)

/-- A queued message may send a flit now: its channel has credit and no other message on it has begun. -/
def Link.ready (x : Link) (ext : Bool) (e : Egr) : Bool :=
  x.credit ext e.vc && (e.begun || !(x.ctlQ ++ x.feastQ ++ x.fairQ).any (fun o => o.vc == e.vc && o.begun))

/-- The weighted-fair choice (R383): the backlogged flow with the least start tag, weight-0 flows only where no other is backlogged. A message that has
begun goes on whatever its flow's weight, for its channel waits for it (R382). -/
def Link.fairPick (x : Link) (ext : Bool) : Option Egr :=
  let heads := x.fairQ.filter (·.start.isSome)
  let cand := if heads.any (fun e => x.weightOf e.flow != 0) then heads.filter (fun e => x.weightOf e.flow != 0 || e.begun) else heads
  cand.foldl (fun a e => if x.ready ext e then
    match a with
    | some b => if e.start.getD 0 < b.start.getD 0 ∨ (e.start = b.start ∧ e.flow < b.flow) then some e else a
    | none => some e
    else a) none

/-- Replace the first entry equal to `e`, or drop it. -/
def swapOut (l : List Egr) (e : Egr) (n : Option Egr) : List Egr :=
  match l with
  | [] => []
  | a :: r => if a = e then n.toList ++ r else a :: swapOut r e n

/-- The bytes of the next data flit of message `e` (R349). -/
def Link.flitOf (x : Link) (e : Egr) : List Byte :=
  let n := min 7 e.left
  dataFlitBytes x.secTx (x.sent % 65536) e.vc x.phaseTx n (tgetD x.ctrTx e.vc 0) (((msgBytes e.msg).drop (32 * (1 + e.msg.units - e.left))).take (32 * n))

/-- One data flit of message `e` leaves (R349, R355, R360): the link after it, and the flit's fill. The virtual time becomes the start tag of the
message chosen (R383). -/
def Link.sendFlit (x : Link) (e : Egr) (now : Nat) : Link × Nat :=
  let n := min 7 e.left
  let rest := if n = e.left then none else some { e with left := e.left - n }
  let y := { x with
    sent := x.sent + 1
    flits := x.flits ++ [{ seq := x.sent, vc := e.vc, fill := n, kph := x.phaseTx, ctr := tgetD x.ctrTx e.vc 0, fin := if n = e.left then some e.msg else none, bytes := x.flitOf e }]
    used := tset x.used e.vc (tgetD x.used e.vc 0 + 1)
    ctrTx := tset x.ctrTx e.vc (tgetD x.ctrTx e.vc 0 + 1), lastAck := if x.flits = [] then now else x.lastAck
    spill := (x.flits.length + 1) - 256 * x.full
    ctlQ := swapOut x.ctlQ e rest, feastQ := swapOut x.feastQ e rest, fairQ := swapOut x.fairQ e rest
    vtime := if e.start.isSome && !e.begun then e.start.getD 0 else x.vtime }
  (if rest.isNone && e.start.isSome then y.tagHead e.flow e.vc else y, n)

/-- The message whose flit goes next. -/
def Link.nextMsg (x : Link) (ext : Bool) : Option Egr :=
  ((x.ctlQ.find? (x.ready ext)).orElse fun _ => x.feastQ.find? (x.ready ext)).orElse fun _ => x.fairPick ext

/-- Send flits of link `l` while one can go. -/
def State.pumpLinkGo (l : Nat) : Nat → State → State
  | 0, s => s
  | n + 1, s =>
    match s.link? l with
    | none => s
    | some x =>
      match x.nextMsg (s.extension l) with
      | none => s
      | some e =>
        let r := x.sendFlit e s.now
        let s1 := (s.modLink l fun _ => r.1).emit (.flit l e.vc x.sent r.2 x.phaseTx (tgetD x.ctrTx e.vc 0) (x.flitOf e))
        State.pumpLinkGo l n (if e.left ≤ 7 then s1.emit (.msg l e.msg) else s1)

/-- Send a control flit (R350, R354): ACK, a NAK where due, FREED, a request, and the first reply that is owed. -/
def State.sendCtl (s : State) (l : Nat) (nak : Bool) (req arg : Nat) : State :=
  match s.link? l with
  | none => s
  | some x =>
    if x.up then
      let id := match x.req with | some (k, _, n) => if k = req then n else x.reqId | none => x.reqId
      let f : CtlFlit :=
        { kph := x.phaseTx, ack := x.expSeq - 1, ackValid := true, nak := nak, freed := (List.range 8).map fun v => tgetD x.freed v 0 % 65536
          reqKind := req, reqArg := arg, reqId := if req = 0 then 0 else id, reply := x.owed.head?.elim 0 (·.1)
          replyId := x.owed.head?.elim 0 (·.2), tagOk := true }
      (s.modLink l fun y =>
        { y with ctlTx := y.ctlTx + 1, unrep := 0, unrepT := none, dup := false, freedRep := y.freed, owed := y.owed.tail }).emit
          (.ctl l f x.ctlTx (ctlFlitBytes x.secTx f x.ctlTx))
    else s

/-- Make a request to the far end: 1 retrain, 2 width, 3 rekey; one at a time (R364). -/
def State.requestLink (s : State) (l kind arg : Nat) : State :=
  match s.link? l with
  | none => s
  | some x =>
    if x.up && x.req.isNone then
      (s.modLink l fun y => { y with req := some (kind, arg, y.reqId), reqId := (y.reqId + 1) % 256 }).sendCtl l false kind arg
    else s

/-- A counter of the transmit direction has reached 2^40, so the direction rekeys (R312). -/
def State.rekeyDue (s : State) (l : Nat) : State :=
  if (s.link? l).any (fun x => x.ctrTx.any (fun e => decide (2 ^ 40 ≤ e.2))) then s.requestLink l 3 0 else s

/-- Send what link `l` can send. -/
def State.pumpLink (s : State) (l : Nat) : State :=
  match s.link? l with
  | some x => (State.pumpLinkGo l ((x.ctlQ ++ x.feastQ ++ x.fairQ).map (·.left)).sum s).rekeyDue l
  | none => s

/-- Queue a message on link `l` and send what can go; a link that is down drops it. `bulk`: its STRICT flag is not honoured (R373). -/
def State.egress (s : State) (l flow : Nat) (m : Msg) (dl bulk : Bool) : State :=
  match s.link? l with
  | none => s
  | some x =>
    if x.up then
      let e : Egr := { flow := flow, msg := m, vc := vcFor x.attach x.vcs (isCpl m.mtype) (m.flags.getLsbD 0 && !bulk) m.binding dl
                       bulk := bulk, left := 1 + m.units, start := none }
      (s.modLink l fun y => y.enqueue e).pumpLink l
    else s

/-! ## Routes (R369, R379 to R381) -/

/-- This node's part of a fabric address. -/
def State.here (s : State) : Nat := s.links.coord.1 + 256 * s.links.coord.2.1 + 65536 * s.links.coord.2.2

/-- This node's address, with a link number; 0xFF names the block. -/
def State.address (s : State) (l : Nat) : Nat := s.here + 2 ^ 24 * l

/-- A fabric address names this node. -/
def State.isHere (s : State) (a : Nat) : Bool := a % 2 ^ 24 == s.here

/-- The first dimension in which an address differs, its direction (1 +x to 6 -z) and whether the hop crosses the dateline. -/
def State.hop (s : State) (dst : Nat) : Option (Nat × Nat × Bool) :=
  let (x, y, z) := s.links.coord
  let d := [(x, bits dst 0 8, s.links.dimX), (y, bits dst 8 8, s.links.dimY), (z, bits dst 16 8, s.links.dimZ)]
  (d.zipIdx.find? (fun e => e.1.1 != e.1.2.1)).map fun e =>
    let (a, b, n) := e.1
    let n := max n 1
    let fwd := (b + n - a) % n
    let plus := decide (fwd ≤ n - fwd)
    (e.2, 2 * e.2 + (if plus then 1 else 2), if plus then a + 1 == n else a == 0)

/-- The links of the trunk in a direction that are up. -/
def State.trunk (s : State) (dir : Nat) : List Nat :=
  (s.links.tab.filter (fun e => !e.2.attach && e.2.dir == dir && e.2.up)).map (·.1)

/-- The next link of a message, the ROUTE byte it leaves with, and the DL that selects its channel; none where it is unroutable. -/
def State.route (s : State) (m : Msg) : Option (Nat × BitVec 8 × Bool) :=
  if s.isHere m.dst then
    let l := bits m.dst 24 8
    (s.link? l).bind fun x => if x.attach && x.up then some (l, m.route, false) else none
  else
    (s.hop m.dst).bind fun h =>
      let t := s.trunk h.2.1
      let dl := m.route.getLsbD 0 && decide (bits m.route.toNat 1 2 = h.1)
      let i := Config.hash (m.src + 2 ^ 32 * m.dst + 2 ^ 64 * b1 (isCpl m.mtype))
      (nth t i).map fun l => (l, BitVec.ofNat 8 (b1 (dl || h.2.2) + 2 * h.1), dl)

/-- Send a message that starts at this block or passes through it; false where it is unroutable. -/
def State.sendMsg (s : State) (flow : Nat) (m : Msg) (bulk : Bool := false) : State × Bool :=
  match s.route m with
  | some (l, r, dl) => (s.egress l flow { m with route := r } dl bulk, true)
  | none => (s, false)

/-! ## The messages that the block makes -/

/-- A message of this block, without data. -/
def State.newMsg (s : State) (ty : Nat) (dst binding tag : Nat) (addr : DWord) : Msg :=
  { mtype := ty, flags := 0, units := 0, tag := tag, binding := binding, src := s.address 0xFF, dst := dst, addr := addr, len := 0, route := 0
    data := [], sealCtr := 0, sealTag := [], bad := false }

/-- NOTIFY to the binding's SRC, for each binding of the context that asks for it (R375). -/
def State.notifyLinks (s : State) (l : Nat) (h : Handle) (prod : Word) : State :=
  (s.links.binds.filter (fun b => b.2.valid && b.2.notify && b.2.ctx == h)).foldl (fun a b =>
    (a.sendMsg l (a.newMsg 0x11 b.2.src.toNat b.1 0 (prod ++ h))).1) s

/-- The binding through which an endpoint of link `l` reaches context handle `h` (R387, R388): the lowest valid one. -/
def State.bindOn (s : State) (l : Nat) (h : Handle) : Option (Nat × Binding) :=
  s.links.binds.find? fun b => b.2.valid && b.2.ctx == h && b.2.src.toNat == s.address l

/-- An SPDM session with the endpoint at fabric address `a` (R314). -/
def State.sealSession (s : State) (a : Nat) : Bool := s.sen.sessions.any (fun k => k.at_ == .link a)

/-- The seal is that of context `c` and the endpoint at fabric address `a`. -/
def Seal.isFor (k : Seal) (c a : Nat) : Bool := k.ctx == c && k.node == a

/-- The seal key of context `c` and the endpoint at fabric address `a`, made where a session is open, randomness is to be had and an entry is free; the
endpoint gets its copy inside the session, and a new season makes a new key (R293, R314). -/
def State.ensureSeal (s : State) (c a : Nat) : Option State :=
  let season := (s.ctx? c).elim 0 (·.season)
  if s.sen.seals.any (fun k => k.isFor c a && k.season == season) then some s
  else
    match s.sen.sessions.find? (fun k => k.at_ == .link a) with
    | none => none
    | some k =>
      let rest := s.sen.seals.filter (fun y => !y.isFor c a)
      if s.sen.entropy || decide (16384 ≤ rest.length) then none
      else
        let new : Seal := { ctx := c, node := a, season := season, sess := k.id, key := sealKey k.secret ((s.ctx? c).elim 0 (·.nonce)) season
                            txSalt := Config.free s.free % 2 ^ 32, rxSalt := Config.free (s.free + 1) % 2 ^ 32, txCtr := 0, rxTop := 0, seen := [] }
        some ((((s.drew 2).asked 2).onSen fun x => { x with seals := rest ++ [new] }).emit (.sealKey a c season true))

/-- Why there is no seal key (R293, R314). -/
def State.sealLack (s : State) (a : Nat) : Status :=
  if !s.sealSession a then .integrity else if s.sen.entropy then .busy else .noSlot

/-- Seal a message of context `c` for the endpoint at fabric address `a` (R314, R377): under the next counter, which is then taken. -/
def State.takeSeal (s : State) (c a : Nat) (m : Msg) : Except Status (State × Msg) :=
  match s.ensureSeal c a with
  | none => .error (s.sealLack a)
  | some s1 =>
    match s1.sen.seals.find? (fun k => k.isFor c a) with
    | none => .error (s.sealLack a)
    | some k => .ok (s1.onSen fun x => { x with seals := x.seals.map fun y => if y.isFor c a then { y with txCtr := y.txCtr + 1 } else y }, k.close m)

/-- A queued message that this block made for context handle `h` (R67 step 3). -/
def State.ownFor (s : State) (h : Handle) (e : Egr) : Bool :=
  e.msg.src == s.address 0xFF && (tget s.links.binds e.msg.binding).any (·.ctx == h)

/-- A link's queued messages that meet `p` are absorbed; one already begun drains, and the heads that follow get their start tags (R67 step 3,
R339, R383). -/
def Link.absorb (x : Link) (p : Egr → Bool) : Link :=
  let keep (e : Egr) : Bool := e.begun || !p e
  ((x.fairQ.map fun e => (e.flow, e.vc)).dedup).foldl (fun a e => a.tagHead e.1 e.2)
    { x with ctlQ := x.ctlQ.filter keep, feastQ := x.feastQ.filter keep, fairQ := x.fairQ.filter keep }

/-- The link egress of context handle `h` is absorbed (R43 step 2, R67 step 3). -/
def State.absorbCtx (s : State) (h : Handle) : State := s.onLinks fun k => { k with tab := tmap k.tab (fun _ x => x.absorb (s.ownFor h)) }

/-- A queued message of this block that carries work packet `ref` on link `x`: its RDISP, or one of its result stores. -/
def State.carriesWork (s : State) (x : Link) (ref : DWord) (e : Egr) : Bool :=
  e.msg.src == s.address 0xFF &&
    ((e.msg.mtype == 0x18 && (tget x.slots e.msg.tag).any (·.1 == ref)) || (e.msg.mtype == 0x02 && (tget x.rstores e.msg.tag).any (·.1 == ref)))

/-- Work packet `ref` of context handle `h` no longer uses the links: what it has not sent is absorbed, its remote-dispatch slot is released, with
RDISP_ABORT where its RDISP has left, and its result stores are forgotten (R67 step 3, R389, R390). -/
def State.dropRemote (s : State) (ref : DWord) (flow : Nat) (h : Handle) : State :=
  s.links.tab.foldl (fun a e =>
    let mine := e.2.slots.filter (fun k => k.2.1 == ref && !e.2.ctlQ.any (fun o => !o.begun && o.msg.mtype == 0x18 && o.msg.tag == k.1))
    let a1 := a.modLink e.1 fun x =>
      { x.absorb (s.carriesWork x ref) with
        slots := x.slots.filter (fun k => k.2.1 != ref), rstores := x.rstores.filter (fun k => k.2.1 != ref) }
    mine.foldl (fun b k =>
      let bind := (b.bindOn e.1 h).elim 0 (·.1)
      (b.sendMsg flow (b.newMsg 0x1A (b.address e.1) bind k.1 0)).1) a1) s

end Sys2Proof.Machine
end

