-- ==== Sys2Proof/Machine/Pool.lean ====
section
/-!
DEFINITION. Pool memory (spec/07): capacity and binding (R220, R221), translation (R214, R215), sector access under keys (R299 to R303),
host access, frames' release, and requests to the pool driver (R208).
-/

namespace Sys2Proof.Machine

/-- Who makes a sector access: a cluster's engine, mover or CSQ, a link port (0 to 15) or host port (from 16 on) (R220, R224), or a hub unit. -/
inductive By where
  | cluster (c : Nat)
  | edge (n : Nat)
  | hub
  deriving DecidableEq, Repr

/-- The NI of an accessor: one for each cluster, link port and host port, one for the hub's other units (R217; log entry 18). -/
def By.ni : By → Nat
  | .cluster c => c
  | .edge n => 20 + n
  | .hub => 40

/-- The NI of a link port holds 16,384 translations (R217). -/
def By.tlbMax : By → Option Nat
  | .edge n => if n < 16 then some 16384 else none
  | _ => none

/-- A failed translation or dike check (R21, R212). -/
def accDike (cva : Nat) : AccErr := { cls := 2, st := .faulted, cva := cva, lpf := none, stack := none }

/-- A failed sector (R302), sector-aligned. -/
def accInteg (cva lpf : Nat) (k : Option Nat) : AccErr := { cls := 3, st := .integrity, cva := cva / 256 * 256, lpf := some lpf, stack := k }

/-! ## Capacity and stacks (R205, R221) -/

/-- Data frames of a stack (R205). -/
def stackFrames : Nat := 1523712

/-- Stacks in service and not retiring, ascending (R220, R233). -/
def State.svc (s : State) : List Nat := tkeys s.pool.stks (fun k => k.inSvc && !k.retiring)

/-- Usable frames, as POOL reports them (R72, R233). -/
def State.usable (s : State) : Nat := stackFrames * (tkeys s.pool.stks (·.inSvc)).length

/-- A stack's limit of bound frames (R221). -/
def stackLimit (e : Nat) : Nat := ceilDiv (stackFrames * (100 - e)) 100

/-- The placeable capacity at embankment `e` (R221). -/
def State.placeable (s : State) (e : Nat) : Nat := s.usable * (100 - e) / 100

/-- The stacks that hold a physical frame of this frame. -/
def FrSt.on : FrSt → List Nat
  | .bound k => [k]
  | .moving a b => [a, b]
  | _ => []

/-- The stack that a read of the frame goes to (R226). -/
def FrSt.home : FrSt → Option Nat
  | .bound k => some k
  | .moving a _ => some a
  | _ => none

/-- Physical frames in use on stack `k`. -/
def State.held (s : State) (k : Nat) : Nat := (s.pool.frames.filter (fun e => e.2.st.on.contains k)).length

/-- The frames backed, lost ones and table frames included (R219). -/
def State.backed (s : State) : Nat := s.pool.frames.length

/-- A list turned so that it starts at the first element that is not below `k`. -/
def rotateFrom (l : List Nat) (k : Nat) : List Nat := l.filter (k ≤ ·) ++ l.filter (· < k)

/-- The clusters of polder `p`, ascending. -/
def Polder.clusters (p : Polder) : List Nat := (List.range 20).filter (fun c => p.units.getLsbD (2 * c) || p.units.getLsbD (2 * c + 1))

/-- A usable stack of a writer's cluster (R220). -/
def State.writerStack (s : State) (who : By) : Option Nat :=
  match who with
  | .cluster c => if s.active c && s.svc.contains c then some c else none
  | _ => none

/-- The stack that a frame's own policy chooses (R220). -/
def State.ownPolicy (s : State) (lpf : Nat) (f : Frame) (who : By) : Option Nat :=
  let spread := nth s.svc lpf
  let auto := (s.writerStack who).orElse fun _ => spread
  if f.policy = 1 ∨ f.owner = none then spread
  else if f.policy = 2 then ((s.mo? f.obj).bind (·.home)).orElse fun _ => auto
  else auto

/-- The stack that a binding chooses: by the policy, or by its polder's clusters for a carve-out frame (R220, R238). -/
def State.policyStack (s : State) (lpf : Nat) (f : Frame) (who : By) : Option Nat :=
  match s.pool.carve.find? (fun e => e.2.1 ≤ lpf && decide (lpf < e.2.1 + e.2.2)) with
  | some e =>
    (match s.polder? e.1, who with
      | some p, .cluster c => if p.clusters.contains c then some c else nth p.clusters lpf
      | some p, _ => nth p.clusters lpf
      | none, _ => s.ownPolicy lpf f who)
  | none => s.ownPolicy lpf f who

/-- The stack with room from stack `k` on: from it upward below the limit, then any with a free data frame (R200, R221). -/
def State.roomFrom (s : State) (k : Nat) : Option Nat :=
  let l := rotateFrom s.svc k
  (l.find? (fun j => s.held j < stackLimit s.pool.embank)).orElse fun _ => l.find? (fun j => s.held j < stackFrames)

/-- The stack a first write binds to (R221). -/
def State.bindStack (s : State) (lpf : Nat) (f : Frame) (who : By) (pref : Option Nat) : Option Nat :=
  (pref.orElse fun _ => s.policyStack lpf f who).bind s.roomFrom

/-! ## Statistics (R224) -/

/-- A fresh statistics word. -/
def Stat.zero : Stat := { loc := 0, rem := 0, edge := 0, cand := 0, votes := 0, age := 0 }

/-- A sample of an access to a frame on stack `k`; VOTES, whose width is not stated, saturates at 255: DESIGN CHOICE (log entry 245). -/
def Stat.sample (x : Stat) (k : Nat) (who : By) : Stat :=
  match who with
  | .edge _ => { x with edge := min 255 (x.edge + 1) }
  | .hub => x
  | .cluster c =>
    if c = k then { x with loc := min 65535 (x.loc + 1) }
    else
      let y := { x with rem := min 65535 (x.rem + 1) }
      if y.cand = c then { y with votes := min 255 (y.votes + 1) }
      else if y.votes = 0 then { y with cand := c, votes := 1 }
      else { y with votes := y.votes - 1 }

/-- One sector access to `lpf` on stack `k`: one in 64, in arrival order, is sampled. -/
def State.sampleAccess (s : State) (lpf k : Nat) (who : By) : State :=
  match s.stack? k with
  | none => s
  | some x =>
    if x.smp = 63 then
      (s.modStack k fun y => { y with smp := 0 }).onPool fun p =>
        { p with stats := tset p.stats lpf ((tgetD p.stats lpf Stat.zero).sample k who) }
    else s.modStack k fun y => { y with smp := y.smp + 1 }

/-- A sector access to a frame: sampled where the frame lies on a stack, whether or not the sector verifies. -/
def State.sampleFrame (s : State) (lpf : Nat) (who : By) : State :=
  match (s.frame? lpf).bind (·.st.home) with
  | some k => s.sampleAccess lpf k who
  | none => s

/-- A sector access to a table frame; a frame that is none is not read (R212). -/
def State.sampleTable (s : State) (lpf : Nat) (who : By) : State :=
  if (s.frame? lpf).any (fun f => f.owner.isNone) then s.sampleFrame lpf who else s

/-! ## Host memory -/

/-- The host page of a write, in a dirty record (R281): a range's bit, or UNTRACKED. -/
def Dirty.markPage (d : Dirty) (page : Nat) : Dirty :=
  match d.ranges with
  | none => d
  | some rs =>
    (match (rs.zipIdx).find? (fun e => e.1.1 ≤ page * 4096 && decide (page * 4096 < e.1.1 + 4096 * e.1.2.1)) with
      | some e =>
        let b := (e.2, page - e.1.1 / 4096)
        if d.hostBits.contains b then d else { d with hostBits := b :: d.hostBits }
      | none => { d with untracked := true })

/-- Log the host pages of a write made under slice `l`'s PASID (R283). -/
def State.dirtyHost (s : State) (l addr len : Nat) : State :=
  s.modSlice l fun x => { x with dirty := x.dirty.map fun d =>
    ((List.range ((addr + len - 1) / 4096 - addr / 4096 + 1)).foldl (fun a i => a.markPage (addr / 4096 + i)) d) }

/-- Log a pool frame written through slice `l`'s contexts (R282, R283). -/
def State.dirtyFrame (s : State) (l lpf : Nat) : State :=
  s.modSlice l fun x => { x with dirty := x.dirty.map fun d =>
    if d.poolMap = 0 ∨ d.poolBits.contains lpf then d else { d with poolBits := lpf :: d.poolBits } }

/-- What a host access meets: its translation, an open page request, or failure. -/
inductive Miss where
  | hit | waits | fails
  deriving DecidableEq, Repr

/-- The port holds a translation for the address (R397). -/
def Port.holds (p : Port) (pasid a : Nat) : Bool := p.ats.any (fun e => e.1 == pasid && decide (e.2.1 ≤ a) && decide (a < e.2.1 + e.2.2))

/-- A translation comes to be held: free value `d` gives its size, 4 KiB to 1 GiB; 4,096 are held at most, the oldest going (R397; log entry 235). -/
def Port.hold (p : Port) (pasid a d : Nat) : Port :=
  let len := 4096 * 2 ^ (d % 19)
  { p with ats := ((pasid, a / len * len, len) :: p.ats).take 4096 }

/-- A host access under ATS may miss its translation (R398) where the port holds none: a free value says so. A miss opens a page request, which goes
out to the host with the bytes of a write waiting in it; where PRI is off, was refused by a Response Failure or has no request left, the access
fails at once. Without ATS the requests go untranslated (R397). -/
def State.hostMiss (s : State) (port pasid : Nat) (addr : Option Nat) (data : List Byte) (who : PriFor) : State × Miss :=
  let p := s.port port
  if !p.atsOn || addr.any (p.holds pasid) then (s, .hit)
  else
    let d := s.peek
    let s1 := s.drew 1
    if d % 2 = 0 then (match addr with | some a => s1.modPort port fun x => x.hold pasid a (d / 2) | none => s1, .hit)
    else if !p.priOn || p.priBad || decide (512 ≤ p.pri.length) then (s1, .fails)
    else ((s1.modPort port fun x =>
      { x with pri := { id := x.priId, pasid := pasid, addr := addr, data := data, who := who, since := s.now } :: x.pri, priId := x.priId + 1 }).emit
        (.pageReq port p.priId pasid), .waits)

/-- Bytes go to host memory for context `c` of slice `l` (R264, R283), in requests of at most 512 bytes (R393). -/
def State.hostPut (s : State) (c l port pasid addr : Nat) (data : List Byte) : State :=
  (((pieces 512 addr data.length).foldl (fun a e => a.emit (.host port pasid e.1 ((data.drop (e.1 - addr)).take e.2) (s.tee l))) s).dirtyHost l addr
    data.length).account c fun a => { a with host := a.host + BitVec.ofNat 64 data.length }

/-- The block writes to host memory for context `c` under its slice's binding (R272); a write that misses waits in its page request (R398). -/
def State.hostWrite (s : State) (c addr : Nat) (data : List Byte) (who : PriFor) : State × Miss :=
  let l := s.sliceOf c
  match s.slice? l with
  | none => (s, .hit)
  | some x =>
    match s.hostMiss x.port x.pasid (some addr) data who with
    | (s1, .hit) => (s1.hostPut c l x.port x.pasid addr data, .hit)
    | r => r

/-- Read requests for `n` bytes of host memory under slice `l`'s binding, of at most 4,096 bytes each (R318, R393). -/
def State.askHost (s : State) (l addr n : Nat) : State :=
  match s.slice? l with
  | some x => (pieces 4096 addr n).foldl (fun a e => a.emit (.read x.port x.pasid e.1 e.2 (s.tee l))) s
  | none => s

/-- Bytes the block reads from host memory for context `c`: free values (log entry 17). -/
def State.hostRead (s : State) (c addr n : Nat) : State × List Byte :=
  (((s.askHost (s.sliceOf c) addr n).drew n).account c fun a => { a with host := a.host + BitVec.ofNat 64 n }, s.freeBytes n)

/-! ## Translation (R212, R214, R215) -/

/-- A leaf of the page tables. -/
inductive Leaf where
  | pool (lpf : Nat) (w : Bool)
  | host (iova : Nat) (mask : Nat) (w : Bool)
  deriving DecidableEq, Repr

/-- The tag of a table frame's sector (R303): the table key set stands for the nonce, the frame's own address for the CVA. -/
def State.tableTag (s : State) (lpf sec : Nat) : Tag := { nonce := 2 ^ 128 + s.sen.bootNonce, season := 0, cva := lpf * 256 + sec }

/-- Entry `i` of table frame `lpf` (R214): it must be one that TABLE made, with its sector intact. -/
def State.tableEntry (s : State) (lpf i cva : Nat) : Except AccErr Nat :=
  match s.frame? lpf with
  | none => .error (accDike cva)
  | some f =>
    if f.owner ≠ none then .error (accDike cva)
    else
      match f.st with
      | .fresh => .ok 0
      | .lost => .error (accInteg cva lpf none)
      | st =>
        let sec := i / 32
        if s.pool.bad.contains (lpf * 256 + sec) ∨ tget s.pool.tags (lpf * 256 + sec) ≠ some (s.tableTag lpf sec) then
          .error (accInteg cva lpf st.home)
        else .ok (leNat (memRead s.pool.mem (65536 * lpf + 8 * i) 8))

/-- The next table that an entry names, where the entry is valid (R215). -/
def nextTable (e : Nat) : Option Nat :=
  if bits e 0 2 = 1 ∧ bits e 3 13 = 0 ∧ bits e 42 22 = 0 then some (bits e 16 26) else none

/-- The leaf that a level-3 entry is (R215). -/
def leafOf (e : Nat) : Option Leaf :=
  if bits e 0 2 = 2 ∧ bits e 3 13 = 0 ∧ bits e 42 22 = 0 then some (.pool (bits e 16 26) (bits e 2 1 = 1))
  else if bits e 0 2 = 3 ∧ bits e 60 4 = 0 then some (.host (bits e 19 41 * 65536) (bits e 3 16) (bits e 2 1 = 1))
  else none

/-- The walk of context `c`'s tables for virtual page `page` (R214). -/
def State.walk (s : State) (c page : Nat) : Except AccErr Nat :=
  let cva := page * 65536
  if 2 ^ 32 ≤ page then .error (accDike cva)
  else
  match tget s.pool.roots c with
  | some (root, true) =>
    (match s.tableEntry root (page / 2 ^ 26) cva with
      | .error e => .error e
      | .ok e1 =>
        (match nextTable e1 with
          | none => .error (accDike cva)
          | some t2 =>
            (match s.tableEntry t2 (page / 2 ^ 13 % 8192) cva with
              | .error e => .error e
              | .ok e2 =>
                (match nextTable e2 with
                  | none => .error (accDike cva)
                  | some t3 => s.tableEntry t3 (page % 8192) cva))))
  | _ => .error (accDike cva)

/-- The frames that the walk of a page names as tables, first to last. -/
def State.walkVia (s : State) (c page : Nat) : List Nat :=
  match tget s.pool.roots c with
  | some (root, true) =>
    let below (t i : Nat) : Option Nat := match s.tableEntry t i 0 with | .ok e => nextTable e | .error _ => none
    let t2 := below root (page / 2 ^ 26)
    root :: (t2.toList ++ (t2.bind fun t => below t (page / 2 ^ 13 % 8192)).toList)
  | _ => []

/-- The translations of the page that the NI holds (R217). -/
def State.cached (s : State) (ni c page : Nat) : List TlbEnt := s.pool.tlb.filter (fun e => e.ni == ni && e.ctx == c && e.page == page)

/-- The NI of `who` holds a new translation, the oldest going where it is full, and the second level of its frame (R217; log entry 18). -/
def State.cache (s : State) (who : By) (ent : TlbEnt) (l : Leaf) : State :=
  let lpf := match l with | .pool k _ => if ((s.frame? k).bind (·.st.home)).isSome then [(who.ni, k)] else [] | .host .. => []
  s.onPool fun p =>
    let mine := p.tlb.filter (fun e => e.ni == who.ni)
    let kept := match who.tlbMax with | some n => mine.take (n - 1) | none => mine
    { p with
      tlb := if p.tlb.contains ent then p.tlb else ent :: (kept ++ p.tlb.filter (fun e => e.ni != who.ni))
      pmap := lpf.filter (fun e => !p.pmap.contains e) ++ p.pmap }

/-- Translate a page: by a walk, whose sector reads count (R224), or by a translation that the NI holds, a free value choosing where there is one
(R217, log entry 18). -/
def State.translate (s : State) (who : By) (c page : Nat) : State × Except AccErr Leaf :=
  let held := s.cached who.ni c page
  let (s1, hit) := if held = [] then (s, none) else (s.drew 1, held[s.peek % (held.length + 1)]?)
  match hit with
  | some e => (s1, match leafOf e.leaf.toNat with | some l => .ok l | none => .error (accDike (page * 65536)))
  | none =>
    let s2 := (s1.walkVia c page).foldl (fun a t => a.sampleTable t who) s1
    (match s1.walk c page with
      | .error e => (s2, .error e)
      | .ok v =>
        (match leafOf v with
          | none => (s2, .error (accDike (page * 65536)))
          | some l => (s2.cache who { ni := who.ni, ctx := c, page := page, leaf := BitVec.ofNat 64 v } l, .ok l)))

/-! ## Sectors (R299 to R302, R210) -/

/-- A tag names a live season of the context at this address (R302). -/
def Ctx.tagOk (x : Ctx) (t : Tag) (cva : Nat) : Bool :=
  t.nonce == x.nonce && t.cva == cva / 256 && (t.season == x.season || (x.prevLive && t.season + 1 == x.season))

/-- The sector of a bound frame reads back and verifies. -/
def State.sectorOk (s : State) (x : Ctx) (lpf cva : Nat) : Bool :=
  let i := lpf * 256 + bits cva 8 8
  !s.pool.bad.contains i && (match tget s.pool.tags i with | some t => x.tagOk t cva | none => false)

/-- Count a sector read that failed R302 (R340, R418). -/
def State.integFail (s : State) (k : Nat) (i : Nat) : State :=
  if s.pool.bad.contains i then s
  else (s.onSen fun x => { x with integ := satInc x.integ }).raiseEdge (768 + 8 * k + 4)

/-- Bind a FRESH frame of context `c` at its first write: every sector becomes encrypted zeros under the writer's key (R210, R220). The SKC's own
writes of those zeros are not sampled: DESIGN CHOICE (log entry 246). -/
def State.bindFrame (s : State) (c : Nat) (x : Ctx) (lpf page : Nat) (f : Frame) (who : By) (pref : Option Nat) : Option (State × Nat) :=
  match s.bindStack lpf f who pref with
  | none => none
  | some k =>
    let tags := (List.range 256).foldl (fun t i =>
      tset t (lpf * 256 + i) { nonce := x.nonce, season := x.season, cva := page * 256 + i : Tag }) s.pool.tags
    some (((s.onPool fun p => { p with tags := tags }).modFrame lpf fun g => { g with st := .bound k }).account c fun a =>
      { a with poolWrite := a.poolWrite + 255 * 256 }, k)

/-- Read `n` bytes of one sector through a leaf. -/
def State.readPiece (s : State) (c : Nat) (who : By) (l : Leaf) (cva n : Nat) : State × Except AccErr (List Byte) :=
  match l with
  | .host iova mask _ =>
    if mask.testBit (bits cva 12 4) then (match s.hostRead c (iova + cva % 65536) n with | (s1, b) => (s1, .ok b)) else (s, .error (accDike cva))
  | .pool lpf _ =>
    match s.frame? lpf, s.ctx? c with
    | some f, some x =>
      if f.owner ≠ some c then (s, .error (accDike cva))
      else
        (match f.st with
          | .fresh => (s, .ok (List.replicate n 0))
          | .lost => (s, .error (accInteg cva lpf none))
          | st =>
            let k := st.home.getD 0
            if s.sectorOk x lpf cva then
              (((s.sampleAccess lpf k who).account c fun a => { a with poolRead := a.poolRead + 256 }),
                .ok (memRead s.pool.mem (65536 * lpf + cva % 65536) n))
            else ((s.sampleAccess lpf k who).integFail k (lpf * 256 + bits cva 8 8), .error (accInteg cva lpf (some k))))
    | _, _ => (s, .error (accDike cva))

/-- Write bytes of one sector through a leaf (R302: a partial write verifies the old sector first). -/
def State.writePiece (s : State) (c : Nat) (who : By) (pref : Option Nat) (l : Leaf) (cva : Nat) (d : List Byte) : State × Except AccErr Unit :=
  match l with
  | .host iova mask w =>
    if w && mask.testBit (bits cva 12 4) then
      (match s.hostWrite c (iova + cva % 65536) d (.write c) with
        | (s1, .fails) => (s1, .error { accDike cva with cls := 4 })
        | (s1, _) => (s1, .ok ()))
    else (s, .error (accDike cva))
  | .pool lpf w =>
    match s.frame? lpf, s.ctx? c with
    | some f, some x =>
      if !w || f.owner != some c then (s, .error (accDike cva))
      else
        let i := lpf * 256 + bits cva 8 8
        let put (s1 : State) (k : Nat) : State :=
          (((s1.onPool fun p =>
            { p with mem := memPut p.mem (65536 * lpf + cva % 65536) d
                     tags := tset p.tags i { nonce := x.nonce, season := x.season, cva := cva / 256 }
                     bad := if d.length = 256 then p.bad.filter (· != i) else p.bad }).sampleAccess lpf k who).dirtyFrame x.slice lpf).account c
              fun a => { a with poolWrite := a.poolWrite + 256 }
        (match f.st with
          | .lost => (s, .error (accInteg cva lpf none))
          | .fresh =>
            (match s.bindFrame c x lpf (cva / 65536) f who pref with
              | some (s1, k) => (put s1 k, .ok ())
              | none => (s.modFrame lpf fun g => { g with st := .lost }, .error { accInteg cva lpf none with lost := true }))
          | st =>
            let k := st.home.getD 0
            if d.length = 256 ∨ s.sectorOk x lpf cva = true then (put s k, .ok ())
            else ((s.sampleAccess lpf k who).integFail k i, .error (accInteg cva lpf (some k))))
    | _, _ => (s, .error (accDike cva))

/-- Read bytes of a context's virtual space, sector by sector. -/
def State.readGo (c : Nat) (who : By) : Nat → State → Nat → Nat → State × Except AccErr (List Byte)
  | 0, s, _, _ => (s, .ok [])
  | n + 1, s, cva, len =>
    if len = 0 then (s, .ok [])
    else
      let k := min len (256 - cva % 256)
      match s.translate who c (cva / 65536) with
      | (s1, .error e) => (s1, .error { e with cva := if e.cls = 3 then e.cva else cva })
      | (s1, .ok l) =>
        (match s1.readPiece c who l cva k with
          | (s2, .error e) => (s2, .error e)
          | (s2, .ok b) =>
            (match State.readGo c who n s2 (cva + k) (len - k) with
              | (s3, .error e) => (s3, .error e)
              | (s3, .ok r) => (s3, .ok (b ++ r))))

/-- Write bytes of a context's virtual space, sector by sector; a failure leaves the sectors before it written. -/
def State.writeGo (c : Nat) (who : By) (pref : Option Nat) : Nat → State → Nat → List Byte → State × Except AccErr Unit
  | 0, s, _, _ => (s, .ok ())
  | n + 1, s, cva, d =>
    if d = [] then (s, .ok ())
    else
      let b := d.take (256 - cva % 256)
      match s.translate who c (cva / 65536) with
      | (s1, .error e) => (s1, .error { e with cva := if e.cls = 3 then e.cva else cva })
      | (s1, .ok l) =>
        (match s1.writePiece c who pref l cva b with
          | (s2, .error e) => (s2, .error e)
          | (s2, .ok ()) => State.writeGo c who pref n s2 (cva + b.length) (d.drop b.length))

/-- Read `len` bytes at `cva` for context `c`. -/
def State.readCtx (s : State) (c : Nat) (who : By) (cva len : Nat) : State × Except AccErr (List Byte) :=
  State.readGo c who (len / 256 + 2) s cva len

/-- Write bytes at `cva` for context `c`. -/
def State.writeCtx (s : State) (c : Nat) (who : By) (pref : Option Nat) (cva : Nat) (d : List Byte) : State × Except AccErr Unit :=
  State.writeGo c who pref (d.length / 256 + 2) s cva d

/-- The objects of a context that cover an address range. -/
def State.mosAt (s : State) (c cva len : Nat) : List Mo :=
  (s.objs.mos.filter (fun e => e.2.ctx == c && decide (e.2.base < cva + len) && decide (cva < e.2.base + e.2.len))).map (·.2)

/-- A write from outside the KV opcodes may land: no sealed object, no formatted KV_CACHE object, no save area between first save and end of
restore (R53, R179, R188). -/
def State.writable (s : State) (c cva len : Nat) : Bool := (s.mosAt c cva len).all (fun m => !m.isSealed && !m.formatted && !m.saving)

/-! ## Requests to the pool driver (R208, R435) -/

/-- Send the words that wait for room in mailbox 0, while the pool driver is attached. -/
def State.pumpGo : Nat → State → State
  | 0, s => s
  | n + 1, s =>
    match s.pool.pdQ with
    | [] => s
    | w :: r =>
      if s.mbx.attached && decide ((s.mbox 0).msgs.length < 8) then
        State.pumpGo n ((s.onPool fun p => { p with pdQ := r }).mbxPush 0 w)
      else s

/-- `pumpGo` with enough fuel: mailbox 0 holds 8 messages. -/
def State.pump (s : State) : State := State.pumpGo 8 s

/-- A message word (R207). -/
def reqWord (r : Req) : DWord := BitVec.ofNat 64 (r.kind + 65536 * r.req)

/-- Write a request's record into its slot, and send its message where the driver is attached. -/
def State.placeReq (s : State) (r : Req) : State :=
  (s.onPool fun p => { p with slots := tset p.slots (r.req % 256) r, recs := tset p.recs (r.req % 256) r, pdQ := if s.mbx.attached then p.pdQ ++ [reqWord r] else p.pdQ }).pump

/-- Send the held messages in order, up to the first whose slot is occupied. -/
def State.flushReqs : List Req → State → State
  | [], s => s.onPool fun p => { p with heldReq := [] }
  | r :: l, s =>
    if thas s.pool.slots (r.req % 256) then s.onPool fun p => { p with heldReq := r :: l }
    else State.flushReqs l (s.placeReq r)

/-- A message to the pool driver, with the next request number. -/
def State.sendPd (s : State) (kind : Nat) (ctx obj : Handle) (base frames : Nat) : State :=
  let r : Req := { req := s.pool.reqNext, kind := kind, ctx := ctx, obj := obj, base := base, frames := frames }
  let s1 := s.onPool fun p => { p with reqNext := p.reqNext + 1 }
  if s.pool.heldReq ≠ [] ∨ thas s.pool.slots (r.req % 256) = true then s1.onPool fun p => { p with heldReq := p.heldReq ++ [r] }
  else s1.placeReq r

/-- Free the slot of request `r`, if it holds it; PLE_REQ, and the held messages go (R208, R418). -/
def State.freeReq (s : State) (r : Nat) : State :=
  match tget s.pool.slots (r % 256) with
  | some x =>
    if x.req = r then
      let s1 := (s.onPool fun p => { p with slots := tdel p.slots (r % 256) }).raiseEdge 46
      State.flushReqs s1.pool.heldReq s1
    else s
  | none => s

/-! ## Releasing frames (R211) -/

/-- Un-back frames: map, contents, tags, statistics, cached translations and moves go. -/
def State.unback (s : State) (fs : List Nat) : State :=
  s.onPool fun p =>
    { p with
      frames := p.frames.filter (fun e => !fs.contains e.1)
      stats := p.stats.filter (fun e => !fs.contains e.1)
      mem := p.mem.filter (fun e => !fs.contains (e.1 / 65536))
      tags := p.tags.filter (fun e => !fs.contains (e.1 / 256))
      bad := p.bad.filter (fun i => !fs.contains (i / 256))
      moves := p.moves.filter (fun m => !fs.contains m.lpf)
      moveQ := p.moveQ.filter (fun m => !fs.contains m.lpf)
      waitQ := p.waitQ.filter (fun m => !fs.contains m.1)
      tlb := p.tlb.filter (fun e => match leafOf e.leaf.toNat with | some (.pool l _) => !fs.contains l | _ => true)
      pmap := p.pmap.filter (fun e => !fs.contains e.2) }

/-- The frames of an object. -/
def State.moFrames (s : State) (c m : Nat) : List Nat := tkeys s.pool.frames (fun f => f.owner == some c && f.obj == m)

/-- The first LPF of the carve-out range (R204). -/
def carveBase : Nat := 2 ^ 25

/-- CAPACITY_CHANGED, with the new placeable capacity (R208, R221). -/
def State.capacityChanged (s : State) : State := s.sendPd 3 0 0 0 (s.placeable s.pool.embank)

/-- Pool-frame use of slice `l`: its contexts' backed frames (R277). -/
def State.frameUse (s : State) (l : Nat) : Nat :=
  (s.pool.frames.filter (fun e => match e.2.owner with | some c => s.sliceOf c == l | none => false)).length

end Sys2Proof.Machine
end

