-- ==== Sys2Proof/Machine/Contexts.lean ====
section
/-!
DEFINITION. What happens to contexts, queues and fences: handle checks (R39), rings, replies and events (R63 to R66, R78, R79), fence
signals and faults (R57 to R62), the end of a work packet (R54, R75), context faults (R43, R495, R496) and teardown (R67).
-/

namespace Sys2Proof.Machine

/-! ## Handle checks (R39) -/

/-- Checks 1 to 3 for a context handle. -/
def State.findCtx (s : State) (h : Handle) : Option (Nat × Ctx) :=
  match s.ctx? (hSlot h) with
  | some x => if hType h = 1 ∧ hGen h = x.gen ∧ x.state ≠ .destroying then some (hSlot h, x) else none
  | none => none

/-- A context of slice `l` (R77). -/
def State.findCtxIn (s : State) (l : Nat) (h : Handle) : Option (Nat × Ctx) := (s.findCtx h).filter (fun e => e.2.slice == l)

/-- Checks 1 to 3 for a queue handle. -/
def State.findQueue (s : State) (h : Handle) : Option (Nat × Queue) :=
  match s.queue? (hSlot h) with
  | some x => if hType h = 2 ∧ hGen h = x.gen ∧ x.state ≠ .destroying then some (hSlot h, x) else none
  | none => none

/-- A memory object of context `c` by its handle. -/
def State.findMo (s : State) (c : Nat) (h : Handle) : Option (Nat × Mo) :=
  match s.mo? (hSlot h) with
  | some x => if hType h = 3 ∧ hGen h = x.gen ∧ x.freed = false ∧ x.ctx = c then some (hSlot h, x) else none
  | none => none

/-- A fence by its handle, checks 1 to 3. -/
def State.findFenceAny (s : State) (h : Handle) : Option (Nat × Fence) :=
  match s.fence? (hSlot h) with
  | some x => if hType h = 4 ∧ hGen h = x.gen ∧ x.freed = false then some (hSlot h, x) else none
  | none => none

/-- A fence of context `c`. -/
def State.findFence (s : State) (c : Nat) (h : Handle) : Option (Nat × Fence) := (s.findFenceAny h).filter (fun e => e.2.ctx == c)

/-- A fence that context `c` may wait on: its own, or one of another live context of its slice (R39 check 4). -/
def State.findFenceWait (s : State) (c : Nat) (h : Handle) : Option (Nat × Fence) :=
  (s.findFenceAny h).filter fun e => e.2.ctx == c ||
    (match s.ctx? e.2.ctx with | some x => x.slice == s.sliceOf c && x.state != .destroying | none => false)

/-- A program of context `c`. -/
def State.findProg (s : State) (c : Nat) (h : Handle) : Option (Nat × Program) :=
  match s.prog? (hSlot h) with
  | some x => if hType h = 6 ∧ hGen h = x.gen ∧ x.freed = false ∧ x.ctx = c then some (hSlot h, x) else none
  | none => none

/-- A slice by its handle; one that is being destroyed fails (R68). -/
def State.findSlice (s : State) (h : Handle) : Option (Nat × Slice) :=
  match s.slice? (hSlot h) with
  | some x => if hType h = 5 ∧ hGen h = x.gen ∧ x.state ≠ .destroying then some (hSlot h, x) else none
  | none => none

/-! ## Rings, events and replies -/

/-- The block makes DMA for slice `l`: not while QUIESCED (R286), and for a confidential slice only in RUN (R316). -/
def State.dmaOk (s : State) (l : Nat) : Bool :=
  match s.slice? l with
  | some x => x.state != .quiesced && (!x.conf || (s.tdi l).state == 3)
  | none => true

/-- The slice is QUIESCED. -/
def State.quiet (s : State) (l : Nat) : Bool := (s.slice? l).any (fun x => x.state == .quiesced)

/-- What became of a ring record: written; waiting for its page request, to be written again after it (R398); or refused. -/
inductive RingEnd where
  | done | waits
  | fails (e : AccErr)

/-- A page request for a record of context `c` is open: its records wait behind it, in order. -/
def State.recordWaits (s : State) (c : Nat) : Bool := s.ports.any (fun p => p.2.pri.any (fun r => r.who == .record c))

/-- Write a record of a ring of context `c` (R88, R515). A ring whose object has come to refuse the block's writes, a formatted KV_CACHE object or a
sealed one, refuses the record (R53, R188; log entry 236). -/
def State.writeRing (s : State) (c : Nat) (r : Ring) (off : Nat) (d : List Byte) : State × RingEnd :=
  if r.obj = 0 then
    (match s.hostWrite c (r.addr + off) d (.record c) with
      | (s1, .hit) => (s1, .done)
      | (s1, .waits) => (s1, .waits)
      | (s1, .fails) => (s1, .fails { accDike 0 with cls := 4 }))
  else
    match s.mo? (hSlot r.obj) with
    | some m =>
      if !s.writable c (m.base + r.addr + off) d.length then (s, .fails (accDike (m.base + r.addr + off)))
      else
      (match s.writeCtx c .hub none (m.base + r.addr + off) d with
        | (s1, .ok ()) => (s1, .done)
        | (s1, .error e) => (s1, .fails e))
    | none => (s, .fails (accDike 0))

/-- The bytes of an event record (R63). -/
def evBytes (r : EvRec) (phase : Bool) : List Byte :=
  leBytes 1 r.typ ++ leBytes 1 (b1 (r.status ≠ .ok) + 2 * b1 r.coalesced + 128 * b1 phase) ++ leBytes 2 r.status.code ++
    leBytes 4 r.obj.toNat ++ leBytes 8 r.cookie.toNat ++ leBytes 8 r.value.toNat ++ leBytes 8 r.detail.toNat

/-- Post one record at PROD (R64), and raise the vector while the interrupt is armed, with NOTIFY on the links (R66, R375). -/
def State.postRaw (s : State) (c : Nat) (x : Ctx) (r : EvRec) : State × Bool :=
  let m := x.ring.log2
  let slot := x.prod.toNat % 2 ^ m
  let phase := x.prod.toNat.testBit m
  match s.writeRing c x.ring (32 * slot) (evBytes r phase) with
  | (s1, .fails e) => ({ s1 with ringBad := (c, e) :: s1.ringBad }, false)
  | (s1, .waits) => (s1, false)
  | (s1, .done) =>
    let s2 := (s1.emit (.event c slot phase r)).modCtx c fun y => { y with prod := y.prod + 1, armed := false }
    (if x.armed then (s2.raiseVec x.slice x.vector).notifyLinks x.slice (s.ctxHandle c) (x.prod + 1) else s2, true)

/-- Post the held records in order, while the ring has room and no page request of a record is open (R65, R398). -/
def State.drainGo (c : Nat) : Nat → State → State
  | 0, s => s
  | n + 1, s =>
    match s.ctx? c with
    | none => s
    | some x =>
      match x.held with
      | [] => s
      | r :: l =>
        if (x.prod - x.cons).toNat = 2 ^ x.ring.log2 ∨ s.dmaOk x.slice = false ∨ x.state = .destroying ∨ s.recordWaits c = true ∨
            s.ringBad.any (fun e => e.1 == c) = true then s
        else
          match s.postRaw c x r with
          | (s1, true) => State.drainGo c n (s1.modCtx c fun y => { y with held := l })
          | (s1, false) => s1

/-- Post what context `c` holds. -/
def State.drain (s : State) (c : Nat) : State :=
  match s.ctx? c with
  | some x => State.drainGo c x.held.length s
  | none => s

/-- An event for context `c`'s ring (R63, R65); a status event of a type already held coalesces. A destroyed context gets none (R67). -/
def State.postEvent (s : State) (c : Nat) (r : EvRec) : State :=
  match s.ctx? c with
  | none => s
  | some x =>
    if x.state = .destroying then s
    else if decide (4 ≤ r.typ) && decide (r.typ ≤ 6) && x.held.any (fun e => e.typ == r.typ) then
      s.modCtx c fun y => { y with held := y.held.map fun e => if e.typ == r.typ then { e with coalesced := true, detail := r.detail } else e }
    else (s.modCtx c fun y => { y with held := y.held ++ [r] }).drain c

/-- An event record. -/
def mkEv (typ : Nat) (st : Status) (obj : Handle) (cookie value detail : DWord) : EvRec :=
  { typ := typ, coalesced := false, status := st, obj := obj, cookie := cookie, value := value, detail := detail, note := false }

/-- The event of a notification: while it is held it stays in its notification record (R65). -/
def mkNote (typ : Nat) (st : Status) (obj : Handle) (cookie value detail : DWord) : EvRec := { mkEv typ st obj cookie value detail with note := true }

/-- The notification records in use: those armed, and those whose event is held (R34, R65; log entry 193). -/
def State.noteUse (s : State) : Nat := s.objs.notes.length + (s.objs.ctxs.map fun e => (e.2.held.filter (·.note)).length).sum

/-- The bytes of a reply (R78): RESULT is filled with zeros. -/
def replyBytes (tag : Word) (st : Status) (op flags : Nat) (phase : Bool) (res : List Nat) : List Byte :=
  leBytes 4 tag.toNat ++ leBytes 2 st.code ++ leBytes 1 op ++ leBytes 1 (flags + 128 * b1 phase) ++
    ((res.map (BitVec.ofNat 8)) ++ List.replicate 24 0).take 24

/-- Write the reply for the packet at count `n` of queue `q` (R79); while the block makes no writes for the slice, or a page request of the context's
records is open, it waits (R286, R316, R398). -/
def State.reply (s : State) (q : Nat) (n : Word) (tag : Word) (op : Nat) (st : Status) (flags : Nat) (res : List Nat) : State :=
  match s.queue? q with
  | none => s
  | some x =>
    let hold (a : State) : State :=
      a.modQueue q fun y => { y with heldRep := y.heldRep ++ [{ count := n, tag := tag, op := op, st := st, flags := flags, res := res }] }
    if s.dmaOk (s.sliceOf x.ctx) = false ∨ s.recordWaits x.ctx = true then hold s
    else
    let slot := n.toNat % 2 ^ x.ring.log2
    match s.writeRing x.ctx x.rring (32 * slot) (replyBytes tag st op flags (n.toNat.testBit x.ring.log2) res) with
    | (s1, .done) => s1.emit (.reply q n tag op st flags res)
    | (s1, .waits) => hold s1
    | (s1, .fails e) => { s1 with ringBad := (x.ctx, e) :: s1.ringBad }

/-- Write the replies of queue `q` that have waited. -/
def State.flushReps (s : State) (q : Nat) : State :=
  match s.queue? q with
  | none => s
  | some x => x.heldRep.foldl (fun a r => a.reply q r.count r.tag r.op r.st r.flags r.res) (s.modQueue q fun y => { y with heldRep := [] })

/-! ## Reference counts (R54, R55) -/

/-- Release a memory object whose count reached zero: its frames go back (R211), its slot is returned (R38). -/
def State.releaseMo (s : State) (m : Nat) (x : Mo) : State :=
  let h := s.moHandle m
  let fs := s.moFrames x.ctx m
  let dyn := fs.filter (· < carveBase)
  let s1 := (s.unback fs).onObjs fun o => { o with mos := tdel o.mos m, moMgr := o.moMgr.retire m x.ctx }
  if dyn = [] then s1 else s1.sendPd 2 (s.ctxHandle x.ctx) h x.base dyn.length

/-- Drop one reference of memory object `m`. -/
def State.decMo (s : State) (m : Nat) : State :=
  match s.mo? m with
  | none => s
  | some x => if x.refs ≤ 1 then s.releaseMo m x else s.modMo m fun y => { y with refs := y.refs - 1 }

/-- Take one reference of memory object `m`. -/
def State.incMo (s : State) (m : Nat) : State := s.modMo m fun y => { y with refs := y.refs + 1 }

/-- Drop one reference of fence `f`. -/
def State.decFence (s : State) (f : Nat) : State :=
  match s.fence? f with
  | none => s
  | some x =>
    if x.refs ≤ 1 then s.onObjs fun o => { o with fences := tdel o.fences f, fMgr := o.fMgr.retire f x.ctx }
    else s.modFence f fun y => { y with refs := y.refs - 1 }

/-- Take one reference of fence `f`. -/
def State.incFence (s : State) (f : Nat) : State := s.modFence f fun y => { y with refs := y.refs + 1 }

/-- Drop one reference of program `p`; at zero the image object loses the program's reference too (R149). -/
def State.decProg (s : State) (p : Nat) : State :=
  match s.prog? p with
  | none => s
  | some x =>
    if x.refs ≤ 1 then (s.onObjs fun o => { o with progs := tdel o.progs p, pMgr := o.pMgr.retire p x.ctx }).decMo x.obj
    else s.modProg p fun y => { y with refs := y.refs - 1 }

/-- Take one reference of program `p`. -/
def State.incProg (s : State) (p : Nat) : State := s.modProg p fun y => { y with refs := y.refs + 1 }

/-! ## Fences (R56 to R62) -/

/-- A fence's value. -/
def State.fenceValue (s : State) (f : Nat) : Nat := match s.fence? f with | some x => x.value.toNat | none => 0

/-- End queue `q`'s wait with a status: the reply carries the fence's value (R93). -/
def State.endWait (s : State) (q : Nat) (x : Queue) (w : Wait) (st : Status) (nxt : QState) (halt : Status) : State :=
  ((s.modQueue q fun y => { y with wait := none, state := if x.state = .destroying then .destroying else nxt, halt := halt }).reply
    q w.count w.tag 0x61 st 0 (leNats 8 (s.fenceValue w.fence))).decFence w.fence

/-- The slice's queue states and FENCE_WAITs stand still (R285 step 1, R286). -/
def State.frozenSlice (s : State) (l : Nat) : Bool := (s.slice? l).any (fun x => x.state == .quiescing || x.state == .quiesced)

/-- Queue `q` looks at the fence it waits on: a FAULTED one halts it, a target that is reached releases it (R59, R61). -/
def State.wake (s : State) (q : Nat) : State :=
  match (s.queue? q).bind fun x => x.wait.bind fun w => (s.fence? w.fence).map fun f => (x, w, f) with
  | none => s
  | some (x, w, f) =>
    if s.frozenSlice (s.sliceOf x.ctx) then s
    else if f.faulted then
      (s.endWait q x w .faulted .halted .faulted).postEvent x.ctx (mkEv 2 f.status (s.fenceHandle w.fence) 0 f.value f.disp)
    else if w.target ≤ f.value then s.endWait q x w .ok .running .ok
    else s

/-- The queues that wait on fence `f`. -/
def State.waitersOf (s : State) (f : Nat) : List Nat := tkeys s.objs.queues (fun q => q.wait.any (fun w => w.fence == f))

/-- Release the queues and notifications of fence `f` whose target is reached (R57, R59, R60). -/
def State.releaseWaiters (s : State) (f : Nat) : State :=
  match s.fence? f with
  | none => s
  | some x =>
    let v := x.value
    let s1 := (s.waitersOf f).foldl State.wake s
    let hit := s.objs.notes.filter (fun n => n.fence == f && decide (n.target ≤ v))
    let s2 := s1.onObjs fun o => { o with notes := o.notes.filter (fun n => !(n.fence == f && decide (n.target ≤ v))) }
    hit.foldl (fun a n => (a.postEvent n.ctx (mkNote 1 .ok (s.fenceHandle f) n.cookie v s.time)).decFence f) s2

/-- Put fence `f` into FAULTED and release every waiter (R61). -/
def State.faultFence (s : State) (f : Nat) (st : Status) (d : DWord) : State :=
  match s.fence? f with
  | none => s
  | some x =>
    if x.faulted then s
    else
      let h := s.fenceHandle f
      let s1 := s.modFence f fun y => { y with faulted := true, status := st, disp := d }
      let s2 := s1.objs.notes.foldl (fun a n =>
        if n.fence = f then (a.postEvent n.ctx (mkNote 2 st h n.cookie x.value d)).decFence f else a)
          (s1.onObjs fun o => { o with notes := o.notes.filter (fun n => n.fence != f) })
      (s.waitersOf f).foldl State.wake s2

/-- The highest value a signal may carry at value `c` (R57). -/
def signalMax (c : DWord) : Nat := min (c.toNat + 2 ^ 48) (2 ^ 64 - 1)

/-- A signal of value `v` to fence `f` (R57). -/
def State.signal (s : State) (f : Nat) (v : DWord) : State × Status :=
  match s.fence? f with
  | none => (s, .ok)
  | some x =>
    if x.faulted then (s, .faulted)
    else if v ≤ x.value then (s.modFence f fun y => { y with stale := y.stale + 1 }, .stale)
    else if v.toNat ≤ signalMax x.value then ((s.modFence f fun y => { y with value := v }).releaseWaiters f, .ok)
    else (s.faultFence f .badParam 0, .badParam)

/-! ## The end of a work packet -/

/-- A work packet that is not complete: its fence has neither signalled nor entered FAULTED, or its work goes on without a fence (R75). -/
def State.incomplete (s : State) (d : Disp) : Bool := match d.fence with | some f => !(s.fence? f).any (·.faulted) | none => true

/-- An earlier work packet of queue `q` is not complete (R84). -/
def State.earlierWork (s : State) (q order : Nat) : Bool :=
  s.sched.disps.any (fun d => d.queue == q && decide (d.order < order) && s.incomplete d)

/-- Apply the FENCE_SIGNALs of queue `q` whose earlier work has ended (R84). -/
def State.flushSignals (s : State) (q : Nat) : State :=
  match s.queue? q with
  | none => s
  | some x =>
    x.signals.foldl (fun a p =>
      if s.earlierWork q p.order then a
      else
        let a1 := a.modQueue q fun y => { y with signals := y.signals.filter (· != p) }
        match a1.signal p.fence p.value with
        | (a2, st) =>
          (a2.reply q p.count p.tag 0x60 st (2 * b1 (st = .badParam)) (leNats 8 (a2.fenceValue p.fence))).decFence p.fence) s

/-- Apply every FENCE_SIGNAL whose earlier work is complete: one signal may fault a fence that another's work waits for. -/
def State.flushGo : Nat → State → State
  | 0, s => s
  | n + 1, s =>
    match s.objs.queues.find? (fun e => e.2.signals.any (fun p => !s.earlierWork e.1 p.order)) with
    | some e => State.flushGo n (s.flushSignals e.1)
    | none => s

/-- `flushGo` with fuel for every waiting signal. -/
def State.flushAll (s : State) : State := State.flushGo (s.objs.queues.map (fun e => e.2.signals.length)).sum s

/-- The work is one that R267 counts as a job. -/
def Work.isJob : Work → Bool
  | .program .. | .append .. | .attend .. | .remote .. => true
  | _ => false

/-- The work runs on engines and holds state that pre-emption saves or keeps (R201, R202). -/
def Work.onEngines : Work → Bool
  | .program .. | .append .. | .attend .. => true
  | _ => false

/-- The work runs on a cluster's movers and CSQ and uses no engines (R90, R201). -/
def Work.onMovers : Work → Bool
  | .fill .. | .copy .. | .fork .. | .evict .. => true
  | _ => false

/-- The KV_CACHE object a KV operation works on. -/
def Work.kvObj : Work → Option Nat
  | .append a => some (hSlot a.obj)
  | .attend a _ => some (hSlot a.obj)
  | .fork o .. => some o
  | .evict o .. => some o
  | _ => none

/-- Engine-nanoseconds that a dispatch has held its engines since the last charge (R264). -/
def State.owed (s : State) (d : Disp) : Nat := d.engines.length * (s.now - d.lastChg) * 10

/-- Charge a dispatch's engine time to its context, and share work's to its slice and queue (R255, R264); the epoch leaves out saves (R268). -/
def State.charge (s : State) (d : Disp) : State :=
  let n := s.owed d
  let l := s.sliceOf d.ctx
  let s1 := (s.modDisp d.ref fun y => { y with lastChg := s.now }).modCtx d.ctx fun x =>
    { x with acct := { x.acct with engineNs := x.acct.engineNs + BitVec.ofNat 64 n }
             epochNs := if d.state = .running ∨ d.state = .stopping then x.epochNs + n else x.epochNs }
  if d.work.onEngines && (d.cls == 0 || d.asShare) then
    (s1.modSlice l fun x => { x with deficit := tset x.deficit d.polder (tgetD x.deficit d.polder 0 - n) }).modQueue d.queue fun q =>
      { q with deficit := tset q.deficit d.polder (tgetD q.deficit d.polder 0 - n) }
  else s1

/-- The engines of a dispatch keep what it left in their registers and accumulators. -/
def State.soil (s : State) (d : Disp) : State := s.onSched fun x => { x with dirty := d.engines.foldl (fun t e => tset t e d.ctx) x.dirty }

/-- The engines that meet `p`, which is given the engine and the context, are zeroed before they take other work (R339, R450, R459). -/
def State.zeroed (s : State) (p : Nat → Nat → Bool) : State := s.onSched fun x => { x with dirty := x.dirty.filter (fun e => !p e.1 e.2) }

/-- A work packet ends: it leaves the scheduler, its references go, its fence signals (`none`) or faults, the queue's waiting signals
follow (R54, R75, R82, R267). One whose fence another packet has put into FAULTED counts as complete at once for R75 (`State.incomplete`), but it
keeps its references until it ends here: DESIGN CHOICE (log entry 233). -/
def State.endDisp (s : State) (d : Disp) (how : Option Status) : State :=
  let l := s.sliceOf d.ctx
  let s0 := ((s.charge d).soil d).dropRemote d.ref l (s.ctxHandle d.ctx)
  let s1 := s0.onSched fun x =>
    { x with
      disps := x.disps.filter (fun e => e.ref != d.ref)
      polders := tmap x.polders (fun _ p =>
        { p with owner := if p.owner = some d.ref then none else p.owner
                 claimant := if p.claimant = some d.ref then none else p.claimant })
      jobs := if d.work.isJob && (how.isNone || d.started) then tset x.jobs l (tgetD x.jobs l 0 + 1) else x.jobs }
  let s2 := if how.isNone && d.work.isJob then s1.account d.ctx fun a => { a with dispatches := a.dispatches + 1 } else s1
  let s3 := s2.onObjs fun o => { o with mos := tmap o.mos (fun _ m => if m.saver = some d.ref then { m with saver := none, saving := false } else m) }
  let s4 := match d.fence, how with
    | some f, none => (s3.signal f d.fval).1
    | some f, some st => s3.faultFence f st d.ref
    | none, _ => s3
  let s5 := d.fRefs.foldl State.decFence (d.moRefs.foldl State.decMo s4)
  let s6 := match d.work with | .program p _ _ => s5.decProg p | _ => s5
  (s6.flushSignals d.queue).idleFrom (d.engines.map (· / 16) ++ d.mover.toList).dedup

/-! ## Context faults (R43, R495, R496) -/

/-- The fault register set after CTX_CREATE (R495). -/
def FaultRegs.zero : FaultRegs :=
  { status := .ok, cls := 0, cause := 0, count := 0, disp := 0, prog := 0, bundle := 0, engine := 0xFFFF, buffer := 0xFFFF, trap := 0,
    offset := 0, cva := 0, lpf := 0, time := 0, srcKind := 0, src := 0, valid := 0 }

/-- What a failed access leaves in the fault registers. -/
def AccErr.regs (e : AccErr) : FaultRegs :=
  if e.lost then { FaultRegs.zero with status := .integrity, cls := 3, lpf := e.lpf.getD 0, valid := 16 }
  else { FaultRegs.zero with
    status := e.st, cls := e.cls, cva := BitVec.ofNat 64 e.cva, lpf := e.lpf.getD 0, srcKind := if e.stack.isSome then 2 else 0
    src := e.stack.getD 0, valid := BitVec.ofNat 32 (8 * b1 (e.cls != 7) + 16 * b1 e.lpf.isSome) }

/-- Those of an access that came from a port (R495). -/
def AccErr.portRegs (e : AccErr) (kind port : Nat) : FaultRegs := if e.lost then e.regs else { e.regs with srcKind := kind, src := port }

/-- Halt queue `q` with a status, dropping a wait with ABORTED (R50, R93; log entry 22). -/
def State.haltQueue (s : State) (q : Nat) (st : Status) : State :=
  match s.queue? q with
  | none => s
  | some x =>
    if x.state = .destroying then s
    else
      match x.wait with
      | some w => s.endWait q x w .aborted .halted st
      | none => s.modQueue q fun y => { y with state := .halted, halt := st }

/-- The queues of context `c`. -/
def State.queuesOf (s : State) (c : Nat) : List Nat := tkeys s.objs.queues (fun q => q.ctx == c)

/-- Context `c` enters FAULTED (R43): registers, queues, work and fences; CONTEXT_FAULTED itself is posted once the aborts have ended
(R496). A later fault only counts; one after teardown began is discarded. `ref` is the work whose own fence takes the fault's status. -/
def State.enterFaultBy (s : State) (c : Nat) (f : FaultRegs) (ref : DWord) : State :=
  match s.ctx? c with
  | none => s
  | some x =>
    match x.state with
    | .destroying => s
    | .faulted => s.modCtx c fun y => { y with fault := { y.fault with count := satInc y.fault.count } }
    | .active =>
      let s1 := s.modCtx c fun y =>
        { y with state := .faulted, owesFault := true, fault := { f with count := 1, time := s.time }
                 sweep := if y.sweep = .none then .none else .stopped }
      let s2 := ((s.queuesOf c).foldl (fun a q => a.haltQueue q .faulted) s1).absorbCtx (s.ctxHandle c)
      let own := s.sched.disps.filter (fun d => d.ctx == c)
      own.foldl (fun a d => a.endDisp d (some (if d.ref = ref then f.status else .aborted))) s2

/-- A fault whose work is the dispatch of its registers. -/
def State.enterFault (s : State) (c : Nat) (f : FaultRegs) : State := s.enterFaultBy c f f.disp

/-- Settle the contexts whose pool-backed or host ring refused a record (R515, R398). -/
def State.settleGo : Nat → State → State
  | 0, s => s
  | n + 1, s =>
    match s.ringBad with
    | [] => s
    | (c, e) :: l => State.settleGo n (({ s with ringBad := l }).enterFault c e.regs)

/-- `settleGo` with fuel for every context slot. -/
def State.settle (s : State) : State := State.settleGo 8192 s

/-- Fault context `c`. -/
def State.faultCtx (s : State) (c : Nat) (f : FaultRegs) : State := (s.enterFault c f).settle

/-! ## Packets whose reply was put off (R84, R89) -/

/-- The dispatch reference of the packet at count `n` of queue `q` (R56). -/
def State.dref (s : State) (q : Nat) (n : Word) : DWord := n ++ s.queueHandle q

/-- The reply of a firmware packet that was answered later (R84, R89): the queue goes on. On success its status is that of the signal it gives
its fence (R57, R82). -/
def State.lateAnswer (s : State) (q : Nat) (n tag : Word) (op : Nat) (f : Option Nat) (fval : DWord) (st : Status) (res : List Nat) : State :=
  let s1 := match s.queue? q with
    | some x => if x.fwBusy = some n then s.modQueue q fun y => { y with fwBusy := none } else s
    | none => s
  match f with
  | none => s1.reply q n tag op st 0 res
  | some k =>
    if st = .ok then
      match s1.signal k fval with
      | (s2, r) => (s2.reply q n tag op r (2 * b1 (r = .badParam)) res).decFence k
    else
      let fresh := match s1.fence? k with | some x => !x.faulted | none => false
      ((s1.faultFence k st (s1.dref q n)).reply q n tag op st (2 * b1 fresh) res).decFence k

/-- Answer a packet that was put off (its queue as `order`). -/
def State.late (s : State) (p : PendSig) (op : Nat) (st : Status) (res : List Nat) : State :=
  s.lateAnswer p.order p.count p.tag op (if p.fence = 0 then none else some (p.fence - 1)) p.value st res

/-- A waiting MO_CREATE fails: every frame backed under its request goes, no object remains (R209). -/
def State.failBack (s : State) (b : Back) (st : Status) : State :=
  let s1 := s.onPool fun p => { p with backs := p.backs.filter (fun x => x.req != b.req) }
  let c := match s.mo? b.mo with | some m => m.ctx | none => 0
  let s2 := (s1.unback (s.moFrames c b.mo)).onObjs fun o => { o with mos := tdel o.mos b.mo, moMgr := o.moMgr.retire b.mo c }
  s2.lateAnswer b.queue b.count b.tag 0x08 b.fence b.fval st []

/-- QE_FW holds while a firmware packet waits (R418). -/
def State.lineCond (s : State) : State := if (s.src 43).cond = !s.objs.fwQ.isEmpty then s else s.setCond 43 (!s.objs.fwQ.isEmpty)

/-- A firmware packet leaves the line. -/
def State.offLine (s : State) (e : FwWait) : State := (s.onObjs fun o => { o with fwQ := o.fwQ.filter (· != e) }).lineCond

/-- A firmware packet that waits in the line is answered ABORTED, unserved: its queue or its context ends (R69, R79, R107). -/
def State.abortWait (s : State) (e : FwWait) : State :=
  let s1 := s.offLine e
  match (s.queue? e.queue).bind fun x => s.findFence x.ctx e.hdr.fence with
  | some k => (s1.incFence k.1).lateAnswer e.queue e.count e.hdr.tag e.code (some k.1) e.hdr.fval .aborted []
  | none => s1.lateAnswer e.queue e.count e.hdr.tag e.code none e.hdr.fval .aborted []

/-- A put-off packet of queue `q` has no queue any more. -/
def PendSig.orphan (p : PendSig) (q : Nat) : PendSig := if p.order = q then { p with order := slotCount 2, fence := 0 } else p

/-- Page requests whose work is gone are forgotten: their responses do nothing (R398). -/
def State.dropPri (s : State) (p : PriFor → Bool) : State :=
  { s with ports := s.ports.map fun e => (e.1, { e.2 with pri := e.2.pri.filter (fun r => !p r.who) }) }

/-- Queue `q` ends: its firmware packet that waits for its service or for its end is answered ABORTED, an MO_CREATE with it; the resets, quiesces
and retirements themselves go on (R79, R99; log entry 194). -/
def State.dropLate (s : State) (q : Nat) : State :=
  let s0 := (s.objs.fwQ.filter (fun e => e.queue == q)).foldl State.abortWait (s.dropPri (· == .fetch q))
  let s1 := (s0.pool.backs.filter (fun b => b.queue == q)).foldl (fun a b => a.failBack b .aborted) s0
  let s2 := s1.sched.resets.foldl (fun a e => if e.2.2.order = q then a.late e.2.2 0xE0 .aborted [] else a) s1
  let s3 := s2.slices.tab.foldl (fun a e => match e.2.qReply with | some p => if p.order = q then a.late p 0xAA .aborted [] else a | none => a) s2
  let s4 := s3.pool.stks.foldl (fun a e => match e.2.reply with | some p => if p.order = q then a.late p 0xE2 .aborted [] else a | none => a) s3
  ((s4.onSched fun x => { x with resets := tmap x.resets (fun _ e => (e.1, e.2.orphan q)) }).onSlices fun x =>
    { x with tab := tmap x.tab (fun _ l => { l with qReply := l.qReply.filter (·.order != q) }) }).onPool fun p =>
      { p with stks := tmap p.stks (fun _ k => { k with reply := k.reply.filter (·.order != q) }) }

/-! ## Teardown (R67, R339) -/

/-- The context that a link message's binding names. -/
def State.bindCtx (s : State) (b : Nat) : Option Nat :=
  match tget s.links.binds b with
  | some x => (s.findCtx x.ctx).map (·.1)
  | none => none

/-- The FENCE_SIGNALs of queue `q` that wait for earlier work are discarded: answered ABORTED, their fences unchanged (log entry 194). -/
def State.dropSignals (s : State) (q : Nat) (l : List PendSig) : State :=
  l.foldl (fun a p => (a.reply q p.count p.tag 0x60 .aborted 0 (leNats 8 (a.fenceValue p.fence))).decFence p.fence)
    (s.modQueue q fun y => { y with signals := [] })

/-- Step 1: DESTROYING, queues stopped, the open transaction rolled back. -/
def State.tearStart (s : State) (c : Nat) : State :=
  let s1 := (s.queuesOf c).foldl (fun a q =>
    let a1 := (match a.queue? q with
      | some x => ((match x.wait with | some w => a.endWait q x w .aborted .destroying .ok | none => a).dropSignals q x.signals).dropLate q
      | none => a)
    a1.modQueue q fun y => { y with state := .destroying, halt := .ok, signals := [], fwBusy := none }) s
  let opn := s.objs.txns.filter (fun e => e.2.ctx == c)
  (s1.modCtx c fun y => { y with state := .destroying, sweep := .none, held := [], owesFault := false }).onObjs fun o =>
    { o with txns := o.txns.filter (fun e => e.2.ctx != c), tMgr := opn.foldl (fun m e => m.retire e.1 c) o.tMgr }

/-- Seal keys are destroyed, and revoked inside their sessions (R314). -/
def State.dropSeals (s : State) (p : Seal → Bool) : State :=
  ((s.sen.seals.filter p).foldl (fun a k => a.emit (.sealKey k.node k.ctx k.season false)) s).onSen fun x =>
    { x with seals := x.seals.filter (fun k => !p k) }

/-- Steps 2 to 4: its link egress absorbed, its work aborted, its engines zeroed (R339), its keys gone; a message already begun drains. A fence that
teardown faults names no dispatch (R63). -/
def State.tearKeys (s : State) (c : Nat) : State :=
  let s1 := s.absorbCtx (s.ctxHandle c)
  let s2 := (s1.sched.disps.filter (fun d => d.ctx == c)).foldl (fun a d =>
    (d.fence.elim a fun f => a.faultFence f .aborted 0).endDisp d (some .aborted)) s1
  (((s2.zeroed fun _ x => x == c).destroyKeys (KeySet.isOf c)).raiseEdge 41).dropSeals (fun k => k.ctx == c)

/-- A packet put off loses its fence where that belongs to context `c`, which goes. -/
def State.unfence (s : State) (c : Nat) (p : PendSig) : PendSig :=
  if p.fence ≠ 0 ∧ (s.fence? (p.fence - 1)).any (fun f => f.ctx == c) = true then { p with fence := 0 } else p

/-- Step 5: fences faulted, references, objects, programs, queues and frames released. -/
def State.tearFree (s : State) (c : Nat) : State :=
  let fs := tkeys s.objs.fences (fun f => f.ctx == c && !f.faulted)
  let s1 := fs.foldl (fun a f => a.faultFence f .aborted 0) s
  let all := tkeys s1.pool.frames (fun f => f.owner == some c)
  let tbl := (s1.pool.frames.filter (fun e => e.2.owner == none && decide (carveBase ≤ e.1) && e.2.obj == c)).map (·.1)
  let dyn := all.filter (· < carveBase)
  let h := s1.ctxHandle c
  let s2 := s1.unback (all ++ tbl)
  let s3 := if dyn = [] then s2 else s2.sendPd 2 h 0 0 dyn.length
  let s3 := (s3.objs.notes.filter (fun n => n.ctx == c)).foldl (fun a n => a.decFence n.fence) s3
  let s4 := s3.onObjs fun o =>
    { o with
      fences := o.fences.filter (fun e => e.2.ctx != c), fMgr := (tkeys o.fences (fun f => f.ctx == c)).foldl (fun m k => m.retire k c) o.fMgr
      mos := o.mos.filter (fun e => e.2.ctx != c), moMgr := (tkeys o.mos (fun f => f.ctx == c)).foldl (fun m k => m.retire k c) o.moMgr
      progs := o.progs.filter (fun e => e.2.ctx != c), pMgr := (tkeys o.progs (fun f => f.ctx == c)).foldl (fun m k => m.retire k c) o.pMgr
      queues := o.queues.filter (fun e => e.2.ctx != c), qMgr := (tkeys o.queues (fun f => f.ctx == c)).foldl (fun m k => m.retire k c) o.qMgr
      notes := o.notes.filter (fun n => n.ctx != c) }
  let s5 := s4.onSched fun x => { x with adms := x.adms.filter (fun a => a.ctx != c), resets := tmap x.resets (fun _ e => (e.1, s.unfence c e.2)) }
  let s5 := s5.onSlices fun x => { x with tab := tmap x.tab (fun _ l => { l with qReply := l.qReply.map (s.unfence c) }) }
  let s5 := if s4.sched.adms.any (fun a => a.ctx == c) then s5.almanac else s5
  let s5 := s5.onLinks fun k => { k with binds := tmap k.binds (fun _ b => if b.ctx = h then { b with valid := false, ended := true } else b) }
  s5.onPool fun p =>
    { p with stks := tmap p.stks (fun _ k => { k with reply := k.reply.map (s.unfence c) }), backs := p.backs.filter (fun b => match s.mo? b.mo with | some m => m.ctx != c | none => true) }

/-- Step 6: the slot and its event ring are returned; its root, windows and parked slots go (R38, R218, R407). -/
def State.tearEnd (s : State) (c : Nat) : State :=
  match s.ctx? c with
  | none => s
  | some x =>
    let h := s.ctxHandle c
    let s1 := s.onObjs fun o =>
      { o with
        ctxs := tdel o.ctxs c, ctxMgr := o.ctxMgr.retire c x.slice, qMgr := o.qMgr.release c, moMgr := o.moMgr.release c
        fMgr := o.fMgr.release c, pMgr := o.pMgr.release c, tMgr := o.tMgr.release c }
    let s2 := (s1.dropPri fun w => w == .record c || w == .write c).onPool fun p =>
      { p with roots := tmod p.roots c (fun r => (r.1, false)), tlb := p.tlb.filter (fun e => e.ctx != c) }
    { s2 with ports := tmap s2.ports (fun _ p =>
        { p with wins := tmap p.wins (fun _ w => if w.ctx = h then { w with valid := false } else w) }) }

/-- The whole teardown of one context. -/
def State.teardown (s : State) (c : Nat) : State := ((((s.tearStart c).tearKeys c).tearFree c).tearEnd c).settle

end Sys2Proof.Machine
end

