-- ==== Sys2Proof/Machine/Frames.lean ====
section
/-!
DEFINITION. Frames as the placement engine hands them out: table frames and their writes (R303), frozen placement's carve-outs and the
tables that firmware writes (R238, R239), the queue of placement moves (R222, R225, R226), and the loss of a frame (R234).
-/

namespace Sys2Proof.Machine

/-- Bind a FRESH table frame by policy 1, its sectors encrypted zeros under the table key set (R219, R303). -/
def State.bindTable (s : State) (lpf : Nat) (f : Frame) : Option (State × Nat) :=
  match s.bindStack lpf f .hub none with
  | none => none
  | some k =>
    some ((s.onPool fun p =>
      { p with tags := (List.range 256).foldl (fun t i => tset t (lpf * 256 + i) (s.tableTag lpf i)) p.tags }).modFrame lpf fun g =>
        { g with st := .bound k }, k)

/-- A write into one sector of table frame `lpf` (R216, R303); false where the frame or the old sector is not readable. -/
def State.writeTable (s : State) (who : By) (lpf off : Nat) (d : List Byte) : State × Bool :=
  match s.frame? lpf with
  | none => (s, false)
  | some f =>
    let sec := off / 256
    let i := lpf * 256 + sec
    let put (s1 : State) : State := (s1.onPool fun p =>
      { p with mem := memPut p.mem (65536 * lpf + off) d, tags := tset p.tags i (s.tableTag lpf sec)
               bad := if d.length = 256 then p.bad.filter (· != i) else p.bad }).sampleFrame lpf who
    match f.st with
    | .lost => (s, false)
    | .fresh => (match s.bindTable lpf f with | some (s1, _) => (put s1, true) | none => (s.modFrame lpf fun g => { g with st := .lost }, false))
    | st =>
      if d.length = 256 ∨ (s.pool.bad.contains i = false ∧ tget s.pool.tags i = some (s.tableTag lpf sec)) then (put s, true)
      else ((s.sampleFrame lpf who).integFail (st.home.getD 0) i, false)

/-- The carve-out of polder `p`. -/
def State.carve? (s : State) (p : Nat) : Option (Nat × Nat × Nat) := s.pool.carve.find? (fun e => e.1 == p)

/-- The free frames of a carve-out, lowest first (R239). -/
def State.carveFree (s : State) (p : Nat) : List Nat :=
  match s.carve? p with
  | some (_, first, n) => ((List.range n).map (first + ·)).filter (fun k => !thas s.pool.frames k)
  | none => []

/-- A backed FRESH frame. -/
def Frame.new (owner : Option Nat) (obj policy req : Nat) : Frame := { st := .fresh, owner := owner, obj := obj, policy := policy, req := req }

/-- Put a frame into the map. -/
def State.putFrame (s : State) (k : Nat) (f : Frame) : State := s.onPool fun p => { p with frames := tset p.frames k f }

/-- Take a table frame for context `c` from polder `p`'s carve-out (R239). -/
def State.takeTable (s : State) (p c : Nat) : Option (State × Nat) :=
  match s.carveFree p with
  | k :: _ => some (s.putFrame k (Frame.new none c 1 0), k)
  | [] => none

/-- The table below entry `i` of table `t`, made where the entry is invalid. -/
def State.childTable (s : State) (p c t i : Nat) : Option (State × Nat) :=
  match s.tableEntry t i 0 with
  | .error _ => none
  | .ok e =>
    match nextTable e with
    | some k => some (s, k)
    | none =>
      if bits e 0 2 ≠ 0 then none
      else
        (s.takeTable p c).bind fun (r : State × Nat) =>
          match r.1.writeTable .hub t (8 * i) (leBytes 8 (1 + 65536 * r.2)) with
          | (s1, true) => some (s1, r.2)
          | (_, false) => none

/-- Map virtual page `page` of context `c` to `lpf`, writable, making tables as needed (R239). -/
def State.mapPage (s : State) (p c page lpf : Nat) : Option State :=
  let root := match tget s.pool.roots c with
    | some (k, true) => some (s, k)
    | _ => (s.takeTable p c).map fun (r : State × Nat) => (r.1.onPool fun q => { q with roots := tset q.roots c (r.2, true) }, r.2)
  root.bind fun r1 => (r1.1.childTable p c r1.2 (page / 2 ^ 26)).bind fun r2 => (r2.1.childTable p c r2.2 (page / 2 ^ 13 % 8192)).bind fun r3 =>
    match r3.1.writeTable .hub r3.2 (8 * (page % 8192)) (leBytes 8 (2 + 4 + 65536 * lpf)) with
    | (s1, true) => some s1
    | (_, false) => none

/-- Back object `m` of context `c` from polder `p`'s carve-out and map it (R239); none where the carve-out is too small. -/
def State.carveBack (s : State) (p c m base n : Nat) : Option State :=
  let l := (s.carveFree p).take n
  if l.length < n then none
  else
    (l.zipIdx).foldl (fun a e => a.bind fun b => b.mapPage p c (base / 65536 + e.2) e.1)
      (some (l.foldl (fun b k => b.putFrame k (Frame.new (some c) m 0 0)) s))

/-- The polder whose carve-out serves slice `l`: the lowest in which it holds days or shares, else the lowest (R239). -/
def State.carvePolder (s : State) (l : Nat) : Option Nat :=
  ((s.sched.polders.map (·.1)).find? (fun p => s.shareOf l p != 0 || s.sched.adms.any (fun a => a.polder == p && s.sliceOf a.ctx == l))).orElse
    fun _ => (s.sched.polders.map (·.1)).head?

/-- Entry to frozen placement (R237, R238): moves dropped, carve-outs computed from the free capacity. -/
def State.freeze (s : State) : State :=
  let a := s.placeable s.pool.embank - s.backed
  let cut := s.sched.polders.foldl (fun acc e =>
    let n := a * (e.2.eCount / 8) / 40
    (acc.1 + n, acc.2 ++ [(e.1, acc.1, n)])) (carveBase, ([] : List (Nat × Nat × Nat)))
  s.onPool fun p =>
    { p with
      frozen := true, carve := cut.2, moveQ := p.moveQ.filter (·.evac), waitQ := []
      frames := tmap p.frames (fun k f => match f.st with
        | .moving a _ => if p.moves.any (fun m => m.lpf == k && !m.evac) then { f with st := .bound a } else f
        | _ => f)
      moves := p.moves.filter (·.evac) }

/-- A frame of a KV_CACHE object, or of a save area that a started dispatch holds: not moved by statistics (R225). -/
def State.pinned (s : State) (f : Frame) : Bool :=
  match s.mo? f.obj with
  | some m => f.owner == some m.ctx && (m.ty == 1 || (m.ty == 4 && m.saver.isSome))
  | none => false

/-- Queue a placement move of frame `k` to stack `dst`, served by its REMOTE of this moment: DESIGN CHOICE (R225; log entry 244): not while a move of
it runs or it is evacuated (R228), nor while placement is frozen; a move that waits gives way to it. Where the destination's queue is full it waits
for a later epoch, if `keep` says so. A FRESH frame is not queued, it will bind by its policy. -/
def State.queueMove (s : State) (k dst : Nat) (keep : Bool) : State :=
  if s.pool.frozen ∨ s.pool.moves.any (fun m => m.lpf == k) = true ∨ s.pool.moveQ.any (fun m => m.lpf == k && m.evac) = true then s
  else
    match s.frame? k with
    | some f => (match f.st with
        | .bound a =>
          let s1 := s.onPool fun p => { p with moveQ := p.moveQ.filter (fun m => m.lpf != k), waitQ := p.waitQ.filter (fun m => m.1 != k) }
          if a = dst then s1
          else if 65536 ≤ (s1.pool.moveQ.filter (fun m => m.dst == dst)).length then
            (if keep then s1.onPool fun p => { p with waitQ := p.waitQ ++ [(k, dst)] } else s)
          else s1.onPool fun p => { p with moveQ := p.moveQ ++ [{ lpf := k, dst := dst, evac := false, prio := (tgetD p.stats k Stat.zero).rem }] }
        | _ => s)
    | none => s

/-- Abandon the moves that meet `p`, queued or running; their frames stay on the source (R228). -/
def State.abandon (s : State) (p : Move → Bool) : State :=
  s.onPool fun q =>
    { q with
      moveQ := q.moveQ.filter (fun m => !p m)
      frames := tmap q.frames (fun k f => match f.st with
        | .moving a _ => if q.moves.any (fun m => m.lpf == k && p m) then { f with st := .bound a } else f
        | _ => f)
      moves := q.moves.filter (fun m => !p m) }

/-- Frame `k` has another place, or none: no move of it is left and no NI holds its old one (R226). -/
def State.remapped (s : State) (k : Nat) : State :=
  s.onPool fun p =>
    { p with moves := p.moves.filter (fun m => m.lpf != k), moveQ := p.moveQ.filter (fun m => m.lpf != k)
             waitQ := p.waitQ.filter (fun m => m.1 != k), pmap := p.pmap.filter (fun e => e.2 != k) }

/-- Frame `k` is lost (R234): its context is faulted with INTEGRITY and a DETAIL of zero. -/
def State.loseFrame (s : State) (k : Nat) : State :=
  match s.frame? k with
  | none => s
  | some f =>
    let s1 := (s.modFrame k fun g => { g with st := .lost }).remapped k
    match f.owner with
    | some c => s1.faultCtx c { FaultRegs.zero with status := .integrity, cls := 3, lpf := k, valid := 16 }
    | none => s1

/-! ## Retirement (R232 to R236) -/

/-- The owners of the frames on stack `k`: table frames first, then contexts by the number of their frames there, ties to the lower slot. -/
def State.evacOwners (s : State) (k : Nat) : List (Option Nat) :=
  let fs := s.pool.frames.filter (fun e => e.2.st.on.contains k)
  let n (c : Nat) : Nat := (fs.filter (fun e => e.2.owner == some c)).length
  let cs := (fs.filterMap (·.2.owner)).dedup
  none :: (sortBy (fun a b => decide (n a < n b) || (n a == n b && decide (a < b))) cs).map some

/-- The frames that an evacuation of stack `k` copies, in R235's order, each owner's by LPF. -/
def State.evacOrder (s : State) (k : Nat) : List Nat :=
  (s.evacOwners k).flatMap fun o => (s.pool.frames.filter (fun e => e.2.owner == o && e.2.st == .bound k)).map (·.1)

/-- The stacks an evacuation may use: in service, neither retiring nor waiting to (R232). -/
def State.evacDests (s : State) : List Nat := tkeys s.pool.stks (fun x => x.inSvc && !x.retiring && !x.wait)

/-- The next destination of an evacuation: they rotate in ascending order over the stacks that have room, embankments included (R233). -/
def State.evacDst (s : State) : Option Nat := (rotateFrom s.evacDests s.pool.evPtr).find? (fun j => decide (s.held j < stackFrames))

/-- Where no room is left, the frames still to evacuate are lost (R234, R235). -/
def State.evacRoom (s : State) : State :=
  if s.evacDst.isSome then s else ((s.pool.moveQ.filter (·.evac)).map (·.lpf)).foldl State.loseFrame s

/-- Retirement begins (R233 steps 1 and 2): moves into the stack are abandoned, those out of it become evacuation, every other bound frame is
queued for evacuation; its place in the queue names the stack itself until it has a destination. -/
def State.beginRetire (s : State) (k : Nat) : State :=
  let s1 := (s.modStack k fun x => { x with retiring := true, wait := false, evac := 0 }).abandon (fun m => m.dst == k)
  let onK (l : Nat) : Bool := (s1.frame? l).any (fun f => f.st.home == some k)
  let s2 := s1.onPool fun p =>
    { p with evPtr := 0, moves := p.moves.map (fun m => if onK m.lpf then { m with evac := true } else m), moveQ := p.moveQ.filter (fun m => !onK m.lpf)
             waitQ := p.waitQ.filter (fun m => !onK m.1 && m.2 != k) }
  (s2.onPool fun p => { p with moveQ := p.moveQ ++ (s2.evacOrder k).map fun f => { lpf := f, dst := k, evac := true, prio := 0 } }).evacRoom

/-! ## The internal region (R206) -/

/-- The next stack in service after `k` in ascending order, another than `other`. -/
def nextSvc (svc : List Nat) (k other : Nat) : Nat := ((rotateFrom svc (k + 1)).find? (fun j => j != other && j != k)).getD k

/-- Stack `k` has left service: the map copies it held are rebuilt, and the replay extension it held moves, each to the next stack in service (R206,
R233 step 3; log entry 214). -/
def State.rebuild (s : State) (k : Nat) : State :=
  let svc := s.svc
  s.onPool fun p =>
    { p with
      mapCopy := tmap p.mapCopy fun _ e =>
        if e.1 = k then (nextSvc svc k e.2, e.2) else if e.2 = k then (e.1, nextSvc svc k e.1) else e
      replayAt := tmap p.replayAt fun _ j => if j = k then nextSvc svc k k else j }

/-- The internal regions as bring-up lays them out: the two copies of each residue's map entries, the replay extension of link TL(4k + i) on stack
SC(5k + i), both past the stacks that are not in service. -/
def State.layInternal (s : State) : State :=
  let s1 := s.onPool fun p =>
    { p with mapCopy := (List.range 20).map fun r => (r, (r, (r + 10) % 20)), replayAt := (List.range 16).map fun l => (l, 5 * (l / 4) + l % 4) }
  ((List.range 20).filter (fun k => !s.svc.contains k)).foldl State.rebuild s1

/-- A sluice lets moves and sweeps pass (R229). -/
def State.sluiceOpen (s : State) (k : Nat) : Bool := (s.stack? k).any (fun x => x.cap != 0)

/-- A stack is to retire: at once, or once the retirement that runs has ended (R232). -/
def State.retire (s : State) (k : Nat) : State :=
  match s.stack? k with
  | none => s
  | some x =>
    if !x.inSvc || x.retiring || x.wait then s
    else if s.pool.stks.any (fun e => e.2.retiring) then s.modStack k fun y => { y with wait := true }
    else s.beginRetire k

end Sys2Proof.Machine
end

