-- ==== Sys2Proof/Machine/Operands.lean ====
section
/-!
DEFINITION. The packet form that every opcode shares: when a queue may issue a packet (R47, R48, R84), the header checks (R516), and what
the outcome does to queue, fence and reply (R82).
-/

namespace Sys2Proof.Machine

/-- A field of a packet's stream (R74, R76), with its width in bytes. -/
inductive Field where
  | val (w v : Nat)
  | rsv (w : Nat)
  /-- an opcode's field that this form does not use: it holds anything -/
  | any (w : Nat)
  deriving DecidableEq, Repr

/-- The fields of a packet's stream in their order; what lies past the last one is reserved. -/
abbrev Layout := List Field

/-- What the opcode tables say of a packet (R81, R87 to R98): its opcode, its parameters from byte 24 of the stream on, whether NOTIFY and TXN
are allowed, whether FENCE must be null, whether it is a slice-0 opcode, whether it is a work packet, the continuation counts its entry
defines, and whether a reserved bit inside a field is set. -/
structure OpInfo where
  code   : Nat
  ps     : Layout := []
  notify : Bool := false
  stage  : Bool := false
  noFence : Bool := false
  admin  : Bool := false
  work   : Bool := false
  assigned : Bool := true
  contMax : Nat := 0
  contMin : Nat := 0
  oddBit : Bool := false

/-- How an opcode answered. -/
inductive Ans where
  /-- the reply is OK, with its RESULT bytes -/
  | ok (res : List Nat)
  | bad (st : Status) (res : List Nat)
  /-- staged into the transaction at this index (R102) -/
  | staged (i : Nat)
  /-- the reply comes with a later command -/
  | later

/-- The opcode families that the QE decodes itself (R81). -/
def isHw (op : Nat) : Bool := (0x40 ≤ op && op ≤ 0x4F) || (0x60 ≤ op && op ≤ 0x63)

/-- The slice's queues are fetched: ACTIVE (R276, R285), its interface in RUN where it is confidential (R316). -/
def State.fetches (s : State) (l : Nat) : Bool :=
  match s.slice? l with
  | some x => x.state == .active && s.dmaOk l
  | none => false

/-! ## Fetching (R46 to R48, R84, R86) -/

/-- The counts that a packet occupies (R48); one that the QE refuses for its CONT takes one (R76; log entry 195). -/
def needOf (h : Hdr) : Nat := if h.cont ≤ 15 then h.cont + 1 else 1

/-- Queue `q` holds a packet that the QE can fetch: RUNNING, no firmware packet of it in service, no page request for its ring (R50, R84,
R398). -/
def State.fetchable (s : State) (q : Nat) (x : Queue) : Bool :=
  x.state == .running && x.fwBusy.isNone && decide (0 < (x.tail - x.head).toNat) && s.fetches (s.sliceOf x.ctx) &&
    !(s.port ((s.slice? (s.sliceOf x.ctx)).elim 0 (·.port))).pri.any (fun p => p.who == .fetch q)

/-- An ORDERED packet of queue `q` may issue (R75). -/
def State.ordClear (s : State) (q : Nat) (x : Queue) : Bool := x.signals.isEmpty && !s.sched.disps.any (fun d => d.queue == q && s.incomplete d)

/-- TAIL covers `need` counts, and an ORDERED packet's earlier work is complete (R48, R75). -/
def State.covers (s : State) (q : Nat) (x : Queue) (need : Nat) (ordered : Bool) : Bool :=
  decide (need ≤ (x.tail - x.head).toNat) && (!ordered || s.ordClear q x)

/-- The QE can fetch from queue `q` and, as far as it has read the packet at HEAD, issue that packet. -/
def State.ready (s : State) (q : Nat) (x : Queue) : Bool :=
  s.fetchable q x && (match x.look with | some (n, o) => s.covers q x n o | none => true)

/-- The slots that lie between the start of a class's next round and slot `q` (R86). -/
def State.roundPos (s : State) (cls q : Nat) : Nat := (q + slotCount 2 - tgetD s.objs.rr cls 0 % slotCount 2) % slotCount 2

/-- It is queue `q`'s turn: class 1 goes ahead of classes 0 and 2, and within a class the slots take turns in ascending order (R86; log entry
196). -/
def State.turn (s : State) (q : Nat) (x : Queue) : Bool :=
  s.ready q x && !s.objs.queues.any (fun e =>
    ((e.2.cls == 1 && x.cls != 1) || (e.2.cls == x.cls && decide (s.roundPos x.cls e.1 < s.roundPos x.cls q))) && s.ready e.1 e.2)

/-- Queue `q` has had its turn. -/
def State.takeTurn (s : State) (q : Nat) (x : Queue) : State := s.onObjs fun o => { o with rr := tset o.rr x.cls ((q + 1) % slotCount 2) }

/-- Queue `q` can issue the packet that stands at HEAD (R47, R48, R50, R75, R84, R86). -/
def State.canIssue (s : State) (q : Nat) (x : Queue) (h : Hdr) : Bool := s.turn q x && s.covers q x (needOf h) (h.flags.getLsbD 1)

/-- A packet that cannot issue yet: the QE has read its counts and ORDERED, and goes on to other queues (R48). -/
def State.lookAt (s : State) (q : Nat) (x : Queue) (h : Hdr) : State :=
  if s.turn q x then (s.takeTurn q x).modQueue q fun y => { y with look := some (needOf h, h.flags.getLsbD 1) } else s

/-! ## The firmware's line (R83) -/

/-- The firmware packet that has waited longest, those aside that a quiesce holds (R83, R285 step 2). -/
def State.fwHead (s : State) : Option FwWait :=
  s.objs.fwQ.find? (fun e => !(s.queue? e.queue).any (fun x => s.frozenSlice (s.sliceOf x.ctx)))

/-- A firmware packet that is issued waits for its service, which raises QE_FW (R83, R84, R418, R428). -/
def State.fwWait (s : State) (e : FwWait) : State :=
  ((s.onObjs fun o => { o with fwQ := o.fwQ ++ [e] }).modQueue e.queue fun y => { y with fwBusy := some e.count }).lineCond

/-- The firmware takes a packet from its line. -/
def State.fwTake (s : State) (e : FwWait) : State := (s.offLine e).modQueue e.queue fun y => { y with fwBusy := none }

/-! ## Checks of the header (R516) -/

/-- The header checks of R516, steps 2 to 7; none where all pass. -/
def State.headerCheck (s : State) (i : OpInfo) (h : Hdr) (c : Nat) : Option Status :=
  if h.context ≠ s.ctxHandle c then some .badHandle
  else if !i.assigned then some .badParam
  else if h.cont < i.contMin ∨ i.contMax < h.cont ∨ h.rsvd = true ∨ i.oddBit = true ∨ h.flags.toNat / 8 ≠ 0 then some .badParam
  else if h.flags.getLsbD 0 && (!i.notify || h.fence == 0) then some .badParam
  else if h.flags.getLsbD 2 && (!i.stage || h.fence != 0) then some .badParam
  else if i.noFence && h.fence != 0 then some .badParam
  else if i.admin && s.sliceOf c != 0 then some .denied
  else if h.fence ≠ 0 ∧ s.findFence c h.fence = none then some .badHandle
  else none

/-- The slot of the packet's FENCE, where it names one of the queue's context. -/
def State.fenceOf (s : State) (h : Hdr) (c : Nat) : Option Nat := if h.fence = 0 then none else (s.findFence c h.fence).map (·.1)

/-- A packet fails with a status (R82): its fence enters FAULTED; on the hardware path the queue halts with one QUEUE_HALTED event. -/
def State.failPacket (s : State) (hw : Bool) (i : OpInfo) (h : Hdr) (n : Word) (f : Option Nat) (st : Status) (res : List Nat) : State :=
  let fresh := match f.bind s.fence? with | some x => !x.faulted | none => false
  let s1 := match f with | some k => s.faultFence k st (s.dref h.q n) | none => s
  let s2 := s1.reply h.q n h.tag i.code st (2 * b1 fresh) res
  if hw then
    let s3 := s2.haltQueue h.q st
    match s3.queue? h.q with
    | some x => s3.postEvent x.ctx (mkEv 7 st (s3.queueHandle h.q) 0 0 0)
    | none => s3
  else s2

/-- A packet succeeds: a firmware packet that is no work packet signals its fence on completion (R74; log entry 23), and its reply has that
signal's status (R57, R82). -/
def State.passPacket (s : State) (i : OpInfo) (h : Hdr) (n : Word) (f : Option Nat) (flags : Nat) (res : List Nat) : State :=
  match f with
  | some k =>
    if isHw i.code || i.work then s.reply h.q n h.tag i.code .ok flags res
    else
      match s.signal k h.fval with
      | (s1, st) => s1.reply h.q n h.tag i.code st (flags + 2 * b1 (st = .badParam)) res
  | none => s.reply h.q n h.tag i.code .ok flags res

/-! ## The packet in its ring (R74, R76) -/

/-- The header fields of a packet (R74). -/
def headFields (h : Hdr) (code : Nat) : Layout :=
  [.val 1 code, .val 1 h.flags.toNat, .val 1 h.cont, .rsv 1, .val 4 h.context.toNat, .val 4 h.fence.toNat, .val 4 h.tag.toNat, .val 8 h.fval.toNat]

/-- Bytes hold the fields of a layout. -/
def fieldsAre : Layout → List Byte → Bool
  | [], _ => true
  | .val w v :: l, b => leNat (b.take w) == v && fieldsAre l (b.drop w)
  | .rsv w :: l, b => fieldsAre l (b.drop w)
  | .any w :: l, b => fieldsAre l (b.drop w)

/-- Every reserved byte of a layout is zero. -/
def reservedZero : Layout → List Byte → Bool
  | [], b => b.all (· == 0)
  | .val w _ :: l, b => reservedZero l (b.drop w)
  | .rsv w :: l, b => (b.take w).all (· == 0) && reservedZero l (b.drop w)
  | .any w :: l, b => reservedZero l (b.drop w)

/-- The packet that stands in these bytes is the command's: its fields hold the command's values, and a reserved field is nonzero where the
command says so. Of an opcode that is unassigned or a CONT above 15 only the header has a layout. -/
def packetIs (i : OpInfo) (h : Hdr) (b : List Byte) : Bool :=
  if i.assigned && decide (h.cont ≤ 15) then
    fieldsAre (headFields h i.code ++ i.ps) b && reservedZero (headFields h i.code ++ i.ps) b == !h.rsvd
  else fieldsAre (headFields h i.code) b

/-- The bytes of `need` counts of a ring in memory object `m` (R46, R54). -/
def State.readRing (s : State) (x : Queue) (m : Mo) : Nat → Nat → State × Except AccErr (List Byte)
  | 0, _ => (s, .ok [])
  | n + 1, j =>
    match s.readCtx x.ctx .hub (m.base + x.ring.addr + 64 * ((x.head.toNat + j) % 2 ^ x.ring.log2)) 64 with
    | (s1, .error e) => (s1, .error e)
    | (s1, .ok b) =>
      match s1.readRing x m n (j + 1) with
      | (s2, .ok r) => (s2, .ok (b ++ r))
      | r => r

/-- The command is the packet at HEAD: a ring in a pool-backed object holds its bytes; what a ring in host memory holds, the command brings. -/
def State.stands (s : State) (i : OpInfo) (h : Hdr) (x : Queue) : Bool :=
  match (if x.ring.obj = 0 then none else s.mo? (hSlot x.ring.obj)) with
  | none => true
  | some m => match (s.readRing x m (needOf h) 0).2 with | .ok b => packetIs i h b | .error _ => true

/-- Fetch the packet's counts from the ring (R46, R515): HEAD advances; a pool ring that cannot be read faults the context. -/
def State.fetchRing (s : State) (q : Nat) (x : Queue) (need : Nat) : State × Bool :=
  let s1 := s.modQueue q fun y => { y with head := y.head + BitVec.ofNat 32 need, look := none }
  if x.ring.obj = 0 then
    ((s1.account x.ctx fun a => { a with host := a.host + BitVec.ofNat 64 (64 * need) }), true)
  else
    match s1.mo? (hSlot x.ring.obj) with
    | none => (s1, true)
    | some m =>
      match s1.readRing x m need 0 with
      | (s2, .ok _) => (s2, true)
      | (s2, .error e) => (s2.faultCtx x.ctx e.regs, false)

/-- The answer of an opcode, carried to queue, fence and reply. The packet holds a reference on its fence while it is served (R54); where
the reply comes later, the reference goes with that reply. -/
def State.answer (s : State) (i : OpInfo) (h : Hdr) (n : Word) (f : Option Nat) (a : Ans) : State :=
  let drop (s1 : State) : State := match f with | some k => s1.decFence k | none => s1
  match a with
  | .ok res => drop (s.passPacket i h n f 0 res)
  | .bad st res => drop (s.failPacket (isHw i.code) i h n f st res)
  | .staged k => drop (s.passPacket i h n f 1 (leNats 2 k))
  | .later => if isHw i.code then s else s.modQueue h.q fun y => { y with fwBusy := some n }

/-- Serve the packet at count `n` of a queue of context `c`, which has been fetched: the header checks, then the opcode. -/
def State.serve (s : State) (i : OpInfo) (h : Hdr) (c : Nat) (n : Word) (op : State → Nat → Word → State × Ans) : State :=
  let f := s.fenceOf h c
  if 15 < h.cont then s.failPacket true i h n f .badParam []
  else
    match s.headerCheck i h c with
    | some st => s.failPacket (isHw i.code) i h n f st []
    | none =>
      match op (match f with | some k => s.incFence k | none => s) c n with
      | (s1, a) => s1.answer i h n f a

/-- Nothing of slice `l` runs any more (R285 steps 2 to 5). -/
def State.stillBusy (s : State) (l : Nat) : Bool :=
  s.sched.disps.any (fun d => s.sliceOf d.ctx == l && (match d.work with
    | .fork .. | .evict .. => true
    | .remote _ => false
    | _ => d.state != .pending && d.state != .preempted)) ||
  s.ports.any (fun p => p.2.pri.any (fun r => match r.who with | .record c => s.sliceOf c == l | .write c => s.sliceOf c == l | _ => false)) ||
  s.pool.backs.any (fun b => match s.mo? b.mo with | some m => s.sliceOf m.ctx == l | none => false)

/-- End the quiesce of slice `l` with a status: its reply is written (R285 step 6, R289). -/
def State.endQuiesce (s : State) (l : Nat) (st : Status) (nxt : SliceState) : State :=
  match s.slice? l with
  | none => s
  | some x =>
    let s1 := match x.qReply with
      | some p => s.lateAnswer p.order p.count p.tag 0xAA (if p.fence = 0 then none else some (p.fence - 1)) p.value st []
      | none => s
    s1.modSlice l fun y => { y with state := nxt, qReply := none }

/-- The 64-bit words that the block has set bits in, with the bits (R281, R282); UNTRACKED is bit 40 of the descriptor's first word. -/
def Dirty.words (d : Dirty) : List (Nat × Nat) :=
  let host := d.hostBits.map fun e => match (d.ranges.getD []).drop e.1 with
    | r :: _ => (r.2.2 + 8 * (e.2 / 64), 2 ^ (e.2 % 64))
    | [] => (0, 0)
  let pool := d.poolBits.map fun f => (d.poolMap + 8 * (f / 64), 2 ^ (f % 64))
  let flags := if d.untracked then [(d.hostMap, 2 ^ 40)] else []
  (host ++ pool ++ flags).foldl (fun t e => tset t e.1 (tgetD t e.1 0 ||| e.2)) []

/-- Set bits of a 64-bit word of slice 0's host memory by read-modify-write (R272, R283): what it held is free. -/
def State.orHost (s : State) (port addr v : Nat) : State :=
  ((s.askHost 0 addr 8).drew 1).emit (.host port 0 addr (leBytes 8 (s.peek % 2 ^ 64 ||| v)) false)

/-- Every bit of the records in force reaches host memory (R284); the records stay in force. -/
def State.flushDirty (s : State) (l : Nat) : State :=
  match (s.slice? l).bind (·.dirty), s.slice? 0 with
  | some d, some z =>
    (d.words.foldl (fun a e => a.orHost z.port e.1 e.2) s).modSlice l fun x =>
      { x with dirty := some { d with hostBits := [], poolBits := [], untracked := false } }
  | _, _ => s

/-- Slices whose quiesce has just come to its end are QUIESCED, their dirty-log bits flushed (R285 steps 5 and 6). -/
def State.quiesceEnds (s : State) : State :=
  (tkeys s.slices.tab (fun x => x.state == .quiescing)).foldl (fun a l => if a.stillBusy l then a else (a.flushDirty l).endQuiesce l .ok .quiesced) s

/-- Retirement of stack `k` has ended (R233 steps 3 and 4). -/
def State.endRetire (s : State) (k : Nat) : State :=
  match s.stack? k with
  | none => s
  | some x =>
    let s1 := (s.modStack k fun y => { y with inSvc := false, retiring := false, reply := none }).rebuild k
    let s2 := (s1.almanac.capacityChanged).raiseEdge (768 + 8 * k + 2)
    match x.reply with
    | some p => s2.late p 0xE2 .ok (leNats 8 x.evac)
    | none => s2

/-- Retirements whose stack holds nothing any more end, and one that waits begins. -/
def State.retireGo : Nat → State → State
  | 0, s => s
  | n + 1, s =>
    match tkeys s.pool.stks (·.retiring) with
    | k :: _ => if s.held k = 0 then State.retireGo n (s.endRetire k) else s
    | [] =>
      match tkeys s.pool.stks (·.wait) with
      | k :: _ => State.retireGo n (s.beginRetire k)
      | [] => s

/-- `retireGo` with fuel for every stack. -/
def State.retireEnds (s : State) : State := State.retireGo 64 s

/-- Abort a dispatch: its engines stop, its fence is FAULTED with ABORTED, its references go; the context stays ACTIVE (R459). -/
def State.abortDisp (s : State) (d : Disp) : State := s.endDisp d (some .aborted)

/-- Abort the dispatches that meet `p`. -/
def State.abortWhere (s : State) (p : Disp → Bool) : State := (s.sched.disps.filter p).foldl State.abortDisp s

/-- A dispatch of polder `k` that still runs or is pre-empted. -/
def inPolder (k : Nat) (d : Disp) : Bool := d.polder == k && d.work.onEngines && d.started

/-- Polder resets whose dispatches are gone, or whose 1 ms has passed: the rest is aborted, the reply written (R457, R459). -/
def State.resetEnds (s : State) : State :=
  s.sched.resets.foldl (fun a e =>
    if a.sched.disps.any (inPolder e.1) && decide (a.now < e.2.1 + usTicks 1000) then a
    else
      let a1 := (((a.abortWhere (inPolder e.1)).zeroed fun k _ => ((a.polder? e.1).elim [] (fun p => unitEngines p.units)).contains k).onSched fun x => { x with resets := tdel x.resets e.1 }).dashed ((a.polder? e.1).elim [] Polder.clusters)
      a1.late e.2.2 0xE0 .ok []) s

/-- Parked slots of all types (R38). -/
def State.parkedAll (s : State) : Nat :=
  ([s.objs.ctxMgr, s.objs.qMgr, s.objs.moMgr, s.objs.fMgr, s.objs.pMgr, s.objs.tMgr, s.slices.mgr].map (·.parked.length)).sum

/-- OBJECT_LIMITS shows the parked slots of all types; a new count is an update of the almanac (R72, R73). -/
def State.showParked (s : State) : State :=
  if s.alm.parked = s.parkedAll then s else ({ s with alm := { s.alm with parked := s.parkedAll } } : State).almanac

/-- The end of a command: rings that refused a record, the resets, quiesces and retirements that came to their end, and the FENCE_SIGNALs whose
earlier work is complete; then the almanac shows the parked slots. -/
def State.finish (s : State) : State := s.settle.resetEnds.quiesceEnds.retireEnds.flushAll.showParked

/-- Engines of polder `p` that hold dispatches (R270). -/
def State.busyIn (s : State) (p : Polder) : Nat := (s.busyEngines.filter (unitEngines p.units).contains).length

/-- Ticks between the boundaries at which coarse readings are updated (R328). -/
def coarse : Nat := usTicks 100

/-- 10 ns pass; at a boundary of 100 us the engines in use are noted (R328). -/
def State.tick (s : State) : State :=
  let s1 := { s with now := s.now + 1 }
  (if s1.now % coarse = 0 then s1.onSched fun x => { x with busyAt := x.polders.map fun e => (e.1, s1.busyIn e.2) } else s1).finish

/-- A packet-ring fetch over the host port may miss its translation (R398): none where it fails, else whether it waits for a page request. -/
def State.fetchMiss (s : State) (q : Nat) (x : Queue) (n : Nat) : Option (State × Bool) :=
  if x.ring.obj ≠ 0 then some (s, false)
  else
    match s.slice? (s.sliceOf x.ctx) with
    | none => some (s, false)
    | some l =>
      match s.hostMiss l.port l.pasid (some (x.ring.addr + 64 * (x.head.toNat % 2 ^ x.ring.log2))) [] (.fetch q) with
      | (_, .fails) => none
      | (s1, .waits) => some (s1, true)
      | (s1, .hit) => some ((List.range n).foldl (fun a i =>
          a.askHost (s.sliceOf x.ctx) (x.ring.addr + 64 * ((x.head.toNat + i) % 2 ^ x.ring.log2)) 64) s1, false)

/-- A ring fetch that the host refused halts the queue, with one QUEUE_HALTED event (R398). It brought no packet: HEAD stays, and a restart
fetches the same packet again (log entry 197). -/
def State.fetchFails (s : State) (q : Nat) : State :=
  match (s.haltQueue q .faulted).queue? q with
  | some x => (s.haltQueue q .faulted).postEvent x.ctx (mkEv 7 .faulted (s.queueHandle q) 0 0 0)
  | none => s

/-- What a packet command meets: nothing issues; the packet, fetched from this count, waits for the firmware; or it is served. -/
inductive Take where
  | idle (t : State)
  | wait (t : State) (n : Word)
  | serve (t : State) (c : Nat) (n : Word)

/-- The firmware, once up, takes the packet that has waited longest from its line. Else nothing issues while the command is not the packet at HEAD,
or its queue cannot issue it (log entry 8); a packet that issues is fetched, and one for the firmware waits while the control cluster is down (R83,
R84, R418, R428). -/
def State.take (s : State) (i : OpInfo) (h : Hdr) : Take :=
  match s.queue? h.q with
  | none => .idle s
  | some x =>
    match s.fwHead.filter (fun e => s.pwr.ccUp && e.queue == h.q && e.code == i.code && e.hdr == h) with
    | some e => .serve (s.fwTake e) x.ctx e.count
    | none =>
      if s.stands i h x = false then .idle s
      else if s.canIssue h.q x h then
        match s.fetchMiss h.q x (needOf h) with
        | none => .idle (s.fetchFails h.q).finish
        | some (s1, true) => .idle s1
        | some (s1, false) =>
          match (s1.takeTurn h.q x).fetchRing h.q x (needOf h) with
          | (s2, false) => .idle s2.finish
          | (s2, true) => if isHw i.code || s1.pwr.ccUp || decide (15 < h.cont) then .serve s2 x.ctx x.head else .wait s2 x.head
      else .idle (s.lookAt h.q x h)

/-- A packet command. -/
def State.packet (s : State) (cmd : Instr) (i : OpInfo) (h : Hdr) (op : State → Nat → Word → State × Ans) : Result :=
  match s.take i h with
  | .idle t => .next t
  | .wait t n => .next (t.fwWait { queue := h.q, count := n, code := i.code, hdr := h, cmd := cmd }).finish
  | .serve t c n => .next (t.serve i h c n op).finish

/-- An opcode whose checks are written in `Except Status`. -/
def answerOf (s : State) (r : Except Status (State × List Nat)) : State × Ans :=
  match r with
  | .ok (s1, res) => (s1, .ok res)
  | .error st => (s, .bad st [])

/-- A check of an opcode. -/
def check (b : Bool) (st : Status) : Except Status Unit := if b then .ok () else .error st

/-- A value an opcode needs. -/
def want {α : Type} (o : Option α) (st : Status) : Except Status α := match o with | some a => .ok a | none => .error st

end Sys2Proof.Machine
end

