-- ==== Sys2Proof/Machine/Opcodes.lean ====
section
/-!
DEFINITION. The opcode tables (R87 to R98, R189 to R192): for each packet row its opcode, what its header may hold, and where its parameters
stand in the packet and its continuations. Widths are in bytes; a field without a value is reserved.
-/

namespace Sys2Proof.Machine

/-- A handle's field. -/
def hand (h : Handle) : Field := .val 4 h.toNat
/-- A number's field of `w` bytes. -/
def num (w v : Nat) : Field := .val w v
/-- `w` reserved bytes. -/
def gap (w : Nat) : Field := .rsv w

/-! ## Objects (R88, R90) -/

/-- CTX_CREATE. -/
def ctxCreateInfo (ring log2 vec : Nat) : OpInfo := { code := 0x01, ps := [num 8 ring, num 1 log2, gap 3, num 2 vec] }
/-- CTX_DESTROY. -/
def ctxDestroyInfo (target : Handle) : OpInfo := { code := 0x02, ps := [hand target] }
/-- QUEUE_CREATE. -/
def queueCreateInfo (a : QueueArgs) : OpInfo :=
  { code := 0x03
    ps := [hand a.target, num 8 a.ringAddr, hand a.ringObj, num 1 a.log2, num 1 a.cls, gap 2, num 4 a.weight, num 8 a.replyAddr, hand a.replyObj] }
/-- CTX_SET_RING. -/
def ctxSetRingInfo (addr : Nat) (obj : Handle) (log2 vec : Nat) : OpInfo :=
  { code := 0x04, ps := [num 8 addr, hand obj, num 1 log2, gap 1, num 2 vec] }
/-- QUEUE_DESTROY. -/
def queueDestroyInfo (queue : Handle) : OpInfo := { code := 0x05, ps := [hand queue] }
/-- QUEUE_START. -/
def queueStartInfo (queue : Handle) : OpInfo := { code := 0x06, ps := [hand queue] }
/-- QUEUE_STOP. -/
def queueStopInfo (queue : Handle) : OpInfo := { code := 0x07, ps := [hand queue] }
/-- MO_CREATE; FLAGS has reserved bits (R51). -/
def moCreateInfo (base len ty : Nat) (flags : BitVec 8) : OpInfo :=
  { code := 0x08, oddBit := flags.toNat / 16 != 0, ps := [num 8 base, num 8 len, num 1 ty, num 1 flags.toNat] }
/-- MO_FREE. -/
def moFreeInfo (obj : Handle) : OpInfo := { code := 0x09, ps := [hand obj] }
/-- MO_SEAL. -/
def moSealInfo (obj : Handle) : OpInfo := { code := 0x0A, ps := [hand obj] }
/-- FENCE_CREATE. -/
def fenceCreateInfo (init : DWord) : OpInfo := { code := 0x0B, ps := [num 8 init.toNat] }
/-- FENCE_FREE. -/
def fenceFreeInfo (f : Handle) : OpInfo := { code := 0x0C, ps := [hand f] }
/-- PROGRAM_LOAD. -/
def programLoadInfo (obj : Handle) (off : Nat) : OpInfo := { code := 0x0D, ps := [hand obj, gap 4, num 8 off] }
/-- PROGRAM_FREE. -/
def programFreeInfo (prog : Handle) : OpInfo := { code := 0x0E, ps := [hand prog] }
/-- QUEUE_SET_WEIGHT. -/
def queueSetWeightInfo (queue : Handle) (weight : Nat) : OpInfo := { code := 0x0F, stage := true, ps := [hand queue, num 4 weight] }
/-- MO_FILL. -/
def moFillInfo (obj : Handle) (val : Byte) (off len : Nat) : OpInfo :=
  { code := 0x20, work := true, ps := [hand obj, num 1 val.toNat, gap 3, num 8 off, num 8 len] }
/-- MO_COPY. -/
def moCopyInfo (src dst : Handle) (srcOff dstOff len : Nat) : OpInfo :=
  { code := 0x21, work := true, ps := [hand src, hand dst, num 8 srcOff, num 8 dstOff, num 8 len] }
/-- MO_PLACE_HINT. -/
def moPlaceHintInfo (obj : Handle) (policy : Nat) : OpInfo := { code := 0x22, ps := [hand obj, num 1 policy] }

/-! ## Dispatch and KV (R91, R92, R189 to R192); their last eight bytes of the first packet are COOKIE (R75) -/

/-- One binding (R92). -/
def bindFields (b : Bind) : Layout := [hand b.obj, num 2 b.index, gap 2, num 8 b.off]
/-- DISPATCH: binding 0 stands in the first packet, four in each continuation. -/
def dispatchInfo (a : DispArgs) : OpInfo :=
  { code := 0x40, notify := true, work := true, contMax := 15
    ps := [hand a.program, num 2 a.count, num 1 a.polder, gap 1, num 4 a.entry, hand a.save] ++
      (match a.binds with
        | b :: l => bindFields b ++ [num 8 a.cookie.toNat] ++ l.flatMap bindFields
        | [] => [gap 16, num 8 a.cookie.toNat]) }
/-- DISPATCH_REMOTE. -/
def dispatchRemoteInfo (a : RemoteArgs) : OpInfo :=
  { code := 0x41, notify := true, work := true
    ps := [num 1 a.link, gap 3, hand a.arg, hand a.result, gap 4, num 8 a.func.toNat, num 8 a.argLen, num 8 a.cookie.toNat] }
/-- KV_APPEND. -/
def kvAppendInfo (a : AppendArgs) : OpInfo :=
  { code := 0x48, notify := true, work := true
    ps := [hand a.obj, num 2 a.layer0, num 2 a.nlay, num 4 a.seq, hand a.source, num 8 a.srcOff, num 4 a.pos, num 2 a.count, num 1 a.form,
           num 1 a.polder, num 8 a.cookie.toNat] }
/-- KV_ATTEND, with one continuation; OPTIONS has reserved bits. -/
def kvAttendInfo (a : AttendArgs) : OpInfo :=
  { code := 0x49, notify := true, work := true, contMin := 1, contMax := 1, oddBit := a.opts / 2 != 0
    ps := [hand a.obj, num 2 a.layer, num 2 a.nq, hand a.queries, hand a.results, num 8 a.qOff, num 4 a.sigma.toNat, num 1 a.outFmt, num 1 a.opts,
           num 1 a.polder, gap 1, num 8 a.cookie.toNat, num 8 a.rOff, num 1 a.ret, num 1 a.port] }
/-- KV_FORK. -/
def kvForkInfo (obj : Handle) (parent child pfx : Nat) (cookie : DWord) : OpInfo :=
  { code := 0x4A, notify := true, work := true, ps := [hand obj, num 4 parent, num 4 child, num 4 pfx, gap 16, num 8 cookie.toNat] }
/-- KV_EVICT of a MODE; RELEASE and FORMAT do not use NEW_LEN. -/
def kvEvictInfo (obj : Handle) (seq mode : Nat) (newLen : Field) (cookie : DWord) : OpInfo :=
  { code := 0x4B, notify := true, work := true
    ps := [hand obj, num 4 seq, num 1 mode, gap 3, newLen, gap 16, num 8 cookie.toNat] }

/-! ## Fences and transactions (R93, R94) -/

/-- FENCE_SIGNAL. -/
def fenceSignalInfo : OpInfo := { code := 0x60 }
/-- FENCE_WAIT. -/
def fenceWaitInfo (f : Handle) (target : DWord) : OpInfo := { code := 0x61, noFence := true, ps := [hand f, gap 4, num 8 target.toNat] }
/-- FENCE_NOTIFY. -/
def fenceNotifyInfo (f : Handle) (target cookie : DWord) : OpInfo :=
  { code := 0x62, noFence := true, ps := [hand f, gap 4, num 8 target.toNat, num 8 cookie.toNat] }
/-- FENCE_RESET. -/
def fenceResetInfo (f : Handle) (val : DWord) : OpInfo := { code := 0x63, noFence := true, ps := [hand f, gap 4, num 8 val.toNat] }
/-- CTX_SET_SLOWDOWN. -/
def ctxSetSlowdownInfo (thr : Nat) : OpInfo := { code := 0x64, stage := true, noFence := true, ps := [num 2 thr] }
/-- TXN_BEGIN. -/
def txnBeginInfo : OpInfo := { code := 0x70 }
/-- TXN_COMMIT. -/
def txnCommitInfo (t : Handle) : OpInfo := { code := 0x71, ps := [hand t] }
/-- TXN_ABORT. -/
def txnAbortInfo (t : Handle) : OpInfo := { code := 0x72, ps := [hand t] }

/-! ## Queries (R95) -/

/-- QUERY_ALMANAC. -/
def queryAlmanacInfo (obj : Handle) (off : Nat) : OpInfo := { code := 0x80, ps := [hand obj, gap 4, num 8 off] }
/-- QUERY_FENCE. -/
def queryFenceInfo (f : Handle) : OpInfo := { code := 0x81, ps := [hand f] }
/-- QUERY_CONTEXT. -/
def queryContextInfo (target obj : Handle) (off : Nat) : OpInfo := { code := 0x82, ps := [hand target, hand obj, num 8 off] }
/-- QUERY_MO. -/
def queryMoInfo (obj : Handle) : OpInfo := { code := 0x83, ps := [hand obj] }
/-- QUERY_QUEUE. -/
def queryQueueInfo (queue : Handle) : OpInfo := { code := 0x84, ps := [hand queue] }
/-- QUERY_DIGEST. -/
def queryDigestInfo (src dst : Handle) (off : Nat) : OpInfo := { code := 0x85, ps := [hand src, hand dst, num 8 off] }

/-! ## Slice administration (R87, R96) -/

/-- SLICE_CREATE, with one continuation. -/
def sliceCreateInfo (a : SliceArgs) : OpInfo :=
  { code := 0xA0, admin := true, contMin := 1, contMax := 1
    ps := [num 4 a.pasid, num 1 a.port, num 1 a.mode, gap 2, num 4 a.qCtx, num 4 a.qQueue, num 4 a.qFence, num 8 a.qFrame, num 4 a.hostBw,
           num 4 a.linkBw, gap 4, num 8 a.evtAddr, num 1 a.evtLog2, gap 1, num 2 a.vector, gap 4, num 8 a.ringAddr, num 1 a.ringLog2, gap 3,
           num 4 a.weight, num 8 a.replyAddr] }
/-- SLICE_DESTROY. -/
def sliceDestroyInfo (slice : Handle) : OpInfo := { code := 0xA1, admin := true, ps := [hand slice] }
/-- SLICE_SET_QUOTA. -/
def sliceSetQuotaInfo (slice : Handle) (field val : Nat) : OpInfo :=
  { code := 0xA2, admin := true, stage := true, ps := [hand slice, num 1 field, gap 3, num 8 val] }
/-- SLICE_SET_SHARE. -/
def sliceSetShareInfo (slice : Handle) (polder weight : Nat) : OpInfo :=
  { code := 0xA3, admin := true, stage := true, ps := [hand slice, num 1 polder, gap 3, num 4 weight] }
/-- POLDER_SHAPE. -/
def polderShapeInfo (polder : Nat) (units : BitVec 64) (dayUs : Nat) : OpInfo :=
  { code := 0xA4, admin := true, stage := true, ps := [num 1 polder, gap 7, num 8 units.toNat, num 4 dayUs] }
/-- POLDER_CALENDAR. -/
def polderCalendarInfo (polder : Nat) (feast excl : BitVec 64) : OpInfo :=
  { code := 0xA5, admin := true, stage := true, ps := [num 1 polder, gap 7, num 8 feast.toNat, num 8 excl.toNat] }
/-- POLDER_ADMIT. -/
def polderAdmitInfo (target : Handle) (polder kind : Nat) (days : BitVec 64) (prog : Handle) : OpInfo :=
  { code := 0xA6, admin := true, stage := true, ps := [hand target, num 1 polder, num 1 kind, gap 2, num 8 days.toNat, hand prog] }
/-- LINK_SHAPE. -/
def linkShapeInfo (a : ShapeArgs) : OpInfo :=
  { code := 0xA7, admin := true, stage := true
    ps := [num 1 a.link, num 1 a.overhead, gap 2, hand a.slice, num 4 a.weight, num 4 a.rate, num 4 a.burst] }
/-- PD_FRAMES_BACKED. -/
def pdFramesBackedInfo (req status : Nat) : OpInfo := { code := 0xA8, admin := true, ps := [num 8 req, num 2 status] }
/-- SLICE_DIRTY_LOG. -/
def sliceDirtyLogInfo (slice : Handle) (on hostMap poolMap : Nat) : OpInfo :=
  { code := 0xA9, admin := true, ps := [hand slice, num 1 on, gap 3, num 8 hostMap, num 8 poolMap] }
/-- SLICE_QUIESCE. -/
def sliceQuiesceInfo (slice : Handle) : OpInfo := { code := 0xAA, admin := true, ps := [hand slice] }
/-- SLICE_RESUME. -/
def sliceResumeInfo (slice : Handle) : OpInfo := { code := 0xAB, admin := true, ps := [hand slice] }
/-- SLUICE_SET. -/
def sluiceSetInfo (stack cap : Nat) : OpInfo := { code := 0xAC, admin := true, stage := true, ps := [num 1 stack, gap 3, num 2 cap] }
/-- EMBANKMENT_SET. -/
def embankmentSetInfo (pct : Nat) : OpInfo := { code := 0xAD, admin := true, stage := true, ps := [num 1 pct] }
/-- PLACEMENT_MODE. -/
def placementModeInfo (mode : Nat) : OpInfo := { code := 0xAE, admin := true, stage := true, ps := [num 1 mode] }

/-! ## Security and maintenance (R97, R98) -/

/-- KEY_ROTATE. -/
def keyRotateInfo (target : Handle) : OpInfo := { code := 0xC0, ps := [hand target] }
/-- KEY_POLICY. -/
def keyPolicyInfo (target : Handle) (ival cap : Nat) : OpInfo := { code := 0xC1, stage := true, ps := [hand target, gap 4, num 8 ival, num 2 cap] }
/-- ATTEST_REPORT. -/
def attestReportInfo (obj : Handle) (nonce : List Byte) : OpInfo := { code := 0xC2, ps := [hand obj, gap 4] ++ nonce.map (fun b => num 1 b.toNat) }
/-- RESET_REQUEST of a KIND. -/
def resetRequestInfo (kind n : Nat) : OpInfo := { code := 0xE0, admin := true, ps := [num 1 kind, gap 3, num 4 n] }
/-- KAT_RUN. -/
def katRunInfo (cluster : Nat) : OpInfo := { code := 0xE1, admin := true, ps := [num 1 cluster] }
/-- STACK_RETIRE. -/
def stackRetireInfo (stack : Nat) : OpInfo := { code := 0xE2, admin := true, ps := [num 1 stack] }

/-- An opcode that no table assigns (R81), or an assigned one whose KIND or MODE is reserved (R98, R192), which the header checks take for assigned
(R516). -/
def unassignedInfo (a : RawArgs) : OpInfo :=
  if a.op = 0xE0 then resetRequestInfo a.sel a.seq
  else if a.op = 0x4B then kvEvictInfo a.obj a.seq a.sel (num 4 a.newLen) a.cookie
  else { code := a.op, assigned := false }

end Sys2Proof.Machine
end

