-- ==== Sys2Proof/Machine/Objects.lean ====
section
/-!
DEFINITION. The object lifecycle opcodes (R88): contexts, queues, memory objects, fences, and the measurement log of seals and loads
(R324). PROGRAM_LOAD's image checks are in Machine/Brient.lean, QUEUE_SET_WEIGHT is a setting (Machine/Txn.lean).
-/

namespace Sys2Proof.Machine

/-! ## Slots of new objects -/

/-- A free slot of a type, picked by the next free value. -/
def State.slotFor {α : Type} (s : State) (n : Nat) (m : SlotMgr) (t : Tab α) : Option Nat := pickSlot n (fun k => m.freeAt t k) s.peek

/-- The contexts of slice `l`. -/
def State.ctxsOf (s : State) (l : Nat) : List Nat := tkeys s.objs.ctxs (fun c => c.slice == l)

/-- What waited for the slice's writes is written: replies, then events (R286, R316). -/
def State.postDue (s : State) (l : Nat) : State :=
  let s1 := (tkeys s.objs.queues (fun q => s.sliceOf q.ctx == l)).foldl State.flushReps s
  (s1.ctxsOf l).foldl State.drain s1

/-- Queues, fences of slice `l` in use (R36). -/
def State.queueUse (s : State) (l : Nat) : Nat := (s.objs.queues.filter (fun e => s.sliceOf e.2.ctx == l)).length
/-- Fences of slice `l` in use. -/
def State.fenceUse (s : State) (l : Nat) : Nat := (s.objs.fences.filter (fun e => s.sliceOf e.2.ctx == l)).length

/-- A context as CTX_CREATE leaves it (R66, R264, R268, R269, R297, R495); its nonce is a DRBG value. -/
def Ctx.new (gen slice : Nat) (root : Bool) (ring : Ring) (vec nonce now : Nat) : Ctx :=
  { gen := gen, state := .active, slice := slice, root := root, ring := ring, vector := vec, prod := 0, cons := 0, armed := true, held := []
    owesFault := false, fault := FaultRegs.zero
    acct := { engineNs := 0, progressHs := 0, poolRead := 0, poolWrite := 0, link := 0, host := 0, energyUj := 0, dispatches := 0
              preemptions := 0, overruns := 0, suspensions := 0, slowdown := 0x0100, threshold := 0 }
    nonce := nonce, season := 0, prevLive := false, sweep := .none, lastRot := now, keyIval := 0, keyCap := 0, thrArmed := true
    epochNs := 0, rolled := none }

/-- A queue as QUEUE_CREATE leaves it (R49). -/
def Queue.new (gen ctx cls weight : Nat) (ring rring : Ring) : Queue :=
  { gen := gen, ctx := ctx, cls := cls, weight := weight, nextWt := weight, inForce := [], ring := ring, rring := rring, tail := 0, head := 0
    state := .stopped, halt := .ok, wait := none, fwBusy := none, signals := [], deficit := [], look := none, heldRep := [] }

/-- Make a context in a free slot of slice `l`, with its first key set (R297): BUSY while the entropy source fails (R293), QUOTA before NO_SLOT
(R36). -/
def State.makeCtx (s : State) (l : Nat) (root : Bool) (quota : Nat) (ring : Ring) (vec : Nat) : Except Status (State × Nat) := do
  check (!s.sen.entropy) .busy
  check ((s.ctxsOf l).length < quota) .quota
  let k ← want (s.slotFor (slotCount 1) s.objs.ctxMgr s.objs.ctxs) .noSlot
  let s1 := (s.drew 2).asked 1
  return (((s1.onObjs fun o =>
    { o with ctxs := tset o.ctxs k (Ctx.new (o.ctxMgr.gen k) l root ring vec (Config.free (s.free + 1) % 2 ^ 128) s.now)
             ctxMgr := { o.ctxMgr with gens := tset o.ctxMgr.gens k (o.ctxMgr.gen k) } }).installKey (.ctx k 0)).raiseEdge 41, k)

/-- Make a queue of context `c` in a free slot. -/
def State.makeQueue (s : State) (c cls weight : Nat) (ring rring : Ring) : Except Status (State × Nat) := do
  let k ← want (s.slotFor (slotCount 2) s.objs.qMgr s.objs.queues) .noSlot
  return ((s.drew 1).onObjs fun o =>
    { o with queues := tset o.queues k (Queue.new (o.qMgr.gen k) c cls weight ring rring)
             qMgr := { o.qMgr with gens := tset o.qMgr.gens k (o.qMgr.gen k) } }, k)

/-! ## Rings -/

/-- A ring's place (R45, R54, R63): aligned, and in an object wholly within a pool-backed one that is not IMMUTABLE. A handle that fails R39, be
it for its owner in another context of the slice, answers BAD_HANDLE, where R54 alone would say BAD_PARAM (log entry 201). -/
def State.ringOk (s : State) (c addr : Nat) (obj : Handle) (size align : Nat) : Except Status Unit := do
  check (addr % max size align = 0) .badParam
  if obj = 0 then return ()
  let m ← want (s.findMo c obj) .badHandle
  check (!m.2.flags.getLsbD 0 && !m.2.flags.getLsbD 2 && decide (addr + size ≤ m.2.len)) .badParam

/-- A window vector of slice `l` (R273). -/
def State.vecOk (s : State) (l v : Nat) : Bool := match s.slice? l with | some x => decide (v < x.vecCount) | none => false

/-- Change the ring object a holder refers to (R54). -/
def State.refRing (s : State) (h : Handle) : State := if h = 0 then s else s.incMo (hSlot h)
/-- Drop a holder's ring object. -/
def State.unrefRing (s : State) (h : Handle) : State := if h = 0 then s else s.decMo (hSlot h)

/-! ## Measurement log (R324) -/

/-- The 64 bytes of a log entry. -/
def MrEntry.bytes (e : MrEntry) : List Byte :=
  leBytes 1 e.kind ++ leBytes 1 e.ty ++ leBytes 2 0 ++ leBytes 4 e.seq ++ leBytes 4 e.handle.toNat ++ leBytes 4 e.ctx.toNat ++ leBytes 48 e.digest

/-- SLICE_MR extended by an entry. -/
def mrExtend (mr : Nat) (e : MrEntry) : Nat := sha384 (leBytes 48 mr ++ e.bytes)

/-- Append an entry to slice `l`'s log: the oldest of 256 is overwritten. -/
def State.measure (s : State) (l kind ty : Nat) (h ctx : Handle) (digest : Nat) : State :=
  s.modSlice l fun x =>
    let e : MrEntry := { kind := kind, ty := ty, seq := x.logSeq, handle := h, ctx := ctx, digest := digest }
    let y := { x with mr := mrExtend x.mr e, logSeq := x.logSeq + 1 }
    if x.log.length < 256 then { y with log := x.log ++ [e] }
    else
      match x.log with
      | [] => { y with log := [e] }
      | old :: r => { y with log := r ++ [e], dropped := x.dropped + 1, mrBase := mrExtend x.mrBase old }

/-! ## Contexts -/

/-- CTX_CREATE (R63, R88, R273). -/
def opCtxCreate (ring log2 vec : Nat) (s : State) (c : Nat) : Except Status (State × List Nat) := do
  let l := s.sliceOf c
  check (6 ≤ log2 && log2 ≤ 16) .badParam
  check (ring % (32 * 2 ^ log2) = 0 && s.vecOk l vec) .badParam
  let quota := match s.slice? l with | some x => x.qCtx | none => 0
  let r ← s.makeCtx l false quota { addr := ring, obj := 0, log2 := log2 } vec
  return (r.1, leNats 4 (r.1.ctxHandle r.2).toNat)

/-- CTX_CREATE (0x01). -/
def execCtxCreate (h : Hdr) (ring log2 vec : Nat) (s : State) : Result :=
  s.packet (.ctxCreate h ring log2 vec) (ctxCreateInfo ring log2 vec) h fun s c _ => answerOf s (opCtxCreate ring log2 vec s c)

/-- CTX_DESTROY (0x02, R40, R41, R67, R68). -/
def execCtxDestroy (h : Hdr) (target : Handle) (s : State) : Result :=
  s.packet (.ctxDestroy h target) (ctxDestroyInfo target) h fun s c _ => answerOf s (do
    let t ← want (s.findCtxIn (s.sliceOf c) target) .badHandle
    check (!t.2.root && t.1 != c) .badParam
    return (s.teardown t.1, []))

/-- QUEUE_CREATE's checks and effect (R45, R54, R88, R251). -/
def opQueueCreate (a : QueueArgs) (s : State) (c : Nat) : Except Status (State × List Nat) := do
  let l := s.sliceOf c
  let t ← want (s.findCtxIn l a.target) .badHandle
  check (4 ≤ a.log2 && a.log2 ≤ 16 && a.cls ≤ 2 && 1 ≤ a.weight && a.weight ≤ 65535) .badParam
  check (t.1 = c || (a.ringObj = 0 && a.replyObj = 0)) .badParam
  s.ringOk t.1 a.ringAddr a.ringObj (64 * 2 ^ a.log2) 4096
  s.ringOk t.1 a.replyAddr a.replyObj (32 * 2 ^ a.log2) 4096
  check (t.2.state = .active) .badState
  check (a.cls = 0 || s.sched.adms.any (fun x => x.ctx == t.1 && x.feast == (a.cls == 1))) .denied
  check (s.queueUse l < (match s.slice? l with | some x => x.qQueue | none => 0)) .quota
  let r ← s.makeQueue t.1 a.cls a.weight { addr := a.ringAddr, obj := a.ringObj, log2 := a.log2 }
    { addr := a.replyAddr, obj := a.replyObj, log2 := a.log2 }
  let s1 := (r.1.refRing a.ringObj).refRing a.replyObj
  return (s1, leNats 4 (s1.queueHandle r.2).toNat)

/-- QUEUE_CREATE (0x03). -/
def execQueueCreate (h : Hdr) (a : QueueArgs) (s : State) : Result :=
  s.packet (.queueCreate h a) (queueCreateInfo a) h fun s c _ => answerOf s (opQueueCreate a s c)

/-- CTX_SET_RING (0x04): BUSY unless every record is consumed; both counts restart, the interrupt is armed (R66, R88). -/
def opCtxSetRing (addr : Nat) (obj : Handle) (log2 vec : Nat) (s : State) (c : Nat) : Except Status (State × List Nat) := do
  let x ← want (s.ctx? c) .badHandle
  check (6 ≤ log2 && log2 ≤ 16 && s.vecOk x.slice vec) .badParam
  s.ringOk c addr obj (32 * 2 ^ log2) 1
  check (x.prod = x.cons && x.held.isEmpty) .busy
  let s1 := (s.refRing obj).unrefRing x.ring.obj
  return (s1.modCtx c fun y =>
    { y with ring := { addr := addr, obj := obj, log2 := log2 }, vector := vec, prod := 0, cons := 0, armed := true }, [])

/-- CTX_SET_RING. -/
def execCtxSetRing (h : Hdr) (addr : Nat) (obj : Handle) (log2 vec : Nat) (s : State) : Result :=
  s.packet (.ctxSetRing h addr obj log2 vec) (ctxSetRingInfo addr obj log2 vec) h fun s c _ => answerOf s (opCtxSetRing addr obj log2 vec s c)

/-! ## Queues -/

/-- A queue that a packet of context `c` may name: of its slice, or of any slice on a queue of slice 0 (R87; log entry 24). -/
def State.queueFor (s : State) (c : Nat) (q : Handle) : Option (Nat × Queue) :=
  (s.findQueue q).filter fun e => s.sliceOf c == 0 || s.sliceOf e.2.ctx == s.sliceOf c

/-- A KV_FORK or KV_EVICT of a queue that ends: its fence is FAULTED with ABORTED (R69), and the work itself is finished without it, since an abort never
leaves the object broken (R520; log entry 237). -/
def State.disown (s : State) (d : Disp) : State :=
  (match d.fence with | some f => s.faultFence f .aborted d.ref | none => s).modDisp d.ref fun y => { y with fence := none, queue := slotCount 2 }

/-- A work packet of a queue that ends is aborted, and its engines are zeroed before they take other work (R69, R339). -/
def State.cutDisp (s : State) (d : Disp) : State :=
  if d.work.kvObj.isSome && !d.work.onEngines then s.disown d else (s.endDisp d (some .aborted)).zeroed fun e _ => d.engines.contains e

/-- Destroy queue `k` (R50, R69): its wait ends, its dispatches are aborted, a packet of it that was put off is answered, its slot and rings are
returned. A FENCE_SIGNAL that waits for the work so aborted is applied, since that work is then complete (R75, R84); at a context's teardown it is
discarded (log entry 194). -/
def State.destroyQueue (s : State) (k : Nat) (x : Queue) : State :=
  let s1 := match x.wait with | some w => s.endWait k x w .aborted .destroying .ok | none => s
  let s2 := ((s1.sched.disps.filter (fun d => d.queue == k)).foldl State.cutDisp s1).dropLate k
  let s3 := s2.onObjs fun o => { o with queues := tdel o.queues k, qMgr := o.qMgr.retire k x.ctx }
  (s3.unrefRing x.ring.obj).unrefRing x.rring.obj

/-- QUEUE_DESTROY (0x05). -/
def execQueueDestroy (h : Hdr) (queue : Handle) (s : State) : Result :=
  s.packet (.queueDestroy h queue) (queueDestroyInfo queue) h fun s c _ => answerOf s (do
    let t ← want (s.queueFor c queue) .badHandle
    check (t.1 != h.q) .badParam
    return (s.destroyQueue t.1 t.2, []))

/-- QUEUE_START (0x06): STOPPED or HALTED to RUNNING; a queue of a FAULTED context cannot be restarted (R50). -/
def opQueueStart (queue : Handle) (s : State) (c : Nat) : Except Status (State × List Nat) := do
  let t ← want (s.queueFor c queue) .badHandle
  check (t.2.state == .stopped || t.2.state == .halted) .badState
  check ((s.ctx? t.2.ctx).any (fun x => x.state == .active)) .badState
  return (s.modQueue t.1 fun y => { y with state := .running, halt := .ok, look := none }, [])

/-- QUEUE_START. -/
def execQueueStart (h : Hdr) (queue : Handle) (s : State) : Result :=
  s.packet (.queueStart h queue) (queueStartInfo queue) h fun s c _ => answerOf s (opQueueStart queue s c)

/-- QUEUE_STOP (0x07): RUNNING or WAITING to STOPPED; a wait is dropped with ABORTED (R50, R93). -/
def opQueueStop (queue : Handle) (s : State) (c : Nat) : Except Status (State × List Nat) := do
  let t ← want (s.queueFor c queue) .badHandle
  check (t.2.state == .running || t.2.state == .waiting) .badState
  return (match t.2.wait with
    | some w => s.endWait t.1 t.2 w .aborted .stopped .ok
    | none => s.modQueue t.1 fun y => { y with state := .stopped }, [])

/-- QUEUE_STOP. -/
def execQueueStop (h : Hdr) (queue : Handle) (s : State) : Result :=
  s.packet (.queueStop h queue) (queueStopInfo queue) h fun s c _ => answerOf s (opQueueStop queue s c)

/-! ## Memory objects -/

/-- A memory object as MO_CREATE makes it; `hidden` until its frames are backed (R89). -/
def Mo.new (gen ctx base len ty : Nat) (flags : BitVec 8) (hidden : Bool) : Mo :=
  { gen := gen, ctx := ctx, base := base, len := len, ty := ty, flags := flags, isSealed := false, freed := hidden, refs := 1, digest := 0
    policy := 0, home := none, saver := none, saving := false, formatted := false }

/-- The parameter checks of MO_CREATE (R51, R214; log entry 25 for the base's alignment). A SAVE_AREA shorter than R52's 66 frames is made: R52
states the response to it where a dispatch needs it (log entry 202). -/
def moParamsOk (base len ty : Nat) (flags : BitVec 8) : Bool :=
  let host := flags.getLsbD 0
  let unit := if host then 4096 else 65536
  ty ≤ 4 && flags.toNat ≤ 15 && 0 < len && len % unit = 0 && base % unit = 0 && base + len ≤ 2 ^ 48 &&
    !(flags.getLsbD 3 && (!flags.getLsbD 2 || !(ty = 2 || ty = 3))) && !(host && (ty = 1 || ty = 4))

/-- Every page of a range is mapped to host pages (R88). -/
def State.hostMapped (s : State) (c base len : Nat) : Bool :=
  (List.range (len / 4096)).all fun i =>
    match s.walk c ((base + 4096 * i) / 65536) with
    | .ok e => (match leafOf e with | some (.host _ mask _) => mask.testBit ((base / 4096 + i) % 16) | _ => false)
    | .error _ => false

/-- Enter a new memory object. -/
def State.putMo (s : State) (k : Nat) (x : Mo) : State := s.onObjs fun o =>
  { o with mos := tset o.mos k x, moMgr := { o.moMgr with gens := tset o.moMgr.gens k (o.moMgr.gen k) } }

/-- MO_CREATE (R36, R51, R88, R89, R239, R435). -/
def opMoCreate (h : Hdr) (base len ty : Nat) (flags : BitVec 8) (s : State) (c : Nat) (n : Word) : State × Ans :=
  let l := s.sliceOf c
  let fail (st : Status) : State × Ans := (s, .bad st [])
  if !moParamsOk base len ty flags then fail .badParam
  else if flags.getLsbD 0 && !s.hostMapped c base len then fail .badParam
  else
    let frames := len / 65536
    let tooMany := match s.slice? l with | some x => x.qFrame.elim false (fun q => decide (q < s.frameUse l + frames)) | none => true
    if !flags.getLsbD 0 && tooMany then fail .quota
    else
      match s.slotFor (slotCount 3) s.objs.moMgr s.objs.mos with
      | none => fail .noSlot
      | some k =>
        let s1 := s.drew 1
        let mo (hidden : Bool) := Mo.new (s.objs.moMgr.gen k) c base len ty flags hidden
        let res (t : State) := leNats 4 (t.moHandle k).toNat
        if flags.getLsbD 0 then
          let t := s1.putMo k (mo false)
          (t, .ok (res t))
        else if s.pool.frozen then
          (match (s.carvePolder l).bind (fun p => (s1.putMo k (mo false)).carveBack p c k base frames) with
            | some t => (t, .ok (res t))
            | none => fail .noSlot)
        else if !s.mbx.attached then fail .timeout
        else
          let t := s1.putMo k (mo true)
          let b : Back := { req := s.pool.reqNext, queue := h.q, count := n, tag := h.tag, fence := s.fenceOf h c, fval := h.fval, mo := k
                            frames := frames, backed := 0, since := s.now }
          ((t.onPool fun p => { p with backs := p.backs ++ [b] }).sendPd 1 (t.ctxHandle c) (t.moHandle k) base frames, .later)

/-- MO_CREATE (0x08). -/
def execMoCreate (h : Hdr) (base len ty : Nat) (mflags : BitVec 8) (s : State) : Result :=
  s.packet (.moCreate h base len ty mflags) (moCreateInfo base len ty mflags) h (opMoCreate h base len ty mflags)

/-- MO_FREE (0x09, R55). -/
def execMoFree (h : Hdr) (obj : Handle) (s : State) : Result :=
  s.packet (.moFree h obj) (moFreeInfo obj) h fun s c _ => answerOf s (do
    let m ← want (s.findMo c obj) .badHandle
    return ((s.modMo m.1 fun y => { y with freed := true }).decMo m.1, []))

/-- Some command in progress may write object `m` and holds a reference to it (R53). -/
def State.writers (s : State) (m : Nat) : Bool :=
  s.sched.disps.any fun d =>
    match d.work with
    | .program _ _ save => save == m || d.binds.any (fun e => e.2.wr && hSlot e.2.obj == m && e.2.obj != 0)
    | .append a => hSlot a.obj == m
    | .attend a _ => a.ret == 0 && hSlot a.results == m
    | .fork o .. => o == m
    | .evict o .. => o == m
    | .remote a => hSlot a.result == m
    | .fill o .. => o == m
    | .copy _ o .. => o == m

/-- Read an object's bytes for its context. -/
def State.readMo (s : State) (m : Mo) (who : By) (off len : Nat) : State × Except AccErr (List Byte) := s.readCtx m.ctx who (m.base + off) len

/-- Write an object's bytes for its context. -/
def State.writeMo (s : State) (m : Mo) (who : By) (off : Nat) (d : List Byte) : State × Except AccErr Unit :=
  s.writeCtx m.ctx who none (m.base + off) d

/-- MO_SEAL (R53, R324). -/
def opMoSeal (obj : Handle) (s : State) (c : Nat) : State × Ans :=
  match s.findMo c obj with
  | none => (s, .bad .badHandle [])
  | some (k, m) =>
    if !m.flags.getLsbD 2 || m.isSealed then (s, .bad .badState [])
    else if s.writers k then (s, .bad .busy [])
    else if !m.flags.getLsbD 3 then (s.modMo k fun y => { y with isSealed := true }, .ok [])
    else
      match s.readMo m .hub 0 m.len with
      | (s1, .error e) => (s1.faultCtx c e.regs, .bad e.st [])
      | (s1, .ok b) =>
        let d := sha384 b
        ((s1.modMo k fun y => { y with isSealed := true, digest := d }).measure (s.sliceOf c) 2 m.ty obj (s.ctxHandle c) d, .ok (leNats 24 d))

/-- MO_SEAL (0x0A). -/
def execMoSeal (h : Hdr) (obj : Handle) (s : State) : Result := s.packet (.moSeal h obj) (moSealInfo obj) h fun s c _ => opMoSeal obj s c

/-! ## Fences and programs -/

/-- A fence as FENCE_CREATE makes it (R56). -/
def Fence.new (gen ctx : Nat) (v : DWord) : Fence :=
  { gen := gen, ctx := ctx, value := v, faulted := false, status := .ok, disp := 0, stale := 0, freed := false, refs := 1 }

/-- FENCE_CREATE (R36, R56). -/
def opFenceCreate (init : DWord) (s : State) (c : Nat) : Except Status (State × List Nat) := do
  let l := s.sliceOf c
  check (s.fenceUse l < (match s.slice? l with | some x => x.qFence | none => 0)) .quota
  let k ← want (s.slotFor (slotCount 4) s.objs.fMgr s.objs.fences) .noSlot
  let t := (s.drew 1).onObjs fun o =>
    { o with fences := tset o.fences k (Fence.new (o.fMgr.gen k) c init), fMgr := { o.fMgr with gens := tset o.fMgr.gens k (o.fMgr.gen k) } }
  return (t, leNats 4 (t.fenceHandle k).toNat)

/-- FENCE_CREATE (0x0B). -/
def execFenceCreate (h : Hdr) (init : DWord) (s : State) : Result :=
  s.packet (.fenceCreate h init) (fenceCreateInfo init) h fun s c _ => answerOf s (opFenceCreate init s c)

/-- FENCE_FREE (0x0C, R55). -/
def execFenceFree (h : Hdr) (f : Handle) (s : State) : Result :=
  s.packet (.fenceFree h f) (fenceFreeInfo f) h fun s c _ => answerOf s (do
    let k ← want (s.findFence c f) .badHandle
    return ((s.modFence k.1 fun y => { y with freed := true }).decFence k.1, []))

/-- PROGRAM_FREE (0x0E, R55, R149). -/
def execProgramFree (h : Hdr) (prog : Handle) (s : State) : Result :=
  s.packet (.programFree h prog) (programFreeInfo prog) h fun s c _ => answerOf s (do
    let k ← want (s.findProg c prog) .badHandle
    return ((s.modProg k.1 fun y => { y with freed := true }).decProg k.1, []))

end Sys2Proof.Machine
end

