-- ==== Sys2Proof/Machine/SchedBase.lean ====
section
/-!
DEFINITION. The scheduler's shared parts (spec/08): requesting pre-emption (R260, R181), a calendar's runs (R248), the admission test, the
engines a reservation or share work may use (R246), cluster scores and steering (R223), and the change of a polder's shape (R243).
-/

namespace Sys2Proof.Machine

/-! ## Pre-emption requests -/

/-- An engine that waits at a BARRIER, or has halted, counts as stopped at its current instruction (R181). -/
def Engine.onRequest (e : Engine) (cpOf : Nat → Option Nat) : Engine :=
  if e.halted then { e with stop := .full }
  else if e.barrier.isSome then { e with stop := match cpOf e.pc with | some i => .cheap i | none => .full }
  else e

/-- The cheap-point index of a bundle of a program (R147). -/
def Program.cpAt (p : Program) (pc : Nat) : Option Nat := p.cheaps.findIdx? (fun c => c.bundle == pc)

/-- The program a dispatch runs. -/
def State.dispProg (s : State) (d : Disp) : Option Program := match d.work with | .program p _ _ => s.prog? p | _ => none

/-- Request pre-emption of a running dispatch (R260); a second request is ignored (R181). -/
def State.preempt (s : State) (ref : DWord) : State :=
  match s.disp? ref with
  | none => s
  | some d =>
    if d.state ≠ .running then s
    else
      let cp (pc : Nat) : Option Nat := (s.dispProg d).bind (·.cpAt pc)
      (s.modDisp ref fun y => { y with state := .stopping, preAt := s.now, engs := tmap y.engs (fun _ e => e.onRequest cp) }).onSched fun x =>
        let c := stepCount (s.sen.sec != 0) 10000 s.now x.preempts x.preHid x.preAt
        { x with preempts := c.1, preHid := c.2.1, preAt := c.2.2 }

/-- Request pre-emption of every dispatch that meets `p`. -/
def State.preemptAll (s : State) (p : Disp → Bool) : State := (s.sched.disps.filter p).foldl (fun a d => a.preempt d.ref) s

/-! ## Ends -/

/-- The clusters whose engines a dispatch holds. -/
def Disp.clusters (d : Disp) : List Nat := (d.engines.map (· / 16)).dedup

/-- CSQ event k of each cluster of a dispatch (R418). -/
def State.csqEvent (s : State) (d : Disp) (k : Nat) : State := d.clusters.foldl (fun a c => a.raiseEdge (256 + 16 * c + k)) s

/-- A dispatch completes: its fence signals, and its clusters report it (R75, R418). -/
def State.completeDisp (s : State) (d : Disp) : State := (s.endDisp d none).csqEvent d 1

/-! ## Runs and admission (R244, R248) -/

/-- The length of the run of set days from day `d` on, counted cyclically, up to `n` days. -/
def runLen (m : BitVec 64) : Nat → Nat → Nat
  | 0, _ => 0
  | n + 1, d => if m.getLsbD (d % 64) then 1 + runLen m n (d + 1) else 0

/-- The runs of a day mask: first day and length; a mask of all days is one run from day 0. -/
def runsOf (m : BitVec 64) : List (Nat × Nat) :=
  if m = BitVec.allOnes 64 then [(0, 64)]
  else ((List.range 64).filter (fun d => m.getLsbD d && !m.getLsbD ((d + 63) % 64))).map (fun d => (d, runLen m 64 d))

/-- The largest worst case of a program's code blocks, in handshakes. -/
def Program.wcMax (p : Program) : Nat := p.blocks.foldl (fun a b => max a b.wcHs) 0

/-- E_r of an admission (R248). -/
def State.admEngines (s : State) (p : Polder) (a : Adm) : Nat :=
  match a.prog with
  | some g => (match s.prog? g with | some x => x.engMax | none => p.eCount)
  | none => p.eCount

/-- need of R248 fits a run of `us` microseconds, in exact arithmetic: 92 us + 1.25 wc / 1010 us. -/
def runFits (wc us : Nat) : Bool := 92 * 4040 + 5 * wc ≤ us * 4040

/-- The admission test of R248 and R250, for admission `a` in polder `p` with number `k`, by the masks that `p` will have. -/
def State.admOk (s : State) (k : Nat) (p : Polder) (a : Adm) : Bool :=
  if a.feast then
    let e := s.admEngines p a
    let wc := match a.prog.bind s.prog? with | some x => x.wcMax | none => 0
    a.days &&& p.nFeast == a.days && e ≤ p.eCount &&
      (List.range 64).all (fun d => !a.days.getLsbD d ||
        decide (((s.sched.adms.filter (fun b => b.polder == k && b.feast && b.days.getLsbD d)).map (s.admEngines p)).sum ≤ p.eCount)) &&
      (runsOf a.days).all (fun r => runFits wc (r.2 * p.dayUs))
  else a.days &&& p.nExcl == a.days

/-- Every admission of polder `k` passes. -/
def State.admsOk (s : State) (k : Nat) : Bool :=
  match s.polder? k with
  | some p => (s.sched.adms.filter (fun a => a.polder == k)).all (s.admOk k p)
  | none => !s.sched.adms.any (fun a => a.polder == k)

/-! ## Engines -/

/-- The kind of the current day: 0 share, 1 feast, 2 exclusive (R245, R270). -/
def Polder.kind (p : Polder) : Nat := if p.feast.getLsbD p.day then 1 else if p.excl.getLsbD p.day then 2 else 0

/-- Engines that reservations hold. -/
def Polder.reserved (p : Polder) : List Nat := p.resv.flatMap (·.engines)

/-- Engines of polder `p` that no dispatch holds and no reservation holds (R246). -/
def State.openEngines (s : State) (p : Polder) : List Nat :=
  let busy := s.busyEngines
  (unitEngines p.units).filter (fun e => !busy.contains e && !p.reserved.contains e)

/-- A dispatch is share work (R251, R262). -/
def Disp.isShare (d : Disp) : Bool := d.cls == 0 || d.asShare

/-- A dispatch runs or stops on its engines. -/
def Disp.holds (d : Disp) : Bool := d.state == .running || d.state == .stopping || d.state == .saving

/-- The objects a dispatch binds, with the bound lengths (R223). -/
def Disp.bound (d : Disp) : List (Nat × Nat) := (d.binds.filter (fun e => e.2.obj != 0)).map (fun e => (hSlot e.2.obj, e.2.len))

/-- A cluster's score for a dispatch's bindings (R223), exactly. -/
def State.score (s : State) (binds : List (Nat × Nat)) (c : Nat) : Rat :=
  (binds.map fun b =>
    match s.mo? b.1 with
    | some m =>
      if m.flags.getLsbD 0 || m.len == 0 then (0 : Rat)
      else (((s.pool.frames.filter (fun e => e.2.owner == some m.ctx && e.2.obj == b.1 && e.2.st.home == some c)).length * b.2 : Nat) : Rat) / (m.len : Rat)
    | none => 0).sum

/-- Clusters by score, descending, ties to the lower number. -/
def State.ranked (s : State) (binds : List (Nat × Nat)) (cs : List Nat) : List Nat :=
  sortBy (fun a b => decide (s.score binds b < s.score binds a) || (decide (s.score binds a = s.score binds b) && decide (a < b))) cs

/-- `n` of the free engines, cluster by cluster as the PLE steers (R223), in a cluster from the lowest. -/
def State.steer (s : State) (binds : List (Nat × Nat)) (open_ : List Nat) (n : Nat) : List Nat :=
  let free := (List.range 320).filter open_.contains
  ((s.ranked binds ((List.range 20).filter (fun c => free.any (fun e => e / 16 == c)))).flatMap (fun c => free.filter (fun e => e / 16 == c))).take n

/-! ## Shapes (R243, R453) -/

/-- End the runs and eves of polder `k` that `which` names: the dispatches that run on their engines for the reservation are pre-empted and wait
for its next run (R243, R254). -/
def State.endRuns (s : State) (k : Nat) (p : Polder) (which : Resv → Bool) : State :=
  let gone := p.resv.filter which
  let hit (d : Disp) : Bool :=
    d.polder == k && d.cls == 1 && !d.asShare && d.holds && gone.any (fun r => r.ctx == d.ctx && d.engines.any r.engines.contains)
  let s2 := (s.preemptAll hit).onSched fun x => { x with disps := x.disps.map fun d => if hit d then { d with waitRun := true } else d }
  s2.modPolder k fun q => { q with resv := q.resv.filter (fun r => !which r) }

/-- Polder `k` gets a unit mask and a day length; where either changed, its runs and eves end (R243 steps 1 and 2). Its calendar restarts once the
whole commit is in place (Machine/Sched.lean). -/
def State.reshape (s : State) (k : Nat) (units : BitVec 40) (dayUs : Nat) : State :=
  let fresh : Polder := { units := units, dayUs := dayUs, feast := 0, excl := 0, nFeast := 0, nExcl := 0, dayStart := s.now, day := 0, rot := 0
                          owner := none, claimant := none, resv := [], susp := s.pwr.warn }
  match s.polder? k with
  | none => if units = 0 then s else s.onSched fun x => { x with polders := tset x.polders k fresh }
  | some p =>
    let lost := (unitEngines p.units).filter (fun e => !(unitEngines units).contains e)
    let s1 := s.preemptAll fun d => d.polder == k && d.engines.any lost.contains
    if units == 0 && !(k == 0 && s.actives.isEmpty) then
      let s2 := s1.onSched fun x => { x with polders := tdel x.polders k }
      s2.onSlices fun x => { x with tab := tmap x.tab (fun _ l => { l with shares := tdel l.shares k, nextSh := tdel l.nextSh k }) }
    else if units = p.units ∧ dayUs = p.dayUs then s1
    else
      (s1.endRuns k p (fun _ => true)).modPolder k fun q => { q with units := units, dayUs := dayUs }

end Sys2Proof.Machine
end

