-- ==== Sys2Proof/Machine/Query.lean ====
section
/-!
DEFINITION. The almanac (R71 to R73) and the query opcodes (R95), with the records they write (R266, R495).
-/

namespace Sys2Proof.Machine

/-- One almanac entry: type, length, value (R73). -/
def almEntry (ty : Nat) (v : List Byte) : List Byte := leBytes 2 ty ++ leBytes 2 v.length ++ v

/-- A mask of the positions in a list. -/
def maskOf (l : List Nat) : Nat := (l.map (2 ^ ·)).sum

/-- Slice `l` holds days or shares in polder `p` (R73). -/
def State.holdsIn (s : State) (l p : Nat) : Bool := s.shareOf l p != 0 || s.sched.adms.any (fun a => a.polder == p && s.sliceOf a.ctx == l)

/-- The product number by licensed cluster count (R3). -/
def productOf (n : Nat) : Nat := match n with | 20 => 40 | 16 => 32 | 12 => 24 | _ => 0

/-- A LINK_PORT value; a guest sees a peer link without identity and coordinates. The spec does not state the coordinates of an attach link or of a
link that is down: they are zeros, and those of a peer link that is up are the neighbour's (log entry 206). -/
def State.linkEntry (s : State) (guest : Bool) (l : Nat) (x : Link) : List Byte :=
  let st := if s.brg.lPorts ≤ l % 16 then 0 else if x.up then 2 else 1
  let hide := guest && !x.attach
  let (cx, cy, cz) := if x.attach || hide || !x.up then (0, 0, 0) else s.step1 (x.dir - 1)
  leBytes 1 l ++ leBytes 1 st ++ leBytes 1 (b1 x.attach) ++ leBytes 1 x.lanes ++ leBytes 1 x.vcs ++ leBytes 1 (b1 x.rdisp) ++ leBytes 2 0 ++
    leBytes 8 (if hide then 0 else x.peer.toNat) ++ leBytes 1 cx ++ leBytes 1 cy ++ leBytes 1 cz ++ leBytes 5 0

/-- The almanac's entries: the pool driver's (`none`), or slice `l`'s view (R73). An unlimited frame quota has no stated value: a free one. DEVICE
reports the licensed product (R455). FIRMWARE gives two microcode versions, of which the spec names one source: both are the version of the
microcode image (log entry 205). -/
def State.almEntries (s : State) (view : Option Nat) : List (List Byte) :=
  let guest := view.isSome
  let seen (p : Nat) : Bool := view.elim true (fun l => s.holdsIn l p)
  let cq4 := if s.brg.lCq4 then 512 else 0
  [almEntry 0x0001 (leBytes 4 2),
   almEntry 0x0002 (leBytes 2 (productOf s.brg.lClust) ++ leBytes 2 s.brg.stepping ++ leBytes 4 0),
   almEntry 0x0010 (leBytes 4 4096 ++ leBytes 4 8192 ++ leBytes 4 1048576 ++ leBytes 4 262144 ++ leBytes 4 512 ++ leBytes 4 16384 ++ leBytes 4 64 ++
     leBytes 4 524288 ++ leBytes 4 s.alm.parked ++ leBytes 4 0)] ++
  (s.slices.tab.filter (fun e => view.elim true (fun l => l == e.1))).map (fun e =>
    almEntry 0x0011 (leBytes 4 (s.sliceHandle e.1).toNat ++ leBytes 4 e.2.qCtx ++ leBytes 4 e.2.qQueue ++ leBytes 4 e.2.qFence ++ leBytes 4 0 ++
      leBytes 8 (e.2.qFrame.getD s.peek) ++ leBytes 4 e.2.hostBw ++ leBytes 4 e.2.linkBw)) ++
  [almEntry 0x0020 (leBytes 4 (maskOf s.actives) ++ leBytes 2 16 ++ leBytes 2 0)] ++
  (s.sched.polders.filter (fun e => seen e.1)).map (fun e =>
    almEntry 0x0021 (leBytes 1 e.1 ++ leBytes 1 0 ++ leBytes 2 e.2.eCount ++ leBytes 4 e.2.dayUs ++ leBytes 8 e.2.units.toNat ++
      leBytes 8 e.2.nFeast.toNat ++ leBytes 8 e.2.nExcl.toNat ++ leBytes 4 (view.elim 0 (fun l => s.shareOf l e.1)) ++ leBytes 4 0)) ++
  (if s.pool.frozen then s.pool.carve.filter (fun e => seen e.1) else []).map (fun e =>
    almEntry 0x0022 (leBytes 1 e.1 ++ leBytes 7 0 ++ leBytes 8 e.2.1 ++ leBytes 8 e.2.2)) ++
  [almEntry 0x0030 (leBytes 4 (0x1FF + cq4) ++ leBytes 4 (0x1D8 + cq4))] ++
  (s.links.tab.filter (fun e => s.linkExists e.1)).map (fun e => almEntry 0x0040 (s.linkEntry guest e.1 e.2)) ++
  [almEntry 0x0041 (leBytes 1 s.links.dimX ++ leBytes 1 s.links.dimY ++ leBytes 1 s.links.dimZ ++ leBytes 1 s.links.coord.1 ++
     leBytes 1 s.links.coord.2.1 ++ leBytes 1 s.links.coord.2.2 ++ leBytes 1 s.links.kind ++ leBytes 1 0),
   almEntry 0x0050 (leBytes 4 (b1 s.brg.lConf + 2 * b1 s.brg.lCq4 + 4 * b1 s.brg.lRemote + 8 * b1 s.brg.lForced + 16 * b1 s.brg.lUnpair) ++
     leBytes 1 s.brg.lClust ++ leBytes 1 s.brg.lPorts ++ leBytes 2 0 ++ leBytes 48 s.brg.lDig),
   almEntry 0x0060 (leBytes 4 s.alm.rate ++ leBytes 2 0x01E6 ++ leBytes 2 0),
   almEntry 0x0070 (leBytes 4 s.brg.romVer.toNat ++ leBytes 4 s.brg.fwVer.toNat ++ leBytes 4 s.brg.ucVer.toNat ++ leBytes 4 s.brg.ucVer.toNat ++
     leBytes 4 s.brg.mmcVer.toNat ++ leBytes 4 (b1 s.brg.golden + 2 * b1 s.brg.unpaired + 4 * b1 s.brg.maint)),
   almEntry 0x0080 (leBytes 4 65536 ++ leBytes 1 (b1 s.pool.frozen) ++ leBytes 1 s.pool.embank ++ leBytes 2 0 ++
     leBytes 4 (maskOf (tkeys s.pool.stks (·.inSvc))) ++ leBytes 4 0 ++ leBytes 8 s.usable),
   almEntry 0x0090 (leBytes 4 100000000 ++ leBytes 4 0),
   almEntry 0xFFFF []]

/-- The almanac's bytes: header (R71) and entries. -/
def State.almBytes (s : State) (view : Option Nat) : List Byte :=
  let es := s.almEntries view
  let body := es.flatten
  leBytes 4 0x4E51414C ++ leBytes 2 0x0200 ++ leBytes 2 32 ++ leBytes 4 (32 + body.length) ++ leBytes 4 es.length ++ leBytes 8 s.alm.gen.toNat ++
    leBytes 8 0 ++ body

/-! ## Writing a result into an object -/

/-- An object that a firmware packet may write: LIVE, not formatted, not a save area under save (R53, R90, R179, R188), the range inside. -/
def Mo.destOk (m : Mo) (off len : Nat) : Except Status Unit := do
  check (off + len ≤ m.len) .badParam
  check (!m.isSealed && !m.formatted && !m.saving) .badState

/-- Write bytes into an object of context `c` for a firmware packet; a refused sector faults the context (R494). -/
def State.putResult (s : State) (c : Nat) (m : Mo) (off : Nat) (d : List Byte) (res : List Nat) : State × Ans :=
  match s.writeMo m .hub off d with
  | (s1, .ok ()) => (s1, .ok res)
  | (s1, .error e) => (s1.faultCtx c e.regs, .bad e.st [])

/-- The fault register set (R495). -/
def FaultRegs.bytes (f : FaultRegs) : List Byte :=
  leBytes 2 f.status.code ++ leBytes 1 f.cls ++ leBytes 1 f.cause ++ leBytes 4 f.count.toNat ++ leBytes 8 f.disp.toNat ++ leBytes 4 f.prog.toNat ++
    leBytes 4 f.bundle ++ leBytes 2 f.engine ++ leBytes 2 f.buffer ++ leBytes 4 f.trap ++ leBytes 8 f.offset.toNat ++ leBytes 8 f.cva.toNat ++
    leBytes 8 f.lpf ++ leBytes 8 f.time.toNat ++ leBytes 1 f.srcKind ++ leBytes 1 f.src ++ leBytes 2 0 ++ leBytes 4 f.valid.toNat ++ leBytes 56 0

/-- The accounting record (R266). -/
def Acct.bytes (a : Acct) (now : Nat) : List Byte :=
  leBytes 8 a.engineNs.toNat ++ leBytes 8 a.progressHs.toNat ++ leBytes 8 a.poolRead.toNat ++ leBytes 8 a.poolWrite.toNat ++ leBytes 8 a.link.toNat ++
    leBytes 8 a.host.toNat ++ leBytes 8 a.energyUj.toNat ++ leBytes 8 a.dispatches.toNat ++ leBytes 4 a.preemptions.toNat ++
    leBytes 4 a.overruns.toNat ++ leBytes 4 a.suspensions.toNat ++ leBytes 2 a.slowdown.toNat ++ leBytes 2 a.threshold.toNat ++ leBytes 8 now ++
    leBytes 40 0

/-! ## The opcodes -/

/-- QUERY_ALMANAC: the slice's filtered almanac into an object of at least 16 KiB. -/
def opQueryAlmanac (obj : Handle) (off : Nat) (s : State) (c : Nat) : State × Ans :=
  match s.findMo c obj with
  | none => (s, .bad .badHandle [])
  | some (_, m) =>
    let d := s.almBytes (some (s.sliceOf c))
    if m.len < 16384 then (s, .bad .badParam [])
    else
      match m.destOk off d.length with
      | .error st => (s, .bad st [])
      | .ok () => (s.drew 1).putResult c m off d (leNats 8 s.alm.gen.toNat ++ leNats 4 d.length)

/-- QUERY_ALMANAC (0x80). -/
def execQueryAlmanac (h : Hdr) (obj : Handle) (off : Nat) (s : State) : Result :=
  s.packet (.queryAlmanac h obj off) (queryAlmanacInfo obj off) h fun s c _ => opQueryAlmanac obj off s c

/-- QUERY_FENCE (0x81). -/
def execQueryFence (h : Hdr) (f : Handle) (s : State) : Result :=
  s.packet (.queryFence h f) (queryFenceInfo f) h fun s c _ => answerOf s (do
    let k ← want (s.findFence c f) .badHandle
    return (s, leNats 8 k.2.value.toNat ++ [b1 k.2.faulted, 0] ++ leNats 2 k.2.status.code ++ leNats 4 0 ++ leNats 8 k.2.disp.toNat))

/-- QUERY_CONTEXT: the fault register set and the accounting record of a context of the slice, its running work counted up to now (R95, R264, R266,
R495; log entry 24), to a guest as to slice 0 (log entry 204). -/
def opQueryContext (target obj : Handle) (off : Nat) (s : State) (c : Nat) : State × Ans :=
  match s.findCtxIn (s.sliceOf c) target, s.findMo c obj with
  | some (k, x), some (_, m) =>
    (match m.destOk off 256 with
      | .error st => (s, .bad st [])
      | .ok () =>
        let owed := ((s.sched.disps.filter (fun d => d.ctx == k)).map s.owed).sum
        let a := { x.acct with engineNs := x.acct.engineNs + BitVec.ofNat 64 owed }
        s.putResult c m off (x.fault.bytes ++ a.bytes s.now) (leNats 4 256))
  | _, _ => (s, .bad .badHandle [])

/-- QUERY_CONTEXT (0x82). -/
def execQueryContext (h : Hdr) (target obj : Handle) (off : Nat) (s : State) : Result :=
  s.packet (.queryContext h target obj off) (queryContextInfo target obj off) h fun s c _ => opQueryContext target obj off s c

/-- A memory object's state number (R52): 1 LIVE, 2 SEALED, 3 ORPHANED. -/
def Mo.stateNo (m : Mo) : Nat := if m.freed then 3 else if m.isSealed then 2 else 1

/-- QUERY_MO (0x83); the count includes the reference that this packet holds (R54). -/
def execQueryMo (h : Hdr) (obj : Handle) (s : State) : Result :=
  s.packet (.queryMo h obj) (queryMoInfo obj) h fun s c _ => answerOf s (do
    let m ← want (s.findMo c obj) .badHandle
    return (s, [m.2.stateNo, m.2.ty, m.2.flags.toNat, 0] ++ leNats 4 (m.2.refs + 1) ++ leNats 8 m.2.len))

/-- The number of a queue state (R49). -/
def QState.no : QState → Nat
  | .stopped => 0 | .running => 1 | .waiting => 2 | .halted => 3 | .destroying => 4

/-- QUERY_QUEUE (0x84). -/
def execQueryQueue (h : Hdr) (queue : Handle) (s : State) : Result :=
  s.packet (.queryQueue h queue) (queryQueueInfo queue) h fun s c _ => answerOf s (do
    let q ← want ((s.findQueue queue).filter (fun e => s.sliceOf e.2.ctx == s.sliceOf c)) .badHandle
    return (s, [q.2.state.no, q.2.cls] ++ leNats 2 q.2.halt.code ++ leNats 4 q.2.head.toNat ++ leNats 4 q.2.tail.toNat))

/-- The digest that QUERY_DIGEST writes: a SEALED MEASURED object's, or a program's. -/
def State.digestOf (s : State) (c : Nat) (h : Handle) : Except Status Nat :=
  if hType h = 6 then (want (s.findProg c h) .badHandle).map (·.2.digest)
  else do
    let m ← want (s.findMo c h) .badHandle
    check (m.2.isSealed && m.2.flags.getLsbD 3) .badState
    return m.2.digest

/-- QUERY_DIGEST. -/
def opQueryDigest (src dst : Handle) (off : Nat) (s : State) (c : Nat) : State × Ans :=
  match (do
    let d ← s.digestOf c src
    let m ← want (s.findMo c dst) .badHandle
    m.2.destOk off 48
    return (d, m.2) : Except Status (Nat × Mo)) with
  | .error st => (s, .bad st [])
  | .ok (d, m) => s.putResult c m off (leBytes 48 d) []

/-- QUERY_DIGEST (0x85). -/
def execQueryDigest (h : Hdr) (src dst : Handle) (off : Nat) (s : State) : Result :=
  s.packet (.queryDigest h src dst off) (queryDigestInfo src dst off) h fun s c _ => opQueryDigest src dst off s c

end Sys2Proof.Machine
end

