-- ==== Sys2Proof/Machine/Fences.lean ====
section
/-!
DEFINITION. The fence opcodes (R57 to R60, R93).
-/

namespace Sys2Proof.Machine

/-- Arm a notification of context `c` on fence `f`, or post it at once where its target is reached (R60). It uses a notification record either
way, so it fails where none is free (R36; log entry 193). A record posted at once holds in DETAIL the counter of this moment: R63 says 'at the
signal', and the spec keeps no time of an earlier signal (log entry 198). -/
def State.arm (s : State) (c f : Nat) (target cookie : DWord) : Except Status State := do
  let x ← want (s.fence? f) .badHandle
  check (!x.faulted) .faulted
  check (s.noteUse < noteCount) .noSlot
  if target ≤ x.value then return s.postEvent c (mkNote 1 .ok (s.fenceHandle f) cookie x.value s.time)
  return (s.onObjs fun o => { o with notes := o.notes ++ [{ fence := f, target := target, cookie := cookie, ctx := c }] }).incFence f

/-- FENCE_SIGNAL (0x60): applied once every earlier work packet of the queue has completed (R84); its result halts nothing (R82). -/
def opFenceSignal (h : Hdr) (s : State) (c : Nat) (n : Word) : State × Ans :=
  match s.fenceOf h c with
  | none => (s, .bad .badParam [])
  | some f =>
    let p : PendSig := { order := s.sched.order, count := n, tag := h.tag, fence := f, value := h.fval }
    ((s.modQueue h.q fun y => { y with signals := y.signals ++ [p] }).flushSignals h.q, .later)

/-- FENCE_SIGNAL. -/
def execFenceSignal (h : Hdr) (s : State) : Result := s.packet (.fenceSignal h) fenceSignalInfo h (opFenceSignal h)

/-- FENCE_WAIT (0x61, R50, R59): passes, waits, or halts the queue on a FAULTED fence. -/
def opFenceWait (h : Hdr) (fh : Handle) (target : DWord) (s : State) (c : Nat) (n : Word) : State × Ans :=
  match s.findFenceWait c fh with
  | none => (s, .bad .badHandle [])
  | some (f, x) =>
    let v := leNats 8 x.value.toNat
    if x.faulted then
      (((s.modQueue h.q fun y => { y with state := .halted, halt := .faulted }).reply h.q n h.tag 0x61 .faulted 0 v).postEvent c
        (mkEv 2 x.status fh 0 x.value x.disp), .later)
    else if target ≤ x.value then (s, .ok v)
    else
      ((s.modQueue h.q fun y => { y with state := .waiting, wait := some { fence := f, target := target, count := n, tag := h.tag } }).incFence f,
        .later)

/-- FENCE_WAIT. -/
def execFenceWait (h : Hdr) (f : Handle) (target : DWord) (s : State) : Result :=
  s.packet (.fenceWait h f target) (fenceWaitInfo f target) h (opFenceWait h f target)

/-- FENCE_NOTIFY (0x62, R60). It may name a fence of another live context of the slice, as a FENCE_WAIT may (R39 check 4 speaks of 'a fence
that is being waited on'; log entry 199). -/
def execFenceNotify (h : Hdr) (f : Handle) (target cookie : DWord) (s : State) : Result :=
  s.packet (.fenceNotify h f target cookie) (fenceNotifyInfo f target cookie) h fun s c _ => answerOf s (do
    let k ← want (s.findFenceWait c f) .badHandle
    let s1 ← s.arm c k.1 target cookie
    return (s1, []))

/-- FENCE_RESET (R58): only at 2^64 - 1, ACTIVE, with nobody waiting. -/
def opFenceReset (f : Handle) (val : DWord) (s : State) (c : Nat) : Except Status (State × List Nat) := do
  let k ← want (s.findFence c f) .badHandle
  check (!k.2.faulted && k.2.value == BitVec.allOnes 64) .badState
  check (!s.objs.queues.any (fun e => e.2.wait.any (fun w => w.fence == k.1)) && !s.objs.notes.any (fun n => n.fence == k.1)) .busy
  return (s.modFence k.1 fun y => { y with value := val }, [])

/-- FENCE_RESET (0x63). -/
def execFenceReset (h : Hdr) (f : Handle) (val : DWord) (s : State) : Result :=
  s.packet (.fenceReset h f val) (fenceResetInfo f val) h fun s c _ => answerOf s (opFenceReset f val s c)

end Sys2Proof.Machine
end

