-- ==== Sys2Proof/Machine/Dispatches.lean ====
section
/-!
DEFINITION. Work packets as they are decoded: DISPATCH (R92, R150, R171, R251, R517), MO_FILL, MO_COPY (R90), MO_PLACE_HINT (R222), and the
end of mover work.
-/

namespace Sys2Proof.Machine

/-! ## Accepting work -/

/-- An accepted work packet before its opcode fills in the rest (R75). -/
def State.blankDisp (s : State) (h : Hdr) (c : Nat) (n : Word) (w : Work) : Disp :=
  { ref := s.dref h.q n, ctx := c, queue := h.q, order := s.sched.order, cls := match s.queue? h.q with | some q => q.cls | none => 0
    polder := 16, work := w, fence := s.fenceOf h c, fval := h.fval, count := 0, engines := [], state := .pending, asShare := false
    quiesced := false, waitRun := false, moRefs := [], fRefs := (s.fenceOf h c).toList, binds := [], engs := [], saved := [], staged := []
    reds := [], started := false, lastChg := s.now, preAt := 0, stores := 0, sent := false, kvRes := 0, kvHead := [], kvEngs := [], mover := none }

/-- A work packet as it is entered: it names an object once, however often it stands in the packet (R54, R55). -/
def Disp.named (d : Disp) : Disp := { d with moRefs := d.moRefs.dedup, fRefs := d.fRefs.dedup }

/-- The cluster whose movers and CSQ a work packet without engines uses: a free value's, of those that are awake; where none is, the cluster wakes
(log entry 258). -/
def State.pickMover (s : State) (d : Disp) : Option Nat :=
  if d.work.onMovers then
    let up := s.actives.filter fun c => decide ((s.clu c).st ≤ 1)
    nth (if up = [] then s.actives else up) s.peek
  else none

/-- Enter a work packet: it takes its references (R54) and, where it has no engines, a cluster's movers. -/
def State.accept (s : State) (d0 : Disp) : State :=
  let d := { d0.named with mover := s.pickMover d0 }
  let s0 := if d.work.onMovers then (s.drew 1).idleFrom d.mover.toList else s
  let s1 := d.fRefs.foldl State.incFence (d.moRefs.foldl State.incMo (d.mover.toList.foldl State.wakeCluster s0))
  let s2 := match d.work with | .program p _ _ => s1.incProg p | _ => s1
  s2.onSched fun x => { x with disps := x.disps ++ [d], order := x.order + 1 }

/-- NOTIFY's arming, as the last check (R60, R517 step 11). -/
def State.notify (s : State) (h : Hdr) (c : Nat) (cookie : DWord) : Except Status State :=
  if h.flags.getLsbD 0 then
    match s.fenceOf h c with
    | some f => s.arm c f h.fval cookie
    | none => .error .badParam
  else .ok s

/-- Accept a work packet, or fail it with a status. -/
def acceptOr (s : State) (r : Except Status (State × Disp)) : State × Ans :=
  match r with
  | .ok (s1, d) => (s1.accept d, .ok (leNats 8 d.ref.toNat))
  | .error st => (s, .bad st [])

/-! ## Admission of a class in a polder (R251) -/

/-- The queue's class admits work in polder `p`: `prog` is the dispatch's program, none for a KV operation. -/
def State.classOk (s : State) (cls c p : Nat) (prog : Option Nat) : Bool :=
  match cls with
  | 0 => s.shareOf (s.sliceOf c) p != 0
  | 1 => s.sched.adms.any (fun a => a.ctx == c && a.polder == p && a.feast && a.prog == prog)
  | _ => s.sched.adms.any (fun a => a.ctx == c && a.polder == p && !a.feast && (a.prog == none || a.prog == prog))

/-! ## DISPATCH -/

/-- One save-area slot (R52, R178). -/
def saveSlot : Nat := 4325376

/-- The rows of R171 for one binding. -/
def bindOk (g : Program) (b : Bind) (m : Mo) : Except Status Unit := do
  let e ← want (g.bufs.find? (fun e => e.index == b.index)) .badParam
  check (e.ty = 255 || e.ty = m.ty) .badParam
  check (!m.flags.getLsbD 0 || e.hostOk) .badParam
  check (b.off % 2 ^ e.align = 0 && b.off ≤ m.len && e.minLen ≤ m.len - b.off) .badParam
  check (!e.wr || (m.flags.getLsbD 1 && !m.isSealed)) .denied

/-- The bindings in packet order; a second binding of a buffer index fails (R92). -/
def bindAll (g : Program) : List (Bind × Mo) → Tab Desc → Except Status (Tab Desc)
  | [], t => .ok t
  | (b, m) :: l, t => do
    bindOk g b m
    check (!thas t b.index) .badParam
    let e ← want (g.bufs.find? (fun e => e.index == b.index)) .badParam
    bindAll g l (tset t b.index { base := m.base + b.off, len := m.len - b.off, obj := b.obj, rd := e.rd, wr := e.wr })

/-- A handle that may be null: its object, where it is not. -/
def State.findMoOpt (s : State) (c : Nat) (h : Handle) : Except Status (Option (Nat × Mo)) :=
  if h = 0 then .ok none else (want (s.findMo c h) .badHandle).map some

/-- The objects of the bindings that are not null. -/
def State.bindMos (s : State) (c : Nat) : List Bind → Except Status (List (Bind × Mo))
  | [] => .ok []
  | b :: l => do
    let m ← s.findMoOpt c b.obj
    let r ← s.bindMos c l
    return match m with | some x => (b, x.2) :: r | none => r

/-- DISPATCH's checks in the order of R517. -/
def opDispatch (h : Hdr) (a : DispArgs) (s : State) (c : Nat) (n : Word) : Except Status (State × Disp) := do
  let g ← want (s.findProg c a.program) .badHandle
  let sv ← s.findMoOpt c a.save
  let bs ← s.bindMos c a.binds
  check (!s.brg.maint) .heldVersion
  check (!s.actives.isEmpty) .notLicensed
  let p ← want (s.polder? a.polder) .badParam
  check (1 ≤ a.count && a.count ≤ p.eCount) .badParam
  check (s.classOk ((s.queue? h.q).elim 0 (·.cls)) c a.polder (some g.1)) .denied
  check (g.2.engMin ≤ a.count && a.count ≤ g.2.engMax && a.entry < g.2.blocks.length) .badParam
  check (!g.2.fmtMask.getLsbD 9 || s.brg.lCq4) .notLicensed
  let sa ← want (sv.filter (fun m => m.2.ty == 4 && decide (saveSlot * a.count ≤ m.2.len))) .badState
  let t ← bindAll g.2 bs []
  check (g.2.bufs.all (fun e => e.optional || thas t e.index)) .badParam
  let s1 ← s.notify h c a.cookie
  let d := s.blankDisp h c n (.program g.1 a.entry sa.1)
  return (s1, { d with polder := a.polder, count := a.count, binds := t, moRefs := sa.1 :: bs.map (fun b => hSlot b.1.obj) })

/-- DISPATCH (0x40). -/
def execDispatch (h : Hdr) (a : DispArgs) (s : State) : Result :=
  s.packet (.dispatch h a) (dispatchInfo a) h fun s c n => acceptOr s (opDispatch h a s c n)

/-! ## MO_FILL, MO_COPY, MO_PLACE_HINT -/

/-- MO_FILL's checks (R90, R179, R188, R446). -/
def opMoFill (h : Hdr) (obj : Handle) (val : Byte) (off len : Nat) (s : State) (c : Nat) (n : Word) : Except Status (State × Disp) := do
  let m ← want (s.findMo c obj) .badHandle
  check (!s.brg.maint) .heldVersion
  m.2.destOk off len
  return (s, { s.blankDisp h c n (.fill m.1 val off len) with state := .running, moRefs := [m.1] })

/-- MO_FILL (0x20). -/
def execMoFill (h : Hdr) (obj : Handle) (val : Byte) (off len : Nat) (s : State) : Result :=
  s.packet (.moFill h obj val off len) (moFillInfo obj val off len) h fun s c n => match acceptOr s (opMoFill h obj val off len s c n) with
    | (s1, .ok _) => (s1, .ok [])
    | r => r

/-- MO_COPY's checks (R90, R179, R188, R446). -/
def opMoCopy (h : Hdr) (src dst : Handle) (srcOff dstOff len : Nat) (s : State) (c : Nat) (n : Word) : Except Status (State × Disp) := do
  let a ← want (s.findMo c src) .badHandle
  let b ← want (s.findMo c dst) .badHandle
  check (!s.brg.maint) .heldVersion
  check (srcOff + len ≤ a.2.len) .badParam
  b.2.destOk dstOff len
  return (s, { s.blankDisp h c n (.copy a.1 b.1 srcOff dstOff len) with state := .running, moRefs := [a.1, b.1] })

/-- MO_COPY (0x21). -/
def execMoCopy (h : Hdr) (src dst : Handle) (srcOff dstOff len : Nat) (s : State) : Result :=
  s.packet (.moCopy h src dst srcOff dstOff len) (moCopyInfo src dst srcOff dstOff len) h fun s c n => match acceptOr s (opMoCopy h src dst srcOff dstOff len s c n) with
    | (s1, .ok _) => (s1, .ok [])
    | r => r

/-- MO_PLACE_HINT (0x22, R222): the policy of every frame, and moves of those that lie away from their new stack. -/
def opMoPlaceHint (obj : Handle) (policy : Nat) (s : State) (c : Nat) : Except Status (State × List Nat) := do
  let m ← want (s.findMo c obj) .badHandle
  check (policy ≤ 2) .badParam
  let s1 := s.modMo m.1 fun x => { x with policy := policy }
  if m.2.ty = 1 then return (s1, [])
  let fs := s.moFrames c m.1
  let s2 := fs.foldl (fun a k => a.modFrame k fun f => { f with policy := policy }) s1
  if policy = 0 then return (s2, [])
  return (fs.foldl (fun a k => match a.frame? k with
    | some f => (match a.ownPolicy k f .hub with
        | some d => if policy = 1 ∨ ((a.mo? m.1).bind (·.home)).isSome then a.queueMove k d true else a
        | none => a)
    | none => a) s2, [])

/-- MO_PLACE_HINT. -/
def execMoPlaceHint (h : Hdr) (obj : Handle) (policy : Nat) (s : State) : Result :=
  s.packet (.moPlaceHint h obj policy) (moPlaceHintInfo obj policy) h fun s c _ => answerOf s (opMoPlaceHint obj policy s c)

/-- Who makes the accesses of a work packet: one of its clusters. -/
def Disp.who (d : Disp) : By :=
  match d.engines, d.mover with
  | e :: _, _ => .cluster (e / 16)
  | [], some c => .cluster c
  | [], none => .hub

/-- A failed access of work packet `d`, for the fault registers. -/
def Disp.accRegs (d : Disp) (e : AccErr) : FaultRegs :=
  let r := e.regs
  if e.lost then r else { r with disp := d.ref, valid := r.valid ||| 1 }

/-- The work of a fill or a copy would write a KV_CACHE object that a FORMAT took over after the packet was accepted (R188), or a save area whose
first save has begun since (R179). -/
def State.ontoKv (s : State) (w : Work) : Bool :=
  match w with
  | .fill o .. => (s.mo? o).any (fun m => m.formatted || m.saving)
  | .copy _ b .. => (s.mo? b).any (fun m => m.formatted || m.saving)
  | _ => false

/-- MO_FILL_COPY_WORK_END: the bytes are written and the packet's fence signals; a refused sector faults the context (R90, R494), with no dispatch
involved (R495). A destination that has become a formatted KV_CACHE object, or a save area in use, fails it with BAD_STATE (R179, R188; log entry
210). -/
def execMoFillCopyWorkEnd (disp : DWord) (s : State) : Result :=
  match s.disp? disp with
  | none => .next s
  | some d =>
    if d.state ≠ .running then .next s
    else if s.ontoKv d.work then .next (s.endDisp d (some .badState)).finish
    else
      let who := d.who
      let run : Option (State × Except AccErr Unit) := match d.work with
        | .fill o v off len => (s.mo? o).map fun m => s.writeMo m who off (List.replicate len v)
        | .copy a b so dO len =>
          (s.mo? a).bind fun x => (s.mo? b).map fun y =>
            match s.readMo x who so len with
            | (s1, .ok bs) => s1.writeMo y who dO bs
            | (s1, .error e) => (s1, .error e)
        | _ => none
      match run with
      | none => .next s
      | some (s1, .ok ()) => .next (s1.endDisp d none).finish
      | some (s1, .error e) => .next ((s1.enterFaultBy d.ctx e.regs d.ref).settle).finish

end Sys2Proof.Machine
end

