-- ==== Sys2Proof/Machine/Fp.lean ====
section
/-!
DEFINITION. Number formats and arithmetic (spec/04): formats and rounding (R108 to R114, R127 to R130), FP32 operations (R134), the
long-window accumulator (R118 to R125), quantisation (R131, R132), compensated pairs (R130, R137). Values are exact until they are rounded.
-/

namespace Sys2Proof.Machine

/-! ## Exact values -/

/-- A decoded value: NaN, an infinity, or (-1)^neg * m * 2^e exactly. -/
inductive Fv where
  | nan
  | inf (neg : Bool)
  | num (neg : Bool) (m : Nat) (e : Int)
  deriving DecidableEq, Repr

/-- A floating-point format (R110): widths, bias; `kind` 0 has no specials, 1 is E4M3's one NaN, 2 is IEEE's. -/
structure Fmt where
  eb   : Nat
  mb   : Nat
  bias : Int
  kind : Nat

/-- The formats of R110. -/
def Fmt.e2m1 : Fmt := { eb := 2, mb := 1, bias := 1, kind := 0 }
/-- E2M3. -/
def Fmt.e2m3 : Fmt := { eb := 2, mb := 3, bias := 1, kind := 0 }
/-- E3M2. -/
def Fmt.e3m2 : Fmt := { eb := 3, mb := 2, bias := 3, kind := 0 }
/-- E4M3. -/
def Fmt.e4m3 : Fmt := { eb := 4, mb := 3, bias := 7, kind := 1 }
/-- E5M2. -/
def Fmt.e5m2 : Fmt := { eb := 5, mb := 2, bias := 15, kind := 2 }
/-- BF16. -/
def Fmt.bf16 : Fmt := { eb := 8, mb := 7, bias := 127, kind := 2 }
/-- FP16. -/
def Fmt.fp16 : Fmt := { eb := 5, mb := 10, bias := 15, kind := 2 }
/-- FP32. -/
def Fmt.fp32 : Fmt := { eb := 8, mb := 23, bias := 127, kind := 2 }

/-- Decode the bits of a format (R110). -/
def Fmt.decode (f : Fmt) (v : Nat) : Fv :=
  let neg := bits v (f.eb + f.mb) 1 = 1
  let ef := bits v f.mb f.eb
  let m := bits v 0 f.mb
  if f.kind = 2 ∧ ef = 2 ^ f.eb - 1 then (if m = 0 then .inf neg else .nan)
  else if f.kind = 1 ∧ ef = 2 ^ f.eb - 1 ∧ m = 2 ^ f.mb - 1 then .nan
  else if ef = 0 then .num neg m (1 - f.bias - f.mb)
  else .num neg (2 ^ f.mb + m) (ef - f.bias - f.mb)

/-- The exponent field and mantissa of the largest finite value. -/
def Fmt.top (f : Fmt) : Nat :=
  match f.kind with
  | 0 => 2 ^ (f.eb + f.mb) - 1
  | 1 => 2 ^ (f.eb + f.mb) - 2
  | _ => (2 ^ f.eb - 1) * 2 ^ f.mb - 1

/-- The bits of infinity, for the IEEE formats. -/
def Fmt.infBits (f : Fmt) : Nat := (2 ^ f.eb - 1) * 2 ^ f.mb

/-- The canonical NaN (R126). -/
def Fmt.nanBits (f : Fmt) : Nat :=
  match f.kind with
  | 1 => 2 ^ (f.eb + f.mb) - 1
  | _ => (2 ^ f.eb - 1) * 2 ^ f.mb + 2 ^ (f.mb - 1)

/-- The sign bit of a format. -/
def Fmt.signBit (f : Fmt) (neg : Bool) : Nat := if neg then 2 ^ (f.eb + f.mb) else 0

/-! ## Rounding (R127 to R129) -/

/-- floor(log2 (n / d)) for positive n and d. -/
def log2Ratio (n d : Nat) : Int :=
  let k : Int := (Nat.log2 n : Int) - (Nat.log2 d : Int)
  if 0 ≤ k then (if d * 2 ^ k.toNat ≤ n then k else k - 1) else (if d ≤ n * 2 ^ (-k).toNat then k else k - 1)

/-- Round n / d to an integer in a mode of R127; `rnd` is the 16-bit random value of SR. -/
def roundInt (mode rnd : Nat) (neg : Bool) (n d : Nat) : Nat :=
  let q := n / d
  let r := n % d
  if r = 0 then q
  else
    match mode with
    | 0 => if d < 2 * r ∨ (2 * r = d ∧ q % 2 = 1) then q + 1 else q
    | 1 => q
    | 2 => if neg then q + 1 else q
    | 3 => if neg then q else q + 1
    | _ => if 65536 * d ≤ 65536 * r + rnd * d then q + 1 else q

/-- What a magnitude beyond the largest finite value becomes. -/
inductive Overflow where
  /-- IEEE 754's result for the mode -/
  | ieee
  /-- infinity (R128, SAT clear) -/
  | toInf
  /-- the largest finite value (R128 with SAT, R131, R132) -/
  | sat
  deriving DecidableEq, Repr

/-- The bits of (-1)^neg * (n / d) * 2^e rounded to a format; an exact zero is +0 (R129). -/
def Fmt.roundBits (f : Fmt) (mode rnd : Nat) (ov : Overflow) (neg : Bool) (n d : Nat) (e : Int) : Nat :=
  if n = 0 then 0
  else
    let k := max (log2Ratio n d + e) (1 - f.bias)
    let q := k - f.mb
    let up := e - q
    let r := if 0 ≤ up then roundInt mode rnd neg (n * 2 ^ up.toNat) d else roundInt mode rnd neg n (d * 2 ^ (-up).toNat)
    let mag := if r < 2 ^ f.mb then r else ((k + f.bias).toNat - 1) * 2 ^ f.mb + r
    let toMax := match ov with
      | .sat => true
      | .toInf => false
      | .ieee => mode == 1 || mode == 4 || (mode == 2 && !neg) || (mode == 3 && neg)
    f.signBit neg + (if f.top < mag then (if toMax || f.kind != 2 then f.top else f.infBits) else mag)

/-- Round a value to a format's bits. -/
def Fmt.encode (f : Fmt) (mode rnd : Nat) (ov : Overflow) : Fv → Nat
  | .nan => f.nanBits
  | .inf neg => f.signBit neg + (if ov = .sat then f.top else f.infBits)
  | .num neg m e => f.roundBits mode rnd ov neg m 1 e

/-- As `encode`, an exact zero keeping its sign: the VXU's IEEE 754 results (R134; log entry 26). -/
def Fmt.encodeS (f : Fmt) (mode rnd : Nat) (ov : Overflow) : Fv → Nat
  | .num s 0 _ => f.signBit s
  | v => f.encode mode rnd ov v

/-! ## FP32 operations (R134) -/

/-- A value as a signed mantissa. -/
def smant (neg : Bool) (m : Nat) : Int := if neg then -(m : Int) else m

/-- Exact sum. -/
def Fv.add : Fv → Fv → Fv
  | .nan, _ => .nan
  | _, .nan => .nan
  | .inf a, .inf b => if a = b then .inf a else .nan
  | .inf a, _ => .inf a
  | _, .inf b => .inf b
  | .num na ma ea, .num nb mb eb =>
    let e := min ea eb
    let r := smant na ma * 2 ^ (ea - e).toNat + smant nb mb * 2 ^ (eb - e).toNat
    .num (if r = 0 then na && nb else decide (r < 0)) r.natAbs e

/-- Negation. -/
def Fv.neg : Fv → Fv
  | .nan => .nan
  | .inf a => .inf !a
  | .num a m e => .num (!a) m e

/-- Magnitude. -/
def Fv.abs : Fv → Fv
  | .nan => .nan
  | .inf _ => .inf false
  | .num _ m e => .num false m e

/-- Exact product (R125's rules for specials). -/
def Fv.mul : Fv → Fv → Fv
  | .nan, _ => .nan
  | _, .nan => .nan
  | .inf a, .inf b => .inf (a != b)
  | .inf a, .num b m _ => if m = 0 then .nan else .inf (a != b)
  | .num a m _, .inf b => if m = 0 then .nan else .inf (a != b)
  | .num a m e, .num b n g => .num (a != b) (m * n) (e + g)

/-- A value is an exact zero. -/
def Fv.isZero : Fv → Bool
  | .num _ m _ => m == 0
  | _ => false

/-- The value is NaN or infinite. -/
def Fv.special : Fv → Bool
  | .num .. => false
  | _ => true

/-- The value is +0. -/
def Fv.posZero : Fv → Bool
  | .num s m _ => !s && m == 0
  | _ => false

/-- Sum with IEEE 754's sign of an exact zero in a rounding mode. -/
def Fv.addM (mode : Nat) (a b : Fv) : Fv :=
  match a.add b with
  | .num s 0 e => .num (s || (mode == 2 && !(a.posZero && b.posZero))) 0 e
  | v => v

/-- A strict order of the non-NaN values, -0 below +0 (R134). -/
def Fv.lt : Fv → Fv → Bool
  | .nan, _ => false
  | _, .nan => false
  | .inf a, .inf b => a && !b
  | .inf a, _ => a
  | _, .inf b => !b
  | .num na ma ea, .num nb mb eb =>
    let e := min ea eb
    let x := smant na ma * 2 ^ (ea - e).toNat
    let y := smant nb mb * 2 ^ (eb - e).toNat
    decide (x < y) || (x == 0 && y == 0 && na && !nb)

/-- Equality of the non-NaN values; -0 differs from +0, being below it (R134). -/
def Fv.eq (a b : Fv) : Bool := a != .nan && b != .nan && !a.lt b && !b.lt a

/-- Minimum and maximum (R134). -/
def Fv.pick (least : Bool) (a b : Fv) : Fv :=
  if a = .nan ∨ b = .nan then .nan else if (if least then b.lt a else a.lt b) then b else a

/-- Decode a lane. -/
def f32 (w : Word) : Fv := Fmt.fp32.decode w.toNat

/-- Round to a lane in a mode. -/
def toF32 (mode : Nat) (v : Fv) : Word := BitVec.ofNat 32 (Fmt.fp32.encodeS mode 0 .ieee v)

/-- Quotient rounded to FP32. -/
def divF32 (mode : Nat) (a b : Fv) : Word :=
  match a, b with
  | .nan, _ => toF32 0 .nan
  | _, .nan => toF32 0 .nan
  | .inf _, .inf _ => toF32 0 .nan
  | .inf s, .num t _ _ => toF32 0 (.inf (s != t))
  | .num s _ _, .inf t => toF32 0 (.num (s != t) 0 0)
  | .num s m e, .num t n g =>
    if n = 0 then (if m = 0 then toF32 0 .nan else toF32 0 (.inf (s != t)))
    else if m = 0 then toF32 0 (.num (s != t) 0 0)
    else BitVec.ofNat 32 (Fmt.fp32.roundBits mode 0 .ieee (s != t) m n (e - g))

/-- The square root of m * 2^e to 64 bits and more, as a mantissa with a sticky last bit. -/
def sqrtFix (m : Nat) (e : Int) : Nat × Int :=
  let (m1, e1) := if e % 2 = 0 then (m, e) else (2 * m, e - 1)
  let n := m1 * 2 ^ 128
  let r := Nat.sqrt n
  (2 * r + (if r * r = n then 0 else 1), (e1 - 128) / 2 - 1)

/-- Square root rounded to FP32. -/
def sqrtF32 (mode : Nat) : Fv → Word
  | .nan => toF32 0 .nan
  | .inf s => if s then toF32 0 .nan else toF32 0 (.inf false)
  | .num s m e =>
    if m = 0 then toF32 0 (.num s 0 0)
    else if s then toF32 0 .nan
    else let r := sqrtFix m e; BitVec.ofNat 32 (Fmt.fp32.roundBits mode 0 .ieee false r.1 1 r.2)

/-- floor, exactly. -/
def floorF32 (w : Word) : Word :=
  match f32 w with
  | .num s m e =>
    if 0 ≤ e then toF32 0 (.num s m e)
    else
      let r := Int.fdiv (smant s m) (2 ^ (-e).toNat)
      toF32 0 (.num s r.natAbs 0)
  | v => toF32 0 v

/-- A lane without its NaN payload (R126). -/
def canonNan (w : Word) : Word := if f32 w = .nan then 0x7FC00000 else w

/-! ## The long-window accumulator (R118 to R125) -/

/-- A cleared lane (R124). -/
def Lane.clear : Lane := { z := 0, ceil := 0, empty := true, nan := false, pinf := false, ninf := false, count := 0 }

/-- The 256 bits of a lane (R118): Z in [191:0], CEIL in [201:192], the flags in [205:202], COUNT in [226:206]. -/
def Lane.toBits (l : Lane) : BitVec 256 :=
  BitVec.ofNat 256 ((BitVec.ofInt 192 l.z).toNat + 2 ^ 192 * (BitVec.ofInt 10 l.ceil).toNat + 2 ^ 202 * b1 l.empty + 2 ^ 203 * b1 l.nan +
    2 ^ 204 * b1 l.pinf + 2 ^ 205 * b1 l.ninf + 2 ^ 206 * (l.count % 2 ^ 21))

/-- The lane that 256 bits hold. -/
def Lane.ofBits (b : BitVec 256) : Lane :=
  { z := (b.extractLsb' 0 192).toInt, ceil := (b.extractLsb' 192 10).toInt, empty := b.getLsbD 202, nan := b.getLsbD 203, pinf := b.getLsbD 204
    ninf := b.getLsbD 205, count := (b.extractLsb' 206 21).toNat }

/-- One term of a handshake (R119, R120): special products it holds, or the exact sum v * 2^e with its ceiling X + p. -/
structure Term where
  nan  : Bool
  pinf : Bool
  ninf : Bool
  v    : Int
  e    : Int
  ceil : Int

/-- floor(v * 2^e). -/
def floorShift (v e : Int) : Int := if 0 ≤ e then v * 2 ^ e.toNat else Int.fdiv v (2 ^ (-e).toNat)

/-- A term holds a special product. -/
def Term.special (t : Term) : Bool := t.nan || t.pinf || t.ninf

/-- One handshake of R120 on a lane; none where COUNT would pass 2^20 (R123). -/
def Lane.hand (l : Lane) (products : Nat) (ts : List Term) : Option Lane :=
  if 2 ^ 20 < l.count + products then none
  else
    let l1 := { l with
      count := l.count + products, nan := l.nan || ts.any (·.nan), pinf := l.pinf || ts.any (·.pinf), ninf := l.ninf || ts.any (·.ninf) }
    match ts.filter (fun t => !t.special) with
    | [] => some l1
    | t :: r =>
      let top := r.foldl (fun a x => max a x.ceil) t.ceil
      let l2 :=
        if l1.empty then { l1 with ceil := top, empty := false }
        else if l1.ceil < top then { l1 with z := floorShift l1.z (l1.ceil - top), ceil := top }
        else l1
      some { l2 with z := (t :: r).foldl (fun z x => z + floorShift x.v (x.e + 171 - l2.ceil)) l2.z }

/-- An FP32 value as a term (R124): X is its unbiased exponent, the minimum normal one for subnormals and zero, and p is 1. -/
def loadTerm (v : Fv) : Term :=
  match v with
  | .nan => { nan := true, pinf := false, ninf := false, v := 0, e := 0, ceil := 0 }
  | .inf s => { nan := false, pinf := !s, ninf := s, v := 0, e := 0, ceil := 0 }
  | .num s m e =>
    { nan := false, pinf := false, ninf := false, v := smant s m, e := e
      ceil := (if m = 0 then -126 else max ((Nat.log2 m : Int) + e) (-126)) + 1 }

/-- Load one FP32 value, or a pair as two terms (R124). -/
def Lane.load (l : Lane) (vs : List Fv) : Option Lane := l.hand vs.length (vs.map loadTerm)

/-- Scale by 2^k (R124); none outside -512 to 511. -/
def Lane.scale (l : Lane) (k : Int) : Option Lane :=
  if l.empty then some l
  else if l.ceil + k < -512 ∨ 511 < l.ceil + k then none
  else some { l with ceil := l.ceil + k }

/-- The exact lane value at write time (R125). -/
def Lane.value (l : Lane) : Fv :=
  if l.nan ∨ (l.pinf ∧ l.ninf) then .nan
  else if l.pinf then .inf false
  else if l.ninf then .inf true
  else if l.empty then .num false 0 0
  else .num (decide (l.z < 0)) l.z.natAbs (l.ceil - 171)

/-- A compensated pair (R130): RNE32 of the value, then of the remainder, each under the overflow rule (log entry 207). -/
def pairOf (v : Fv) (ov : Overflow) : Word × Word :=
  let hi := BitVec.ofNat 32 (Fmt.fp32.encode 0 0 ov v)
  (hi, if (f32 hi).special then 0 else BitVec.ofNat 32 (Fmt.fp32.encode 0 0 ov (v.add (f32 hi).neg)))

/-! ## Pairs across engines (R137, R138) -/

/-- FP32 sum and difference with RNE. -/
def addW (a b : Word) : Word := toF32 0 ((f32 a).add (f32 b))
/-- FP32 difference with RNE. -/
def subW (a b : Word) : Word := toF32 0 ((f32 a).add (f32 b).neg)

/-- Combine two pairs (R137). -/
def combine (a b : Word × Word) : Word × Word :=
  let s := addW a.1 b.1
  if (f32 s).special then (s, 0)
  else
    let bb := subW s a.1
    let e := addW (subW a.1 (subW s bb)) (subW b.1 bb)
    let e := addW e (addW a.2 b.2)
    let h := addW s e
    if (f32 h).special then (h, 0) else (h, subW e (subW h s))

/-- The value of a pair (R138). -/
def pairValue (p : Word × Word) : Fv := if (f32 p.1).special then f32 p.1 else (f32 p.1).add (f32 p.2)

/-- Combine a list of pairs in an order and grouping that free values choose, from counter `k` on (R139). -/
def combineAll : Nat → Nat → List (Word × Word) → Word × Word
  | 0, _, l => l.headD (0, 0)
  | n + 1, k, l =>
    match l with
    | [] => (0, 0)
    | [p] => p
    | _ =>
      let i := Config.free k % l.length
      let l1 := l.eraseIdx i
      let j := Config.free (k + 1) % l1.length
      combineAll n (k + 2) (combine (l.getD i (0, 0)) (l1.getD j (0, 0)) :: l1.eraseIdx j)

/-! ## Element formats and rows (R108, R111 to R119) -/

/-- Bits of an element of a format code. -/
def elemBits : Nat → Nat
  | 0 => 4 | 1 => 6 | 2 => 6 | 3 => 8 | 4 => 8 | 5 => 8 | 6 => 16 | 7 => 16 | 8 => 32 | 9 => 4 | _ => 0

/-- The block size of a format code; 1 where it has none. -/
def blockSize : Nat → Nat
  | 0 => 32 | 1 => 32 | 2 => 32 | 3 => 32 | 4 => 32 | 9 => 16 | _ => 1

/-- Bytes of the row scale. -/
def rowScaleBytes : Nat → Nat
  | 5 => 4 | 9 => 2 | _ => 0

/-- Bytes of a row of K elements without its row scale (R112). -/
def segBytes (fmt k : Nat) : Nat := k * elemBits fmt / 8 + (if blockSize fmt = 1 then 0 else k / blockSize fmt)

/-- Decode one element's bits, before any scale. -/
def elemValue (fmt v : Nat) : Fv :=
  match fmt with
  | 0 => Fmt.e2m1.decode v
  | 1 => Fmt.e2m3.decode v
  | 2 => Fmt.e3m2.decode v
  | 3 => Fmt.e4m3.decode v
  | 4 => Fmt.e5m2.decode v
  | 5 => .num (decide (128 ≤ v)) (if 128 ≤ v then 256 - v else v) 0
  | 6 => Fmt.bf16.decode v
  | 7 => Fmt.fp16.decode v
  | 8 => Fmt.fp32.decode v
  | _ => Fmt.e2m1.decode v

/-- The E8M0 scale of a byte (R111). -/
def e8m0 (b : Nat) : Fv := if b = 255 then .nan else .num false 1 (b - 127)

/-- Element i of a row of K elements held as one number (R112): with its block scale applied (R113, R114), not its row scale. -/
def rowElem (fmt k : Nat) (row i : Nat) : Fv :=
  let e := elemValue fmt (bits row (elemBits fmt * i) (elemBits fmt))
  if blockSize fmt = 1 then e
  else
    let b := bits row (elemBits fmt * k + 8 * (i / blockSize fmt)) 8
    if fmt = 9 then (if Fmt.e4m3.decode b = .nan then .nan else e.mul (Fmt.e4m3.decode b)) else (if b = 255 then .nan else e.mul (e8m0 b))

/-- The scale exponent X of element i (R119): of its block scale, or of the element itself for BF16 and FP16. -/
def scaleExp (fmt k : Nat) (row i : Nat) : Int :=
  match fmt with
  | 5 => 0
  | 6 => max (bits row (16 * i + 7) 8 : Int) 1 - 127
  | 7 => max (bits row (16 * i + 10) 5 : Int) 1 - 15
  | 9 => max (bits (bits row (4 * k + 8 * (i / 16)) 8) 3 4 : Int) 1 - 7
  | _ => (bits row (elemBits fmt * k + 8 * (i / blockSize fmt)) 8 : Int) - 127

/-- q of R119. -/
def elemQ : Nat → Int
  | 0 => 3 | 1 => 3 | 2 => 5 | 3 => 9 | 4 => 16 | 5 => 8 | 9 => 4 | _ => 1

/-- The two formats pair (R115). -/
def pairs (a b : Nat) : Bool := (decide (a ≤ 4) && decide (b ≤ 4)) || (a == b && (a == 5 || a == 6 || a == 7 || a == 9))

/-- K_t of R116: products a lane takes in a handshake. -/
def ktOf (a b : Nat) : Nat :=
  if a = 9 ∨ (a = 0 ∧ b = 0) then 32 else if a = 6 ∨ a = 7 then 4 else 16

/-- Products of one term, and the number of terms of a handshake (R116, R119). -/
def termLen (a b : Nat) : Nat :=
  if a = 0 ∧ b = 0 then 32 else if a = 6 ∨ a = 7 then 1 else 16

/-- The term of products i to i + n - 1 of rows ra, rb (R119, R120). -/
def mkTerm (fa fb k ra rb i n : Nat) : Term :=
  let ps := (List.range n).map fun j => (rowElem fa k ra (i + j)).mul (rowElem fb k rb (i + j))
  let sum := ps.foldl (fun a p => if p.special then a else a.add p) (Fv.num false 0 0)
  let g : Int := if n = 32 then 5 else if n = 16 then 4 else 0
  let (v, e) := match sum with | .num s m e => (smant s m, e) | _ => (0, 0)
  { nan := ps.any (· == .nan), pinf := ps.any (· == .inf false), ninf := ps.any (· == .inf true), v := v, e := e
    ceil := scaleExp fa k ra i + scaleExp fb k rb i + elemQ fa + elemQ fb + g }

/-- Handshakes `h0` to `h0 + hs - 1` of a pass of `klen` on one lane (R120), for its two segments as numbers. -/
def laneMma (fa fb klen h0 hs ra rb : Nat) (l : Lane) : Option Lane :=
  let kt := ktOf fa fb
  let n := termLen fa fb
  (List.range hs).foldl (fun a h => a.bind fun x =>
    x.hand kt ((List.range (kt / n)).map fun t => mkTerm fa fb (klen * kt) ra rb ((h0 + h) * kt + t * n) n)) (some l)

/-! ## Quantisation (R131, R132) -/

/-- The largest magnitude of a list of finite values. -/
def amax (l : List Fv) : Fv := l.foldl (fun a v => Fv.pick false a v.abs) (.num false 0 0)

/-- MXFP8 quantisation of one block (R131): the scale byte and the elements; `rnd` are the SR values, in order. -/
def quantMx (fmt mode : Nat) (rnd : Nat → Nat) (xs : List Fv) : Nat × List Nat :=
  let f := if fmt = 3 then Fmt.e4m3 else Fmt.e5m2
  if xs.any (·.special) then (255, xs.map fun _ => 0)
  else
    match amax xs with
    | .num _ 0 _ => (0, xs.map fun _ => 0)
    | .num _ m e =>
      let k := min (max ((Nat.log2 m : Int) + e - (if fmt = 3 then 8 else 15)) (-127)) 127
      ((k + 127).toNat, xs.zipIdx.map fun x => match x.1 with
        | .num s n g => f.roundBits mode (rnd x.2) .sat s n 1 (g - k)
        | _ => 0)
    | _ => (255, xs.map fun _ => 0)

/-- Round a positive quotient up to a format, clamped to the largest finite value. -/
def Fmt.roundUp (f : Fmt) (n d : Nat) (e : Int) : Nat := f.roundBits 3 0 .sat false n d e

/-- The row scale of R132, as FP16 bits. -/
def cq4Row (xs : List Fv) : Nat :=
  match amax (xs.filter (fun v => !v.special)) with
  | .num _ 0 _ => 0x3C00
  | .num _ m e => Fmt.fp16.roundUp m 2688 e
  | _ => 0x3C00

/-- One 16-value block of R132 under row scale rm * 2^re: the block scale and the elements. -/
def cq4Block (mode : Nat) (rnd : Nat → Nat) (rm : Nat) (re : Int) (xs : List Fv) : Nat × List Nat :=
  if xs.any (·.special) then (0x7F, xs.map fun _ => 0)
  else
    match amax xs with
    | .num _ m e =>
      let b := Fmt.e4m3.roundUp m (6 * rm) (e - re)
      (b, if b = 0 then xs.map fun _ => 0
        else match Fmt.e4m3.decode b with
          | .num _ bm be => xs.zipIdx.map fun x => match x.1 with
              | .num s n g => Fmt.e2m1.roundBits mode (rnd x.2) .sat s n (bm * rm) (g - be - re)
              | _ => 0
          | _ => xs.map fun _ => 0)
    | _ => (0x7F, xs.map fun _ => 0)

/-! ## Lane generators (R170) -/

/-- One step of a generator. -/
def genStep (g : DWord) : DWord :=
  let g := g ^^^ (g <<< 13)
  let g := g ^^^ (g >>> 7)
  g ^^^ (g <<< 17)

/-- The seeded state of lane n. -/
def genSeed (s : DWord) (n : Nat) : DWord :=
  let g := s ^^^ BitVec.ofNat 64 (0x9e3779b97f4a7c15 * (n + 1))
  if g = 0 then 1 else g

end Sys2Proof.Machine
end

