-- ==== Sys2Proof/Machine/Approx.lean ====
section
/-!
DEFINITION. The approximated functions of R135. Each function's exact value is computed in fixed point (units of 2^-384), to within 2^-200; a
result is any FP32 value within the bound that R135 gives, the free value `Config.approx` saying which (log entry 3).
-/

namespace Sys2Proof.Machine

/-! ## Fixed point -/

/-- Binary places of the fixed point. -/
def fxBits : Nat := 384
/-- 1 in fixed point. -/
def fxOne : Int := 2 ^ fxBits
/-- The error that a value here may have: 2^-200. -/
def fxErr : Int := 2 ^ (fxBits - 200)
/-- A number above every FP32 value. -/
def fxHuge : Int := 2 ^ (fxBits + 200)
/-- Product. -/
def fxMul (a b : Int) : Int := Int.fdiv (a * b) fxOne
/-- Quotient. -/
def fxDiv (a b : Int) : Int := Int.fdiv (a * fxOne) b
/-- The number m * 2^e. -/
def fxNum (m e : Int) : Int := floorShift m (e + fxBits)

/-- t + s t^3/3 + t^5/5 + s t^7/7 + ..., n terms: atanh for s = 1, atan for s = -1. `p` is the next power of t, `d` its divisor. -/
def oddSeries (s q : Int) : Nat → Int → Int → Int
  | 0, _, _ => 0
  | n + 1, p, d => Int.fdiv p d + oddSeries s q n (s * fxMul p q) (d + 2)
/-- atanh of t, for |t| at most 1/3. -/
def fxAtanh (t : Int) : Int := oddSeries 1 (fxMul t t) 130 t 1
/-- atan of t, for |t| at most 1/5. -/
def fxAtan (t : Int) : Int := oddSeries (-1) (fxMul t t) 90 t 1
/-- ln 2 = 2 atanh (1/3). -/
def fxLn2 : Int := 2 * fxAtanh (Int.fdiv fxOne 3)
/-- pi = 16 atan (1/5) - 4 atan (1/239). -/
def fxPi : Int := 16 * fxAtan (Int.fdiv fxOne 5) - 4 * fxAtan (Int.fdiv fxOne 239)

/-- 1 + r/i (1 + r/(i+1) (...)), n factors. -/
def expSeries (r : Int) : Nat → Int → Int
  | 0, _ => fxOne
  | n + 1, i => fxOne + Int.fdiv (fxMul r (expSeries r n (i + 1))) i
/-- e^x for x below 2^8; 0 where x is below -300. -/
def fxExp (x : Int) : Int :=
  if x < -300 * fxOne then 0
  else let k := Int.fdiv x fxLn2; floorShift (expSeries (x - k * fxLn2) 90 1) k
/-- ln of a positive m * 2^e. -/
def fxLn (m : Nat) (e : Int) : Int :=
  let k := Nat.log2 m
  let z := fxNum m (-k)
  2 * fxAtanh (fxDiv (z - fxOne) (z + fxOne)) + (k + e) * fxLn2
/-- log2 of a positive m * 2^e. -/
def fxLog2 (m : Nat) (e : Int) : Int := fxDiv (fxLn m e) fxLn2
/-- 1 - q/(i(i+1)) (1 - q/((i+2)(i+3)) (...)), n factors: the cosine of the root of q for i = 1, its sine over the root for i = 2. -/
def trigSeries (q : Int) : Nat → Int → Int
  | 0, _ => fxOne
  | n + 1, i => fxOne - Int.fdiv (fxMul q (trigSeries q n (i + 2))) (i * (i + 1))
/-- sin of x + j pi/2. -/
def fxSin (x : Int) (j : Nat) : Int :=
  let h := Int.fdiv fxPi 2
  let k := Int.fdiv (x + Int.fdiv h 2) h
  let r := x - k * h
  let q := fxMul r r
  match Int.emod (k + j) 4 with
  | 0 => fxMul r (trigSeries q 50 2)
  | 1 => trigSeries q 50 1
  | 2 => -fxMul r (trigSeries q 50 2)
  | _ => -trigSeries q 50 1
/-- (e^2x - 1) / (e^2x + 1). -/
def fxTanh (x : Int) : Int :=
  if 100 * fxOne < x then fxOne else if x < -100 * fxOne then -fxOne
  else let t := fxExp (2 * x); fxDiv (t - fxOne) (t + fxOne)
/-- x + 2x^2/3 x + ..., the n terms of e^(x^2) erf(x) sqrt(pi)/2 from divisor d on. -/
def erfSeries (q : Int) : Nat → Int → Int → Int
  | 0, _, _ => 0
  | n + 1, p, d => p + erfSeries q n (Int.fdiv (2 * fxMul p q) (d + 2)) (d + 2)
/-- erf; 1 within 2^-200 from 12 on. -/
def fxErf (x : Int) : Int :=
  if 12 * fxOne < x then fxOne else if x < -12 * fxOne then -fxOne
  else
    let q := fxMul x x
    let root : Int := Nat.sqrt (fxPi.toNat * 2 ^ fxBits)
    fxDiv (2 * fxMul (fxExp (-q)) (erfSeries q 900 x 1)) root

/-! ## The functions -/

/-- The exact value of function `op` at the finite m * 2^e of sign s, where it is finite (R169's VOP codes). -/
def exactFx (op : Nat) (s : Bool) (m : Nat) (e : Int) : Int :=
  let x := fxNum (smant s m) e
  let far (lim : Int) (v : Unit → Int) : Int := if lim * fxOne < x then fxHuge else v ()
  match op with
  | 0x18 => fxDiv fxOne x
  | 0x19 => Nat.sqrt ((fxDiv fxOne x).toNat * 2 ^ fxBits)
  | 0x1A => far 200 fun _ => if x < -300 * fxOne then 0 else fxExp (fxMul x fxLn2)
  | 0x1B => fxLog2 m e
  | 0x1C => far 200 fun _ => fxExp x
  | 0x1D => fxLn m e
  | 0x1E => fxTanh x
  | 0x1F => if x < -200 * fxOne then 0 else fxDiv fxOne (fxOne + fxExp (-x))
  | 0x20 => fxErf x
  | 0x21 => fxSin x 0
  | _ => fxSin x 1

/-- An error bound: `halves` halves of the result's last place and `slack` in fixed point. -/
structure Bound where
  halves : Nat
  slack  : Int

/-- The bound of R135. -/
def fxBound (op : Nat) (x : Int) : Bound :=
  if op ≤ 0x1B then { halves := 2, slack := 0 }
  else if 0x21 ≤ op ∧ 2 ^ 16 * fxOne < |x| then { halves := 0, slack := fxNum 1 (-20) }
  else { halves := 4, slack := 0 }

/-- FP32 value w lies within the bound of the exact value v; an infinity stands for what lies beyond the largest finite value. -/
def within (b : Bound) (v : Int) (w : Word) : Bool :=
  match f32 w with
  | .nan => false
  | .inf s => decide ((2 ^ 128 - b.halves * 2 ^ 103) * fxOne ≤ (if s then -v else v) + b.slack + fxErr)
  | .num s m e => decide (|fxNum (smant s m) e - v| ≤ fxNum b.halves (e - 1) + b.slack + fxErr)

/-- A fixed-point value rounded to FP32 with RNE. -/
def fxRound (v : Int) : Word := BitVec.ofNat 32 (Fmt.fp32.roundBits 0 0 .ieee (decide (v < 0)) v.natAbs 1 (-fxBits))

/-- The FP32 value that the free value `w` names, where it meets the bound; else the nearest to the exact value. -/
def approxWord (b : Bound) (v : Int) (w : Word) : Word := if within b v w then w else fxRound v

/-- The special results of R135 and IEEE 754's recommendations; none where the function's exact value is finite. -/
def specialF32 (op : Nat) (v : Fv) : Option Word :=
  let zero (s : Bool) : Word := toF32 0 (.num s 0 0)
  let one (s : Bool) : Word := toF32 0 (.num s 1 0)
  let inf (s : Bool) : Word := toF32 0 (.inf s)
  let nan := toF32 0 .nan
  match v with
  | .nan => some nan
  | .inf s =>
    (match op with
      | 0x18 => some (zero s)
      | 0x19 => some (if s then nan else zero false)
      | 0x1A => some (if s then zero false else inf false)
      | 0x1B => some (if s then nan else inf false)
      | 0x1C => some (if s then zero false else inf false)
      | 0x1D => some (if s then nan else inf false)
      | 0x1F => some (if s then zero false else one false)
      | 0x21 => some nan
      | 0x22 => some nan
      | _ => some (one s))
  | .num s 0 _ =>
    (match op with
      | 0x18 => some (inf s)
      | 0x19 => some (inf s)
      | 0x1B => some (inf true)
      | 0x1C => some (one false)
      | 0x1D => some (inf true)
      | 0x1E => some (zero s)
      | 0x20 => some (zero s)
      | _ => none)
  | .num s m e =>
    if s ∧ (op = 0x19 ∨ op = 0x1B ∨ op = 0x1D) then some nan
    else if op = 0x1D ∧ fxNum m e = fxOne then some (zero false)
    else none

/-- The approximated functions by their VOP (R135, R169). -/
def approxF32 (op : Nat) (w : Word) : Word :=
  match specialF32 op (f32 w), f32 w with
  | some r, _ => r
  | none, .num s m e => approxWord (fxBound op (fxNum (smant s m) e)) (exactFx op s m e) (Config.approx op w)
  | none, _ => toF32 0 .nan

end Sys2Proof.Machine
end

