-- ==== Sys2Proof/Machine/Brient.lean ====
section
/-!
DEFINITION. Brient images (R143 to R149): the tables, the checks of PROGRAM_LOAD in the order of R148, the cheap-save size (R176).
-/

namespace Sys2Proof.Machine

/-- The little-endian number at bytes [o, o + n) of an image; bytes beyond it read 0. -/
def imgNat (d : List Byte) (o n : Nat) : Nat := leNat ((d.drop o).take n)

/-- CODE_BUNDLES. -/
def imgBundles (d : List Byte) : Nat := imgNat d 28 4
/-- The code window's length (R144). -/
def imgWindow (d : List Byte) : Nat := ceilDiv (32 * imgBundles d) 4096 * 4096

/-- The six sections: offset and length (R143 to R147). -/
def imgSections (d : List Byte) : List (Nat × Nat) :=
  [(imgNat d 24 4, 32 * imgBundles d), (imgNat d 32 4, imgNat d 36 4), (imgNat d 40 4, 16 * imgNat d 44 2),
   (imgNat d 48 4, 16 * imgNat d 52 2), (imgNat d 56 4, 24 * imgNat d 60 2), (imgNat d 64 4, imgNat d 68 4)]

/-- Two ranges share no byte. -/
def apart (a b : Nat × Nat) : Bool := a.2 == 0 || b.2 == 0 || decide (a.1 + a.2 ≤ b.1) || decide (b.1 + b.2 ≤ a.1)

/-- The header's fields and the sections meet R143 and R144. -/
def imgHeaderOk (d : List Byte) : Bool :=
  let len := imgNat d 20 4
  let secs := imgSections d
  let win := (imgNat d 72 4, imgWindow d)
  let con := (imgNat d 76 4, imgNat d 36 4)
  len ≤ 524288 && 1 ≤ imgBundles d && imgBundles d ≤ 12288 && imgNat d 36 4 ≤ 131072 && imgNat d 36 4 % 64 == 0 && imgNat d 44 2 ≤ 64 &&
    1 ≤ imgNat d 46 2 && imgNat d 52 2 ≤ 4096 && imgNat d 54 2 ≤ 320 && 1 ≤ imgNat d 60 2 && imgNat d 60 2 ≤ 1024 && imgNat d 62 2 == 0 &&
    imgNat d 72 4 % 4096 == 0 && imgNat d 76 4 % 64 == 0 && imgNat d 80 48 == 0 && imgNat d 46 2 ≤ imgNat d 54 2 &&
    secs.all (fun s => s.1 % 64 == 0 && decide (s.1 + s.2 ≤ len) && apart s (0, 128)) && decide (secs.Pairwise (fun a b => apart a b = true)) &&
    decide (win.1 + win.2 ≤ 2 ^ 22) && decide (con.1 + con.2 ≤ 2 ^ 22) && apart win con

/-- The buffer table (R145). -/
def imgBufs (d : List Byte) : List BufEnt :=
  (List.range (imgNat d 44 2)).map fun i =>
    let o := imgNat d 40 4 + 16 * i
    { index := imgNat d o 1, ty := imgNat d (o + 1) 1, rd := (imgNat d (o + 2) 1).testBit 0, wr := (imgNat d (o + 2) 1).testBit 1
      optional := (imgNat d (o + 3) 1).testBit 0, hostOk := (imgNat d (o + 3) 1).testBit 1, align := imgNat d (o + 4) 1
      minLen := imgNat d (o + 8) 8 }

/-- The buffer table's fields lie in range, its reserved bits are zero, its indices distinct. -/
def imgBufsOk (d : List Byte) : Bool :=
  (List.range (imgNat d 44 2)).all (fun i =>
    let o := imgNat d 40 4 + 16 * i
    let ty := imgNat d (o + 1) 1
    let acc := imgNat d (o + 2) 1
    imgNat d o 1 ≤ 63 && (ty ≤ 4 || ty == 255) && 1 ≤ acc && acc ≤ 3 && imgNat d (o + 3) 1 ≤ 3 && 5 ≤ imgNat d (o + 4) 1 &&
      imgNat d (o + 4) 1 ≤ 16 && imgNat d (o + 5) 3 == 0) &&
    decide ((imgBufs d).map (·.index)).Nodup

/-- The code-block table (R146). -/
def imgBlocks (d : List Byte) : List Block :=
  (List.range (imgNat d 60 2)).map fun i =>
    let o := imgNat d 56 4 + 24 * i
    { first := imgNat d o 4, count := imgNat d (o + 4) 4, wcHs := imgNat d (o + 8) 8, loopMax := imgNat d (o + 16) 4 }

/-- The blocks are contiguous, cover the code section exactly, and their reserved bytes are zero. -/
def imgBlocksOk (d : List Byte) : Bool :=
  (List.range (imgNat d 60 2)).all (fun i => imgNat d (imgNat d 56 4 + 24 * i + 20) 4 == 0) &&
    (imgBlocks d).foldl (fun a b => a.bind fun n => if b.first = n ∧ 1 ≤ b.count then some (n + b.count) else none) (some 0) ==
      some (imgBundles d)

/-- Bundle i of the code section. -/
def imgBundle (d : List Byte) (i : Nat) : BitVec 256 := BitVec.ofNat 256 (imgNat d (imgNat d 24 4 + 32 * i) 32)

/-- The live-range record at offset `o` of its section, with its bundle and size (R147). -/
def imgCheap (d : List Byte) (bundle o size : Nat) : CheapPt :=
  let p := imgNat d 64 4 + o
  { bundle := bundle, size := size, vmask := BitVec.ofNat 32 (imgNat d p 4), pmask := BitVec.ofNat 8 (imgNat d (p + 4) 1)
    gens := (imgNat d (p + 5) 1).testBit 0, smask := BitVec.ofNat 32 (imgNat d (p + 8) 4), amask := BitVec.ofNat 16 (imgNat d (p + 12) 2)
    lwa := BitVec.ofNat 32 (imgNat d (p + 16) 4)
    ranges := (List.range (imgNat d (p + 6) 2)).map fun j => (imgNat d (p + 24 + 8 * j) 4, imgNat d (p + 28 + 8 * j) 4) }

/-- Set bits of a mask below `n`. -/
def popcount {w : Nat} (m : BitVec w) (lo : Nat) : Nat := ((List.range w).filter (fun i => decide (lo ≤ i) && m.getLsbD i)).length

/-- The cheap-save size (R176). -/
def CheapPt.saveSize (c : CheapPt) : Nat :=
  256 + 3200 + 2048 * popcount c.vmask 0 + 64 * popcount c.pmask 1 + 8 * popcount c.smask 1 + 8 * popcount c.amask 0 + 1024 * popcount c.lwa 0 +
    4096 * b1 c.gens + (c.ranges.map (·.2)).sum

/-- The cheap-point table. -/
def imgCheaps (d : List Byte) : List CheapPt :=
  (List.range (imgNat d 52 2)).map fun i =>
    let e := imgNat d 48 4 + 16 * i
    imgCheap d (imgNat d e 4) (imgNat d (e + 4) 4) (imgNat d (e + 8) 4)

/-- One live-range record is in its section, in range, its reserved bits zero, its ranges outside the code window. -/
def imgRecordOk (d : List Byte) (o : Nat) : Bool :=
  let p := imgNat d 64 4 + o
  let n := imgNat d (p + 6) 2
  let len := imgNat d 68 4
  o + 24 ≤ len && n ≤ 64 && o + 24 + 8 * n ≤ len && imgNat d p 4 < 2 ^ 28 && imgNat d (p + 5) 1 ≤ 1 && imgNat d (p + 14) 2 == 0 &&
    imgNat d (p + 20) 4 == 0 &&
    (List.range n).all (fun j =>
      let r := (imgNat d (p + 24 + 8 * j) 4, imgNat d (p + 28 + 8 * j) 4)
      r.1 % 32 == 0 && r.2 % 32 == 0 && decide (r.1 + r.2 ≤ 2 ^ 22) && apart r (imgNat d 72 4, imgWindow d))

/-- The cheap points meet R147: every flagged bundle has exactly one entry, each with its flag, record and size. -/
def imgCheapsOk (d : List Byte) : Bool :=
  (List.range (imgNat d 52 2)).all (fun i =>
    let e := imgNat d 48 4 + 16 * i
    imgNat d e 4 < imgBundles d && (imgBundle d (imgNat d e 4)).getLsbD 0 && imgNat d (e + 12) 4 == 0 && imgRecordOk d (imgNat d (e + 4) 4)) &&
    (imgCheaps d).all (fun c => c.saveSize == c.size) && decide ((imgCheaps d).map (·.bundle)).Nodup &&
    (List.range (imgBundles d)).all (fun b => !(imgBundle d b).getLsbD 0 || (imgCheaps d).any (fun c => c.bundle == b))

/-- Features of the running cluster microcode (R148). -/
def ucodeFeatures : Nat := 15

/-- The checks of R148 from the second row on; the object holds `avail` bytes from the image's first on. -/
def imgCheck (d : List Byte) (avail : Nat) : Except Status Unit := do
  check (128 ≤ avail && imgNat d 20 4 ≤ avail && 128 ≤ imgNat d 20 4 && imgNat d 0 4 == 0x544E5242 && imgNat d 4 2 == 0x0200 &&
    imgNat d 6 2 == 128) .badParam
  check (imgNat d 12 4 ≤ ucodeFeatures) .badState
  check (imgHeaderOk d && imgBufsOk d && imgBlocksOk d && imgCheapsOk d) .badParam
  check (imgNat d 16 4 < 2 ^ 10) .badParam

/-- The program that an image at offset `off` of its object makes. -/
def imgProgram (d : List Byte) (off gen ctx obj digest : Nat) : Program :=
  { gen := gen, ctx := ctx, obj := obj, freed := false, refs := 1, fmtMask := BitVec.ofNat 32 (imgNat d 16 4), engMin := imgNat d 46 2
    engMax := imgNat d 54 2, codeBase := imgNat d 72 4, codeOff := off + imgNat d 24 4, bundles := imgBundles d, constBase := imgNat d 76 4
    constOff := off + imgNat d 32 4, constLen := imgNat d 36 4, bufs := imgBufs d, blocks := imgBlocks d, cheaps := imgCheaps d
    digest := digest }

/-- PROGRAM_LOAD (R36, R88, R148, R149, R324). -/
def opProgramLoad (obj : Handle) (off : Nat) (s : State) (c : Nat) : State × Ans :=
  match s.findMo c obj with
  | none => (s, .bad .badHandle [])
  | some (k, m) =>
    let l := s.sliceOf c
    if !m.isSealed || (s.confSlice l && !m.flags.getLsbD 3) then (s, .bad .badState [])
    else if m.ty ≠ 2 ∨ m.len < off then (s, .bad .badParam [])
    else
      match s.readMo m .hub off (min (m.len - off) 524288) with
      | (s1, .error e) => (s1.faultCtx c e.regs, .bad e.st [])
      | (s1, .ok d) =>
        (match imgCheck d (m.len - off) with
          | .error st => (s1, .bad st [])
          | .ok () =>
            (match s1.slotFor (slotCount 6) s1.objs.pMgr s1.objs.progs with
              | none => (s1, .bad .noSlot [])
              | some p =>
                let dig := sha384 (d.take (imgNat d 20 4))
                let g := s1.objs.pMgr.gen p
                let s2 := ((s1.drew 1).onObjs fun o =>
                  { o with progs := tset o.progs p (imgProgram d off g c k dig), pMgr := { o.pMgr with gens := tset o.pMgr.gens p g } }).incMo k
                let h := mkHandle 6 g p
                (s2.measure l 1 m.ty h (s2.ctxHandle c) dig, .ok (leNats 4 h.toNat ++ leNats 4 0x0200 ++ leNats 16 dig))))

/-- PROGRAM_LOAD (0x0D). -/
def execProgramLoad (h : Hdr) (obj : Handle) (off : Nat) (s : State) : Result :=
  s.packet (.programLoad h obj off) (programLoadInfo obj off) h fun s c _ => opProgramLoad obj off s c

end Sys2Proof.Machine
end

