-- ==== Sys2Proof/Machine/Engine.lean ====
section
/-!
DEFINITION. One engine's bundle (spec/05): registers (R151, R152), and the control, matrix and vector slots (R154 to R159, R165 to R170) as
functions of the engine alone. The mover slot and everything outside the engine are in Machine/Bundles.lean.
-/

namespace Sys2Proof.Machine

/-- A fault of an engine (R174): its cause, and what the fault registers record of it. -/
structure EFault where
  cause : Nat
  /-- the bundle, where it is not the one at the program counter -/
  at_   : Option Nat := none
  buf   : Option Nat := none
  off   : Nat := 0
  trap  : Nat := 0
  acc   : Option AccErr := none

/-- What an engine sees of its dispatch: its program, index, the engine count, the queue's class, the always-on counter. -/
structure Env where
  prog : Program
  k    : Nat
  cnt  : Nat
  cls  : Nat
  now  : DWord

/-- An engine's step, or the cause of its fault. -/
abbrev Eng := Except EFault Engine

/-- Fault with a cause unless `b` holds. -/
def need (b : Bool) (cause : Nat) : Except EFault Unit := if b then .ok () else .error { cause := cause }

/-! ## Registers -/

/-- What register place i holds before anything is written to it (log entry 30): a free value after a dispatch's start, zero after a
restore (R180). -/
def Engine.junk (e : Engine) (i : Nat) : Nat := match e.seed with | some b => Config.free (b + i) | none => 0
/-- S[i]; S0 reads zero. -/
def Engine.sr (e : Engine) (i : Nat) : DWord := if i = 0 then 0 else tgetD e.s i (BitVec.ofNat 64 (e.junk i))
/-- Write S[i]; S0 discards it. -/
def Engine.setS (e : Engine) (i : Nat) (v : DWord) : Engine := if i = 0 then e else { e with s := tset e.s i v }
/-- A[i]. -/
def Engine.ar (e : Engine) (i : Nat) : DWord := tgetD e.a (i % 16) (BitVec.ofNat 64 (e.junk (32 + i % 16)))
/-- Write A[i]. -/
def Engine.setA (e : Engine) (i : Nat) (v : DWord) : Engine := { e with a := tset e.a (i % 16) v }
/-- Lane n of the group that starts at register v. -/
def Engine.lane (e : Engine) (v n : Nat) : Word := tgetD e.v (512 * v + n) (BitVec.ofNat 32 (e.junk (128 + 512 * v + n)))
/-- Write lane n of the group that starts at register v. -/
def Engine.setLane (e : Engine) (v n : Nat) (w : Word) : Engine := { e with v := tset e.v (512 * v + n) w }
/-- P[i]; P0 reads all ones. -/
def Engine.pr (e : Engine) (i : Nat) : BitVec 512 := if i = 0 then BitVec.allOnes 512 else tgetD e.p i (BitVec.ofNat 512 (e.junk (48 + i)))
/-- Write P[i]; P0 discards it. -/
def Engine.setP (e : Engine) (i : Nat) (v : BitVec 512) : Engine := if i = 0 then e else { e with p := tset e.p i v }
/-- Lane generator n; 1 at dispatch start (R170). -/
def Engine.genr (e : Engine) (n : Nat) : DWord := tgetD e.gen (n % 512) 1
/-- The lane that place n holds before anything is written to it. -/
def Engine.junkLane (e : Engine) (n : Nat) : Lane :=
  match e.seed with
  | none => Lane.ofBits 0
  | some b => Lane.ofBits (BitVec.ofNat 256 (Config.free (b + 20000 + 2 * n) % 2 ^ 206 + 2 ^ 206 * (Config.free (b + 20001 + 2 * n) % (2 ^ 20 + 1))))
/-- Accumulator lane n. -/
def Engine.acc (e : Engine) (n : Nat) : Lane := tgetD e.lanes n (e.junkLane n)
/-- The row-scale latch: A-row scale i and B-column scale i, 1.0 after MCLR. -/
def Engine.rowScale (e : Engine) (i : Nat) : Word := tgetD e.rowA i (BitVec.ofNat 32 (e.junk (56 + i)))
/-- B-column scale i. -/
def Engine.colScale (e : Engine) (i : Nat) : Word := tgetD e.colB i (BitVec.ofNat 32 (e.junk (88 + i)))
/-- The number in n bytes of engine store at a. -/
def Engine.load (e : Engine) (a n : Nat) : Nat := leNat (memRead e.store a n)
/-! ## Store writes under way (R157) -/

/-- A run of bytes cut where the aligned 32-byte units meet: unit, address, bytes. -/
def cutRun : Nat → Nat → List Byte → List (Nat × Nat × List Byte)
  | 0, _, _ => []
  | n + 1, a, l => if l = [] then [] else (a / 32, a, l.take (32 - a % 32)) :: cutRun n (a + (32 - a % 32)) (l.drop (32 - a % 32))

/-- Runs that stand side by side, in order, as one. -/
def joinRuns : List (Nat × List Byte) → List (Nat × List Byte)
  | [] => []
  | (a, l) :: r =>
    match joinRuns r with
    | (b, m) :: t => if b = a + l.length then (a, l ++ m) :: t else (a, l) :: (b, m) :: t
    | [] => [(a, l)]

/-- An operation's writes by unit. -/
def unlandOf (mx : Bool) (rs : List (Nat × List Byte)) : List Unland :=
  let cs := (joinRuns rs).flatMap fun r => cutRun (r.2.length / 32 + 2) r.1 r.2
  (cs.map (·.1)).dedup.map fun u => { mx := mx, unit := u, runs := (cs.filter (·.1 == u)).map (·.2) }

/-- A vector or matrix operation writes runs of engine store; they land later (R157). -/
def Engine.write (e : Engine) (mx : Bool) (rs : List (Nat × List Byte)) : Engine := { e with wr := e.wr ++ unlandOf mx rs }

/-- A unit's bytes land. -/
def Unland.land (w : Unland) (m : List Host.Cell) : List Host.Cell := w.runs.foldl (fun a r => memPut a r.1 r.2) m

/-- Some writes under way land: those that `must` names, and those that the free values from `n` on choose; of one unit the older lands first. -/
def landGo (must : Unland → Bool) : Nat → List Unland → List Unland → List Host.Cell → List Unland × List Host.Cell
  | _, [], kept, m => (kept, m)
  | n, w :: r, kept, m =>
    if (w :: r).any (fun x => must x && x.unit == w.unit) || (Config.free n % 2 == 0 && !kept.any (·.unit == w.unit)) then landGo must (n + 1) r kept (w.land m)
    else landGo must (n + 1) r (kept ++ [w]) m

/-- Land writes under way. -/
def Engine.land (e : Engine) (must : Unland → Bool) (n : Nat) : Engine :=
  let r := landGo must n e.wr [] e.store
  { e with wr := r.1, store := r.2 }

/-- Bytes of the engine store (R151). -/
def storeSize : Nat := 2 ^ 22

/-- The code window's length (R144). -/
def Program.window (g : Program) : Nat := ceilDiv (32 * g.bundles) 4096 * 4096
/-- A write touches the code window (R153). -/
def Program.touches (g : Program) (a n : Nat) : Bool := decide (0 < n) && decide (a < g.codeBase + g.window) && decide (g.codeBase < a + n)
/-- The code block of a bundle (R146). -/
def Program.blockOf (g : Program) (pc : Nat) : Option Block := g.blocks.find? (fun b => decide (b.first ≤ pc) && decide (pc < b.first + b.count))
/-- The engine store holds the code of the bundle at the program counter (R153). -/
def Engine.resident (e : Engine) (g : Program) : Bool :=
  match g.blocks.findIdx? (fun b => decide (b.first ≤ e.pc) && decide (e.pc < b.first + b.count)) with
  | some i => !e.code.contains i
  | none => true
/-- The bundle at the program counter, from the code window (R153, R154). -/
def Engine.bundle (e : Engine) (g : Program) : Nat := e.load (g.codeBase + 32 * e.pc) 32
/-- A format code may be used (R108, R174): assigned, and in FORMAT_MASK. -/
def Program.fmtOk (g : Program) (f : Nat) : Bool := decide (f ≤ 9) && g.fmtMask.getLsbD f

/-! ## The control slot (R158, R159) -/

/-- Sign-extend the immediate. -/
def sx32 (v : Nat) : DWord := (BitVec.ofNat 32 v).signExtend 64

/-- Which of D, A, B and COND an operation uses; none for a reserved one. -/
def ctlUses (op : Nat) : Option (Bool × Bool × Bool × Bool) :=
  if op = 0 then some (false, false, false, false)
  else if op ≤ 0x09 then some (true, true, true, false)
  else if op ≤ 0x0B then some (true, false, false, false)
  else if op ≤ 0x0F then some (true, true, false, false)
  else
    match op with
    | 0x10 => some (false, false, false, false)
    | 0x11 => some (false, true, true, true)
    | 0x12 => some (false, true, false, false)
    | 0x13 => some (false, false, false, false)
    | 0x14 => some (false, false, false, false)
    | 0x15 => some (false, false, false, false)
    | 0x16 => some (true, false, false, false)
    | 0x17 => some (true, false, false, false)
    | 0x18 => some (true, false, false, false)
    | 0x19 => some (true, false, false, false)
    | _ => none

/-- The encoding, branch-target and loop checks of a control slot, before anything moves. An immediate that no slot uses, and IMM bits beyond those
that an operation names, are not taken for unused fields and are ignored: DESIGN CHOICE (log entry 240). -/
def ctlCheck (v : Env) (e : Engine) (c imm pc : Nat) : Except EFault Unit := do
  let u ← (match ctlUses (bits c 0 6) with | some u => .ok u | none => .error { cause := 3 })
  let clean (used : Bool) (x : Nat) : Bool := used || x == 0
  need (c / 2 ^ 24 == 0 && clean u.1 (bits c 6 5) && clean u.2.1 (bits c 11 5) && clean u.2.2.1 (bits c 16 5) && clean u.2.2.2 (bits c 21 3)) 3
  need (bits c 21 3 ≤ 5) 3
  let op := bits c 0 6
  if op = 0x10 ∨ op = 0x11 then
    need (imm < v.prog.bundles && (v.prog.blocks.any (fun b => b.first == imm) || v.prog.blockOf imm == v.prog.blockOf pc)) 3
  if op = 0x12 then
    need (pc < imm && imm < v.prog.bundles && v.prog.blockOf imm == v.prog.blockOf pc) 3
    need (e.loops.length < 4) 3
    need (v.cls != 1 || decide ((e.sr (bits c 11 5)).toNat ≤ (v.prog.blockOf pc).elim 0 (·.loopMax))) 10

/-- After bundle `at_`: the innermost loop that ends there repeats or ends (R158). -/
def loopNext : List Loop → Nat → List Loop × Nat
  | [], at_ => ([], at_ + 1)
  | l :: r, at_ =>
    if l.last = at_ then (if 0 < l.left then ({ l with left := l.left - 1 } :: r, l.first) else loopNext r at_) else (l :: r, at_ + 1)

/-- Continue after bundle `at_`. -/
def Engine.advance (e : Engine) (at_ : Nat) : Engine := { e with loops := (loopNext e.loops at_).1, pc := (loopNext e.loops at_).2 }

/-- The scalar arithmetic of 0x01 to 0x09. -/
def aluOp (op : Nat) (x y : DWord) : DWord :=
  match op with
  | 0x01 => x + y
  | 0x02 => x - y
  | 0x03 => x * y
  | 0x04 => x &&& y
  | 0x05 => x ||| y
  | 0x06 => x ^^^ y
  | 0x07 => x <<< (y.toNat % 64)
  | 0x08 => x >>> (y.toNat % 64)
  | _ => x.sshiftRight (y.toNat % 64)

/-- COND holds. -/
def condHolds (c : Nat) (x y : DWord) : Bool :=
  match c with
  | 0 => x == y
  | 1 => x != y
  | 2 => x.slt y
  | 3 => !x.slt y
  | 4 => x.ult y
  | _ => !x.ult y

/-- The control slot's effect: registers are read from `r`, the engine before the bundle; `e` is the engine after the other slots. -/
def ctlRun (v : Env) (r e : Engine) (c imm pc : Nat) : Eng :=
  let d := bits c 6 5
  let x := r.sr (bits c 11 5)
  let y := r.sr (bits c 16 5)
  let next (f : Engine) : Eng := .ok (f.advance pc)
  let op := bits c 0 6
  if op = 0 then next e
  else if op ≤ 0x09 then next (e.setS d (aluOp op x y))
  else
    match op with
    | 0x0A => next (e.setS d (sx32 imm))
    | 0x0B => next (e.setS d (BitVec.ofNat 64 ((r.sr d).toNat % 2 ^ 32 + 2 ^ 32 * imm)))
    | 0x0C => next (e.setS d (x + sx32 imm))
    | 0x0D => next (e.setA d x)
    | 0x0E => next (e.setA d (r.ar d + x))
    | 0x0F => next (e.setS d (r.ar (bits c 11 5)))
    | 0x10 => .ok { e with pc := imm }
    | 0x11 => if condHolds (bits c 21 3) x y then .ok { e with pc := imm } else next e
    | 0x12 =>
      if x = 0 then .ok (e.advance imm)
      else next { e with loops := { first := pc + 1, last := imm, left := x.toNat - 1 } :: e.loops }
    | 0x14 => .ok { e with halted := true }
    | 0x15 => .error { cause := 0x0B, trap := imm % 65536 }
    | 0x16 => next (e.setS d v.now)
    | 0x17 => next (e.setS d (BitVec.ofNat 64 v.k))
    | 0x18 => next (e.setS d (BitVec.ofNat 64 v.cnt))
    | 0x19 => next (e.setS d (BitVec.ofNat 64 ((tget r.desc (imm % 64)).elim 0 (·.len))))
    | _ => next e

/-! ## The matrix slot (R165 to R167) -/

/-- A matrix slot's fields. -/
structure Mx where
  op   : Nat
  fa   : Nat
  fb   : Nat
  aa   : Nat
  ab   : Nat
  xr   : Nat
  klen : Nat
  sat  : Bool
  ofmt : Nat
  pinc : Bool

/-- Read the fields; none where a reserved bit or a field the operation does not name is set, or the operation is reserved. -/
def mxFields (x : Nat) : Option Mx :=
  let m : Mx := { op := bits x 0 6, fa := bits x 6 4, fb := bits x 10 4, aa := bits x 14 4, ab := bits x 18 4, xr := bits x 22 5
                  klen := bits x 27 12, sat := bits x 39 1 = 1, ofmt := bits x 40 3, pinc := bits x 43 1 = 1 }
  let mask := match m.op with
    | 1 => 0x87FFFFFFFFF
    | 3 => 0x3C03F
    | 4 => 0x3C03F
    | 5 => 0x3C03F
    | 6 => 0x7C0003F
    | 7 => 0x7800003C03F
    | 8 => 0x8007C0003F
    | _ => 0x3F
  if m.op ≤ 8 ∧ x &&& mask = x then some m else none

/-- Bytes at [a, a + n) lie in the engine store, else ALIGN (R172, R174). -/
def inStore (a n : Nat) : Except EFault Unit := need (a + n ≤ storeSize) 0x0D

/-- Set accumulator lanes 0 to 1,023 by a function that may fault. -/
def Engine.mapLanes (e : Engine) (cause : Nat) (f : Nat → Lane → Option Lane) : Eng :=
  (List.range 1024).foldl (fun a n => a.bind fun (x : Engine) =>
    match f n (e.acc n) with
    | some l => .ok { x with lanes := tset x.lanes n l }
    | none => .error { cause := cause }) (.ok e)

/-- Handshakes `from_` to `from_ + n - 1` of a pass, on every lane (R120, R123). -/
def Engine.mmaHands (e : Engine) (p : MxPass) (n : Nat) : Eng :=
  let k := p.klen * ktOf p.fa p.fb
  let ra := (List.range 32).map fun i => e.load (p.aAt + i * p.aStr) (segBytes p.fa k)
  let rb := (List.range 32).map fun j => e.load (p.bAt + j * p.bStr) (segBytes p.fb k)
  match e.mapLanes 4 fun i l => laneMma p.fa p.fb p.klen p.done n (ra.getD (i / 32) 0) (rb.getD (i % 32) 0) l with
  | .ok x => .ok { x with pass := if p.done + n < p.klen then some { p with done := p.done + n } else none }
  | .error f => .error { f with at_ := some p.pc }

/-- Up to `n` more handshakes of the matrix pass under way, with the store as it then stands. -/
def Engine.mmaMore (e : Engine) (n : Nat) : Eng :=
  match e.pass with
  | none => .ok e
  | some p => e.mmaHands p (min n (p.klen - p.done))

/-- The most handshakes of a pass (R165). -/
def passMax : Nat := 4096

/-- MMA (R120, R166, R167): its fields are read, and its pass begins. -/
def mxMma (v : Env) (r e : Engine) (m : Mx) : Eng := do
  need (v.prog.fmtOk m.fa && v.prog.fmtOk m.fb && pairs m.fa m.fb) 6
  let kl := if m.klen = 0 then passMax else m.klen
  let k := kl * ktOf m.fa m.fb
  need (k % blockSize m.fa == 0 && k % blockSize m.fb == 0) 6
  let la := segBytes m.fa k
  let lb := segBytes m.fb k
  let st := (r.sr m.xr).toNat
  let a := (r.ar m.aa).toNat
  let b := (r.ar m.ab).toNat
  inStore (a + 31 * (st % 2 ^ 32)) la
  inStore (b + 31 * (st / 2 ^ 32)) lb
  let e1 := { e with pass := some { fa := m.fa, fb := m.fb, klen := kl, aAt := a, bAt := b, aStr := st % 2 ^ 32, bStr := st / 2 ^ 32, done := 0, pc := r.pc } }
  return if m.pinc then (e1.setA m.aa (r.ar m.aa + BitVec.ofNat 64 la)).setA m.ab (r.ar m.ab + BitVec.ofNat 64 lb) else e1

/-- The value of tile lane n with its row scales (R125, R166): a finite value times a zero row scale is +0. -/
def Engine.tile (e : Engine) (n : Nat) : Fv :=
  match (e.acc n).value.mul ((f32 (e.rowScale (n / 32))).mul (f32 (e.colScale (n % 32)))) with
  | .num _ 0 _ => .num false 0 0
  | x => x

/-- The integer that an FP32 value is, if it is one. -/
def fvInt : Fv → Option Int
  | .num s m e =>
    if 0 ≤ e then some (smant s m * 2 ^ e.toNat) else if m % 2 ^ (-e).toNat = 0 then some (Int.fdiv (smant s m) (2 ^ (-e).toNat)) else none
  | _ => none

/-- The overflow rule of SAT (R128). -/
def satOv (sat : Bool) : Overflow := if sat then .sat else .toInf

/-- The bytes of one lane of MST (R128, R130). -/
def mstBytes (ofmt : Nat) (sat : Bool) (x : Fv) : List Byte :=
  match ofmt with
  | 0 => leBytes 4 (Fmt.fp32.encode 0 0 (satOv sat) x)
  | 1 => leBytes 2 (Fmt.bf16.encode 0 0 (satOv sat) x)
  | 2 => leBytes 2 (Fmt.fp16.encode 0 0 (satOv sat) x)
  | _ => let p := pairOf x (satOv sat); leBytes 4 p.1.toNat ++ leBytes 4 p.2.toNat

/-- The matrix slot (R166). -/
def mxRun (v : Env) (r e : Engine) (m : Mx) : Eng :=
  let a := (r.ar m.aa).toNat
  match m.op with
  | 1 => mxMma v r e m
  | 2 =>
    let ones := (List.range 32).map fun i => (i, (0x3F800000 : Word))
    .ok { e with lanes := (List.range 1024).map fun i => (i, Lane.clear), rowA := ones, colB := ones }
  | 3 => do
    inStore a 256
    return { e with rowA := (List.range 32).map fun i => (i, BitVec.ofNat 32 (e.load (a + 4 * i) 4))
                    colB := (List.range 32).map fun i => (i, BitVec.ofNat 32 (e.load (a + 128 + 4 * i) 4)) }
  | 4 => do
    inStore a 4096
    e.mapLanes 4 fun n l => l.load [Fmt.fp32.decode (e.load (a + 4 * n) 4)]
  | 5 => do
    inStore a 8192
    e.mapLanes 4 fun n l => l.load [Fmt.fp32.decode (e.load (a + 8 * n) 4), Fmt.fp32.decode (e.load (a + 8 * n + 4) 4)]
  | 6 => do
    need (m.xr ≤ 27) 3
    e.mapLanes 5 fun n l => (fvInt (f32 (r.lane m.xr (n / 32)))).bind l.scale
  | 7 => do
    need (m.ofmt ≤ 3) 6
    let d := (List.range 1024).flatMap fun n => mstBytes m.ofmt m.sat (e.tile n)
    inStore a d.length
    need (!v.prog.touches a d.length) 7
    return e.write true [(a, d)]
  | 8 => do
    need (m.xr ≤ 26) 3
    return (List.range 1024).foldl (fun x n => x.setLane m.xr n (BitVec.ofNat 32 (Fmt.fp32.encode 0 0 (satOv m.sat) (e.tile n)))) e
  | _ => .ok e

/-! ## The vector slot (R168 to R170) -/

/-- A vector slot's fields; `g` registers in a group, `s` the scalar operand's value. -/
structure Vx where
  op   : Nat
  vd   : Nat
  va   : Nat
  vb   : Nat
  vc   : Nat
  pred : Nat
  pinv : Bool
  rm   : Nat
  sat  : Bool
  fmt  : Nat
  g    : Nat
  areg : Nat
  sreg : Nat
  imms : Bool

/-- The bits of the slot that an operation uses; none for a reserved one. The fields: VD 12:8, VA 17:13, VB 22:18, VC 27:23, PRED and PINV
31:28, RM 34:32, SAT 35, FMT 39:36, GCNT 43:40, AREG 47:44, SREG 52:48, IMMS 53. -/
def vxMask (op : Nat) : Option Nat :=
  let vd := 0x1F00
  let va := 0x3E000
  let vb := 0x7C0000
  let vc := 0xF800000
  let pm := 0xF0000000
  let rm := 7 * 2 ^ 32
  let sat := 2 ^ 35
  let fm := 15 * 2 ^ 36
  let gc := 15 * 2 ^ 40
  let ag := 15 * 2 ^ 44
  let sc := 63 * 2 ^ 48
  let o := 0xFF
  if op = 4 then some (o + vd + va + vb + vc + pm + rm + gc)
  else if 1 ≤ op ∧ op ≤ 5 then some (o + vd + va + vb + pm + rm + gc)
  else if op = 6 then some (o + vd + va + pm + rm + gc)
  else if op = 7 ∨ op = 8 ∨ op = 0x0D then some (o + vd + va + vb + pm + gc)
  else if (9 ≤ op ∧ op ≤ 0x0B) ∨ op = 0x0E ∨ (0x18 ≤ op ∧ op ≤ 0x22) then some (o + vd + va + pm + gc)
  else if op = 0x0C then some (o + vd + pm + gc + sc)
  else if op = 0x0F then some (o + vd + pm + gc)
  else if 0x10 ≤ op ∧ op ≤ 0x12 then some (o + 0x700 + va + vb + pm + gc)
  else
    match op with
    | 0x28 => some (o + vd + va + pm + rm + fm + gc)
    | 0x30 => some (o + vd + pm + sat + fm + gc + ag + sc)
    | 0x31 => some (o + va + pm + rm + sat + fm + gc + ag + sc)
    | 0x32 => some (o + va + rm + fm + gc + ag + sc)
    | 0x33 => some (o + va + rm + fm + gc + ag + sc)
    | 0x34 => some (o + va + rm + fm + gc + ag + sc)
    | 0x38 => some (o + vd + va + pm + gc + sc)
    | 0x39 => some (o + va + gc + sc)
    | 0x3A => some (o + vd + va + gc)
    | 0x3B => some (o + vd + va + vb + pm + gc)
    | 0x3C => some (o + sc)
    | _ => none

/-- Read the fields; none where the operation is reserved or an unused bit is set (R174). -/
def vxFields (x : Nat) : Option Vx :=
  let f : Vx := { op := bits x 0 8, vd := bits x 8 5, va := bits x 13 5, vb := bits x 18 5, vc := bits x 23 5, pred := bits x 28 3
                  pinv := bits x 31 1 = 1, rm := bits x 32 3, sat := bits x 35 1 = 1, fmt := bits x 36 4, g := bits x 40 4 + 1
                  areg := bits x 44 4, sreg := bits x 48 5, imms := bits x 53 1 = 1 }
  match vxMask f.op with
  | some m => if x &&& m = x ∧ (f.imms = false ∨ f.sreg = 0) then some f else none
  | none => none

/-- Lane n of a masked operation is written. -/
def Vx.on (f : Vx) (r : Engine) (n : Nat) : Bool := (r.pr f.pred).getLsbD (n % 512) != f.pinv

/-- Write every unmasked lane of the destination group from a function of the lane. -/
def vxLanes (f : Vx) (r e : Engine) (g : Nat → Word) : Engine :=
  (List.range (512 * f.g)).foldl (fun x n => if f.on r n then x.setLane f.vd n (g n) else x) e

/-- One SR value for lane n: bits [63:48] of the generator's next state (R170). -/
def Engine.rnd (e : Engine) (n : Nat) : Nat := (genStep (e.genr n)).toNat / 2 ^ 48
/-- Advance lane n's generator, where the mode is SR. -/
def Engine.step1 (e : Engine) (rm n : Nat) : Engine := if rm = 4 then { e with gen := tset e.gen (n % 512) (genStep (e.genr n)) } else e

/-- Arithmetic of one lane (0x01 to 0x0E and the approximated functions). -/
def vxArith (op rm : Nat) (a b c : Word) : Word :=
  match op with
  | 0x01 => toF32 rm ((f32 a).addM rm (f32 b))
  | 0x02 => toF32 rm ((f32 a).addM rm (f32 b).neg)
  | 0x03 => toF32 rm ((f32 a).mul (f32 b))
  | 0x04 => toF32 rm (((f32 a).mul (f32 b)).addM rm (f32 c))
  | 0x05 => divF32 rm (f32 a) (f32 b)
  | 0x06 => sqrtF32 rm (f32 a)
  | 0x07 => toF32 0 (Fv.pick true (f32 a) (f32 b))
  | 0x08 => toF32 0 (Fv.pick false (f32 a) (f32 b))
  | 0x09 => canonNan (a &&& 0x7FFFFFFF)
  | 0x0A => canonNan (a ^^^ 0x80000000)
  | 0x0B => canonNan a
  | 0x0E => floorF32 a
  | _ => approxF32 op a

/-- The comparisons VCEQ, VCLT, VCLE (R134, R169). -/
def vxCmp (op : Nat) (a b : Word) : Bool :=
  match op with
  | 0x10 => (f32 a).eq (f32 b)
  | 0x11 => (f32 a).lt (f32 b)
  | _ => (f32 a).lt (f32 b) || (f32 a).eq (f32 b)

/-- VLD's lanes (R112 to R114, R169): an infinity stays one; SAT holds for finite values beyond the range. -/
def vldLane (fmt : Nat) (sat : Bool) (k row i : Nat) : Word :=
  let e := rowElem fmt k row i
  let v := match fmt with
    | 5 => e.mul (Fmt.fp32.decode (bits row (8 * k) 32))
    | 9 => e.mul (Fmt.fp16.decode (bits row (8 * segBytes 9 k) 16))
    | _ => e
  match v with
  | .inf s => toF32 0 (.inf s)
  | _ => BitVec.ofNat 32 (Fmt.fp32.encodeS 0 0 (if sat then .sat else .ieee) v)

/-- The result format of VST and VCVT. -/
def outFmt : Nat → Fmt
  | 6 => .bf16
  | 7 => .fp16
  | _ => .fp32

/-- A list of elements of `b` bits as one number. -/
def packElems (b : Nat) (l : List Nat) : Nat := l.foldr (fun x a => x + 2 ^ b * a) 0

/-- VQMX: blocks of 32 lanes of group VA (R131), with the engine whose generators have advanced. -/
def vqmxGo (f : Vx) (r : Engine) : Nat → Nat → Engine → List (Nat × List Nat) → Engine × List (Nat × List Nat)
  | 0, _, e, acc => (e, acc)
  | n + 1, b, e, acc =>
    let xs := (List.range 32).map fun j => f32 (r.lane f.va (32 * b + j))
    let q := quantMx f.fmt f.rm (fun j => e.rnd (32 * b + j)) xs
    let e1 := if xs.any (·.special) ∨ q.1 = 0 ∧ (amax xs).isZero then e else (List.range 32).foldl (fun x j => x.step1 f.rm (32 * b + j)) e
    vqmxGo f r n (b + 1) e1 (acc ++ [q])

/-- VQCQ4's blocks of 16 lanes under row scale rm * 2^re (R132). -/
def vqcq4Go (f : Vx) (r : Engine) (rm : Nat) (re : Int) : Nat → Nat → Engine → List (Nat × List Nat) → Engine × List (Nat × List Nat)
  | 0, _, e, acc => (e, acc)
  | n + 1, b, e, acc =>
    let xs := (List.range 16).map fun j => f32 (r.lane f.va (16 * b + j))
    let q := cq4Block f.rm (fun j => e.rnd (16 * b + j)) rm re xs
    let e1 := if xs.any (·.special) ∨ q.1 = 0 then e else (List.range 16).foldl (fun x j => x.step1 f.rm (16 * b + j)) e
    vqcq4Go f r rm re n (b + 1) e1 (acc ++ [q])

/-- VST's lanes one after another, with the runs they write; masked lanes keep their bytes. -/
def vstGo (f : Vx) (r : Engine) (a sz : Nat) : Nat → Nat → Engine → List (Nat × List Byte) → Engine × List (Nat × List Byte)
  | 0, _, e, acc => (e, acc.reverse)
  | n + 1, i, e, acc =>
    if f.on r i then
      let w := (outFmt f.fmt).encodeS f.rm (e.rnd i) (satOv f.sat) (f32 (r.lane f.va i))
      vstGo f r a sz n (i + 1) (e.step1 f.rm i) ((a + sz * i, leBytes sz w) :: acc)
    else vstGo f r a sz n (i + 1) e acc

/-- VCVT's lanes: rounded to the format, kept as FP32 (R133). -/
def vcvtGo (f : Vx) (r : Engine) : Nat → Nat → Engine → Engine
  | 0, _, e => e
  | n + 1, i, e =>
    if f.on r i then
      let fm := outFmt f.fmt
      let w := toF32 0 (fm.decode (fm.encodeS f.rm (e.rnd i) .ieee (f32 (r.lane f.va i))))
      vcvtGo f r n (i + 1) ((e.step1 f.rm i).setLane f.vd i w)
    else vcvtGo f r n (i + 1) e

/-- Add a segment's values to an accumulator lane, one after another (R124). -/
def lredLane (l : Lane) (vs : List Fv) : Option Lane := vs.foldl (fun a v => a.bind fun x => x.load [v]) (some l)

/-- A group of registers lies within V0 to V27 (R168). -/
def grp (v g : Nat) : Bool := v + g ≤ 28

/-- The operand groups of an operation fit. -/
def Vx.groupsOk (f : Vx) : Bool :=
  let usesD := f.op ≤ 0x0F || (0x18 ≤ f.op && f.op ≤ 0x30) || f.op = 0x38 || f.op = 0x3B
  let usesA := !(f.op = 0x0C || f.op = 0x0F || f.op = 0x30 || f.op = 0x3B || f.op = 0x3C)
  let usesB := f.op ≤ 5 || f.op = 7 || f.op = 8 || f.op = 0x0D || (0x10 ≤ f.op && f.op ≤ 0x12)
  (!usesD || grp f.vd f.g) && (!usesA || grp f.va f.g) && (!(usesB && f.op != 6) || grp f.vb f.g) && (f.op != 4 || grp f.vc f.g) &&
    (!(0x10 ≤ f.op && f.op ≤ 0x12) || decide (f.vd + f.g ≤ 8))

/-- The rounding mode is allowed (R127): 4 only for conversions to BF16, FP16, MXFP8 and CQ4. -/
def Vx.modeOk (f : Vx) : Bool :=
  f.rm ≤ 3 || (f.rm = 4 && (f.op = 0x28 || (f.op = 0x31 && f.fmt != 8) || f.op = 0x32 || f.op = 0x33 || f.op = 0x34))

/-- The bytes of a CQ4 row: elements, block scales, row scale (R112). -/
def cq4Bytes (s rowBits : Nat) (bs : List (Nat × List Nat)) : List Byte :=
  leBytes (s / 2 + s / 16 + 2)
    (packElems 4 (bs.flatMap (·.2)) + 2 ^ (4 * s) * packElems 8 (bs.map (·.1)) + 2 ^ (4 * s + 8 * (s / 16)) * rowBits)

/-- VQCQ4 and VQCQ4S: `given` is the row scale from the immediate field. A given scale that is not positive and finite has no stated result:
its bytes are free values (log entry 27). -/
def vqRow (v : Env) (f : Vx) (r e : Engine) (s : Nat) (given : Option Word) : Eng := do
  need (v.prog.fmtOk f.fmt && f.fmt == 9 && s % 16 == 0) 6
  need (s ≤ 512 * f.g && s ≤ 8192) 3
  let a := (r.ar f.areg).toNat
  let n := s / 2 + s / 16 + 2
  inStore a n
  need (!v.prog.touches a n) 7
  match given with
  | none =>
    let row := cq4Row ((List.range s).map fun i => f32 (r.lane f.va i))
    match Fmt.fp16.decode row with
    | .num _ m x => let q := vqcq4Go f r m x (s / 16) 0 e []; return q.1.write false [(a, cq4Bytes s row q.2)]
    | _ => return e
  | some w =>
    let row := Fmt.fp16.encode 0 0 .ieee (f32 w)
    match f32 w with
    | .num false m x =>
      need (m == 0 || Fmt.fp16.decode row == .num false m x || (Fv.num false m x).eq (Fmt.fp16.decode row)) 6
      if m = 0 then return e.write false [(a, leBytes n (Config.approx 0x134 w).toNat)]
      let q := vqcq4Go f r m x (s / 16) 0 e []
      return q.1.write false [(a, cq4Bytes s row q.2)]
    | _ => return e.write false [(a, leBytes n (Config.approx 0x134 w).toNat)]

/-- The vector slot (R169): registers are read from `r`, the engine before the bundle. The lanes that are left over where S does not divide a group of
VSMAX or VLRED take no part: DESIGN CHOICE (log entry 242). -/
def vxRun (v : Env) (r e : Engine) (f : Vx) (imm : Nat) : Eng := do
  need f.groupsOk 3
  need f.modeOk 6
  let sv := if f.imms then sx32 imm else r.sr f.sreg
  let s := sv.toNat
  let a := (r.ar f.areg).toNat
  let la (n : Nat) : Word := r.lane f.va n
  match f.op with
  | 0x0C => return vxLanes f r e fun _ => canonNan (BitVec.ofNat 32 s)
  | 0x0D => return (List.range (512 * f.g)).foldl (fun x n => x.setLane f.vd n (canonNan (if f.on r n then la n else r.lane f.vb n))) e
  | 0x0F => return vxLanes f r e fun n => toF32 0 (.num false n 0)
  | 0x28 =>
    need (v.prog.fmtOk f.fmt && (f.fmt == 6 || f.fmt == 7)) 6
    return vcvtGo f r (512 * f.g) 0 e
  | 0x30 =>
    need (v.prog.fmtOk f.fmt && s % blockSize f.fmt == 0) 6
    need (s ≤ 512 * f.g) 3
    let n := segBytes f.fmt s + rowScaleBytes f.fmt
    inStore a n
    let row := e.load a n
    return (List.range s).foldl (fun x i => if f.on r i then x.setLane f.vd i (vldLane f.fmt f.sat s row i) else x) e
  | 0x31 =>
    need (v.prog.fmtOk f.fmt && 6 ≤ f.fmt && f.fmt ≤ 8) 6
    need (s ≤ 512 * f.g) 3
    let sz := if f.fmt = 8 then 4 else 2
    inStore a (sz * s)
    need (!v.prog.touches a (sz * s)) 7
    let q := vstGo f r a sz s 0 e []
    return q.1.write false q.2
  | 0x32 =>
    need (v.prog.fmtOk f.fmt && (f.fmt == 3 || f.fmt == 4) && s % 32 == 0) 6
    need (s ≤ 512 * f.g) 3
    inStore a (s + s / 32)
    need (!v.prog.touches a (s + s / 32)) 7
    let q := vqmxGo f r (s / 32) 0 e []
    return q.1.write false [(a, leBytes (s + s / 32) (packElems 8 (q.2.flatMap (·.2)) + 2 ^ (8 * s) * packElems 8 (q.2.map (·.1))))]
  | 0x33 => vqRow v f r e s none
  | 0x34 => vqRow v f r e s (some (BitVec.ofNat 32 imm))
  | 0x38 =>
    need (s ≤ 512 * f.g) 3
    return (List.range (512 * f.g / s)).foldl (fun x m =>
      if f.on r m then
        x.setLane f.vd m (toF32 0 ((List.range s).foldl (fun y i => Fv.pick false y (f32 (la (m * s + i)))) (.inf true)))
      else x) e
  | 0x39 =>
    need (s ≤ 512 * f.g) 3
    let cnt := 512 * f.g / s
    need (cnt == 0 || imm + cnt ≤ 1024) 5
    (List.range cnt).foldl (fun y m => y.bind fun (x : Engine) =>
      match lredLane (x.acc (imm + m)) ((List.range s).map fun i => f32 (la (m * s + i))) with
      | some l => .ok { x with lanes := tset x.lanes (imm + m) l }
      | none => .error { cause := 4 }) (.ok e)
  | 0x3A =>
    let i := (r.sr f.va).toNat
    need (i < 512 * f.g) 3
    return e.setS f.vd ((la i).setWidth 64)
  | 0x3B =>
    let i := (r.sr f.vb).toNat
    need (i < 512 * f.g) 3
    return if f.on r i then e.setLane f.vd i (canonNan (BitVec.ofNat 32 (r.sr f.va).toNat)) else e
  | 0x3C => return { e with gen := (List.range 512).map fun n => (n, genSeed sv n) }
  | op =>
    if 0x10 ≤ op ∧ op ≤ 0x12 then
      return (List.range f.g).foldl (fun x j =>
        x.setP (f.vd + j) (BitVec.ofFnLE fun (n : Fin 512) =>
          if f.on r n then vxCmp op (la (512 * j + n)) (r.lane f.vb (512 * j + n)) else (r.pr (f.vd + j)).getLsbD n)) e
    else return vxLanes f r e fun n => vxArith op f.rm (la n) (r.lane f.vb n) (r.lane f.vc n)

end Sys2Proof.Machine
end

