-- ==== Sys2Proof/Machine/Bundles.lean ====
section
/-!
DEFINITION. The mover slot (R160 to R164, R172), the issue of a bundle (R155, R156), the barrier's release (R158, R159), a mover operation's
end (R162), and an engine's fault (R174, R494, R495).
-/

namespace Sys2Proof.Machine

/-! ## The engines of a dispatch -/

/-- Put engine k of a dispatch. -/
def State.setEng (s : State) (ref : DWord) (k : Nat) (e : Engine) : State := s.modDisp ref fun d => { d with engs := tset d.engs k e }

/-- Engine k of a dispatch. -/
def State.eng? (s : State) (ref : DWord) (k : Nat) : Option Engine := (s.disp? ref).bind fun d => tget d.engs k

/-- The logical cluster that engine k of a dispatch lies in (R18). -/
def Disp.clusterOf (d : Disp) (k : Nat) : Nat := d.engines.getD k 0 / 16

/-- What an engine's fault leaves in the fault registers (R494, R495). -/
def Disp.engRegs (s : State) (d : Disp) (k pc : Nat) (f : EFault) : FaultRegs :=
  match f.acc.filter (·.lost) with
  | some a => a.regs
  | none =>
  let cause := match f.acc with
    | some a => if a.cls = 3 then 8 else if a.cls = 4 then 9 else 0
    | none => f.cause
  let cls := match f.acc with | some a => a.cls | none => if cause = 8 then 3 else if cause = 9 then 4 else 1
  let prog := match d.work with | .program p _ _ => s.progHandle p | _ => 0
  { FaultRegs.zero with
    status := if cls = 3 then .integrity else .faulted, cls := cls, cause := cause, disp := d.ref, prog := prog, bundle := f.at_.getD pc, engine := k
    buffer := f.buf.getD 0xFFFF, trap := f.trap, offset := BitVec.ofNat 64 f.off
    cva := BitVec.ofNat 64 (f.acc.elim 0 (·.cva)), lpf := (f.acc.bind (·.lpf)).getD 0, srcKind := 1, src := d.clusterOf k
    valid := BitVec.ofNat 32 (3 + 4 * b1 f.buf.isSome + 8 * b1 f.acc.isSome + 16 * b1 (f.acc.bind (·.lpf)).isSome) }

/-- An engine faults: its trap record is made (R151), its context enters FAULTED, the other engines are aborted (R174). -/
def State.engFault (s : State) (ref : DWord) (k pc : Nat) (f : EFault) : State :=
  match s.disp? ref with
  | some d =>
    let s1 := s.modDisp ref fun x => { x with engs := tmod x.engs k fun e => { e with trap := some (f.cause, f.trap) } }
    (s1.faultCtx d.ctx (d.engRegs s k pc f)).raiseEdge (256 + 16 * d.clusterOf k)
  | none => s

/-! ## Mover fields and checks -/

/-- The fields that a mover operation uses (R160, R161): BUF, AL, AR, SLEN, 2D with SSTR, PEER, RID. -/
def mvUses (op : Nat) : Option Nat :=
  let tag := 0xF0
  let buf := 0x3F00
  let al := 0x3C000
  let ar := 0x3C0000
  let sl := 0x7C00000
  let st := 0x1F * 2 ^ 27 + 2 ^ 45
  let peer := 0x1FF * 2 ^ 32
  let rid := 15 * 2 ^ 41
  match op with
  | 0 => some 0xF
  | 1 => some (0xF + tag + buf + al + ar + sl + st)
  | 2 => some (0xF + tag + buf + al + ar + sl + st)
  | 3 => some (0xF + tag + buf + ar + sl + st)
  | 4 => some (0xF + tag + al + ar + sl + st + peer)
  | 5 => some (0xF + tag + al + ar + sl + st + peer)
  | 6 => some (0xF + tag + al + ar + sl + peer + rid)
  | _ => none

/-- The operation a mover slot spells, read from the registers; none where it is ILLEGAL. -/
def mvFields (e : Engine) (x : Nat) : Option MvOp :=
  let op := bits x 0 4
  let d2 := bits x 45 1 = 1
  let len := (e.sr (bits x 22 5)).toNat
  let str := if d2 then (e.sr (bits x 27 5)).toNat else 0
  match mvUses op with
  | some m =>
    if x &&& m = x ∧ (d2 ∨ bits x 27 5 = 0) then
      some { op := op, tag := bits x 4 4, buf := bits x 8 6, loc := (e.ar (bits x 14 4)).toNat, rem := (e.ar (bits x 18 4)).toNat
             row := len % 2 ^ 32, rows := if d2 then bits len 32 16 else 1, strL := str % 2 ^ 32, strR := str / 2 ^ 32
             peer := bits x 32 9, rid := bits x 41 4, todo := [], late := [] }
    else none
  | none => none

/-- The (local, remote) address of each row. -/
def MvOp.rowsAt (m : MvOp) : List (Nat × Nat) := (List.range m.rows).map fun r => (m.loc + r * m.strL, m.rem + r * m.strR)

/-- The bytes of one chunk (R177). -/
def chunkLen : Nat := 4096

/-- An operation's chunks: local address, remote address, length (R177). -/
def MvOp.chunks (m : MvOp) : List (Nat × Nat × Nat) :=
  m.rowsAt.flatMap fun r => (List.range (ceilDiv m.row chunkLen)).map fun i =>
    (r.1 + chunkLen * i, r.2 + chunkLen * i, min chunkLen (m.row - chunkLen * i))

/-- The address, length and destination checks of an operation (R153, R160, R164, R172). -/
def mvCheck (v : Env) (m : MvOp) : Except EFault Unit := do
  if m.op = 0 then return ()
  need (!(4 ≤ m.op) || m.peer < v.cnt) 0x0C
  let unit := if m.op = 6 then 8 else 32
  need (m.row % unit == 0 && m.strL % 32 == 0 && m.strR % 32 == 0 && m.rem % 32 == 0 && (m.op == 3 || m.loc % 32 == 0)) 0x0D
  need (m.row ≤ storeSize && 1 ≤ m.rows) 3
  let last := (m.rowsAt.getLast?).getD (0, 0)
  need (m.op == 3 || last.1 + m.row ≤ storeSize) 0x0D
  let ownRoot := m.op = 6 ∧ m.peer = v.k
  need (!(m.op == 4 || m.op == 5 || decide ownRoot) || last.2 + m.row ≤ storeSize) 0x0D
  need (!(m.op == 1 || m.op == 4) || m.rowsAt.all (fun r => !v.prog.touches r.1 m.row)) 7
  need (!(m.op == 5 || decide ownRoot) || m.rowsAt.all (fun r => !v.prog.touches r.2 m.row)) 7

/-- A mover fault of a buffer access records the buffer and an offset (R174). -/
def MvOp.blame (m : MvOp) (off : Nat) (f : EFault) : EFault := if 1 ≤ m.op ∧ m.op ≤ 3 then { f with buf := some m.buf, off := off } else f

/-- The NI's dike check of `n` bytes of a buffer access at `off` (R172). -/
def State.rowCheck (s : State) (e : Engine) (m : MvOp) (off n : Nat) : Except EFault Unit :=
  let bad (cause : Nat) : Except EFault Unit := .error (m.blame off { cause := cause })
  match tget e.desc m.buf with
  | none => bad 1
  | some d =>
    if m.op = 2 then
      if !d.wr || (s.mo? (hSlot d.obj)).any (fun y => y.isSealed || y.formatted || y.saving) then bad 2
      else if d.len < off + n then bad 1
      else .ok ()
    else if !d.rd || decide (d.len < off + n) then bad 1
    else .ok ()

/-- The check of every (remote address, length) of a buffer access. -/
def State.bufCheck (s : State) (e : Engine) (m : MvOp) (l : List (Nat × Nat)) : Except EFault Unit :=
  if 1 ≤ m.op ∧ m.op ≤ 3 then l.foldl (fun a r => a.bind fun _ => s.rowCheck e m r.1 r.2) (.ok ()) else .ok ()

/-! ## Moving bytes -/

/-- The staged unit of a cluster at a context virtual address. -/
def Disp.stagedAt (d : Disp) (cl cva : Nat) : Option (List Byte) := (d.staged.find? (fun u => u.cluster == cl && u.cva == cva)).map (·.data)

/-- One piece of a buffer, no longer than a sector: the staged units from the cluster store, everything else from the buffer (R163). -/
def State.readPieceBuf (s : State) (d : Disp) (cl cva n : Nat) : State × Except AccErr (List Byte) :=
  let us := (List.range (n / 32)).map fun i => d.stagedAt cl (cva + 32 * i)
  if us.all (·.isSome) ∧ n % 32 = 0 then (s, .ok (us.flatMap fun u => u.getD []))
  else
    match s.readCtx d.ctx (.cluster cl) cva n with
    | (s1, .ok b) => (s1, .ok ((us.zipIdx.flatMap fun u => u.1.getD ((b.drop (32 * u.2)).take 32)) ++ b.drop (32 * us.length)))
    | r => r

/-- Read a row of a buffer, sector by sector. -/
def State.readRow (d : Disp) (cl : Nat) : Nat → State → Nat → Nat → State × Except AccErr (List Byte)
  | 0, s, _, _ => (s, .ok [])
  | f + 1, s, cva, n =>
    if n = 0 then (s, .ok [])
    else
      let k := min n (256 - cva % 256)
      match s.readPieceBuf d cl cva k with
      | (s1, .error e) => (s1, .error e)
      | (s1, .ok b) =>
        (match State.readRow d cl f s1 (cva + k) (n - k) with
          | (s2, .ok r) => (s2, .ok (b ++ r))
          | r => r)

/-- The descriptor's base. -/
def Engine.bufBase (e : Engine) (b : Nat) : Nat := (tget e.desc b).elim 0 (·.base)

/-- A failed access of a mover operation. -/
def MvOp.fail (m : MvOp) (off : Nat) (a : AccErr) : EFault := { cause := 0, buf := some m.buf, off := off, acc := some a }

/-- The bytes that chunks of an operation bring, with their destination addresses: LDB through the cluster store (R163), PFC from the buffer
(R161), LDP and STP from an engine store. -/
def State.mvSource (s : State) (d : Disp) (k : Nat) (e : Engine) (m : MvOp) (l : List (Nat × Nat × Nat)) :
    State × Except EFault (List (Nat × List Byte)) :=
  l.foldl (fun a r =>
    match a with
    | (s1, .error f) => (s1, .error f)
    | (s1, .ok l) =>
      if m.op = 4 then (s1, .ok (l ++ [(r.1, memRead ((tget d.engs m.peer).elim [] (·.store)) r.2.1 r.2.2)]))
      else if m.op = 5 then (s1, .ok (l ++ [(r.2.1, memRead e.store r.1 r.2.2)]))
      else
        let cva := e.bufBase m.buf + r.2.1
        match (if m.op = 3 then s1.readCtx d.ctx (.cluster (d.clusterOf k)) cva r.2.2
            else State.readRow d (d.clusterOf k) (r.2.2 / 256 + 2) s1 cva r.2.2) with
        | (s2, .ok b) => (s2, .ok (l ++ [(if m.op = 3 then cva else r.1, b)]))
        | (s2, .error x) => (s2, .error (m.fail r.2.1 x))) (s, .ok [])

/-- The first `n` 32-byte pieces of bytes that stand at address `a`. -/
def pieces32 : Nat → Nat → List Byte → List (Nat × List Byte)
  | 0, _, _ => []
  | n + 1, a, l => (a, l.take 32) :: pieces32 n (a + 32) (l.drop 32)

/-- Cut rows into the 32-byte units that land whole (R157). -/
def unitsOf (l : List (Nat × List Byte)) : List (Nat × List Byte) := l.flatMap fun r => pieces32 (r.2.length / 32) r.1 r.2

/-- Write units into the store of engine k. -/
def State.landUnits (s : State) (ref : DWord) (k : Nat) (l : List (Nat × List Byte)) : State :=
  s.modDisp ref fun d => { d with engs := tmod d.engs k fun e => { e with store := (joinRuns l).foldl (fun m u => memPut m u.1 u.2) e.store } }

/-- The engine that an operation's bytes land in. -/
def MvOp.target (m : MvOp) (k : Nat) : Nat := if m.op = 5 then m.peer else k

/-- The page requests that an STB's writes have opened since state `s0` name the operation that waits on them (R174, R398). -/
def State.storeWaits (s s0 : State) (ref : DWord) (k buf off : Nat) : State :=
  { s with ports := s.ports.map fun e => (e.1, { e.2 with pri := e.2.pri.map fun r =>
      if (s0.port e.1).priId ≤ r.id then (match r.who with | .write _ => { r with who := .store ref k buf off } | _ => r) else r }) }

/-- STB: write chunks to the buffer, dropping the staged copies of what it writes (R163). -/
def State.mvStore (s : State) (d : Disp) (k : Nat) (e : Engine) (m : MvOp) (l : List (Nat × Nat × Nat)) : State × Option EFault :=
  l.foldl (fun a r =>
    match a with
    | (s1, some f) => (s1, some f)
    | (s1, none) =>
      let cva := e.bufBase m.buf + r.2.1
      let hit (u : Staged) : Bool := decide (u.cva < cva + r.2.2) && decide (cva < u.cva + 32)
      let s2 := s1.modDisp d.ref fun x => { x with staged := x.staged.filter (fun u => !hit u) }
      match s2.writeCtx d.ctx (.cluster (d.clusterOf k)) none cva (memRead e.store r.1 r.2.2) with
      | (s3, .ok ()) => (s3.storeWaits s2 d.ref k m.buf r.2.1, none)
      | (s3, .error x) => (s3, some (m.fail r.2.1 x))) (s, none)

/-- PFC: stage what the chunks brought into the engine's cluster store, the oldest bytes making room (R163). -/
def State.mvStage (s : State) (d : Disp) (k : Nat) (rows : List (Nat × List Byte)) : State :=
  let cl := d.clusterOf k
  let cap := 65536 * (d.engines.filter (fun x => x / 16 == cl)).length
  let us := unitsOf rows
  let new : List Staged := us.map fun u => { cluster := cl, cva := u.1, data := u.2 }
  s.modDisp d.ref fun x =>
    let old := x.staged.filter fun u => !(u.cluster == cl && us.any (fun n => n.1 == u.cva))
    let mine := old.filter (·.cluster == cl) ++ new
    { x with staged := old.filter (·.cluster != cl) ++ mine.drop (mine.length - cap) }

/-- Move chunks of an operation of engine k: the units that are to land in an engine store. -/
def State.mvMove (s : State) (d : Disp) (k : Nat) (e : Engine) (m : MvOp) (l : List (Nat × Nat × Nat)) :
    State × Except EFault (List (Nat × List Byte)) :=
  if m.op = 2 then
    (match s.mvStore d k e m l with
      | (s1, none) => (s1, .ok [])
      | (s1, some f) => (s1, .error f))
  else
    match s.mvSource d k e m l with
    | (s1, .error f) => (s1, .error f)
    | (s1, .ok rows) => if m.op = 3 then (s1.mvStage d k rows, .ok []) else (s1, .ok (unitsOf rows))

/-- A read of a buffer that goes to host pages asks for its translation first (R398): none where it fails at once. -/
def State.mvMiss (s : State) (d : Disp) (k : Nat) (e : Engine) (m : MvOp) : Option (State × Bool) :=
  let host := (tget e.desc m.buf).any fun x => (s.mo? (hSlot x.obj)).any fun y => y.flags.getLsbD 0
  if (m.op = 1 ∨ m.op = 3) ∧ host then
    match s.slice? (s.sliceOf d.ctx) with
    | some l =>
      (match s.hostMiss l.port l.pasid none [] (.buffer d.ref k m.buf m.rem) with
        | (_, .fails) => none
        | (s1, r) => some (s1, r == .waits))
    | none => some (s, false)
  else some (s, false)

/-- Start a mover operation of engine k (R161, R162): free values say how many of its chunks move now, and which of their units land now. -/
def State.mvStart (s : State) (ref : DWord) (k : Nat) (m : MvOp) : State × Option EFault :=
  match s.disp? ref with
  | none => (s, none)
  | some d =>
    match tget d.engs k with
    | none => (s, none)
    | some e =>
      let push (t : State) (o : MvOp) : State := t.modDisp ref fun x => { x with engs := tmod x.engs k fun y => { y with mv := y.mv ++ [o] } }
      if m.op = 0 then (s, none)
      else if m.op = 6 then
        let mine := d.reds.filter (·.rid == m.rid)
        if mine.any (fun c => c.root != m.peer || c.len != m.row || c.eng == k) then (s, some { cause := 0x0E })
        else
          let ps := (List.range (m.row / 8)).map fun i => (BitVec.ofNat 32 (e.load (m.loc + 8 * i) 4), BitVec.ofNat 32 (e.load (m.loc + 8 * i + 4) 4))
          let c : Red := { rid := m.rid, root := m.peer, len := m.row, eng := k, dest := m.rem, pairs := ps }
          (push (s.modDisp ref fun x => { x with reds := x.reds ++ [c] }) m, none)
      else
        match s.mvMiss d k e m with
        | none => (s, some { cause := 9, buf := some m.buf, off := m.rem })
        | some (s0, waits) =>
          let n := if waits then 0 else s0.peek % (m.chunks.length + 1)
          match (s0.drew 1).mvMove d k e m (m.chunks.take n) with
          | (s1, .error f) => (s1, some f)
          | (s1, .ok us) =>
            let lands (u : (Nat × List Byte) × Nat) : Bool := Config.free (s1.free + u.2) % 2 == 0
            let s2 := (s1.drew us.length).landUnits ref (m.target k) ((us.zipIdx.filter lands).map (·.1))
            (push s2 { m with todo := m.chunks.drop n, late := (us.zipIdx.filter (fun u => !lands u)).map (·.1) }, none)

/-! ## Issue -/

/-- The environment of engine k of a dispatch. -/
def State.env (s : State) (d : Disp) (g : Program) (k : Nat) : Env := { prog := g, k := k, cnt := d.count, cls := d.cls, now := s.time }

/-- The waits of a header are met (R155, R162). -/
def Engine.ready (e : Engine) (hdr : Nat) (mvOp : Nat) : Bool :=
  (List.range 4).all (fun g => bits hdr (6 + g) 1 == 0 || !e.mv.any (fun m => m.tag / 4 == g)) &&
    (bits hdr 12 1 == 0 || !e.mv.any (fun m => m.op == 2 || m.op == 5)) && (mvOp == 0 || e.mv.length < 16)

/-- The slots of a bundle after its waits: the checks of every slot, then matrix, vector and control on the engine; the mover operation it
starts (R156, R174). `released`: a BARRIER bundle issues whole. -/
def bundleRun (v : Env) (s : State) (e : Engine) (b : Nat) : Except EFault (Engine × Option MvOp) := do
  let hdr := bits b 0 16
  let imm := bits b 224 32
  let m ← (if bits hdr 1 1 = 1 then match mvFields e (bits b 16 64) with | some m => .ok (some m) | none => .error { cause := 3 }
    else .ok none : Except EFault (Option MvOp))
  let x ← (if bits hdr 2 1 = 1 then match mxFields (bits b 80 48) with | some m => .ok (some m) | none => .error { cause := 3 }
    else .ok none : Except EFault (Option Mx))
  let y ← (if bits hdr 3 1 = 1 then match vxFields (bits b 128 64) with | some m => .ok (some m) | none => .error { cause := 3 }
    else .ok none : Except EFault (Option Vx))
  let c := if bits hdr 4 1 = 1 then bits b 192 32 else 0
  ctlCheck v e c imm e.pc
  if let some m := m then
    (match mvCheck v m with | .ok () => .ok () | .error f => .error (m.blame m.rem f))
    s.bufCheck e m (m.rowsAt.map fun r => (r.2, m.row))
  let e1 ← match x with | some m => mxRun v e e m | none => .ok e
  let e2 ← match y with | some f => vxRun v e e1 f imm | none => .ok e1
  let e3 ← ctlRun v e e2 c imm e.pc
  return (e3, m)

/-- The bundle needs the matrix pass under way to have ended: WAIT_MX, a matrix operation, VLRED or HALT (R155, R156, R173). -/
def endsPass (b : Nat) : Bool :=
  bits b 10 1 == 1 || (bits b 2 1 == 1 && bits b 80 6 != 0) || (bits b 3 1 == 1 && bits b 128 8 == 0x39) || (bits b 4 1 == 1 && bits b 192 6 == 0x14)

/-- What earlier operations of the engine have done as bundle `b` issues: the writes and the handshakes that it waits for, and those that free
values from `n` on choose (R155 to R157). -/
def Engine.settle (e : Engine) (b n : Nat) : Eng :=
  (e.land (fun w => bits b (if w.mx then 10 else 11) 1 == 1) (n + 1)).mmaMore (if endsPass b then passMax else Config.free n % (passMax + 1))

/-- The free values that `settle` and the end of an issue take; none where nothing is under way. -/
def Engine.underWay (e : Engine) : Nat := if e.wr = [] ∧ e.pass = none then 0 else 1 + e.wr.length

/-- A pass that the bundle began takes its first handshakes; all of them before HALT. -/
def Engine.begun (e e0 : Engine) (n : Nat) : Eng :=
  if e.pass = e0.pass then .ok e else e.mmaMore (if e.halted then passMax else Config.free n % (passMax + 1))

/-- The whole of an issue on the engine, with the mover operation that it starts. A VLRED reaches the accumulator lanes before the handshakes of an MMA
of its own bundle: DESIGN CHOICE (log entry 241). -/
def bundleWhole (v : Env) (s : State) (e : Engine) (b : Nat) : Except EFault (Engine × Option MvOp) := do
  let e0 ← e.settle b s.free
  let r ← bundleRun v s e0 b
  let e1 ← r.1.begun e0 (s.free + e.underWay)
  return (e1, r.2)

/-- The bundle at engine k's program counter issues, its waits being met; and the engine's fault, where it has one. -/
def State.tryBundle (s : State) (d : Disp) (g : Program) (k : Nat) (e : Engine) : State × Option EFault :=
  match bundleWhole (s.env d g k) s e (e.bundle g) with
  | .error f => (s, some f)
  | .ok (e1, m) =>
    let s1 := s.drew (e.underWay + 1)
    let s2 := ((s1.setEng d.ref k { e1 with barrier := none }).account d.ctx fun a => { a with progressHs := a.progressHs + 1 + BitVec.ofNat 64 s1.peek }).drew 1
    match m with
    | none => (s2, none)
    | some o => s2.mvStart d.ref k o

/-- Engines of dispatch `d` fault at once, each with its bundle: the first in the list reaches the QE first, the others count (R175). -/
def State.faultAll (s : State) (d : Disp) : List (Nat × Nat × EFault) → State
  | [] => s
  | (k, pc, f) :: l => l.foldl (fun a e => a.faultCtx d.ctx (d.engRegs s e.1 e.2.1 e.2.2)) (s.engFault d.ref k pc f)

/-- Issue the bundle at engine k's program counter. -/
def State.issueBundle (s : State) (d : Disp) (g : Program) (k : Nat) (e : Engine) : State :=
  match s.tryBundle d g k e with
  | (s1, none) => s1
  | (s1, some f) => s1.engFault d.ref k e.pc f

/-- An engine of a dispatch may issue: the dispatch runs or stops, the engine has not halted, stopped or reached a barrier. -/
def Disp.issues (d : Disp) (e : Engine) : Bool :=
  (d.state == .running || d.state == .stopping) && !e.halted && e.stop == .run && e.barrier.isNone

/-! ## Code (R149, R153) -/

/-- Bytes of a program's image object, as a cluster's CSQ reads them. -/
def State.readImage (s : State) (g : Program) (cl off n : Nat) : State × Except AccErr (List Byte) :=
  match s.mo? g.obj with
  | some m => s.readMo m (.cluster cl) off n
  | none => (s, .ok [])

/-- Load the code block that is next in block order. -/
def State.loadBlock (s : State) (g : Program) (cl : Nat) (e : Engine) : State × Except AccErr Engine :=
  match e.code with
  | [] => (s, .ok e)
  | i :: r =>
    match g.blocks[i]? with
    | none => (s, .ok { e with code := r })
    | some b =>
      match s.readImage g cl (g.codeOff + 32 * b.first) (32 * b.count) with
      | (s1, .ok l) => (s1, .ok { e with code := r, store := memPut e.store (g.codeBase + 32 * b.first) l })
      | (s1, .error a) => (s1, .error a)

/-- While the program runs its code is loaded: at an issue, the next block where the bundle waits for code, else where a free value says so. -/
def State.fetchCode (s : State) (g : Program) (cl : Nat) (e : Engine) : State × Except AccErr Engine :=
  if e.code = [] then (s, .ok e)
  else if !e.resident g || s.peek % 2 == 0 then (s.drew 1).loadBlock g cl e
  else (s.drew 1, .ok e)

/-- Engine k, its code in the store, stands before its next bundle: it stops (R176, R177), waits, faults, reaches a barrier or issues. -/
def State.issueAt (s : State) (d : Disp) (g : Program) (k : Nat) (e : Engine) : Result :=
  let b := e.bundle g
  let hdr := bits b 0 16
  let ref := d.ref
  if d.state = .stopping ∧ bits hdr 0 1 = 1 ∧ s.now ≤ d.preAt + usTicks 40 then
    .next (s.setEng ref k { e with stop := match g.cpAt e.pc with | some i => .cheap i | none => .full })
  else if d.state = .stopping ∧ d.preAt + usTicks 40 ≤ s.now then .next (s.setEng ref k { e with stop := .full })
  else if hdr &&& 0xE020 ≠ 0 then .next (s.engFault ref k e.pc { cause := 3 }).finish
  else if !e.ready hdr (if bits hdr 1 1 = 1 then bits b 16 4 else 0) then .next (s.setEng ref k e)
  else if bits hdr 4 1 = 1 ∧ bits b 192 6 = 0x13 then
    (match ctlCheck (s.env d g k) e (bits b 192 32) (bits b 224 32) e.pc with
      | .error f => .next (s.engFault ref k e.pc f).finish
      | .ok () =>
        let e1 := { e with barrier := some (bits b 224 4) }
        .next (s.setEng ref k (if d.state = .stopping then e1.onRequest g.cpAt else e1)))
  else .next (s.issueBundle d g k e).finish

/-- BUNDLE_ISSUE: engine k comes to its next bundle (R153, R155, R156, R176); a bundle whose code or waits are not there stays. -/
def execBundleIssue (disp : DWord) (k : Nat) (s : State) : Result :=
  match s.disp? disp with
  | none => .next s
  | some d =>
    match s.dispProg d, tget d.engs k with
    | some g, some e =>
      if !d.issues e then .next s
      else if g.bundles ≤ e.pc then .next (s.engFault disp k e.pc { cause := 3 }).finish
      else
        match s.fetchCode g (d.clusterOf k) e with
        | (s1, .error a) => .next (s1.engFault disp k e.pc { cause := 0, acc := some a }).finish
        | (s1, .ok e1) => if e1.resident g then s1.issueAt d g k e1 else .next (s1.setEng disp k e1)
    | _, _ => .next s

/-- The engines of a dispatch that wait at barrier `id`. -/
def Disp.waitingAt (d : Disp) (id : Nat) : List Nat := tkeys d.engs (fun e => e.barrier == some id)

/-- The held bundles of the engines `l` of a dispatch issue at one release; and the faults among them (R158, R175). -/
def State.issueHeld (s : State) (ref : DWord) (g : Program) (l : List Nat) : State × List (Nat × Nat × EFault) :=
  l.foldl (fun a j => match a.1.disp? ref with
    | none => a
    | some d =>
      match tget d.engs j with
      | none => a
      | some e => match a.1.tryBundle d g j e with
        | (s1, none) => (s1, a.2)
        | (s1, some f) => (s1, a.2 ++ [(j, e.pc, f)])) (s, [])

/-- BARRIER_RELEASE (R158, R159): every engine of the dispatch waits at the barrier, and the held bundles issue; or an engine that has halted
can no longer reach it, and the dispatch faults. -/
def execBarrierRelease (disp : DWord) (id : Nat) (s : State) : Result :=
  match s.disp? disp with
  | none => .next s
  | some d =>
    match s.dispProg d, d.waitingAt id with
    | some g, k :: l =>
      if d.engs.any (fun e => e.2.halted) then
        .next (s.engFault disp k ((tget d.engs k).elim 0 (·.pc)) { cause := 0x0F }).finish
      else if d.state = .running ∧ (k :: l).length = d.count then
        let r := s.issueHeld disp g (k :: l)
        .next (r.1.faultAll d r.2).finish
      else .next s
    | _, _ => .next s

/-! ## The end of a mover operation -/

/-- The combined pairs of a finished reduction (R137, R164), written to the root's engine store; a NaN goes without its payload (R126). -/
def State.redLand (s : State) (d : Disp) (m : MvOp) (k : Nat) : State :=
  let cs := d.reds.filter (·.rid == m.rid)
  let n := cs.length
  let out := (List.range (m.row / 8)).flatMap fun i =>
    let p := combineAll n (s.free + 2 * n * i) (cs.map fun c => c.pairs.getD i (0, 0))
    leBytes 4 (canonNan p.1).toNat ++ leBytes 4 (canonNan p.2).toNat
  ((s.drew (2 * n * (m.row / 8))).modDisp d.ref fun x =>
    { x with reds := x.reds.filter (·.rid != m.rid)
             engs := tmod x.engs k fun e => { e with store := memPut e.store m.rem out } })

/-- A page request of engine k of a dispatch is open (R398). -/
def State.engWaits (s : State) (ref : DWord) (k : Nat) : Bool :=
  s.ports.any (fun p => p.2.pri.any (fun r => match r.who with
    | .buffer x j _ _ => x == ref && j == k
    | .store x j _ _ => x == ref && j == k
    | _ => false))

/-- Finish operation number i of engine k: what has not moved yet moves and lands, and the operation leaves (R162); an STB whose last bytes wait for a
page request stays until it has been answered (R398). -/
def State.mvFinish (s : State) (d : Disp) (k i : Nat) (e : Engine) (m : MvOp) : State × Option EFault :=
  let gone (t : State) : State := t.modDisp d.ref fun x => { x with engs := tmod x.engs k fun y => { y with mv := y.mv.eraseIdx i } }
  if m.op = 6 then ((if m.peer = k then gone (s.redLand d m k) else gone s), none)
  else
    match s.bufCheck e m (m.todo.map (·.2)) with
    | .error f => (s, some f)
    | .ok () =>
      match s.mvMove d k e m m.todo with
      | (s1, .error f) => (s1, some f)
      | (s1, .ok us) =>
        let s2 := s1.landUnits d.ref (m.target k) (m.late ++ us)
        (if s2.engWaits d.ref k then
          s2.modDisp d.ref fun x => { x with engs := tmod x.engs k fun y => { y with mv := y.mv.modify i fun o => { o with todo := [], late := [] } } }
        else gone s2, none)

/-- A mover operation can end: its dispatch runs or is stopping (after the full stop of an engine that has not halted, one whose next boundary is
its end: R177, R181), no page request of it is open, and a root's reduction has every contribution. -/
def State.mvCanEnd (s : State) (d : Disp) (k : Nat) (e : Engine) (m : MvOp) : Bool :=
  (d.state == .running || (d.state == .stopping && (e.halted || e.stop != .full || decide (m.todo.length ≤ 1)))) &&
    !s.engWaits d.ref k &&
    (m.op != 6 || m.peer != k || (d.reds.filter (·.rid == m.rid)).length == d.count)

/-- MOVER_OP_COMPLETE: of engine k's operations with this tag that can end, a free value says which ends (R162). -/
def execMoverOpComplete (disp : DWord) (k tag : Nat) (s : State) : Result :=
  match s.disp? disp with
  | none => .next s
  | some d =>
    match tget d.engs k with
    | none => .next s
    | some e =>
      let l := e.mv.zipIdx.filter (fun m => m.1.tag == tag && s.mvCanEnd d k e m.1)
      match l[s.peek % l.length]? with
      | none => .next s
      | some (m, i) =>
        match (s.drew 1).mvFinish d k i e m with
        | (s1, none) => .next s1.finish
        | (s1, some f) => .next (s1.engFault disp k e.pc f).finish

end Sys2Proof.Machine
end

