-- ==== Sys2Proof/Machine/KvBase.lean ====
section
/-!
DEFINITION. The KV_CACHE object (R183 to R188): geometry, directory, free map, block tables, blocks, and where its blocks are bound (R200).
-/

namespace Sys2Proof.Machine

/-- A step of a KV operation: it ends with a value or with the failed access that faults the context; what it wrote before stays. -/
abbrev KvM := EStateM AccErr State

/-- An access of State as a step. -/
def kvIo {α : Type} (f : State → State × Except AccErr α) : KvM α := fun s =>
  match f s with
  | (t, .ok a) => .ok a t
  | (t, .error e) => .error e t

/-- A broken structure (R188): class KV_STRUCTURE. -/
def kvBad : AccErr := { cls := 7, st := .faulted, cva := 0, lpf := none, stack := none }

/-- The check of a structure. -/
def kvNeed (b : Bool) : KvM Unit := if b then pure () else throw kvBad

/-- A unit that is made whole or not at all (R520), but for a frame that is lost (R234). -/
def kvAtomic {α : Type} (m : KvM α) : KvM α := fun s =>
  match m s with
  | .ok a t => .ok a t
  | .error e t =>
    let u : State := { t with pool := s.pool }
    .error e (match e.lpf with | some k => if e.lost then u.modFrame k fun g => { g with st := .lost } else u | none => u)

/-- The next free value. -/
def kvDraw : KvM Nat := fun s => .ok s.peek (s.drew 1)

/-! ## Geometry (R183, R184, R186) -/

/-- The G fields of a header, and the object's frames. -/
structure Geo where
  magic  : Nat
  fmt    : Nat
  g      : Nat
  layers : Nat
  heads  : Nat
  dim    : Nat
  qpk    : Nat
  slots  : Nat
  maxLen : Nat
  frames : Nat

/-- The geometry that header bytes spell. -/
def geoOf (d : List Byte) (frames : Nat) : Geo :=
  { magic := imgNat d 0 4, fmt := imgNat d 4 1, g := imgNat d 5 1, layers := imgNat d 6 2, heads := imgNat d 8 2, dim := imgNat d 10 2
    qpk := imgNat d 12 2, slots := imgNat d 16 4, maxLen := imgNat d 20 4, frames := frames }

/-- NG. -/
def Geo.ng (x : Geo) : Nat := x.heads / x.g
/-- Elements of a row: G * HEAD_DIM. -/
def Geo.row (x : Geo) : Nat := x.g * x.dim
/-- REC. -/
def Geo.recB (x : Geo) : Nat := 2 * x.row * 33 / 32
/-- T. -/
def Geo.tpb (x : Geo) : Nat := 65472 / x.recB
/-- DIR_FRAMES. -/
def Geo.dirFrames (x : Geo) : Nat := ceilDiv x.slots 2048
/-- MAP_FRAMES. -/
def Geo.mapFrames (x : Geo) : Nat := ceilDiv x.frames 524288
/-- FIRST_BLOCK. -/
def Geo.first (x : Geo) : Nat := 1 + x.dirFrames + x.mapFrames
/-- The frames of the block pool. -/
def Geo.pool (x : Geo) : Nat := x.frames - x.first
/-- HQ. -/
def Geo.hq (x : Geo) : Nat := x.heads * x.qpk
/-- The G fields lie in range. -/
def Geo.ok (x : Geo) : Bool :=
  (x.fmt == 3 || x.fmt == 4) && 1 ≤ x.g && x.heads % x.g == 0 && x.row % 32 == 0 && 1 ≤ x.layers && x.layers ≤ 256 && 1 ≤ x.heads &&
    x.heads ≤ 64 && 16 ≤ x.dim && x.dim ≤ 512 && x.dim % 16 == 0 && 1 ≤ x.qpk && x.qpk ≤ 16 && 1 ≤ x.slots && x.slots ≤ 65536 &&
    1 ≤ x.maxLen && x.maxLen ≤ 16777216 && 1 ≤ x.tpb
/-- The place of (chunk, layer, group) in a block table. -/
def Geo.idx (x : Geo) (c l g : Nat) : Nat := (c * x.layers + l) * x.ng + g
/-- The table frames that `n` entries need. -/
def tableFrames (n : Nat) : Nat := ceilDiv n 16383

/-- A KV operation at work: its dispatch reference, object and geometry, and who makes its accesses. -/
structure KvEnv where
  ref : DWord
  m   : Nat
  mo  : Mo
  geo : Geo
  who : By

/-- Read object bytes. -/
def KvEnv.rd (k : KvEnv) (off n : Nat) : KvM (List Byte) := kvIo fun s => s.readMo k.mo k.who off n
/-- Read a little-endian number. -/
def KvEnv.rdN (k : KvEnv) (off n : Nat) : KvM Nat := do return leNat (← k.rd off n)
/-- Write object bytes. -/
def KvEnv.wr (k : KvEnv) (off : Nat) (d : List Byte) : KvM Unit := kvIo fun s => s.writeMo k.mo k.who off d
/-- Write a little-endian number. -/
def KvEnv.wrN (k : KvEnv) (off n v : Nat) : KvM Unit := k.wr off (leBytes n v)

/-- Where the directory entry of a sequence lies (R184). -/
def dirAt (seq : Nat) : Nat := 65536 + 32 * seq
/-- Where the free map lies. -/
def KvEnv.mapAt (k : KvEnv) : Nat := 65536 * (1 + k.geo.dirFrames)
/-- The null frame number. -/
def noFrame : Nat := 0xFFFFFFFF

/-! ## The free map -/

/-- Set or clear frame f's bit of the free map. -/
def KvEnv.mark (k : KvEnv) (f : Nat) (free : Bool) : KvM Unit := do
  let b ← k.rdN (k.mapAt + f / 8) 1
  let rest := b - (if b.testBit (f % 8) then 2 ^ (f % 8) else 0)
  k.wrN (k.mapAt + f / 8) 1 (rest + (if free then 2 ^ (f % 8) else 0))

/-- Take a free frame: the spec does not say which, so a free value picks. The reservation shrinks by one. -/
def KvEnv.takeFrame (k : KvEnv) : KvM Nat := do
  let mp ← k.rd k.mapAt (ceilDiv k.geo.frames 8)
  let v := leNat mp
  let l := ((List.range k.geo.pool).map (k.geo.first + ·)).filter v.testBit
  let d ← kvDraw
  match nth l d with
  | none => throw kvBad
  | some f =>
    k.mark f false
    let n ← k.rdN 36 4
    k.wrN 36 4 (n - 1)
    modify fun s => s.modDisp k.ref fun y => { y with kvRes := y.kvRes - 1 }
    return f

/-- Free a frame of the block pool. -/
def KvEnv.freeFrame (k : KvEnv) (f : Nat) : KvM Unit := do
  k.mark f true
  let n ← k.rdN 36 4
  k.wrN 36 4 (n + 1)

/-! ## Placing a frame (R200) -/

/-- The stack that the PLE binds a block of chunk c of sequence `seq` to. -/
def State.kvStack (s : State) (mo : Mo) (seq c : Nat) : Option Nat := nth s.svc (if mo.policy = 2 then seq else c + seq)

/-- Write a whole frame of the object, binding it: to the stack of R200 for a block, by its own policy for a table frame that is FRESH. A FRESH frame
that finds no room is lost (R221, R234); one that lies somewhere stays there. -/
def KvEnv.place (k : KvEnv) (f : Nat) (pref : Option Nat) (d : List Byte) : KvM Unit := do
  match ← kvIo fun s => s.translate k.who k.mo.ctx (k.mo.base / 65536 + f) with
  | .host .. => throw kvBad
  | .pool lpf w =>
    let s ← get
    match s.frame? lpf with
    | none => throw (accDike (k.mo.base + 65536 * f))
    | some x =>
      if !w || x.owner != some k.mo.ctx then throw (accDike (k.mo.base + 65536 * f))
      if x.st = .lost then throw (accInteg (k.mo.base + 65536 * f) lpf none)
      let keep := x.st.home.isSome && (pref.isNone || pref == x.st.home)
      match if keep then x.st.home else (s.bindStack lpf x k.who pref).orElse fun _ => x.st.home with
      | none =>
        set (s.modFrame lpf fun y => { y with st := .lost })
        throw { accInteg (k.mo.base + 65536 * f) lpf none with lost := true }
      | some t =>
        if !keep then set ((s.modFrame lpf fun y => { y with st := .bound t }).remapped lpf)
        k.wr (65536 * f) (d ++ List.replicate (65536 - d.length) 0)

/-! ## Block tables (R185) -/

/-- A frame number followed (R188): none, or one of the block pool. -/
def KvEnv.follow (k : KvEnv) (v : Nat) : KvM (Option Nat) :=
  if v = noFrame then pure none
  else if k.geo.first ≤ v ∧ v < k.geo.frames then pure (some v)
  else throw kvBad

/-- The first table frame of a sequence; none too where FORMAT has zeroed the entry (R192; log entry 213). -/
def KvEnv.headOf (k : KvEnv) (seq : Nat) : KvM (Option Nat) := do
  let v ← k.rdN (dirAt seq + 4) 4
  if v = 0 then return none else k.follow v
/-- The table frame after f. -/
def KvEnv.nextOf (k : KvEnv) (f : Nat) : KvM (Option Nat) := do k.follow (← k.rdN (65536 * f + 4 * 16383) 4)

/-- Table frame i of a sequence, where its chain reaches that far. -/
def KvEnv.chainAt (k : KvEnv) (seq : Nat) : Nat → KvM (Option Nat)
  | 0 => k.headOf seq
  | i + 1 => do
    match ← k.chainAt seq i with
    | some f => k.nextOf f
    | none => return none

/-- The frames of a sequence's chain, up to `n`. -/
def KvEnv.chain (k : KvEnv) : Nat → Option Nat → KvM (List Nat)
  | 0, _ => pure []
  | _, none => pure []
  | n + 1, some f => do return f :: (← k.chain n (← k.nextOf f))

/-- A new table frame, every entry without a block. -/
def KvEnv.newTable (k : KvEnv) : KvM Nat := do
  let f ← k.takeFrame
  k.place f none (List.replicate 65536 0xFF)
  return f

/-- Table frame i of a sequence, made where the chain is shorter. -/
def KvEnv.grow (k : KvEnv) (seq : Nat) : Nat → KvM Nat
  | 0 => do
    match ← k.headOf seq with
    | some f => return f
    | none => kvAtomic do
      let f ← k.newTable
      k.wrN (dirAt seq + 4) 4 f
      return f
  | i + 1 => do
    let p ← k.grow seq i
    match ← k.nextOf p with
    | some f => return f
    | none => kvAtomic do
      let f ← k.newTable
      k.wrN (65536 * p + 4 * 16383) 4 f
      return f

/-- Entry `i` of a sequence's table: the block, if one is allocated. -/
def KvEnv.entry (k : KvEnv) (seq i : Nat) : KvM (Option Nat) := do
  match ← k.chainAt seq (i / 16383) with
  | none => return none
  | some f => k.follow (← k.rdN (65536 * f + 4 * (i % 16383)) 4)

/-- Write entry `i`. -/
def KvEnv.setEntry (k : KvEnv) (seq i v : Nat) : KvM Unit := do
  let f ← k.grow seq (i / 16383)
  k.wrN (65536 * f + 4 * (i % 16383)) 4 v

/-- Add to a sequence's BLOCKS. -/
def KvEnv.addBlocks (k : KvEnv) (seq : Nat) (up : Bool) (n : Nat) : KvM Unit := do
  let b ← k.rdN (dirAt seq + 12) 4
  k.wrN (dirAt seq + 12) 4 (if up then b + n else b - n)

/-! ## Blocks (R186 to R188, R193) -/

/-- A block's 64-byte header. -/
def blockHead (refs seq l g c : Nat) : List Byte :=
  leBytes 4 0x4B56424C ++ leBytes 4 refs ++ leBytes 4 seq ++ leBytes 2 l ++ leBytes 2 g ++ leBytes 4 c ++ leBytes 44 0

/-- Check the header of the block that a table entry names; its REFS. -/
def KvEnv.checkBlock (k : KvEnv) (f l g c : Nat) : KvM Nat := do
  let d ← k.rd (65536 * f) 20
  kvNeed (imgNat d 0 4 == 0x4B56424C && imgNat d 12 2 == l && imgNat d 14 2 == g && imgNat d 16 4 == c)
  return imgNat d 4 4

/-- Allocate a block for (chunk, layer, group) of a sequence with these records, and point its table entry at it. -/
def KvEnv.newBlock (k : KvEnv) (seq c l g : Nat) (recs : List Byte) : KvM Nat := do
  let _ ← k.grow seq (k.geo.idx c l g / 16383)
  kvAtomic do
    let f ← k.takeFrame
    let s ← get
    k.place f (s.kvStack k.mo seq c) (blockHead 1 seq l g c ++ recs)
    k.setEntry seq (k.geo.idx c l g) f
    return f

/-- Lower a block's REFS, freeing it at 0 (R192). -/
def KvEnv.unref (k : KvEnv) (f : Nat) : KvM Unit := do
  let r ← k.rdN (65536 * f + 4) 4
  k.wrN (65536 * f + 4) 4 (r - 1)
  if r ≤ 1 then k.freeFrame f

/-- The block to write (chunk, layer, group) of a sequence into: allocated, or copied where others share it (R193). -/
def KvEnv.blockToWrite (k : KvEnv) (seq c l g : Nat) : KvM Nat := do
  match ← k.entry seq (k.geo.idx c l g) with
  | none => kvAtomic do
    let f ← k.newBlock seq c l g []
    k.addBlocks seq true 1
    return f
  | some f =>
    let r ← k.checkBlock f l g c
    if r ≤ 1 then return f
    else kvAtomic do
      let d ← k.rd (65536 * f + 64) 65472
      let n ← k.newBlock seq c l g d
      k.wrN (65536 * f + 4) 4 (r - 1)
      return n

/-- Where token position `t`'s record lies in block f. -/
def KvEnv.recAt (k : KvEnv) (f t : Nat) : Nat := 65536 * f + 64 + (t % k.geo.tpb) * k.geo.recB

/-! ## Append, fork, evict (R189, R191, R192) -/

/-- BF16 values at bytes of a source. -/
def bf16s (d : List Byte) : List Fv := (List.range (d.length / 2)).map fun i => Fmt.bf16.decode (imgNat d (2 * i) 2)

/-- A row quantised in blocks of 32 (R131, RNE), in the layout of R112. -/
def quantRow (fmt : Nat) (xs : List Fv) : List Byte :=
  let qs := (List.range (xs.length / 32)).map fun i => quantMx fmt 0 (fun _ => 0) ((xs.drop (32 * i)).take 32)
  (qs.flatMap fun q => q.2.map (BitVec.ofNat 8)) ++ qs.map fun q => BitVec.ofNat 8 q.1

/-- The bytes of a source that one token of one layer takes. -/
def Geo.srcTok (x : Geo) (form : Nat) : Nat := if form = 0 then x.ng * x.recB else 4 * x.heads * x.dim

/-- The record of (layer number i, token j, group g) from the source of an append. -/
def KvEnv.srcRec (k : KvEnv) (a : AppendArgs) (src : Mo) (i j g : Nat) : KvM (List Byte) := do
  let x := k.geo
  let at_ := a.srcOff + (i * a.count + j) * x.srcTok a.form
  if a.form = 0 then kvIo fun s => s.readMo src k.who (at_ + g * x.recB) x.recB
  else
    let kk ← kvIo fun s => s.readMo src k.who (at_ + 2 * g * x.row) (2 * x.row)
    let vv ← kvIo fun s => s.readMo src k.who (at_ + 2 * x.heads * x.dim + 2 * g * x.row) (2 * x.row)
    return quantRow x.fmt (bf16s kk) ++ quantRow x.fmt (bf16s vv)

/-- The records of an append that `sel` picks, by layer number and token. -/
def KvEnv.append (k : KvEnv) (a : AppendArgs) (src : Mo) (sel : Nat → Nat → Bool) : KvM Unit :=
  (List.range a.nlay).forM fun i => (List.range a.count).forM fun j =>
    if sel i j then
      (List.range k.geo.ng).forM fun g => do
        let d ← k.srcRec a src i j g
        let f ← k.blockToWrite a.seq ((a.pos + j) / k.geo.tpb) (a.layer0 + i) g
        k.wr (k.recAt f (a.pos + j)) d
    else pure ()

/-- KV_FORK's work: whole chunks are shared, the last partial chunk's records are copied. -/
def KvEnv.fork (k : KvEnv) (parent child pfx : Nat) : KvM Unit := do
  let x := k.geo
  (List.range (pfx / x.tpb)).forM fun c => (List.range x.layers).forM fun l => (List.range x.ng).forM fun g => do
    match ← k.entry parent (x.idx c l g) with
    | none => pure ()
    | some f =>
      let r ← k.checkBlock f l g c
      let _ ← k.grow child (x.idx c l g / 16383)
      kvAtomic do
        k.wrN (65536 * f + 4) 4 (r + 1)
        k.setEntry child (x.idx c l g) f
        k.addBlocks child true 1
  if pfx % x.tpb ≠ 0 then
    let c := pfx / x.tpb
    (List.range x.layers).forM fun l => (List.range x.ng).forM fun g => do
      let d ← (do
        match ← k.entry parent (x.idx c l g) with
        | none => pure []
        | some f =>
          let _ ← k.checkBlock f l g c
          k.rd (65536 * f + 64) ((pfx % x.tpb) * x.recB) : KvM (List Byte))
      kvAtomic do
        let _ ← k.newBlock child c l g d
        k.addBlocks child true 1

/-- Release the blocks of a sequence's entries from `lo` on. -/
def KvEnv.release (k : KvEnv) (seq lo : Nat) : KvM Unit := do
  let fs ← k.chain k.geo.frames (← k.headOf seq)
  fs.zipIdx.forM fun t => do
    let d ← k.rd (65536 * t.1) 65532
    (List.range 16383).forM fun j => do
      let i := 16383 * t.2 + j
      let v := imgNat d (4 * j) 4
      if v = noFrame ∨ i < lo then pure ()
      else
        match ← k.follow v with
        | none => pure ()
        | some f =>
          let _ ← k.checkBlock f (i / k.geo.ng % k.geo.layers) (i % k.geo.ng) (i / k.geo.ng / k.geo.layers)
          kvAtomic do
            k.unref f
            k.wrN (65536 * t.1 + 4 * j) 4 noFrame
            k.addBlocks seq false 1

/-- KV_EVICT's work. -/
def KvEnv.evict (k : KvEnv) (seq mode newLen : Nat) : KvM Unit :=
  match mode with
  | 0 => do
    k.release seq 0
    let fs ← k.chain k.geo.frames (← k.headOf seq)
    kvAtomic do
      fs.forM k.freeFrame
      k.wrN (dirAt seq + 4) 4 noFrame
  | 1 => k.release seq (ceilDiv newLen k.geo.tpb * k.geo.layers * k.geo.ng)
  | _ => do
    (List.range k.geo.slots).forM fun q => do
      k.wrN (dirAt q + 4) 4 0
      k.wrN (dirAt q + 12) 4 0
    let n := k.geo.frames
    k.wr k.mapAt (leBytes (65536 * k.geo.mapFrames) (2 ^ n - 2 ^ min k.geo.first n))
    k.wrN 36 4 k.geo.pool

end Sys2Proof.Machine
end

