-- ==== Sys2Proof/Machine/KvAttend.lean ====
section
/-!
DEFINITION. The attention of R196 to R198: scores and weights on exact values; each numerator and denominator as long-window sums (R120, R124) over
the engines, combined as compensated pairs (R137, R138). Free values choose how the terms are divided, and the order (R139; log entry 29).
-/

namespace Sys2Proof.Machine

/-- The ceiling of a finite value. -/
def fvCeil : Fv → Int
  | .num s m e => -floorShift (-(smant s m)) e
  | _ => 0

/-- An integer as an exact value. -/
def fvOfInt (i : Int) : Fv := .num (decide (i < 0)) i.natAbs 0

/-- A value times a power of two. -/
def Fv.shift (v : Fv) (k : Int) : Fv := match v with | .num s m e => .num s m (e + k) | x => x

/-- The exact sum of exact values. -/
def fvSum (l : List Fv) : Fv := l.foldl Fv.add (.num false 0 0)

/-- One token of one head: s_t, u_t, and its value row's elements for the head, each with the ceiling X + p of its term less the weight's
exponent (R119). -/
structure Tok where
  s : Fv
  u : Fv
  v : List (Fv × Int)

/-- A value row's element with its scale's part of a term's ceiling. -/
def rowTerm (fmt row bytes i : Nat) : Fv × Int := (rowElem fmt row bytes i, scaleExp fmt row bytes i + elemQ fmt)

/-- The token of a key row and a value row, for the query of a head whose part of a row starts at element r0 (R196). -/
def kvTok (x : Geo) (sigma : Fv) (q : List Fv) (r0 : Nat) (p : Nat × Nat) : Tok :=
  let s := fvSum (q.zipIdx.map fun y => y.1.mul (rowElem x.fmt x.row p.1 (r0 + y.2)))
  { s := s, u := f32 (toF32 0 (sigma.mul s)), v := (List.range x.dim).map fun d => rowTerm x.fmt x.row p.2 (r0 + d) }

/-- The token makes the head's outputs NaN (R198). -/
def Tok.spoils (t : Tok) : Bool := t.s == .nan || t.s == .inf false || t.u == .nan || t.u == .inf false

/-- The tokens that take part: u_t is not -infinity (R198). -/
def liveToks (l : List Tok) : List Tok := l.filter (fun t => t.u != .inf true)

/-- m_w of a unit that has a live token. -/
def unitMax (l : List Tok) : Option Int :=
  (liveToks l).foldl (fun a t => some (match a with | some m => max m (fvCeil t.u) | none => fvCeil t.u)) none

/-- The BF16 weight of a token within its unit, p_t before its scale 2^(m_w - m) (R196). -/
def kvWeight (u : Fv) (mw : Int) : Fv := Fmt.bf16.decode (Fmt.bf16.encode 0 0 .ieee (f32 (approxF32 0x1A (toF32 0 (u.add (fvOfInt (-mw)))))))

/-- A term times 2^k, which moves its ceiling alone (R124). -/
def Term.scaled (t : Term) (k : Int) : Term := { t with e := t.e + k, ceil := t.ceil + k }

/-- The term of a weight times a value element, with the ceiling of both (R119, R125). R119 has no pairing of a BF16 weight with an MXFP8 element: the
ceiling is the weight's exponent plus 1, plus the element's scale exponent and q, as for one product of the two: DESIGN CHOICE (log entry 234). -/
def valueTerm (p : Fv) (y : Fv × Int) : Term :=
  match p.mul y.1 with
  | .num s m e => { nan := false, pinf := false, ninf := false, v := smant s m, e := e, ceil := (loadTerm p).ceil + y.2 }
  | x => loadTerm x

/-- Engines whose partials one sum may have (R141, R196). -/
def kvParts : Nat := 320

/-- The terms of a sum by engine, each with the handshake that brings it in: the free value of a term names both, and a lane that holds 2^20 terms
gives it to the next engine (R123, R139, R196). -/
def kvSpread (ts : List Term) (free : Nat → Nat) : Tab (List (Nat × Term)) :=
  ts.zipIdx.foldl (fun t y =>
    let e := (((List.range kvParts).map fun k => (free y.2 + k) % kvParts).find? fun k => decide ((tgetD t k []).length < 2 ^ 20)).getD 0
    tset t e (tgetD t e [] ++ [(free y.2 / kvParts, y.1)])) []

/-- One engine's partial: the terms of each handshake together, the handshakes one after another (R120). -/
def kvLane (l : List (Nat × Term)) : Lane :=
  ((l.map (·.1)).dedup.insertionSort (· ≤ ·)).foldl (fun a n =>
    let ts := (l.filter (·.1 == n)).map (·.2)
    (a.hand ts.length ts).getD a) Lane.clear

/-- A sum as the block computes it, with the free values from `base` on: the engines' partials as pairs, combined and rounded once (R130, R137, R138). -/
def kvSum (ts : List Term) (base : Nat) : Word :=
  let ps := (kvSpread ts fun i => Config.free (base + i)).map fun e => pairOf (kvLane e.2).value .toInf
  toF32 0 (pairValue (combineAll ps.length (base + ts.length) ps))

/-- The free values that one sum of n terms draws. -/
def kvDraws (n : Nat) : Nat := n + 2 * kvParts

/-- m + log2 of the denominator, rounded (R196). -/
def kvLse (m : Int) (den : Fv) : Word :=
  match den with
  | .num _ 0 _ => toF32 0 .nan
  | .num _ n e => fxRound (m * fxOne + fxLog2 n e)
  | v => toF32 0 v

/-- Head h's outputs and lse; output d's numerator draws its free values from `base d` on, the denominator from `base x.dim`. -/
def kvHead (x : Geo) (sigma : Fv) (q : List Fv) (r0 : Nat) (units : List (List (Nat × Nat))) (base : Nat → Nat) : List Word × Word :=
  let us := units.map fun u => u.map (kvTok x sigma q r0)
  let nan := toF32 0 .nan
  if us.any (fun l => l.any Tok.spoils) then (List.replicate x.dim nan, nan)
  else
    match us.foldl (fun a l => match a, unitMax l with | some m, some w => some (max m w) | none, w => w | a, none => a) none with
    | none => (List.replicate x.dim nan, nan)
    | some m =>
      let ps := us.flatMap fun l =>
        let mw := (unitMax l).getD m
        (liveToks l).map fun t => (kvWeight t.u mw, mw - m, t.v)
      let den := f32 (kvSum (ps.map fun p => (loadTerm p.1).scaled p.2.1) (base x.dim))
      let out := (List.range x.dim).map fun d =>
        let ts := ps.map fun p => (valueTerm p.1 (p.2.2.getD d (.num false 0 0, 0))).scaled p.2.1
        if den.isZero then nan else divF32 0 (f32 (kvSum ts (base d))) den
      (out, kvLse m den)

/-- Round up to 64 bytes. -/
def pad64 (n : Nat) : Nat := ceilDiv n 64 * 64

/-- Bytes of a query record. -/
def Geo.qBytes (x : Geo) : Nat := 64 + 2 * x.hq * x.dim
/-- Bytes of an output element. -/
def outBytes (fmt : Nat) : Nat := if fmt = 8 then 4 else 2
/-- RS (R190). -/
def Geo.rs (x : Geo) (fmt opts : Nat) : Nat := pad64 (x.hq * x.dim * outBytes fmt) + (if opts.testBit 0 then pad64 (4 * x.hq) else 0)

/-- Bytes padded with zeros to a length. -/
def padTo (n : Nat) (d : List Byte) : List Byte := d ++ List.replicate (n - d.length) 0

/-- An output rounded to OUT_FORMAT. -/
def outElem (fmt : Nat) (w : Word) : List Byte :=
  if fmt = 8 then leBytes 4 w.toNat
  else leBytes 2 ((if fmt = 6 then Fmt.bf16 else Fmt.fp16).encode 0 0 .toInf (f32 w))

/-- The (key row, value row) numbers of a chunk's first n tokens for one layer and group; zero where no block is allocated (R187). -/
def KvEnv.unit (k : KvEnv) (seq c l g n : Nat) : KvM (List (Nat × Nat)) := do
  let x := k.geo
  match ← k.entry seq (x.idx c l g) with
  | none => return List.replicate n (0, 0)
  | some f =>
    let _ ← k.checkBlock f l g c
    let d ← k.rd (65536 * f + 64) (n * x.recB)
    return (List.range n).map fun j => (imgNat d (j * x.recB) (x.recB / 2), imgNat d (j * x.recB + x.recB / 2) (x.recB / 2))

/-- The result record of one query: its sequence, visible length and record bytes. -/
def KvEnv.attendOne (k : KvEnv) (a : AttendArgs) (seq len : Nat) (rec : List Byte) : KvM (List Byte) := do
  let x := k.geo
  let units ← (List.range x.ng).mapM fun g => (List.range (ceilDiv len x.tpb)).mapM fun c =>
    k.unit seq c a.layer g (min x.tpb (len - c * x.tpb))
  let base := (← get).free
  modify fun s => s.drew (x.hq * (x.dim + 1) * kvDraws len)
  let heads := (List.range x.hq).map fun h =>
    let kv := h / x.qpk
    kvHead x (f32 a.sigma) (bf16s ((rec.drop (64 + 2 * h * x.dim)).take (2 * x.dim))) (kv % x.g * x.dim) (units.getD (kv / x.g) [])
      (fun d => base + (h * (x.dim + 1) + d) * kvDraws len)
  let out := padTo (pad64 (x.hq * x.dim * outBytes a.outFmt)) (heads.flatMap fun p => p.1.flatMap (outElem a.outFmt))
  return if a.opts.testBit 0 then out ++ padTo (pad64 (4 * x.hq)) (heads.flatMap fun p => leBytes 4 p.2.toNat) else out

/-- The result records of a KV_ATTEND, one after another. -/
def KvEnv.attend (k : KvEnv) (a : AttendArgs) (qs : List (Nat × Nat)) (src : Mo) : KvM (List Byte) := do
  let rs ← qs.zipIdx.mapM fun q => do
    let r ← kvIo fun s => s.readMo src k.who (a.qOff + q.2 * pad64 k.geo.qBytes) k.geo.qBytes
    k.attendOne a q.1.1 q.1.2 r
  return rs.flatten

end Sys2Proof.Machine
end

