-- ==== Sys2Proof/WellFormed.lean ====
section
/-!
DEFINITION. Well-formed commands: every operand fits the field that carries it (the packet layouts of R74 and R88 to R98, R189 to R192), and
a command that the surroundings send names a unit that the block has. `exec` is total on the others too: one that names a unit that does not
exist has no effect, or that of a reserved offset (R512).
-/

namespace Sys2Proof

/-- A packet header: a queue slot (R34), a continuation count of one byte (R74). -/
def Hdr.wf (h : Hdr) : Bool := decide (h.q < 8192) && decide (h.cont < 256)

/-- Fits a field of `n` bits. -/
def fits (n v : Nat) : Bool := decide (v < 2 ^ n)

/-- A register access path (R507): a host port, a control core. -/
def Path.wf : Path → Bool
  | .host p _ _ => decide (p < 4)
  | .hostOdd p => decide (p < 4)
  | .core n => decide (n < 8)
  | _ => true

/-- A party (R430). -/
def Party.wf : Party → Bool
  | .csq c => decide (c < 20)
  | _ => true

/-- A link message (R368). -/
def Msg.wf (m : Msg) : Bool :=
  fits 8 m.mtype && fits 16 m.units && fits 16 m.tag && fits 16 m.binding && fits 32 m.src && fits 32 m.dst && fits 32 m.len && fits 64 m.sealCtr

/-- Where an SPDM session stands (R294). -/
def SessWhere.wf : SessWhere → Bool
  | .hostPort p => decide (p < 4)
  | .link a => fits 32 a
  | .mgmt => true

/-- A host port, a link, a cluster or stack, a polder, a control core, a mailbox. -/
def okPort (p : Nat) : Bool := decide (p < 4)
/-- A link number (R342). -/
def okLink (l : Nat) : Bool := decide (l < 48)
/-- A logical cluster or a stack. -/
def okCluster (c : Nat) : Bool := decide (c < 20)
/-- A polder (R241). -/
def okPolder (p : Nat) : Bool := decide (p < 16)
/-- A control core (R418). -/
def okCore (n : Nat) : Bool := decide (n < 8)
/-- A mailbox (R430). -/
def okBox (m : Nat) : Bool := decide (m < 64)

/-- The opcodes that the tables of R88 to R98 assign (R81). -/
def assignedOps : List Nat :=
  (List.range 15).map (0x01 + ·) ++ [0x20, 0x21, 0x22, 0x40, 0x41, 0x48, 0x49, 0x4A, 0x4B, 0x60, 0x61, 0x62, 0x63, 0x64, 0x70, 0x71, 0x72] ++
    (List.range 6).map (0x80 + ·) ++ (List.range 15).map (0xA0 + ·) ++ [0xC0, 0xC1, 0xC2, 0xE0, 0xE1, 0xE2]

/-- No table assigns the packet's opcode (R81), or its KIND (0xE0) or MODE (0x4B) is reserved (R98, R192). -/
def RawArgs.unassigned (a : RawArgs) : Bool :=
  !assignedOps.contains a.op || (a.op == 0xE0 && decide (4 ≤ a.sel)) || (a.op == 0x4B && decide (3 ≤ a.sel))

/-- The rates and widths of a host port's link (R393). -/
def hostRate (rate width : Nat) : Bool := decide (1 ≤ rate) && decide (rate ≤ 6) && [1, 2, 4, 8, 16].contains width

/-- What a bring-up brings: results for every cluster, links that exist, fields at their widths (R291, R440). -/
def Boot.wf (b : Boot) : Bool :=
  b.fuseGood.length == 20 && b.kat.length == 20 && fits 16 b.stepping && b.far.all (fun e => okLink e.1) && b.slots.all (fits 384)

/-- A well-formed command. -/
def Instr.wf : Instr → Bool
  | .ctxCreate h r l v => h.wf && fits 64 r && fits 8 l && fits 16 v
  | .ctxDestroy h _ => h.wf
  | .queueCreate h a => h.wf && fits 64 a.ringAddr && fits 8 a.log2 && fits 8 a.cls && fits 32 a.weight && fits 64 a.replyAddr
  | .ctxSetRing h a _ l v => h.wf && fits 64 a && fits 8 l && fits 16 v
  | .queueDestroy h _ => h.wf
  | .queueStart h _ => h.wf
  | .queueStop h _ => h.wf
  | .moCreate h b l t _ => h.wf && fits 64 b && fits 64 l && fits 8 t
  | .moFree h _ => h.wf
  | .moSeal h _ => h.wf
  | .fenceCreate h _ => h.wf
  | .fenceFree h _ => h.wf
  | .programLoad h _ o => h.wf && fits 64 o
  | .programFree h _ => h.wf
  | .queueSetWeight h _ w => h.wf && fits 32 w
  | .moFill h _ _ o l => h.wf && fits 64 o && fits 64 l
  | .moCopy h _ _ a b l => h.wf && fits 64 a && fits 64 b && fits 64 l
  | .moPlaceHint h _ p => h.wf && fits 8 p
  | .dispatch h a =>
    h.wf && fits 16 a.count && fits 8 a.polder && fits 32 a.entry && a.binds.all (fun b => fits 16 b.index && fits 64 b.off) &&
      (decide (15 < h.cont) || a.binds.length == 1 + 4 * h.cont)
  | .dispatchRemote h a => h.wf && fits 8 a.link && fits 64 a.argLen
  | .kvAppend h a =>
    h.wf && fits 16 a.layer0 && fits 16 a.nlay && fits 32 a.seq && fits 64 a.srcOff && fits 32 a.pos && fits 16 a.count && fits 8 a.form &&
      fits 8 a.polder
  | .kvAttend h a =>
    h.wf && fits 16 a.layer && fits 16 a.nq && fits 64 a.qOff && fits 8 a.outFmt && fits 8 a.opts && fits 8 a.polder && fits 64 a.rOff &&
      fits 8 a.ret && fits 8 a.port
  | .kvFork h _ p c f _ => h.wf && fits 32 p && fits 32 c && fits 32 f
  | .kvEvictRelease h _ q _ => h.wf && fits 32 q
  | .kvEvictTruncate h _ q n _ => h.wf && fits 32 q && fits 32 n
  | .kvEvictFormat h _ q _ => h.wf && fits 32 q
  | .fenceSignal h => h.wf
  | .fenceWait h _ _ => h.wf
  | .fenceNotify h _ _ _ => h.wf
  | .fenceReset h _ _ => h.wf
  | .ctxSetSlowdown h t => h.wf && fits 16 t
  | .txnBegin h => h.wf
  | .txnCommit h _ => h.wf
  | .txnAbort h _ => h.wf
  | .queryAlmanac h _ o => h.wf && fits 64 o
  | .queryFence h _ => h.wf
  | .queryContext h _ _ o => h.wf && fits 64 o
  | .queryMo h _ => h.wf
  | .queryQueue h _ => h.wf
  | .queryDigest h _ _ o => h.wf && fits 64 o
  | .sliceCreate h a =>
    h.wf && fits 32 a.pasid && fits 8 a.port && fits 8 a.mode && fits 32 a.qCtx && fits 32 a.qQueue && fits 32 a.qFence && fits 64 a.qFrame &&
      fits 32 a.hostBw && fits 32 a.linkBw && fits 64 a.evtAddr && fits 8 a.evtLog2 && fits 16 a.vector && fits 64 a.ringAddr &&
      fits 8 a.ringLog2 && fits 32 a.weight && fits 64 a.replyAddr
  | .sliceDestroy h _ => h.wf
  | .sliceSetQuota h _ f v => h.wf && fits 8 f && fits 64 v
  | .sliceSetShare h _ p w => h.wf && fits 8 p && fits 32 w
  | .polderShape h p _ d => h.wf && fits 8 p && fits 32 d
  | .polderCalendar h p _ _ => h.wf && fits 8 p
  | .polderAdmit h _ p k _ _ => h.wf && fits 8 p && fits 8 k
  | .linkShape h a => h.wf && fits 8 a.link && fits 16 a.overhead && fits 32 a.weight && fits 32 a.rate && fits 32 a.burst
  | .pdFramesBacked h r s => h.wf && fits 64 r && fits 16 s
  | .sliceDirtyLog h _ o a b _ => h.wf && fits 8 o && fits 64 a && fits 64 b
  | .sliceQuiesce h _ => h.wf
  | .sliceResume h _ => h.wf
  | .sluiceSet h k c => h.wf && fits 8 k && fits 16 c
  | .embankmentSet h p => h.wf && fits 8 p
  | .placementMode h m => h.wf && fits 8 m
  | .keyRotate h _ => h.wf
  | .keyPolicy h _ i c => h.wf && fits 64 i && fits 16 c
  | .attestReport h _ n => h.wf && n.length == 32
  | .resetRequestEngine h n => h.wf && fits 32 n
  | .resetRequestCluster h n => h.wf && fits 32 n
  | .resetRequestPolder h n => h.wf && fits 32 n
  | .innerReset h n k => h.wf && fits 32 n && k.length == 20
  | .katRun h c _ => h.wf && fits 8 c
  | .stackRetire h k => h.wf && fits 8 k
  | .unassignedOpcode h a =>
    h.wf && fits 8 a.op && fits 8 a.sel && fits 32 a.seq && fits 32 a.newLen && a.unassigned
  | .qeDbTailWrite p q _ => p.wf && fits 13 q
  | .qeDbEvtConsWrite p c _ => p.wf && fits 12 c
  | .back p => p.wf
  | .table p => p.wf
  | .untable p => p.wf
  | .query p => p.wf
  | .pleInvGo p => p.wf
  | .invalidationDone => true
  | .pleReqDoneWrite p w _ => p.wf && (w == 4 || w == 8)
  | .hubS0Go p _ => p.wf
  | .sliceRebind p l _ _ => p.wf && fits 9 l
  | .hubHpwinWrite p o k w _ => p.wf && okPort o && decide (k < 16) && decide (w < 4)
  | .msixVectorUnmask p v => okPort p && fits 11 v
  | .evcClaimRead n => okCore n
  | .evcEoiWrite n i => okCore n && fits 32 i
  | .evcPendSetWrite p w _ => p.wf && fits 6 w
  | .evcPendClrWrite p w _ => p.wf && fits 6 w
  | .evcMaskSetWrite p w _ => p.wf && fits 6 w
  | .evcMaskClrWrite p w _ => p.wf && fits 6 w
  | .mbxSend w m n _ => w.wf && okBox m && (n == 4 || n == 8)
  | .mbxRecv w m n => w.wf && okBox m && (n == 4 || n == 8)
  | .pdAttach => true
  | .pdDetach => true
  | .lnkCtrlRetrain p l => p.wf && okLink l
  | .lnkCtrlWidthGo p l => p.wf && okLink l
  | .lnkCtrlRekey p l => p.wf && okLink l
  | .lnkCtrlDown p l => p.wf && okLink l
  | .lnkCfgEnableWrite p l _ => p.wf && okLink l
  | .lnkTopoLock p => p.wf
  | .pwrCcsleepReq p => p.wf
  | .registerReadClear p b o => p.wf && [0, 2, 4, 5, 6, 7].contains b && fits 32 o && o % 4 == 0
  | .registerWrite p b o w _ => p.wf && [0, 2, 4, 5, 6, 7].contains b && fits 32 o && (w == 4 || w == 8) && o % w == 0
  | .debugTokenLoad t => fits 16 t.version && fits 32 t.lifetime
  | .dbgCtrlClose => true
  | .debugLifetimeExpiry => true
  | .bundleIssue _ k => fits 9 k
  | .barrierRelease _ i => fits 4 i
  | .moverOpComplete _ k t => fits 9 k && fits 4 t
  | .dispatchStart p => okPolder p
  | .dispatchComplete _ => true
  | .kvOpComplete _ => true
  | .contextFaulted c => fits 12 c
  | .preemptFullStop _ k => fits 9 k
  | .preemptSaveStart _ => true
  | .preemptSaveDone _ => true
  | .dayBoundary p => okPolder p
  | .eveStart p c => okPolder p && fits 12 c
  | .shareDeficitCharge p => okPolder p
  | .slowdownEpoch l => l.all (fun e => fits 12 e.1)
  | .pleEpoch => true
  | .moveStart k => okCluster k
  | .moveCopyDone _ => true
  | .rateUpdate l => l.length == 20
  | .txnTimeout t => fits 6 t
  | .backRequestTimeout r => fits 48 r
  | .sweepComplete c => fits 12 c
  | .autoKeyRotate c => fits 12 c
  | .stackPhyTrainingLoss k _ => okCluster k
  | .uncorrectableRead k _ s => okCluster k && fits 8 s
  | .sramUncorrectableError _ _ b => b.wf
  | .entropyHealthFail => true
  | .entropyRecover => true
  | .linkTrainingStart l _ => okLink l
  | .dataFlitReceived l f => okLink l && fits 3 f.vc && fits 3 f.fill
  | .controlFlitReceived l f => okLink l && f.freed.length == 8
  | .idleFlitReceived l => okLink l
  | .controlFlitSend l => okLink l
  | .replayTimeout l => okLink l
  | .rekey l _ => okLink l
  | .retrain l _ => okLink l
  | .widthChange l n => okLink l && (n == 2 || n == 4 || n == 8)
  | .linkDown l _ => okLink l
  | .memRd l m => okLink l && m.wf
  | .memWr l m => okLink l && m.wf
  | .cpl l m => okLink l && m.wf
  | .resultStoreTimeout _ => true
  | .pathLost l m => okLink l && m.wf
  | .doorbell l m => okLink l && m.wf
  | .rdispSend l => okLink l
  | .rdispDone l m => okLink l && m.wf
  | .rdispTimeout l s => okLink l && fits 8 s
  | .secured l m => okLink l && m.wf
  | .reservedMtype l m => okLink l && m.wf
  | .messageForward l m => okLink l && m.wf
  | .cxlMemRead p a n => okPort p && fits 64 a && decide (n ≤ 64)
  | .cxlMemWrite p a d => okPort p && fits 64 a && decide (d.length ≤ 64)
  | .hostPortLoss p _ => okPort p
  | .atsInvalidation p s _ _ => okPort p && fits 20 s
  | .priResponse p _ _ => okPort p
  | .priTimeout p _ => okPort p
  | .startInterface p _ _ => okPort p
  | .lockInterface p _ _ => okPort p
  | .stopInterface p _ _ => okPort p
  | .bindClaim p _ v c _ _ => okPort p && fits 16 v && fits 16 c
  | .ideKmKeyProg p _ _ _ _ _ => okPort p
  | .ideIntegrityFailure p _ => okPort p
  | .getMeasurements w _ _ => w.wf
  | .keyExchange w _ _ _ _ _ _ => w.wf
  | .mctpControl u _ => decide (u ≤ 256)
  | .pldmFirmwareUpdate _ _ => true
  | .claimSlot _ d => fits 384 d
  | .burnSlot _ s d _ _ => fits 8 s && fits 384 d
  | .revokeSlot _ s _ _ => fits 8 s
  | .burnSvn _ _ _ _ => true
  | .resetBlock _ b => b.wf
  | .resetCold _ b => b.wf
  | .coldReset => true
  | .coldResetRelease b => b.wf
  | .blockReset c b => fits 8 c && b.wf
  | .watchdogExpiry n b => okCore n && b.wf
  | .fatalInternalError b => b.wf
  | .supplyWarn => true
  | .dipEnd m _ => fits 10 m
  | .supplyClear => true
  | .supplyReset m _ b => fits 10 m && b.wf
  | .powerMeasurement _ _ _ => true
  | .thermalCeilingStep t => t.length == 5
  | .thermalTrip d b => decide (d < 5) && b.wf
  | .wiredInputChange i _ _ => fits 5 i
  | .clusterNapEntry c => okCluster c
  | .clusterDeepEntry c => okCluster c
  | .clusterWake c => okCluster c
  | .controlClusterDown => true
  | .controlClusterWake => true
  | .moFillCopyWorkEnd _ => true
  | .hostPortLinkUp p r w _ => okPort p && hostRate r w
  | .sessionEnd _ => true
  | .trainingFlitReceived l => okLink l

end Sys2Proof
end

