-- ==== Sys2Proof/Machine/Kv.lean ====
section
/-!
DEFINITION. The KV opcodes (R189 to R195): decode with its checks and its effect on the directory (R194, R195), the order of the works on a
sequence (R195), the engines a KV dispatch holds (R201), and the end of the work (R203, R519).
-/

namespace Sys2Proof.Machine

/-! ## Order of the works (R195) -/

/-- Sequences whose structures a work writes. -/
def Work.kvWrites : Work → List Nat
  | .append a => [a.seq]
  | .fork _ _ c _ => [c]
  | .evict _ q _ _ => [q]
  | _ => []

/-- Sequences that it reads. -/
def Work.kvReads : Work → List Nat
  | .attend _ qs => qs.map (·.1)
  | .fork _ p _ _ => [p]
  | _ => []

/-- A FORMAT. -/
def Work.isFormat : Work → Bool
  | .evict _ _ 2 _ => true
  | _ => false

/-- An append after an attend does not wait: a reader sees each record whole, old or new. -/
def kvFree : Work → Work → Bool
  | .attend .., .append _ => true
  | _, _ => false

/-- Work b waits for the earlier work a of its object: it reads or writes what a writes, or it frees or changes what a still reads. -/
def kvConflict (a b : Work) : Bool :=
  a.isFormat || b.isFormat || a.kvWrites.any (fun q => b.kvWrites.contains q || b.kvReads.contains q) ||
    (a.kvReads.any b.kvWrites.contains && !kvFree a b)

/-- The KV works on object `m` decoded before position `o`. -/
def State.kvBefore (s : State) (m o : Nat) : List Disp := s.sched.disps.filter (fun d => d.work.kvObj == some m && decide (d.order < o))

/-- An earlier work has still to end before this one's may take effect. -/
def State.kvBlocked (s : State) (d : Disp) : Bool :=
  match d.work.kvObj with
  | some m => (s.kvBefore m d.order).any (fun e => kvConflict e.work d.work)
  | none => false

/-! ## Decode -/

/-- Why a decode ends without the work: a status (R82), or a header or directory sector that failed its MAC (R194). -/
inductive KvStop where
  | st (x : Status)
  | acc (e : AccErr)

/-- A step of decode. -/
abbrev KvD := EStateM KvStop State

/-- A check of R194. -/
def kvCheck (b : Bool) (st : Status) : KvD Unit := if b then pure () else throw (.st st)

/-- A value, or a status. -/
def kvWant {α : Type} (r : Except Status α) : KvD α := match r with | .ok a => pure a | .error st => throw (.st st)

/-- An access at decode. -/
def kvDo {α : Type} (m : KvM α) : KvD α := fun s =>
  match m s with
  | .ok a t => .ok a t
  | .error e t => .error (.acc e) t

/-- The work packet is accepted, fails with a status, or is accepted and faults its context at once. -/
def kvAnswer (s : State) (d0 : Disp) (m : KvD Disp) : State × Ans :=
  match m s with
  | .ok d t => (t.accept d, .ok (leNats 8 d.ref.toNat))
  | .error (.st x) _ => (s, .bad x [])
  | .error (.acc e) t => ((t.accept d0).faultCtx d0.ctx (d0.accRegs e), .ok (leNats 8 d0.ref.toNat))

/-- The class and polder checks of a scheduled KV operation (R4, R251). -/
def kvPolder (h : Hdr) (c p : Nat) : KvD Unit := do
  let s ← get
  kvCheck (!s.actives.isEmpty) .notLicensed
  kvCheck (s.polder? p).isSome .badParam
  kvCheck (s.classOk ((s.queue? h.q).elim 0 (·.cls)) c p none) .denied

/-- The header, read and interpreted. -/
def kvOpen (d : Disp) (m : Nat × Mo) : KvD (KvEnv × Disp) := do
  let hd ← kvDo (kvIo fun s => s.readMo m.2 .hub 0 48)
  return ({ ref := d.ref, m := m.1, mo := m.2, geo := geoOf hd (m.2.len / 65536), who := .hub }, { d with kvHead := hd })

/-- STATE is 1 (R194). -/
def kvFormatted (hd : List Byte) : KvD Unit := kvCheck (imgNat hd 40 1 == 1) .badState

/-- STATE and LEN of a sequence. -/
def KvEnv.seqLen (k : KvEnv) (seq : Nat) : KvD (Nat × Nat) := do
  let d ← kvDo (k.rd (dirAt seq) 12)
  return (imgNat d 0 1, imgNat d 8 4)

/-- Write STATE and LEN at decode (R195). -/
def KvEnv.setSeq (k : KvEnv) (seq st len : Nat) : KvD Unit := do
  kvDo (k.wrN (dirAt seq) 1 st)
  kvDo (k.wrN (dirAt seq + 8) 4 len)

/-- FREE_BLOCKS less the blocks already reserved, behind a FORMAT that is still to work. -/
def State.kvAvail (s : State) (m free pool : Nat) : Nat :=
  let ds := s.sched.disps.filter (fun d => d.work.kvObj == some m)
  let fs := ds.filter (·.work.isFormat)
  let from_ := fs.foldl (fun a d => max a (d.order + 1)) 0
  (if fs = [] then free else pool) - ((ds.filter (fun d => decide (from_ ≤ d.order))).map (·.kvRes)).sum

/-- The last check of R194: the reservation fits. -/
def KvEnv.reserve (k : KvEnv) (hd : List Byte) (n : Nat) : KvD Unit := do
  let s ← get
  kvCheck (n ≤ s.kvAvail k.m (imgNat hd 36 4) k.geo.pool) .badState

/-- Table entries up to the last that an append touches. -/
def Geo.upTo (x : Geo) (a : AppendArgs) : Nat := x.idx ((a.pos + a.count - 1) / x.tpb) (a.layer0 + a.nlay - 1) (x.ng - 1) + 1
/-- Table entries of the chunks that a fork's prefix reaches. -/
def Geo.forked (x : Geo) (pfx : Nat) : Nat := ceilDiv pfx x.tpb * x.layers * x.ng

/-- Table frames of sequence `seq` after a work that decode let pass, where it had `n` before it (R195; log entry 211). -/
def Geo.framesAfter (x : Geo) (seq n : Nat) : Work → Nat
  | .append a => if a.seq = seq then max n (tableFrames (x.upTo a)) else n
  | .fork _ _ c f => if c = seq then tableFrames (x.forked f) else n
  | .evict _ q mode _ => if mode = 2 ∨ (mode = 0 ∧ q = seq) then 0 else n
  | _ => n

/-- Table frames that a sequence's chain lacks to hold `n` entries, those that earlier decoded works bring counted in. -/
def KvEnv.lacks (k : KvEnv) (seq n : Nat) : KvD Nat := do
  let s ← get
  let l ← kvDo (do k.chain k.geo.frames (← k.headOf seq))
  let ds := s.sched.disps.filter (fun d => d.work.kvObj == some k.m)
  return tableFrames n - ds.foldl (fun a d => k.geo.framesAfter seq a d.work) l.length

/-- NOTIFY's arming, last. -/
def kvNotify (h : Hdr) (c : Nat) (cookie : DWord) : KvD Unit := do
  let s ← get
  match s.notify h c cookie with
  | .ok t => set t
  | .error st => throw (.st st)

/-- The KV_CACHE object and the packet's work before its checks. -/
def State.kvDisp (s : State) (h : Hdr) (c : Nat) (n : Word) (w : Work) (refs : List Nat) : Disp :=
  { s.blankDisp h c n w with moRefs := refs }

/-- KV_APPEND's decode (R189, R194). -/
def kvAppendDec (h : Hdr) (a : AppendArgs) (c : Nat) (d0 : Disp) (m : Nat × Mo) (src : Mo) : KvD Disp := do
  kvPolder h c a.polder
  kvCheck (m.2.ty == 1 && src.ty == 0) .badParam
  kvCheck (m.2.flags.getLsbD 1 && !m.2.isSealed) .denied
  let (k, d1) ← kvOpen d0 m
  kvFormatted d1.kvHead
  let x := k.geo
  kvCheck (1 ≤ a.nlay && a.layer0 + a.nlay ≤ x.layers && a.seq < x.slots && 1 ≤ a.count && a.count ≤ 65535 && a.form ≤ 1 && a.srcOff % 64 == 0 &&
    a.srcOff + a.nlay * a.count * x.srcTok a.form ≤ src.len) .badParam
  let (_, len) ← k.seqLen a.seq
  kvCheck (a.pos ≤ len && a.pos + a.count ≤ x.maxLen) .badParam
  let lo := a.pos / x.tpb
  let hi := (a.pos + a.count - 1) / x.tpb
  let t ← k.lacks a.seq (x.upTo a)
  let need := (hi - lo + 1) * a.nlay * x.ng + t
  k.reserve d1.kvHead need
  kvNotify h c a.cookie
  k.setSeq a.seq 1 (max len (a.pos + a.count))
  return { d1 with polder := a.polder, kvRes := need }

/-- KV_APPEND (0x48). -/
def execKvAppend (h : Hdr) (a : AppendArgs) (s : State) : Result :=
  s.packet (.kvAppend h a) (kvAppendInfo a) h fun s c n =>
    match s.findMo c a.obj, s.findMo c a.source with
    | some m, some src =>
      if s.brg.maint then (s, .bad .heldVersion [])
      else
        let d0 := s.kvDisp h c n (.append a) [m.1, src.1]
        kvAnswer s d0 (kvAppendDec h a c d0 m src.2)
    | _, _ => (s, .bad .badHandle [])

/-- The (sequence, visible length) of the query records, checked (R190, R194). -/
def KvEnv.queries (k : KvEnv) (a : AttendArgs) (src : Mo) : KvD (List (Nat × Nat)) :=
  (List.range a.nq).mapM fun i => do
    let d ← kvDo (kvIo fun s => s.readMo src .hub (a.qOff + i * pad64 k.geo.qBytes) 64)
    kvCheck ((d.drop 8).all (· == 0) && imgNat d 0 4 < k.geo.slots) .badParam
    let (st, len) ← k.seqLen (imgNat d 0 4)
    kvCheck (st == 1 && 1 ≤ imgNat d 4 4 && imgNat d 4 4 ≤ len) .badParam
    return (imgNat d 0 4, imgNat d 4 4)

/-- LINK_PORT shows the attach profile and state up (R194). -/
def State.attachUp (s : State) (l : Nat) : Bool := match s.link? l with | some x => x.attach && x.up | none => false

/-- KV_ATTEND's decode (R190, R194). -/
def kvAttendDec (h : Hdr) (a : AttendArgs) (c : Nat) (d0 : Disp) (m : Nat × Mo) (src : Mo) (res : Option (Nat × Mo)) : KvD Disp := do
  kvPolder h c a.polder
  kvCheck (m.2.ty == 1 && src.ty == 0 && res.all (fun r => r.2.ty == 0)) .badParam
  kvCheck (res.all (fun r => r.2.flags.getLsbD 1)) .denied
  let (k, d1) ← kvOpen d0 m
  kvFormatted d1.kvHead
  let x := k.geo
  kvCheck (a.layer < x.layers && 1 ≤ a.nq && a.nq ≤ 1024 && a.qOff % 64 == 0 && a.rOff % 64 == 0 && a.ret ≤ 1 && a.opts ≤ 1 &&
    6 ≤ a.outFmt && a.outFmt ≤ 8 && !(f32 a.sigma).special && !(f32 a.sigma).isZero && a.qOff + a.nq * pad64 x.qBytes ≤ src.len &&
    (a.ret == 1) == (a.results == 0) && res.all (fun r => decide (a.rOff + a.nq * x.rs a.outFmt a.opts ≤ r.2.len))) .badParam
  let qs ← k.queries a src
  let s ← get
  kvCheck (a.ret == 0 || s.attachUp a.port) .badParam
  kvNotify h c a.cookie
  return { d1 with polder := a.polder, work := .attend a qs }

/-- KV_ATTEND (0x49). -/
def execKvAttend (h : Hdr) (a : AttendArgs) (s : State) : Result :=
  s.packet (.kvAttend h a) (kvAttendInfo a) h fun s c n =>
    match s.findMo c a.obj, s.findMo c a.queries, s.findMoOpt c a.results with
    | some m, some src, .ok res =>
      if s.brg.maint then (s, .bad .heldVersion [])
      else
        let d0 := s.kvDisp h c n (.attend a []) (m.1 :: src.1 :: (res.map (·.1)).toList)
        kvAnswer s d0 (kvAttendDec h a c d0 m src.2 res)
    | _, _, _ => (s, .bad .badHandle [])

/-- KV_FORK's decode (R191, R194). -/
def kvForkDec (h : Hdr) (c parent child pfx : Nat) (cookie : DWord) (d0 : Disp) (m : Nat × Mo) : KvD Disp := do
  kvCheck (m.2.ty == 1) .badParam
  kvCheck (m.2.flags.getLsbD 1 && !m.2.isSealed) .denied
  let (k, d1) ← kvOpen d0 m
  kvFormatted d1.kvHead
  let x := k.geo
  kvCheck (parent < x.slots && child < x.slots) .badParam
  let p ← k.seqLen parent
  let q ← k.seqLen child
  kvCheck (p.1 == 1 && q.1 == 0 && parent != child) .badState
  kvCheck (pfx ≤ p.2) .badParam
  let need := x.ng * x.layers + tableFrames (x.forked pfx)
  k.reserve d1.kvHead need
  kvNotify h c cookie
  k.setSeq child 1 pfx
  return { d1 with state := .running, kvRes := need }

/-- KV_FORK (0x4A). -/
def execKvFork (h : Hdr) (obj : Handle) (parent child pfx : Nat) (cookie : DWord) (s : State) : Result :=
  s.packet (.kvFork h obj parent child pfx cookie) (kvForkInfo obj parent child pfx cookie) h fun s c n =>
    match s.findMo c obj with
    | some m =>
      if s.brg.maint then (s, .bad .heldVersion [])
      else
        let d0 := s.kvDisp h c n (.fork m.1 parent child pfx) [m.1]
        kvAnswer s d0 (kvForkDec h c parent child pfx cookie d0 m)
    | none => (s, .bad .badHandle [])

/-- KV_EVICT RELEASE's and TRUNCATE's decode (R192, R194). A sealed object is let pass, R194 naming APPEND and FORK alone: DESIGN CHOICE (log entry
243). -/
def kvEvictDec (h : Hdr) (c seq mode newLen : Nat) (cookie : DWord) (d0 : Disp) (m : Nat × Mo) : KvD Disp := do
  kvCheck (m.2.ty == 1) .badParam
  let (k, d1) ← kvOpen d0 m
  kvFormatted d1.kvHead
  kvCheck (seq < k.geo.slots) .badParam
  let p ← k.seqLen seq
  kvCheck (p.1 == 1) .badState
  kvCheck (mode == 0 || decide (newLen ≤ p.2)) .badParam
  kvNotify h c cookie
  if mode = 0 then k.setSeq seq 0 0 else k.setSeq seq 1 newLen
  return { d1 with state := .running }

/-- FORMAT's decode (R183, R184, R192, R194): the header's B fields, STATE and LEN of every entry; an object never formatted before gets its
whole directory zeroed. -/
def kvFormatDec (h : Hdr) (c seq : Nat) (cookie : DWord) (d0 : Disp) (m : Nat × Mo) : KvD Disp := do
  kvCheck (m.2.ty == 1) .badParam
  let (k, d1) ← kvOpen d0 m
  let hd := d1.kvHead
  let x := k.geo
  let st := imgNat hd 40 1
  kvCheck (st ≤ 1 && x.magic == 0x4B564F42) .badState
  kvCheck (seq == noFrame && x.ok && x.first ≤ x.frames) .badParam
  kvNotify h c cookie
  let free := if m.2.formatted then imgNat hd 36 4 else x.pool
  kvDo (k.wr 0 (hd.take 14 ++ leBytes 2 x.tpb ++ (hd.drop 16).take 8 ++ leBytes 4 x.dirFrames ++ leBytes 4 x.mapFrames ++ leBytes 4 x.first ++
    leBytes 4 free ++ leBytes 1 1 ++ List.replicate 65495 0))
  if m.2.formatted then (List.range x.slots).forM fun q => k.setSeq q 0 0
  else kvDo (k.wr 65536 (List.replicate (65536 * x.dirFrames) 0))
  modify fun s => s.modMo m.1 fun y => { y with formatted := true }
  return { d1 with state := .running }

/-- KV_EVICT's shared form. -/
def State.evictPacket (s : State) (cmd : Instr) (i : OpInfo) (h : Hdr) (obj : Handle) (seq mode newLen : Nat) (dec : Nat → Disp → Nat × Mo → KvD Disp) : Result :=
  s.packet cmd i h fun s c n =>
    match s.findMo c obj with
    | some m =>
      if s.brg.maint then (s, .bad .heldVersion [])
      else
        let d0 := s.kvDisp h c n (.evict m.1 seq mode newLen) [m.1]
        kvAnswer s d0 (dec c d0 m)
    | none => (s, .bad .badHandle [])

/-- KV_EVICT (0x4B), RELEASE. -/
def execKvEvictRelease (h : Hdr) (obj : Handle) (seq : Nat) (cookie : DWord) (s : State) : Result :=
  s.evictPacket (.kvEvictRelease h obj seq cookie) (kvEvictInfo obj seq 0 (.any 4) cookie) h obj seq 0 0 fun c => kvEvictDec h c seq 0 0 cookie
/-- KV_EVICT (0x4B), TRUNCATE. -/
def execKvEvictTruncate (h : Hdr) (obj : Handle) (seq newLen : Nat) (cookie : DWord) (s : State) : Result :=
  s.evictPacket (.kvEvictTruncate h obj seq newLen cookie) (kvEvictInfo obj seq 1 (num 4 newLen) cookie) h obj seq 1 newLen fun c => kvEvictDec h c seq 1 newLen cookie
/-- KV_EVICT (0x4B), FORMAT. -/
def execKvEvictFormat (h : Hdr) (obj : Handle) (seq : Nat) (cookie : DWord) (s : State) : Result :=
  s.evictPacket (.kvEvictFormat h obj seq cookie) (kvEvictInfo obj seq 2 (.any 4) cookie) h obj seq 2 0 fun c => kvFormatDec h c seq cookie

/-! ## The work -/

/-- The environment of a KV dispatch at work, by the header that its decode read (R194); its accesses are those of one of its clusters. -/
def State.kvEnv (s : State) (d : Disp) (m : Nat) : Option KvEnv :=
  (s.mo? m).map fun mo =>
    { ref := d.ref, m := m, mo := mo, geo := geoOf d.kvHead (mo.len / 65536)
      who := d.who }

/-- The stack that holds an object's frame now. -/
def State.frameHome (s : State) (mo : Mo) (f : Nat) : Option Nat :=
  match s.walk mo.ctx (mo.base / 65536 + f) with
  | .ok e => (match leafOf e with | some (.pool lpf _) => (s.frame? lpf).bind (·.st.home) | _ => none)
  | .error _ => none

/-- The stacks of the block of (chunk, layer, group) of a sequence: where it lies; of one to be written, where R200 binds a block allocated for it
or the copy of a block that others share (R193), the next stack in order where the chosen one has no room. -/
def KvEnv.blockStacks (k : KvEnv) (write : Bool) (seq c l g : Nat) : KvM (List Nat) := do
  let s ← get
  let fresh := if write then ((s.kvStack k.mo seq c).bind s.roomFrom).toList else []
  match ← k.entry seq (k.geo.idx c l g) with
  | none => return fresh
  | some f =>
    let r ← k.rdN (65536 * f + 4) 4
    return (s.frameHome k.mo f).toList ++ (if r ≤ 1 then [] else fresh)

/-- The stacks whose blocks a KV dispatch reads or writes (R201). -/
def KvEnv.stacks (k : KvEnv) (w : Work) : KvM (List Nat) := do
  let x := k.geo
  let ls (seq lo n l : Nat) (write : Bool) : KvM (List Nat) := do
    let bs ← (List.range n).mapM fun c => (List.range x.ng).mapM fun g => k.blockStacks write seq (lo + c) l g
    return bs.flatten.flatten
  let l ← (match w with
    | .append a => (List.range a.nlay).mapM fun i =>
      ls a.seq (a.pos / x.tpb) ((a.pos + a.count - 1) / x.tpb - a.pos / x.tpb + 1) (a.layer0 + i) true
    | .attend a qs => qs.mapM fun q => ls q.1 0 (ceilDiv q.2 x.tpb) a.layer false
    | _ => pure [] : KvM (List (List Nat)))
  return l.flatten.dedup

/-- The engines that a KV_APPEND or KV_ATTEND holds (R201): the polder's engines in the clusters of those stacks, or in the clusters nearest to them;
those of its first start while they are the polder's (R202). -/
def State.kvEngines (s : State) (p : Polder) (d : Disp) : List Nat :=
  let mine := unitEngines p.units
  match (d.work.kvObj).bind (s.kvEnv d) with
  | none => []
  | some k =>
    if d.started && d.kvEngs.all mine.contains then d.kvEngs
    else
      let ks := match k.stacks d.work s with | .ok l _ => l | .error _ _ => []
      let near (x : Nat) : Nat := if p.clusters.contains x then x else (nth p.clusters (Config.nearest x p.clusters)).getD 0
      let cs := (ks.map near).dedup
      mine.filter (fun e => cs.contains (e / 16))

/-- At its start a KV_APPEND writes a part of its records, which a free value picks: what an abort may leave (R520). -/
def State.kvStartPart (s : State) (d : Disp) : State :=
  match d.work, (d.work.kvObj).bind (s.kvEnv d) with
  | .append a, some k =>
    if s.kvBlocked d then s
    else
      (match s.mo? (hSlot a.source) with
        | none => s
        | some src =>
          let base := s.free
          match k.append a src (fun i j => Config.free (base + i * a.count + j) % 2 == 0) (s.drew (a.nlay * a.count)) with
          | .ok _ t => t
          | .error e t => t.faultCtx d.ctx (d.accRegs e))
  | _, _ => s

/-- Add link bytes to a context's accounting (R264). -/
def State.linkBytes (s : State) (c n : Nat) : State := s.account c fun a => { a with link := a.link + BitVec.ofNat 64 n }

/-- The pieces of a result on a link: at most 4,096 bytes, none across a 4 KiB boundary (R371, R376). -/
def pieces4k : Nat → Nat → List Byte → List (Nat × List Byte)
  | 0, _, _ => []
  | n + 1, a, d =>
    if d = [] then []
    else
      let k := 4096 - a % 4096
      (a, d.take k) :: pieces4k n (a + k) (d.drop k)

/-- Send one result store of dispatch `d` on link `l` (R376, R377): its tag, free on that link, waits in the link's result stores. What a confidential
context's seal key is lacking for does not go (R319). -/
def State.sendStore (s : State) (d : Disp) (l : Nat) (p : Nat × List Byte) : State :=
  let slice := s.sliceOf d.ctx
  let conf := s.confSlice slice
  let b := (s.bindOn l (s.ctxHandle d.ctx)).elim 0 (·.1)
  match s.link? l with
  | none => s
  | some x =>
    let tag := (((List.range 65280).map (256 + ·)).find? (fun t => !thas x.rstores t)).getD 256
    let m := { s.newMsg 0x02 (s.address l) b tag (BitVec.ofNat 64 p.1) with
      flags := BitVec.ofNat 8 (2 * b1 conf + 4 * b1 (d.cls == 1)), units := p.2.length / 32 + b1 conf, len := p.2.length, data := p.2 }
    match if conf then s.takeSeal d.ctx (s.address l) m else .ok (s, m) with
    | .error _ => s
    | .ok (s1, m1) =>
      let s2 := s1.modLink l fun y => { y with rstores := tset y.rstores tag (d.ref, s.now) }
      let s3 := (s2.modDisp d.ref fun y => { y with stores := y.stores + 1 }).linkBytes d.ctx p.2.length
      (s3.sendMsg slice m1).1

/-- The KV work of a dispatch; for a KV_ATTEND, the bytes of its results. -/
def KvEnv.work (k : KvEnv) (w : Work) : KvM (List Byte) := do
  let s ← get
  match w with
  | .append a =>
    (match s.mo? (hSlot a.source) with | some src => k.append a src (fun _ _ => true) | none => pure ())
    return []
  | .attend a qs =>
    match s.mo? (hSlot a.queries) with
    | some src => k.attend a qs src
    | none => return []
  | .fork _ p c f => k.fork p c f; return []
  | .evict _ q m n => k.evict q m n; return []
  | _ => return []

/-- Write results into their object; a refused write is an access fault (R53, R494). -/
def kvStoreResults (k : KvEnv) (a : AttendArgs) (d : List Byte) : KvM Unit := do
  let s ← get
  match s.mo? (hSlot a.results) with
  | none => pure ()
  | some r =>
    if s.writable r.ctx (r.base + a.rOff) d.length then kvIo fun t => t.writeMo r k.who a.rOff d
    else throw (accDike (r.base + a.rOff))

/-- The work of a KV_FORK or a KV_EVICT: it takes effect and its fence signals, or a broken structure faults the context (R519). -/
def State.kvRun (s : State) (d : Disp) (k : KvEnv) : State :=
  match k.work d.work s with
  | .error e t => t.faultCtx d.ctx (d.accRegs e)
  | .ok _ t => t.completeDisp d

/-- A KV_FORK or KV_EVICT that is at work. -/
def State.atWork (s : State) (d : Disp) : Bool := d.state == .running && d.work.kvObj.isSome && !d.work.onEngines && !s.kvBlocked d

/-- The block finishes the KV_FORKs and KV_EVICTs that a cluster or inner reset has interrupted, once the CSQs are back (R520; log entry 212). -/
def State.kvResume (s : State) : State :=
  (s.sched.disps.filter s.atWork).foldl (fun a d => match a.disp? d.ref, (d.work.kvObj).bind (a.kvEnv d) with
    | some y, some k => a.kvRun y k
    | _, _ => a) s

/-- KV_OP_COMPLETE: the work takes effect, its handshakes counted (a free value, R266), and the fence signals; results on a link go out first, and
their acknowledgements end the work (R195, R203, R519). -/
def execKvOpComplete (disp : DWord) (s : State) : Result :=
  match s.disp? disp with
  | none => .next s
  | some d =>
    match (d.work.kvObj).bind (s.kvEnv d) with
    | none => .next s
    | some k =>
      if !(d.state == .running || d.state == .stopping) || s.kvBlocked d then .next s
      else if d.sent then (if d.stores = 0 then .next (s.completeDisp d).finish else .next s)
      else
        match (do
          let r ← k.work d.work
          match d.work with
          | .attend a _ => if a.ret = 0 then kvStoreResults k a r else pure ()
          | _ => pure ()
          return r : KvM (List Byte)) s with
        | .error e t => .next (t.faultCtx d.ctx (d.accRegs e)).finish
        | .ok r t0 =>
          let t := if d.work.onEngines then (t0.account d.ctx fun a => { a with progressHs := a.progressHs + BitVec.ofNat 64 t0.peek }).drew 1 else t0
          match d.work with
          | .attend a _ =>
            if a.ret = 0 then .next (t.completeDisp d).finish
            else if t.confSlice (t.sliceOf d.ctx) && (t.ensureSeal d.ctx (t.address a.port)).isNone then
              if t.sealLack (t.address a.port) == .busy then .next s
              else .next (t.faultCtx d.ctx { FaultRegs.zero with status := t.sealLack (t.address a.port), cls := 5, disp := d.ref, srcKind := 3, src := a.port, valid := 1 }).finish
            else
              let t1 := t.modDisp disp fun y => { y with sent := true }
              .next ((pieces4k r.length a.rOff r).foldl (fun b p => b.sendStore d a.port p) t1).finish
          | _ => .next (t.completeDisp d).finish

/-! ## Opcodes that no table assigns (R81), and reserved MODEs and KINDs (R98, R192) -/

/-- KV_EVICT's decode with a reserved MODE (R192, R194). -/
def kvModeDec (d0 : Disp) (m : Nat × Mo) : KvD Disp := do
  kvCheck (m.2.ty == 1) .badParam
  let (_, d1) ← kvOpen d0 m
  kvFormatted d1.kvHead
  throw (.st .badParam)

/-- UNASSIGNED_OPCODE: BAD_PARAM, on the path of its family; of KV_EVICT and RESET_REQUEST in the place that their other checks leave it (R194, R516;
log entry 187). A packet whose opcode is assigned is none of these: it has a row of its own. -/
def execUnassignedOpcode (h : Hdr) (a : RawArgs) (s : State) : Result :=
  if !a.unassigned then .next s
  else if a.op = 0x4B then s.evictPacket (.unassignedOpcode h a) (unassignedInfo a) h a.obj a.seq a.sel a.newLen fun _ => kvModeDec
  else s.packet (.unassignedOpcode h a) (unassignedInfo a) h fun s _ _ => (s, .bad .badParam [])

end Sys2Proof.Machine
end

