-- ==== Sys2Proof/Machine/Sched.lean ====
section
/-!
DEFINITION. The scheduler at work (spec/08, R176 to R182): starting a dispatch on engines (R152, R153, R180, R223), the order of starts (R246,
R253, R256, R259), completions, saves (R176 to R178), day boundaries, eves, charges and the slowdown epoch.
-/

namespace Sys2Proof.Machine

/-! ## Engines of a dispatch at its start -/

/-- The code blocks of a program, by index. -/
def Program.blockIds (g : Program) : List Nat := List.range g.blocks.length

/-- The code blocks `ids` and the constants, read from the image object into an engine store (R144, R149, R153). -/
def State.loadImage (s : State) (g : Program) (cl : Nat) (ids : List Nat) : State × Except AccErr (List Host.Cell) :=
  let parts := (g.constOff, g.constBase, g.constLen) ::
    (ids.filterMap fun i => g.blocks[i]?).map fun b => (g.codeOff + 32 * b.first, g.codeBase + 32 * b.first, 32 * b.count)
  parts.foldl (fun a p => match a with
    | (s1, .error x) => (s1, .error x)
    | (s1, .ok m) => (match s1.readImage g cl p.1 p.2.2 with
      | (s2, .ok l) => (s2, .ok (memPut m p.2.1 l))
      | (s2, .error x) => (s2, .error x))) (s, .ok [])

/-- An engine as a dispatch starts on it, its entry block and constants in the store, the other blocks to come (R152, R153, R170); registers hold
what the engine was left with: free values of `seed`, or zeros (log entry 30). -/
def Engine.start (g : Program) (entry : Nat) (binds : Tab Desc) (seed : Option Nat) (store : List Host.Cell) : Engine :=
  { seed := seed, store := store, v := [], p := [], s := [], a := [], gen := [], desc := binds
    pc := (g.blocks[entry]?).elim 0 (·.first), halted := false, loops := [], rowA := [], colB := [], lanes := [], mv := []
    barrier := none, stop := .run, code := g.blockIds.filter (· != entry), pass := none, wr := [], trap := none }

/-- The free values that one engine's start draws. -/
def seedSize : Nat := 30000

/-- The vector registers of a mask, whole. -/
def Engine.saveV (e : Engine) (m : BitVec 32) : Tab Word :=
  ((List.range 28).filter m.getLsbD).flatMap fun v => (List.range 512).map fun n => (512 * v + n, e.lane v n)

/-- The engine that a restore makes of a save (R180): code and constants anew, `image`, then exactly the saved items; every other item is
zero. -/
def Saved.restore (x : Saved) (g : Program) (image : List Host.Cell) : Engine :=
  let e := x.eng
  match x.cp.bind (g.cheaps[·]?) with
  | none => { e with stop := .run, trap := none }
  | some c =>
    { e with
      seed := none
      store := c.ranges.foldl (fun m r => memPut m r.1 (memRead e.store r.1 r.2)) image
      v := e.saveV c.vmask
      p := ((List.range 8).filter (fun i => i != 0 && c.pmask.getLsbD i)).map fun i => (i, e.pr i)
      s := ((List.range 32).filter (fun i => i != 0 && c.smask.getLsbD i)).map fun i => (i, e.sr i)
      a := ((List.range 16).filter c.amask.getLsbD).map fun i => (i, e.ar i)
      gen := (List.range 512).map fun n => (n, if c.gens then e.genr n else 0)
      rowA := (List.range 32).map fun i => (i, e.rowScale i)
      colB := (List.range 32).map fun i => (i, e.colScale i)
      lanes := ((List.range 1024).filter (fun n => c.lwa.getLsbD (n / 32))).map fun n => (n, e.acc n)
      barrier := none
      stop := .run
      code := []
      trap := none }

/-! ## Saves in the save area (R178) -/

/-- The header of a slot. -/
def saveHead (k : Nat) (x : Saved) (prog : Handle) (bytes : Nat) (ref : DWord) : List Byte :=
  leBytes 4 0x56415345 ++ leBytes 1 (if x.cp.isSome then 1 else 2) ++ leBytes 1 0 ++ leBytes 2 k ++ leBytes 4 x.eng.pc ++
    leBytes 4 (x.cp.getD 0xFFFFFFFF) ++ leBytes 4 prog.toNat ++ leBytes 4 bytes ++ leBytes 8 ref.toNat ++ leBytes 224 0

/-- A buffer descriptor's 32 bytes (R152); its reserved bytes are zero. -/
def Desc.bytes (d : Desc) : List Byte :=
  leBytes 8 d.base ++ leBytes 8 d.len ++ leBytes 4 d.obj.toNat ++ leBytes 1 (b1 d.rd + 2 * b1 d.wr) ++ leBytes 11 0

/-- The items of a slot with their offsets (R151, R178): registers in R151's order from 0x1000, the tile at 0x11000, the store at 0x19000.
The layout within the control state is not stated: free bytes (log entry 31). -/
def saveItems (x : Saved) (g : Program) (free : Nat) : List (Nat × List Byte) :=
  let e := x.eng
  let c := x.cp.bind (g.cheaps[·]?)
  let has {w : Nat} (m : CheapPt → BitVec w) (i : Nat) : Bool := match c with | some y => (m y).getLsbD i | none => true
  let junk (n : Nat) : List Byte := (List.range n).map fun i => BitVec.ofNat 8 (Config.free (free + i))
  ((List.range 28).filter (has (·.vmask))).map (fun v => (0x1000 + 2048 * v, (List.range 512).flatMap fun n => leBytes 4 (e.lane v n).toNat)) ++
  ((List.range 8).filter (fun i => has (·.pmask) i && (i != 0 || c.isNone))).map (fun i => (0x1000 + 57344 + 64 * i, leBytes 64 (e.pr i).toNat)) ++
  ((List.range 32).filter (fun i => has (·.smask) i && (i != 0 || c.isNone))).map (fun i => (0x1000 + 57856 + 8 * i, leBytes 8 (e.sr i).toNat)) ++
  ((List.range 16).filter (has (·.amask))).map (fun i => (0x1000 + 58112 + 8 * i, leBytes 8 (e.ar i).toNat)) ++
  (if c.all (·.gens) then [(0x1000 + 58240, (List.range 512).flatMap fun n => leBytes 8 (e.genr n).toNat)] else []) ++
  [(0x1000 + 62336, (List.range 64).flatMap fun b => (tget e.desc b).elim (leBytes 32 0) Desc.bytes),
   (0x1000 + 64384, junk 1152)] ++
  ((List.range 32).filter (has (·.lwa))).map (fun r =>
    (0x11000 + 1024 * r, (List.range 32).flatMap fun j => leBytes 32 (e.acc (32 * r + j)).toBits.toNat)) ++
  (match c with
    | some y => y.ranges.map fun r => (0x19000 + r.1, memRead e.store r.1 r.2)
    | none => [(0x19000, memRead e.store 0 storeSize)])

/-- BYTES of a save (R176, R177). -/
def saveBytes (x : Saved) (g : Program) : Nat := match x.cp.bind (g.cheaps[·]?) with | some c => c.saveSize | none => 4292864

/-- Write engine k's save into its slot of the save area; the failed access, if any. -/
def State.saveSlot (s : State) (d : Disp) (g : Program) (m : Mo) (k : Nat) (x : Saved) : State × Option AccErr :=
  let h := match d.work with | .program p _ _ => s.progHandle p | _ => 0
  let items := (0, saveHead k x h (saveBytes x g) d.ref) :: saveItems x g s.free
  items.foldl (fun a i => match a with
    | (s1, some e) => (s1, some e)
    | (s1, none) => (match s1.writeMo m (.cluster (d.clusterOf k)) (saveSlotBytes * k + i.1) i.2 with
      | (s2, .ok ()) => (s2, none)
      | (s2, .error e) => (s2, some e))) (s.drew 1152, none)
where saveSlotBytes : Nat := 4325376

/-- Read a slot back before a restore: only whether its sectors verify. -/
def State.checkSlot (s : State) (g : Program) (m : Mo) (cl k : Nat) (x : Saved) : State × Option AccErr :=
  ((0, 256) :: (saveItems x g s.free).map (fun i => (i.1, i.2.length))).foldl (fun a i => match a with
    | (s1, some e) => (s1, some e)
    | (s1, none) => (match s1.readMo m (.cluster cl) (4325376 * k + i.1) i.2 with
      | (s2, .ok _) => (s2, none)
      | (s2, .error e) => (s2, some e))) (s, none)

/-! ## Starting a dispatch -/

/-- The program, and the save object, of a dispatch. -/
def Disp.saveObj (d : Disp) : Option Nat := match d.work with | .program _ _ sv => some sv | _ => none

/-- The scheduler may consider a dispatch (R179, R195, R285): it waits, its slice is not quiesced, no other started dispatch holds its save area, and
no earlier KV operation has still to write what it reads or writes. -/
def State.canRun (s : State) (d : Disp) : Bool :=
  (d.state == .pending || d.state == .preempted) && d.work.onEngines && !d.quiesced && !s.kvBlocked d &&
    (match d.saveObj.bind s.mo? with | some m => m.saver.all (· == d.ref) | none => true)

/-- The engines that a dispatch would start on among `free` ones; none where it does not fit (R201, R223). -/
def State.fit (s : State) (p : Polder) (d : Disp) (free : List Nat) : Option (List Nat) :=
  match d.work with
  | .program .. => if d.count ≤ free.length then some (s.steer d.bound free d.count) else none
  | _ =>
    let es := s.kvEngines p d
    if p.clusters ≠ [] ∧ es.all free.contains = true then some es else none

/-- Steering sets the home stacks of the bound objects, and queues the moves of those with policy 2 (R223). -/
def State.setHomes (s : State) (d : Disp) (es : List Nat) : State :=
  match es with
  | [] => s
  | e :: _ =>
    (d.bound.map (·.1)).dedup.foldl (fun a m => match a.mo? m with
      | some x =>
        if x.flags.getLsbD 0 then a
        else
          let a1 := a.modMo m fun y => { y with home := some (e / 16) }
          if x.policy = 2 ∧ x.ty ≠ 1 then (a1.moFrames x.ctx m).foldl (fun b k => b.queueMove k (e / 16) true) a1 else a1
      | none => a) s

/-- The reservation's most recent dispatch, for the next eve's choice (R253). -/
def State.noteLast (s : State) (d : Disp) : State :=
  if d.cls = 1 ∧ d.asShare = false then
    s.onSched fun x => { x with adms := x.adms.map fun a => if a.ctx == d.ctx && a.polder == d.polder && a.feast then { a with last := d.bound } else a }
  else s

/-- What the loading of a dispatch's engines has come to: the engines, and those that failed, each with its bundle (R175). -/
abbrev Loading := Tab Engine × List (Nat × Nat × EFault)

/-- An engine's load has failed. -/
def Loading.fail (l : Loading) (k pc : Nat) (x : AccErr) : Loading := (l.1, l.2 ++ [(k, pc, { cause := 0, acc := some x })])

/-- The engines of a program that starts, each with its entry block and constants; those that cannot read them fail (R149, R153). What an earlier
dispatch left in an engine's registers is a free value; one that has been zeroed holds zeros (R450, R459, R339). -/
def State.freshEngs (s : State) (d : Disp) (g : Program) (entry : Nat) (es : List Nat) : State × Loading :=
  (List.range d.count).foldl (fun a k =>
    match a.1.loadImage g (es.getD k 0 / 16) [entry] with
    | (s2, .ok m) =>
      let seed := if thas s.sched.dirty (es.getD k 0) then some (s.free + seedSize * k) else none
      (s2, (a.2.1 ++ [(k, Engine.start g entry d.binds seed m)], a.2.2))
    | (s2, .error x) => (s2, a.2.fail k ((g.blocks[entry]?).elim 0 (·.first)) x)) (s.drew (seedSize * d.count), ([], []))

/-- The engines of a program that resumes: code and constants from the image, the items from their slots; those that cannot read them fail
(R180). -/
def State.backEngs (s : State) (d : Disp) (g : Program) (sv : Mo) (es : List Nat) : State × Loading :=
  d.saved.foldl (fun a x =>
    match a.1.loadImage g (es.getD x.1 0 / 16) g.blockIds with
    | (s2, .error y) => (s2, a.2.fail x.1 x.2.eng.pc y)
    | (s2, .ok m) => (match s2.checkSlot g sv (es.getD x.1 0 / 16) x.1 x.2 with
      | (s3, some y) => (s3, a.2.fail x.1 x.2.eng.pc y)
      | (s3, none) => (s3, (a.2.1 ++ [(x.1, x.2.restore g m)], a.2.2)))) (s, ([], []))

/-- Start dispatch `d` on engines `es`: engines loaded or restored (R153, R180), the save area held from the first start (R179); an engine that
cannot read its code, its constants or its save faults (R174, R175). -/
def State.startOn (s : State) (d : Disp) (es : List Nat) : State :=
  let s1 := (s.setHomes d es).noteLast d
  let go (engs : Tab Engine) (a : State) : State := a.modDisp d.ref fun y =>
    { y with state := .running, engines := es, started := true, waitRun := false, lastChg := s.now, engs := engs, saved := [], staged := []
             count := if y.work.kvObj.isSome then es.length else y.count, kvEngs := if y.work.kvObj.isSome then es else [] }
  match d.work, s.dispProg d with
  | .program _ entry sv, some g =>
    let hold (a : State) : State := a.modMo sv fun m => { m with saver := some d.ref, saving := false }
    let r := match s1.mo? sv with
      | some m => if d.saved = [] then s1.freshEngs d g entry es else s1.backEngs d g m es
      | none => (s1, ([], []))
    (hold (go r.2.1 r.1)).faultAll { d with engines := es } r.2.2
  | _, _ => (go [] s1).kvStartPart { d with engines := es }

/-! ## The order of starts -/

/-- Exact comparison of D / weight (R256): a comes before b. -/
def rankBefore (a b : Int × Nat × Nat) : Bool :=
  if a.2.1 = 0 ∨ b.2.1 = 0 then
    if a.2.1 = 0 ∧ b.2.1 = 0 then decide (b.1 < a.1) || (decide (a.1 = b.1) && decide (a.2.2 < b.2.2)) else a.2.1 != 0
  else
    decide (b.1 * a.2.1 < a.1 * b.2.1) || (decide (a.1 * b.2.1 = b.1 * a.2.1) && decide (a.2.2 < b.2.2))

/-- The best of (deficit, weight, slot) entries. -/
def rankBest (l : List (Int × Nat × Nat)) : Option (Int × Nat × Nat) := (sortBy rankBefore l).head?

/-- A slice's standing in polder `k`. -/
def State.sliceRank (s : State) (k l : Nat) : Int × Nat × Nat :=
  ((s.slice? l).elim 0 (fun x => tgetD x.deficit k 0), s.shareOf l k, l)

/-- A queue's weight in force in polder `k` (R258). -/
def Queue.weightIn (x : Queue) (k : Nat) : Nat := tgetD x.inForce k x.weight

/-- A queue's standing in polder `k`. -/
def State.queueRank (s : State) (k q : Nat) : Int × Nat × Nat :=
  match s.queue? q with
  | some x => (tgetD x.deficit k 0, x.weightIn k, q)
  | none => (0, 0, q)

/-- The share dispatch that is next (R256 steps 1 to 3): only the claimant while there is one. -/
def State.nextShare (s : State) (k : Nat) (p : Polder) : Option Disp :=
  let l := s.sched.disps.filter (fun d => d.polder == k && d.isShare && s.canRun d)
  match p.claimant.bind (fun c => l.find? (·.ref == c)) with
  | some d => some d
  | none =>
    (rankBest ((l.map (fun d => s.sliceOf d.ctx)).dedup.map (s.sliceRank k))).bind fun sl =>
      let l1 := l.filter (fun d => s.sliceOf d.ctx == sl.2.2)
      (rankBest ((l1.map (·.queue)).dedup.map (s.queueRank k))).bind fun q =>
        (sortBy (fun a b => decide (a.order < b.order)) (l1.filter (fun d => d.queue == q.2.2))).head?

/-- The reservation's dispatch that is next: one that waits for its run goes first, and only in the run (R254). -/
def State.nextFeast (s : State) (k : Nat) (r : Resv) : Option Disp :=
  let l := s.sched.disps.filter (fun d => d.polder == k && d.cls == 1 && !d.asShare && d.ctx == r.ctx && s.canRun d && (!d.waitRun || r.inRun))
  (sortBy (fun a b => if a.waitRun != b.waitRun then a.waitRun else decide (a.order < b.order)) l).head?

/-- Free engines of a reservation: not those that another one still holds for its run; they pass at the day boundary (R253). -/
def State.resvFree (s : State) (p : Polder) (r : Resv) : List Nat :=
  let busy := s.busyEngines
  r.engines.filter (fun e => !busy.contains e && !p.resv.any (fun o => o != r && o.inRun && o.engines.contains e))

/-- The start that the scheduler makes next in polder `k`: a reservation's dispatch, then the exclusive job, then share work; and a share
dispatch that does not fit, which becomes the claimant. -/
def State.nextStart (s : State) (k : Nat) (p : Polder) : Option (Disp × Option (List Nat)) :=
  let feast := p.resv.findSome? fun r => (s.nextFeast k r).bind fun d => (s.fit p d (s.resvFree p r)).map fun es => (d, some es)
  match feast with
  | some x => some x
  | none =>
    match p.owner with
    | some o =>
      ((s.disp? o).filter (fun d => s.canRun d && !p.resv.any (fun r => r.took.contains o))).bind fun d => (s.fit p d (s.openEngines p)).map fun es => (d, some es)
    | none => if s.openEngines p = [] then none else (s.nextShare k p).map fun d => (d, s.fit p d (s.openEngines p))

/-- A cluster's compute domain is up (R478, R482). -/
def State.clusterUp (s : State) (c : Nat) : Bool := match tget s.pwr.clus c with | some x => decide (x.st ≤ 1) | none => true

/-- DISPATCH_START: one scheduling decision of polder `k` (R246, R253, R256, R259); a dispatch whose clusters sleep waits for their wake
(R482), and none starts while the polder is in the window of a reset (R457). -/
def execDispatchStart (k : Nat) (s : State) : Result :=
  if thas s.sched.resets k then .next s
  else
    match s.polder? k with
    | none => .next s
    | some p =>
      match s.nextStart k p with
      | none => .next s
      | some (d, none) => .next (s.modPolder k fun q => { q with claimant := some d.ref })
      | some (d, some es) =>
        if es.all (fun e => s.clusterUp (e / 16)) then
          .next ((s.modPolder k fun q => { q with claimant := if q.claimant = some d.ref then none else q.claimant }).startOn d es).finish
        else .next s

/-- DISPATCH_COMPLETE: every engine has halted and nothing is outstanding (R158, R181). -/
def execDispatchComplete (disp : DWord) (s : State) : Result :=
  match s.disp? disp with
  | none => .next s
  | some d =>
    if (d.state == .running || d.state == .stopping) && d.saveObj.isSome && d.engs.all (fun e => e.2.halted && e.2.mv.isEmpty) &&
        d.engs.length == d.count then
      .next (s.completeDisp d).finish
    else .next s

/-! ## Saves -/

/-- An engine has stopped (R176, R177): halted, stopped for a full save, or at a cheap point with nothing outstanding. -/
def Engine.stopped (e : Engine) : Bool :=
  e.halted || (match e.stop with | .run => false | .full => true | .cheap _ => e.mv.isEmpty)

/-- PREEMPT_FULL_STOP: engine k has not reached a cheap point 40 us after the request (R177). -/
def execPreemptFullStop (disp : DWord) (k : Nat) (s : State) : Result :=
  match s.disp? disp, s.eng? disp k with
  | some d, some e =>
    if d.state = .stopping ∧ d.preAt + usTicks 40 ≤ s.now ∧ e.halted = false ∧ e.stop = .run then
      .next (s.setEng disp k { e with stop := .full })
    else .next s
  | _, _ => .next s

/-- As the saves begin, the operations under way come to where they stop: writes have landed; a pass has ended before a cheap save, and stops at a
handshake that the free value `n` chooses before a full one (R176, R177). -/
def Engine.rest (e : Engine) (n : Nat) : Eng :=
  (e.land (fun _ => true) 0).mmaMore (match e.stop with | .cheap _ => passMax | _ => if e.halted then 0 else Config.free n % (passMax + 1))

/-- Every engine of a dispatch comes to rest; or the first that faults (R123). -/
def State.restAll (s : State) (d : Disp) : State × Option (Nat × EFault) :=
  d.engs.foldl (fun a x => match a with
    | (s1, some f) => (s1, some f)
    | (s1, none) =>
      let s2 := x.2.mv.foldl (fun b m => b.landUnits d.ref (m.target x.1) m.late) s1
      match s2.eng? d.ref x.1 with
      | none => (s2, none)
      | some e => (match e.rest s2.free with
        | .ok e1 => ((s2.drew 1).setEng d.ref x.1 { e1 with mv := e1.mv.map fun m => { m with late := [] } }, none)
        | .error f => (s2, some (x.1, f)))) (s, none)

/-- The write to a save area that was sealed after its dispatch was accepted (R53, R174). -/
def Disp.sealedSave (d : Disp) : FaultRegs := { FaultRegs.zero with status := .faulted, cls := 1, cause := 2, disp := d.ref, valid := 1 }

/-- PREEMPT_SAVE_START: the saves begin when every engine has stopped (R178); if every engine has halted there is nothing to save (R181). A
KV operation stops at a block boundary (R202). A sealed save area takes no write: the dispatch faults (R53). -/
def execPreemptSaveStart (disp : DWord) (s : State) : Result :=
  match s.disp? disp with
  | none => .next s
  | some d =>
    if d.state = .stopping ∧ d.engs.all (·.2.stopped) = true ∧ (d.saveObj = none ∨ d.engs.any (fun e => !e.2.halted) = true) then
      match d.saveObj with
      | none => .next ((s.charge d).modDisp disp fun y => { y with state := .saving })
      | some m =>
        if (s.mo? m).any (·.isSealed) then .next (s.faultCtx d.ctx d.sealedSave).finish
        else
          match s.restAll d with
          | (s1, some (k, f)) => .next (s1.engFault disp k ((tget d.engs k).elim 0 (·.pc)) f).finish
          | (s1, none) => .next (((s1.charge d).modDisp disp fun y => { y with state := .saving }).modMo m fun y => { y with saving := true })
    else .next s

/-- What an engine saves. -/
def Engine.save (e : Engine) : Saved := { eng := e, cp := match e.stop with | .cheap i => some i | _ => none }

/-- Write the save of every engine of a dispatch, up to the first that fails. -/
def State.saveAll (s : State) (d : Disp) (g : Program) (m : Mo) : State × Option AccErr :=
  d.engs.foldl (fun (a : State × Option AccErr) (e : Nat × Engine) => match a with
    | (s1, some x) => (s1, some x)
    | (s1, none) => s1.saveSlot d g m e.1 e.2.save) (s, none)

/-- PREEMPT_SAVE_DONE: the saves have ended, the engines are free (R178, R261); a save that cannot be written faults the context. -/
def execPreemptSaveDone (disp : DWord) (s : State) : Result :=
  match s.disp? disp with
  | none => .next s
  | some d =>
    if d.state ≠ .saving then .next s
    else
      let wr := match s.dispProg d, d.saveObj.bind s.mo? with
        | some g, some m => s.saveAll d g m
        | _, _ => (s, none)
      match wr with
      | (s1, some e) => .next (s1.faultCtx d.ctx (d.accRegs e)).finish
      | (s1, none) =>
        let s2 := (s1.charge d).account d.ctx fun a => { a with preemptions := a.preemptions + 1 }
        let s3 := (s2.soil d).modDisp disp fun y =>
          { y with state := .preempted, engines := [], saved := y.engs.map (fun (e : Nat × Engine) => (e.1, e.2.save)), engs := [], staged := [] }
        .next ((s3.csqEvent d 2).idleFrom d.clusters).finish

/-! ## Time -/

/-- Charge every dispatch of polder `k` that holds engines (R255, R264). -/
def State.chargeAll (s : State) (k : Nat) : State :=
  (s.sched.disps.filter (fun d => d.polder == k && d.holds)).foldl (fun a d => a.charge d) s

/-- SHARE_DEFICIT_CHARGE (R255). -/
def execShareDeficitCharge (k : Nat) (s : State) : Result := .next (s.chargeAll k)

/-- Ticks of a day. -/
def Polder.dayTicks (p : Polder) : Nat := usTicks p.dayUs

/-- The most engines that the polder holds in any one cluster. -/
def Polder.perCluster (p : Polder) : Nat :=
  (List.range 20).foldl (fun a c => max a (8 * b1 (p.units.getLsbD (2 * c)) + 8 * b1 (p.units.getLsbD (2 * c + 1)))) 0

/-- L of R253 in ticks, rounded up, for E_r engines. -/
def Polder.eve (p : Polder) (er : Nat) : Nat := 4100 + ceilDiv (min er p.perCluster * 4292864) 2104

/-- The days of the run that starts at day `d`. -/
def runDays (m : BitVec 64) (d : Nat) : List Nat := (List.range (runLen m 64 d)).map (fun i => (d + i) % 64)

/-- A run of the mask starts at day `d` (R248). -/
def startsRun (m : BitVec 64) (d : Nat) : Bool := if m = BitVec.allOnes 64 then d == 0 else m.getLsbD d && !m.getLsbD ((d + 63) % 64)

/-- The feast admission of context `c` in polder `k`. -/
def State.feastAdm (s : State) (k c : Nat) : Option Adm := s.sched.adms.find? (fun a => a.ctx == c && a.polder == k && a.feast)

/-- Engines held by other reservations whose runs share a day with `days` (R253). -/
def State.overlapping (s : State) (k : Nat) (p : Polder) (c : Nat) (days : List Nat) : List Nat :=
  (p.resv.filter (fun r => r.ctx != c && (match s.feastAdm k r.ctx with
    | none => false
    | some a =>
      let mine := runDays a.days (if r.inRun then p.day else (p.day + (r.at_ - p.dayStart) / p.dayTicks) % 64)
      mine.any days.contains))).flatMap (·.engines)

/-- The engines chosen for a run (R253): free ones, then those of share work, then those of an exclusive job, each kind in cluster order;
engines that another reservation hands over come last. -/
def State.chooseEve (s : State) (k : Nat) (p : Polder) (a : Adm) (days : List Nat) : List Nat :=
  let no := s.overlapping k p a.ctx days
  let all := (s.ranked a.last (List.range 20)).flatMap fun c => (unitEngines p.units).filter (fun e => e / 16 == c && !no.contains e)
  let kind (e : Nat) : Nat :=
    if (p.resv.any (fun r => r.engines.contains e)) then 3
    else
      match s.sched.disps.find? (fun d => d.engines.contains e) with
      | none => 0
      | some d => if p.owner = some d.ref then 2 else if d.isShare then 1 else 3
  ((List.range 4).flatMap fun j => all.filter (fun e => kind e == j)).take (s.admEngines p a)

/-- Hold engines for a run that starts at `start`, and pre-empt the share and exclusive work on them (R253, R259). -/
def State.hold (s : State) (k : Nat) (p : Polder) (a : Adm) (days : List Nat) (start : Nat) : State :=
  let es := s.chooseEve k p a days
  let hit (d : Disp) : Bool := d.polder == k && d.holds && (d.isShare || d.cls == 2) && d.engines.any es.contains
  let took := (s.sched.disps.filter (fun d => hit d && p.owner == some d.ref)).map (·.ref)
  (s.preemptAll hit).modPolder k fun q => { q with resv := q.resv ++ [{ ctx := a.ctx, engines := es, at_ := start, inRun := false, dips := 0, took := took }] }

/-- The runs of a mask that start in the 64 days after day `d`: first day, and the days until it. -/
def laterRuns (m : BitVec 64) (d : Nat) : List (Nat × Nat) :=
  (((List.range 64).map (· + 1)).filter fun n => startsRun m ((d + n) % 64)).map fun n => ((d + n) % 64, n)

/-- EVE_START: the eve of context `c`'s next run in polder `k` that has none, within L of the run's start (R253); where runs follow closely their
eves overlap. -/
def execEveStart (k c : Nat) (s : State) : Result :=
  match s.polder? k, s.feastAdm k c with
  | some p, some a =>
    let start (n : Nat) : Nat := p.dayStart + n * p.dayTicks
    let due := (laterRuns (a.days &&& p.nFeast) p.day).find? fun x => decide (s.now < start x.2) && !p.resv.any (fun r => r.ctx == c && r.at_ == start x.2)
    (match due with
      | none => .next s
      | some (d, n) =>
        if start n ≤ s.now + p.eve (s.admEngines p a) then .next (s.hold k p a (runDays a.days d) (start n)).finish else .next s)
  | _, _ => .next s

/-! ## Day boundaries -/

/-- Credit by weight (R255): entries (slot, weight, deficit) with work get a part of `credit`, the others lose a positive deficit; all are
clamped. -/
def creditOf (credit clamp : Int) (pend : List Nat) (wsum : Nat) (slot weight : Nat) (d : Int) : Int :=
  let d1 := if pend.contains slot then d + Int.fdiv (weight * credit) wsum else min d 0
  max (-clamp) (min clamp d1)

/-- R255's steps at a boundary of polder `k`, with `e` engines for share work: slices, then each slice's queues, those of class 1 and 2 that hold
work left as share work among them (R262). -/
def State.credit (s : State) (k : Nat) (p : Polder) (e : Nat) : State :=
  let work := s.sched.disps.filter (fun d => d.polder == k && d.isShare && d.work.onEngines && !s.quiet (s.sliceOf d.ctx))
  let ns := p.dayUs * 1000
  let clamp : Int := 4 * p.eCount * ns
  let pend := ((work.map (fun d => s.sliceOf d.ctx)).dedup).filter (fun l => s.shareOf l k != 0)
  let wsum := (pend.map (fun l => s.shareOf l k)).sum
  let all : Int := e * ns
  let s1 := s.onSlices fun x => { x with tab := tmap x.tab (fun l y =>
    if y.state = .quiesced then y
    else { y with deficit := tset y.deficit k (creditOf all clamp pend wsum l (tgetD y.shares k 0) (tgetD y.deficit k 0)) }) }
  s1.onObjs fun o => { o with queues := tmap o.queues (fun q y =>
    let l := s.sliceOf y.ctx
    let qs := ((work.filter (fun d => s.sliceOf d.ctx == l)).map (·.queue)).dedup
    if s.quiet l || (y.cls != 0 && !qs.contains q) then y
    else
      let qw := (qs.map (fun j => (s.queue? j).elim 0 (·.weightIn k))).sum
      let mine : Int := if pend.contains l then Int.fdiv (s.shareOf l k * all) wsum else 0
      { y with deficit := tset y.deficit k (creditOf mine clamp qs qw q (y.weightIn k) (tgetD y.deficit k 0)) }) }

/-- The overdraft round of R257: pre-empt overdrawn share work, lowest first, until the claimant would fit. -/
def State.overdraftGo (k : Nat) (p : Polder) (c : Disp) : List Disp → List Nat → State → State
  | [], _, s => s
  | d :: l, freed, s =>
    if (s.fit p c (s.openEngines p ++ freed)).isSome then s
    else State.overdraftGo k p c l (freed ++ d.engines.filter (fun e => !p.reserved.contains e)) (s.preempt d.ref)

/-- R257 at a boundary. -/
def State.overdraft (s : State) (k : Nat) (p : Polder) : State :=
  match p.claimant.bind s.disp? with
  | none => s
  | some c =>
    let low : Int := -(p.eCount * (p.dayUs * 1000) : Nat)
    let l := s.sched.disps.filter (fun d => d.polder == k && d.isShare && d.state == .running &&
      decide ((s.sliceRank k (s.sliceOf d.ctx)).1 < low))
    s.overdraftGo k p c (sortBy (fun a b => rankBefore (s.sliceRank k (s.sliceOf b.ctx)) (s.sliceRank k (s.sliceOf a.ctx))) l) []

/-- The masks and weights of polder `k` that wait for a day boundary take effect (R245, R258); share weights stand in the almanac (R72, R73). -/
def State.inForce (s : State) (k : Nat) : State :=
  let s := if s.slices.tab.any (fun e => thas e.2.nextSh k) then s.almanac else s
  let s1 := s.modPolder k fun q => { q with feast := q.nFeast, excl := q.nExcl }
  let s2 := s1.onSlices fun x => { x with tab := tmap x.tab (fun _ l => match tget l.nextSh k with
    | some w => { l with shares := tset l.shares k w, nextSh := tdel l.nextSh k }
    | none => l) }
  s2.onObjs fun o => { o with queues := tmap o.queues (fun _ q => { q with inForce := tset q.inForce k q.nextWt }) }

/-- A new day: the day and rotation (R244), masks and weights in force. -/
def State.newDay (s : State) (k : Nat) (p : Polder) : State :=
  let d := (p.day + 1) % 64
  (s.modPolder k fun q => { q with dayStart := q.dayStart + q.dayTicks, day := d, rot := if d = 0 then q.rot + 1 else q.rot }).inForce k

/-- The runs that end with the day (R254): overruns counted, engines returned. -/
def State.endRunsDay (s : State) (k : Nat) (p : Polder) : State :=
  let ends (r : Resv) : Bool := r.inRun && (match s.feastAdm k r.ctx with
    | some a => !a.days.getLsbD p.day || startsRun a.days p.day
    | none => true)
  let late := (p.resv.filter ends).filter fun r =>
    s.sched.disps.any (fun d => d.polder == k && d.cls == 1 && !d.asShare && d.ctx == r.ctx && d.state == .running)
  let s1 := late.foldl (fun a r => a.account r.ctx fun x => { x with overruns := x.overruns + 1 }) s
  s1.endRuns k p ends

/-- The runs that start with the day (R253): eves pass into runs; a run whose eve never came gets its engines now. -/
def State.beginRuns (s : State) (k : Nat) (day : Nat) : State :=
  let due := s.sched.adms.filter (fun a => a.polder == k && a.feast && startsRun a.days day)
  let s1 := due.foldl (fun b a => match b.polder? k with
    | some p => if p.resv.any (fun r => r.ctx == a.ctx && !r.inRun && decide (r.at_ ≤ p.dayStart)) then b else b.hold k p a (runDays a.days day) p.dayStart
    | none => b) s
  let starts (r : Resv) : Bool := due.any (fun a => a.ctx == r.ctx) && !r.inRun && (s1.polder? k).any (fun p => decide (r.at_ ≤ p.dayStart))
  let new := ((s1.polder? k).elim [] (·.resv)).filter starts
  let dips := if s.pwr.inDip then 1 else 0
  let s2 := s1.modPolder k fun q => { q with resv := q.resv.map fun r => if starts r then { r with inRun := true, dips := dips } else r }
  s2.onSched fun x =>
    { x with
      warned := if s.pwr.warn then x.warned ++ new.map (fun r => (k, r.ctx)) else x.warned
      dipRuns := if s.pwr.inDip then x.dipRuns ++ new.map (fun r => (k, r.ctx, 1)) else x.dipRuns }

/-- R259 at the start of an exclusive day: the admitted dispatch decoded first takes ownership and all share work is pre-empted. -/
def State.takeOwner (s : State) (k : Nat) (p : Polder) : State :=
  if p.kind ≠ 2 ∨ p.owner.isSome = true then s
  else
    let ok (d : Disp) : Bool := d.polder == k && d.cls == 2 && !d.asShare && d.state == .pending && s.canRun d &&
      s.sched.adms.any (fun a => a.ctx == d.ctx && a.polder == k && !a.feast && a.days.getLsbD p.day)
    match (sortBy (fun a b => decide (a.order < b.order)) (s.sched.disps.filter ok)).head? with
    | none => s
    | some d =>
      (s.modPolder k fun q => { q with owner := some d.ref }).preemptAll (fun e => e.polder == k && e.isShare && e.holds)

/-- What `f` makes of the state and polder `k`; nothing where there is no such polder. -/
def State.withPolder (s : State) (k : Nat) (f : State → Polder → State) : State := match s.polder? k with | some q => f s q | none => s

/-- Engines that share work may have for the day: none while an exclusive job owns the polder, else those that no run holds (R255). -/
def Polder.eShare (p : Polder) : Nat :=
  if p.owner.isSome then 0 else p.eCount - ((p.resv.filter (·.inRun)).flatMap (·.engines)).dedup.length

/-- A day of polder `k` begins: runs, ownership, credit, the overdraft round (R253 to R259). -/
def State.dayBegins (s : State) (k : Nat) : State :=
  let s1 := s.withPolder k fun a q => a.beginRuns k q.day
  let s2 := s1.withPolder k fun a q => a.takeOwner k q
  let s3 := s2.withPolder k fun a q => a.credit k q q.eShare
  s3.withPolder k fun a q => a.overdraft k q

/-- DAY_BOUNDARY: the current day has lasted its length (R244 to R246, R253 to R259); a polder that does not exist has no day. -/
def execDayBoundary (k : Nat) (s : State) : Result :=
  match s.polder? k with
  | none => .next s
  | some p =>
    if s.now < p.dayStart + p.dayTicks then .next s
    else .next (((((s.chargeAll k).newDay k p).withPolder k fun a q => a.endRunsDay k q).dayBegins k).raiseEdge 47).finish

/-- The calendar of polder `k` starts now at day 0 (R243 step 2, R244; log entry 208). -/
def State.restart (s : State) (k : Nat) : State :=
  (((s.chargeAll k).modPolder k fun q => { q with dayStart := s.now, day := 0, rot := 0 }).inForce k).dayBegins k

/-- After a commit made from state `old`: the calendars of the polders whose mask or day length changed, or that are new, start (R243 step 2). -/
def State.restarts (s old : State) : State :=
  ((s.sched.polders.filter fun e => match old.polder? e.1 with
    | some p => p.units != e.2.units || p.dayUs != e.2.dayUs
    | none => true).map (·.1)).foldl State.restart s

/-! ## Slowdown (R268, R269) -/

/-- The slowdown ratio of an epoch. -/
def slowRatio (t i : Nat) (old : BitVec 16) : BitVec 16 := if 100000 ≤ t then BitVec.ofNat 16 (min 256 (256 * (t - i) / t)) else old

/-- One context's epoch end: the ratio, and the event when an armed threshold is crossed. -/
def State.slowCtx (s : State) (c i : Nat) : State :=
  match s.ctx? c with
  | none => s
  | some x =>
    if s.quiet x.slice then s.modCtx c fun y => { y with epochNs := 0 }
    else
    let r := slowRatio x.epochNs i x.acct.slowdown
    let thr := x.acct.threshold
    let fire := x.thrArmed && thr != 0 && decide (r < thr)
    let rearm := decide (min 256 (thr.toNat + 32) ≤ r.toNat)
    let s1 := s.modCtx c fun y =>
      { y with epochNs := 0, acct := { y.acct with slowdown := r }, thrArmed := if fire then false else y.thrArmed || rearm }
    if fire then s1.postEvent c (mkEv 4 .ok (s1.ctxHandle c) 0 0 (BitVec.ofNat 64 r.toNat)) else s1

/-- SLOWDOWN_EPOCH; the operand is the interference time I of the contexts that had any. -/
def execSlowdownEpoch (interference : List (Nat × Nat)) (s : State) : Result :=
  let s1 := (s.sched.disps.filter (·.holds)).foldl (fun a d => a.charge d) s
  .next ((s1.objs.ctxs.map (·.1)).foldl (fun a c => a.slowCtx c (((interference.find? (fun e => e.1 == c))).elim 0 (·.2))) s1).finish

/-- CONTEXT_FAULTED: the aborts and drains of R43 have ended, and the event is posted (R496). -/
def execContextFaulted (c : Nat) (s : State) : Result :=
  match s.ctx? c with
  | none => .next s
  | some x =>
    if x.owesFault then
      .next ((s.modCtx c fun y => { y with owesFault := false }).postEvent c (mkEv 3 x.fault.status (s.ctxHandle c) 0 0 x.fault.disp)).finish
    else .next s

end Sys2Proof.Machine
end

