-- ==== Sys2Proof/Machine/Txn.lean ====
section
/-!
DEFINITION. Settings and configuration transactions (R100 to R107): what each stageable packet checks and does, staging, commit, rollback,
and the meanings of every opcode marked S.
-/

namespace Sys2Proof.Machine

/-- The key of a setting (R100): opcode and target. A target is its whole handle: an object that comes later into its slot has keys of its own. -/
def Setting.key : Setting → Nat × Nat × Nat
  | .quota l f _ => (0xA2, l.toNat, f)
  | .share l p _ => (0xA3, l.toNat, p)
  | .shape p _ _ => (0xA4, p, 0)
  | .calendar p _ _ => (0xA5, p, 0)
  | .admission c p _ _ _ => (0xA6, c.toNat, p)
  | .link a => (0xA7, a.link, a.slice.toNat)
  | .sluice k _ => (0xAC, k, 0)
  | .embankment _ => (0xAD, 0, 0)
  | .mode _ => (0xAE, 0, 0)
  | .keyPolicy c _ _ => (0xC1, c.toNat, 0)
  | .slowdown c _ => (0x64, c.toNat, 0)
  | .qweight q _ => (0x0F, q.toNat, 0)

/-- Every unit of a mask lies in an active cluster (R241). -/
def State.unitsActive (s : State) (m : BitVec 64) : Bool := (List.range 64).all (fun u => !m.getLsbD u || (decide (u < 40) && s.active (u / 2)))

/-- The units in polders other than `k`. -/
def State.otherUnits (s : State) (k : Nat) : BitVec 40 := (s.sched.polders.filter (fun e => e.1 != k)).foldl (fun m e => m ||| e.2.units) 0

/-- The field of a slice that a quota setting names (R96), in use now. -/
def State.quotaUse (s : State) (l field : Nat) : Nat :=
  match field with
  | 0 => (s.ctxsOf l).length
  | 1 => s.queueUse l
  | 2 => s.fenceUse l
  | 3 => s.frameUse l
  | _ => 0

/-- Slices' quotas of one kind, summed (R35). -/
def State.quotaSum (s : State) (field : Nat) : Nat :=
  (s.slices.tab.map (fun e => match field with | 0 => e.2.qCtx | 1 => e.2.qQueue | _ => e.2.qFence)).sum

/-- The slice that a setting names: a scrubbed one accepts only its destruction (R317; log entry 230). -/
def State.settingSlice (s : State) (l : Handle) : Except Status (Nat × Slice) := do
  let x ← want (s.findSlice l) .badHandle
  check (!(s.tdi x.1).scrubbed) .badState
  return x

/-- What a setting alone decides, on a queue of context `c` (R102, R103). -/
def State.settingOk (s : State) (c : Nat) : Setting → Except Status Unit
  | .quota l f v => do
    let x ← s.settingSlice l
    check (f ≤ 5) .badParam
    check (s.quotaUse x.1 f ≤ v) .badState
  | .share l p w => do
    let _ ← s.settingSlice l
    check (p ≤ 15 && w ≤ 65535) .badParam
  | .shape p m d => check (p ≤ 15 && 50 ≤ d && d ≤ 10000 && s.unitsActive m) .badParam
  | .calendar p f e => check (p ≤ 15 && f &&& e == 0) .badParam
  | .admission t p k days g => do
    let x ← want (s.findCtx t) .badHandle
    check (p ≤ 15 && (k == 1 || k == 2)) .badParam
    if g ≠ 0 then
      let _ ← want (s.findProg x.1 g) .badHandle
    check (x.2.state == .active || days == 0) .badState
  | .link a => do
    if a.slice ≠ 0 then
      let _ ← s.settingSlice a.slice
    check (s.linkExists a.link && a.overhead ≤ 255) .badParam
    check (if a.slice = 0 then a.weight == 0 && a.rate == 0 && a.burst == 0 else a.overhead == 0) .badParam
  | .sluice k v => check (k < 20 && v ≤ 500) .badParam
  | .embankment e => check (1 ≤ e && e ≤ 20) .badParam
  | .mode m => do
    check (m ≤ 1) .badParam
    check (m == 1 || s.mbx.attached) .badState
  | .keyPolicy t _ cap => do
    let x ← want (s.findCtxIn (s.sliceOf c) t) .badHandle
    check (cap ≤ 500) .badParam
    check (x.2.state == .active) .badState
  | .slowdown _ v => check (v ≤ 0x0100) .badParam
  | .qweight q w => do
    let _ ← want ((s.findQueue q).filter (fun e => s.sliceOf e.2.ctx == s.sliceOf c)) .badHandle
    check (1 ≤ w && w ≤ 65535) .badParam

/-- What a setting must meet in the state that the whole commit produces (R35, R230, R243, R245, R248, R518). -/
def State.settingFits (s : State) : Setting → Except Status Unit
  | .quota _ f _ => check (2 < f || s.quotaSum f ≤ slotCount ([1, 2, 4].getD f 1)) .noSlot
  | .share _ p _ => check (s.polder? p).isSome .badParam
  | .shape p m _ => do
    check (BitVec.setWidth 40 m &&& s.otherUnits p == 0) .badParam
    check (!s.pool.frozen) .badState
    check (s.admsOk p) .badState
    check (!s.sched.disps.any (fun d => d.polder == p && d.work.onEngines && decide ((s.polder? p).elim 0 (·.eCount) < max 1 d.count))) .badState
  | .calendar p _ _ => do
    check (s.polder? p).isSome .badParam
    check (s.admsOk p) .badState
  | .admission t p _ days _ => do
    check (s.polder? p).isSome .badParam
    check (s.sched.adms.length ≤ 256) .noSlot
    check (days == 0 || ((s.sched.adms.filter (fun a => a.ctx == hSlot t && a.polder == p)).all fun a =>
      match s.polder? p with | some x => s.admOk p x a | none => false)) .badState
  | .embankment e => check (s.backed ≤ s.placeable e) .badState
  | _ => .ok ()

/-- Withdraw the admission of context `c` in polder `p` (R247, R262): its dispatches become share work, its engines return. -/
def State.withdraw (s : State) (c p : Nat) : State :=
  match s.sched.adms.find? (fun a => a.ctx == c && a.polder == p) with
  | none => s
  | some a =>
    let s1 := s.onSched fun x =>
      { x with
        adms := x.adms.filter (fun b => b != a)
        disps := x.disps.map (fun d =>
          if d.ctx == c && d.polder == p && d.cls == (if a.feast then 1 else 2) && (x.polders.all fun e => e.2.owner != some d.ref) then
            { d with asShare := true, waitRun := false }
          else d)
        polders := tmod x.polders p (fun q => if a.feast then { q with resv := q.resv.filter (fun r => r.ctx != c) } else q) }
    match a.prog with | some g => s1.decProg g | none => s1

/-- Set the quota field that SLICE_SET_QUOTA numbers (R96). -/
def setQuota (field v : Nat) (x : Slice) : Slice :=
  match field with
  | 0 => { x with qCtx := v }
  | 1 => { x with qQueue := v }
  | 2 => { x with qFence := v }
  | 3 => { x with qFrame := some v }
  | 4 => { x with hostBw := v }
  | _ => { x with linkBw := v }

/-- The effect of one setting. -/
def State.apply (s : State) : Setting → State
  | .quota l f v => s.modSlice (hSlot l) (setQuota f v)
  | .share l p w => s.modSlice (hSlot l) fun x => { x with nextSh := tset x.nextSh p w }
  | .shape p m d => s.reshape p (BitVec.setWidth 40 m) d
  | .calendar p f e => s.modPolder p fun x => { x with nFeast := f, nExcl := e }
  | .admission t p k days g =>
    let c := hSlot t
    if days = 0 then s.withdraw c p
    else
      let old := s.sched.adms.find? (fun a => a.ctx == c && a.polder == p)
      let a : Adm := { ctx := c, polder := p, feast := k == 1, days := days, prog := if g = 0 then none else some (hSlot g)
                       last := old.elim [] (·.last) }
      let s1 := if g = 0 then s else s.incProg (hSlot g)
      let s2 := match old with
        | some o =>
          if o.feast = a.feast ∧ o.prog = a.prog then
            let s3 := s1.onSched fun x => { x with adms := x.adms.filter (fun b => b != o) }
            (match o.prog with
              | some q => s3.decProg q
              | none => s3)
          else s1.withdraw c p
        | none => s1
      s2.onSched fun x => { x with adms := x.adms ++ [a] }
  | .link a =>
    if a.slice = 0 then s.onLinks fun k => { k with tab := tmod k.tab a.link (fun x => { x with ovh := a.overhead }) }
    else
      let put (x : Flow) : Flow := { x with weight := a.weight, rate := a.rate, burst := a.burst }
      s.onLinks fun k => { k with tab := tmod k.tab a.link (fun x =>
        { x with flows := tset x.flows (hSlot a.slice) (put (tgetD x.flows (hSlot a.slice) Flow.default)) }) }
  | .sluice k v => s.modStack k fun x => { x with cap := v }
  | .embankment e => s.onPool fun p => { p with embank := e }
  | .mode m => if m = 0 then s.onPool fun p => { p with frozen := false } else if s.pool.frozen then s else s.freeze
  | .keyPolicy t iv cap => s.modCtx (hSlot t) fun x => { x with keyIval := iv, keyCap := cap }
  | .slowdown t v => s.modCtx (hSlot t) fun x => { x with acct := { x.acct with threshold := BitVec.ofNat 16 v }, thrArmed := true }
  | .qweight q w => s.modQueue (hSlot q) fun x => { x with nextWt := w }

/-- A setting changes what the almanac shows (R72); an admission changes in which polders a slice holds days, so which POLDER entries its view has. -/
def Setting.inAlmanac : Setting → Bool
  | .quota .. | .share .. | .shape .. | .calendar .. | .admission .. | .embankment _ | .mode _ => true
  | _ => false

/-- After a commit (R72, R100, R230, R278): the sequence and its keys, the almanac, QUOTA_CHANGED once a slice, CAPACITY_CHANGED,
and the wake of the clusters of a polder with a new feast admission (R480). -/
def State.committed (s : State) (l : List Setting) : State :=
  let n := s.objs.seq + 1
  let s1 := s.onObjs fun o =>
    { o with seq := n, keySeq := l.foldl (fun m x => (x.key, n) :: m.filter (fun e => e.1 != x.key)) o.keySeq }
  let s2 := if l.any (·.inAlmanac) then s1.almanac else s1
  let sl := (l.filterMap (fun x => match x with | .quota h _ _ => some (hSlot h) | .share h _ _ => some (hSlot h) | _ => none)).dedup
  let s3 := sl.foldl (fun a k => match a.slice? k with
    | some x => a.postEvent x.root (mkEv 6 .ok (a.ctxHandle x.root) 0 0 0)
    | none => a) s2
  let s4 := if l.any (fun x => match x with | .embankment _ => true | _ => false) then s3.capacityChanged else s3
  let feasts := l.filterMap fun x => match x with | .admission _ p 1 days _ => if days = 0 then none else some p | _ => none
  feasts.foldl (fun a k => ((a.polder? k).elim [] Polder.clusters).foldl State.wakeCluster a) s4

/-- A POLDER_SHAPE. It goes before the other settings of its commit, which may name the polder that it makes (R518). -/
def Setting.isShape : Setting → Bool
  | .shape .. => true
  | _ => false

/-- The settings of one commit take effect together; the calendars of the polders that they reshape start (R105, R243). -/
def State.applyAll (s : State) (l : List Setting) : State := (l.filter (·.isShape) ++ l.filter (fun x => !x.isShape)).foldl State.apply s

/-- The index and status of the first check that fails. -/
def firstBad (f : Setting → Except Status Unit) : Nat → List Setting → Option (Nat × Status)
  | _, [] => none
  | i, x :: l => match f x with | .ok () => firstBad f (i + 1) l | .error st => some (i, st)

/-- Check and apply settings at one instant (R103, R105): the new state, or the failing index and its status. Where several settings fail, the
spec does not say whose index is returned: those that fail by themselves go before those that fail by the state the whole commit produces, each
in staging order (log entry 203). -/
def State.commitAll (s : State) (c : Nat) (l : List Setting) : Except (Nat × Status) State :=
  match firstBad (s.settingOk c) 0 l with
  | some e => .error e
  | none =>
    let s1 := s.applyAll l
    match firstBad s1.settingFits 0 l with
    | some e => .error e
    | none => .ok ((s1.restarts s).committed l)

/-! ## Transactions -/

/-- The open transaction of context `c`. -/
def State.txnOf (s : State) (c : Nat) : Option (Nat × Txn) := s.objs.txns.find? (fun e => e.2.ctx == c)

/-- A transaction ends: its slot is returned (R38). -/
def State.endTxn (s : State) (k c : Nat) : State := s.onObjs fun o => { o with txns := tdel o.txns k, tMgr := o.tMgr.retire k c }

/-- The check of a setting at staging (R102, R243): what it decides alone, the embankment's capacity (R230), and for an admission the test against the
settings before it (R248). -/
def State.stageOk (s : State) (c : Nat) (before : List Setting) (x : Setting) : Except Status Unit := do
  s.settingOk c x
  match x with
  | .shape .. => check (!s.pool.frozen) .badState
  | .admission _ p _ _ _ =>
    let seen := s.applyAll (before ++ [x])
    if (seen.polder? p).isSome then seen.settingFits x
  | .embankment e => check (s.backed ≤ s.placeable e) .badState
  | _ => .ok ()

/-- Stage a setting (R102). DESIGN CHOICES: one that fails its check is no packet that the firmware accepts, so that the 100 ms of R106 run on (log
entry 238); the 257th setting gets TXN_TOO_LARGE before its own check (log entry 239). -/
def State.stage (s : State) (c : Nat) (x : Setting) : State × Ans :=
  match s.txnOf c with
  | none => (s, .bad (if (s.ctx? c).any (fun y => y.rolled.isSome) then .txnAbsent else .badState) [])
  | some (k, t) =>
    if 256 ≤ t.settings.length then (s, .bad .txnTooLarge [])
    else
      match s.stageOk c t.settings x with
      | .error st => (s, .bad st [])
      | .ok () =>
        (s.onObjs fun o => { o with txns := tset o.txns k { t with settings := t.settings ++ [x], last := s.now } }, .staged t.settings.length)

/-- A stageable packet: staged with TXN, else checked as at staging and then a commit of its own (R100, R102, R243). -/
def State.settingPacket (s : State) (cmd : Instr) (i : OpInfo) (h : Hdr) (x : Setting) : Result :=
  s.packet cmd i h fun s c _ =>
    if h.flags.getLsbD 2 then s.stage c x
    else
      match s.stageOk c [] x with
      | .error st => (s, .bad st [])
      | .ok () =>
        match s.commitAll c [x] with
        | .ok s1 => (s1, .ok [])
        | .error (_, st) => (s, .bad st [])

/-- QUEUE_SET_WEIGHT (0x0F, R258). -/
def execQueueSetWeight (h : Hdr) (queue : Handle) (weight : Nat) (s : State) : Result :=
  s.settingPacket (.queueSetWeight h queue weight) (queueSetWeightInfo queue weight) h (.qweight queue weight)
/-- CTX_SET_SLOWDOWN (0x64, R269). -/
def execCtxSetSlowdown (h : Hdr) (thr : Nat) (s : State) : Result :=
  s.settingPacket (.ctxSetSlowdown h thr) (ctxSetSlowdownInfo thr) h (.slowdown h.context thr)
/-- SLICE_SET_QUOTA (0xA2, R96, R278). -/
def execSliceSetQuota (h : Hdr) (slice : Handle) (field val : Nat) (s : State) : Result :=
  s.settingPacket (.sliceSetQuota h slice field val) (sliceSetQuotaInfo slice field val) h (.quota slice field val)
/-- SLICE_SET_SHARE (0xA3, R258, R518). -/
def execSliceSetShare (h : Hdr) (slice : Handle) (polder weight : Nat) (s : State) : Result :=
  s.settingPacket (.sliceSetShare h slice polder weight) (sliceSetShareInfo slice polder weight) h (.share slice polder weight)
/-- POLDER_SHAPE (0xA4, R243). -/
def execPolderShape (h : Hdr) (polder : Nat) (units : BitVec 64) (dayUs : Nat) (s : State) : Result :=
  s.settingPacket (.polderShape h polder units dayUs) (polderShapeInfo polder units dayUs) h (.shape polder units dayUs)
/-- POLDER_CALENDAR (0xA5, R245, R518). -/
def execPolderCalendar (h : Hdr) (polder : Nat) (feast excl : BitVec 64) (s : State) : Result :=
  s.settingPacket (.polderCalendar h polder feast excl) (polderCalendarInfo polder feast excl) h (.calendar polder feast excl)
/-- POLDER_ADMIT (0xA6, R247, R248, R250). -/
def execPolderAdmit (h : Hdr) (target : Handle) (polder kind : Nat) (days : BitVec 64) (prog : Handle) (s : State) : Result :=
  s.settingPacket (.polderAdmit h target polder kind days prog) (polderAdmitInfo target polder kind days prog) h (.admission target polder kind days prog)
/-- LINK_SHAPE (0xA7, R96, R383, R386). -/
def execLinkShape (h : Hdr) (a : ShapeArgs) (s : State) : Result := s.settingPacket (.linkShape h a) (linkShapeInfo a) h (.link a)
/-- SLUICE_SET (0xAC, R229). -/
def execSluiceSet (h : Hdr) (stack cap : Nat) (s : State) : Result := s.settingPacket (.sluiceSet h stack cap) (sluiceSetInfo stack cap) h (.sluice stack cap)
/-- EMBANKMENT_SET (0xAD, R230). -/
def execEmbankmentSet (h : Hdr) (pct : Nat) (s : State) : Result := s.settingPacket (.embankmentSet h pct) (embankmentSetInfo pct) h (.embankment pct)
/-- PLACEMENT_MODE (0xAE, R237 to R240). -/
def execPlacementMode (h : Hdr) (mode : Nat) (s : State) : Result := s.settingPacket (.placementMode h mode) (placementModeInfo mode) h (.mode mode)
/-- KEY_POLICY (0xC1, R306). -/
def execKeyPolicy (h : Hdr) (target : Handle) (ival cap : Nat) (s : State) : Result := s.settingPacket (.keyPolicy h target ival cap) (keyPolicyInfo target ival cap) h (.keyPolicy target ival cap)

/-- TXN_BEGIN (R87, R101, R106): slots 0 to 3 are slice 0's. -/
def opTxnBegin (s : State) (c : Nat) : Except Status (State × List Nat) := do
  check (s.txnOf c).isNone .badState
  let l := s.sliceOf c
  let k ← want (pickSlot 64 (fun k => s.objs.tMgr.freeAt s.objs.txns k && (l == 0 || decide (4 ≤ k))) s.peek) .noSlot
  let g := s.objs.tMgr.gen k
  let t : Txn := { gen := g, ctx := c, beginSeq := s.objs.seq, settings := [], last := s.now, left := none }
  let s1 := ((s.drew 1).onObjs fun o =>
    { o with txns := tset o.txns k t, tMgr := { o.tMgr with gens := tset o.tMgr.gens k g } }).modCtx c fun y => { y with rolled := none }
  return (s1, leNats 4 (mkHandle 7 g k).toNat)

/-- TXN_BEGIN (0x70). -/
def execTxnBegin (h : Hdr) (s : State) : Result := s.packet (.txnBegin h) txnBeginInfo h fun s c _ => answerOf s (opTxnBegin s c)

/-- The open transaction that a handle names, for context `c` (R39, R104, R106). -/
def State.findTxn (s : State) (c : Nat) (t : Handle) : Except Status (Nat × Txn) :=
  match tget s.objs.txns (hSlot t) with
  | some x =>
    if hType t = 7 ∧ hGen t = x.gen ∧ x.ctx = c then .ok (hSlot t, x)
    else .error (if (s.ctx? c).any (fun y => y.rolled == some t) then .txnAbsent else .badHandle)
  | none => .error (if (s.ctx? c).any (fun y => y.rolled == some t) then .txnAbsent else .badHandle)

/-- TXN_COMMIT (R103): the transaction ends in every case. -/
def opTxnCommit (t : Handle) (s : State) (c : Nat) : State × Ans :=
  match s.findTxn c t with
  | .error st => (s, .bad st [])
  | .ok (k, x) =>
    let s1 := s.endTxn k c
    let hit := x.settings.any (fun y => s.objs.keySeq.any (fun e => e.1 == y.key && decide (x.beginSeq < e.2)))
    if hit then (s1, .bad .txnConflict [])
    else
      match s1.commitAll c x.settings with
      | .error (i, st) => (s1, .bad st (leNats 2 i))
      | .ok s2 => (s2, .ok (leNats 2 x.settings.length ++ leNats 6 0 ++ leNats 8 s2.objs.seq))

/-- TXN_COMMIT (0x71). -/
def execTxnCommit (h : Hdr) (t : Handle) (s : State) : Result := s.packet (.txnCommit h t) (txnCommitInfo t) h fun s c _ => opTxnCommit t s c

/-- TXN_ABORT (0x72, R104). -/
def execTxnAbort (h : Hdr) (t : Handle) (s : State) : Result :=
  s.packet (.txnAbort h t) (txnAbortInfo t) h fun s c _ =>
    match s.findTxn c t with
    | .error st => (s, .bad st [])
    | .ok (k, _) => (s.endTxn k c, .ok [])

/-- 100 ms in ticks (R106). -/
def txnLimit : Nat := 10000000

/-- TXN_TIMEOUT: 100 ms without a packet roll the transaction back; the context keeps its handle (R106, R418). -/
def execTxnTimeout (txn : Nat) (s : State) : Result :=
  match tget s.objs.txns txn with
  | none => .next s
  | some t =>
    if t.left.isSome || decide (s.now < t.last + txnLimit) then .next s
    else .next (((s.endTxn txn t.ctx).modCtx t.ctx fun y => { y with rolled := some (mkHandle 7 t.gen txn) }).raiseEdge 44)

end Sys2Proof.Machine
end

