-- ==== Sys2Proof/Machine/Slices.lean ====
section
/-!
DEFINITION. Slice administration (spec/09, R96): creation and destruction, dirty logging, quiesce and resume, and the pool driver's
answers to backing requests (R209).
-/

namespace Sys2Proof.Machine

/-! ## The security state (R333) -/

/-- Close debug: halted cores resume, trace stops and is zeroed (R333, R335). -/
def Debug.close (d : Debug) : Debug := { d with unlocked := false, scope := 0, expiry := 0, trace := false, halted := [], brks := [], buf := [] }

/-- Set SEN_STATE.SEC from the licence and the confidential slices; entering Sealed closes debug. -/
def State.secUpdate (s : State) : State :=
  if s.sen.sec = 2 then s
  else
    let conf := s.slices.tab.any (fun e => e.2.conf)
    s.onSen fun x => { x with sec := b1 conf, dbg := if conf && x.sec == 0 then x.dbg.close else x.dbg }

/-! ## Creation and destruction -/

/-- The lowest free window of 16 vectors on a port (R273). -/
def State.freeWindow (s : State) (port : Nat) : Option Nat :=
  ((List.range 128).map (16 * ·)).find? fun b =>
    !s.slices.tab.any (fun e => e.2.port == port && decide (e.2.vecBase < b + 16) && decide (b < e.2.vecBase + e.2.vecCount))

/-- A slice as SLICE_CREATE makes it (R242, R273, R274, R324). -/
def Slice.new (gen pasid port : Nat) (conf : Bool) (base : Nat) (a : SliceArgs) : Slice :=
  { gen := gen, state := .active, pasid := pasid, port := port, conf := conf, vecBase := base, vecCount := 16, qCtx := a.qCtx, qQueue := a.qQueue
    qFence := a.qFence, qFrame := some a.qFrame, hostBw := a.hostBw, linkBw := a.linkBw, root := 0, shares := [(0, 100)], nextSh := []
    deficit := [], dirty := none, tokens := 6553600, tokTime := 0, mr := 0, mrBase := 0, log := [], logSeq := 0, dropped := 0, reports := 0
    qReply := none }

/-- SLICE_CREATE (R35, R96, R271, R273, R293, R315, R400). Bits above 19 of the PASID word are out of the PASID's range, checked here, not a reserved
field of R516 step 4: DESIGN CHOICE (log entry 247). -/
def opSliceCreate (a : SliceArgs) (s : State) (_ : Nat) : Except Status (State × List Nat) := do
  check (a.mode ≤ 1 && a.port ≤ 3) .badParam
  check (a.mode = 0 || s.brg.lConf) .notLicensed
  check (1 ≤ a.pasid && a.pasid < 2 ^ 20 && !s.slices.tab.any (fun e => e.1 != 0 && e.2.port == a.port && e.2.pasid == a.pasid)) .badParam
  check (s.port a.port).up .badParam
  check (6 ≤ a.evtLog2 && a.evtLog2 ≤ 16 && a.evtAddr % (32 * 2 ^ a.evtLog2) = 0 && a.vector < 16) .badParam
  check (4 ≤ a.ringLog2 && a.ringLog2 ≤ 16 && 1 ≤ a.weight && a.weight ≤ 65535) .badParam
  s.ringOk 0 a.ringAddr 0 (64 * 2 ^ a.ringLog2) 4096
  s.ringOk 0 a.replyAddr 0 (32 * 2 ^ a.ringLog2) 4096
  check (s.quotaSum 0 + a.qCtx ≤ slotCount 1 && s.quotaSum 1 + a.qQueue ≤ slotCount 2 && s.quotaSum 2 + a.qFence ≤ slotCount 4) .noSlot
  check (1 ≤ a.qCtx && 1 ≤ a.qQueue) .quota
  let base ← want (s.freeWindow a.port) .noSlot
  check (a.mode = 0 || (s.slices.tab.filter (fun e => e.2.conf && e.2.port == a.port)).length < 64) .noSlot
  let l ← want (s.slotFor (slotCount 5) s.slices.mgr s.slices.tab) .noSlot
  let g := s.slices.mgr.gen l
  let s1 := (s.drew 1).onSlices fun x =>
    { x with tab := tset x.tab l (Slice.new g a.pasid a.port (a.mode == 1) base a), mgr := { x.mgr with gens := tset x.mgr.gens l g } }
  let s2 := if a.mode = 1 then (s1.secUpdate).modTdi l (fun _ => { Tdi.none with state := 1 }) else s1.modTdi l (fun _ => Tdi.none)
  let s3 := s2.onSched fun x => { x with jobs := tset x.jobs l 0 }
  let r ← s3.makeCtx l true a.qCtx { addr := a.evtAddr, obj := 0, log2 := a.evtLog2 } a.vector
  let q ← r.1.makeQueue r.2 0 a.weight { addr := a.ringAddr, obj := 0, log2 := a.ringLog2 } { addr := a.replyAddr, obj := 0, log2 := a.ringLog2 }
  let t := (q.1.modSlice l fun x => { x with root := r.2, tokTime := s.now }).almanac
  return (t, leNats 4 (mkHandle 5 g l).toNat ++ leNats 4 (t.ctxHandle r.2).toNat ++ leNats 4 (t.queueHandle q.2).toNat)

/-- SLICE_CREATE (0xA0). -/
def execSliceCreate (h : Hdr) (a : SliceArgs) (s : State) : Result :=
  s.packet (.sliceCreate h a) (sliceCreateInfo a) h fun s c _ => answerOf s (opSliceCreate a s c)

/-- End the SPDM sessions that meet `p` with their keys (R294, R314). -/
def State.endSessions (s : State) (p : Sess → Bool) : State :=
  s.onSen fun x => { x with sessions := x.sessions.filter (fun k => !p k) }

/-- The slot of a destroyed slice is returned (R38, R68, R276). -/
def State.freeSlice (s : State) (l : Nat) : State :=
  let s1 := s.onSlices fun x => { x with tab := tdel x.tab l, mgr := x.mgr.retire l 0 }
  let s2 := s1.onObjs fun o => { o with ctxMgr := o.ctxMgr.release l }
  let s3 := s2.onLinks fun k => { k with tab := tmap k.tab (fun _ x => { x with flows := tdel x.flows l }) }
  (((s3.modTdi l (fun _ => Tdi.none)).endSessions (fun k => k.slice == some l)).secUpdate).almanac

/-- Slice destruction (R68, R284, R289, R321): a quiesce in progress ends with ABORTED, every context is torn down, the slot goes. -/
def State.destroySlice (s : State) (l : Nat) : State :=
  let s1 := match s.slice? l with
    | some x => if x.state == SliceState.quiescing then s.endQuiesce l .aborted .destroying else s
    | none => s
  let s2 := ((s1.modSlice l fun x => { x with state := .destroying, dirty := none }).postDue l)
  ((s2.ctxsOf l).foldl State.teardown s2).freeSlice l

/-- SLICE_DESTROY (0xA1, R68, R87). -/
def execSliceDestroy (h : Hdr) (slice : Handle) (s : State) : Result :=
  s.packet (.sliceDestroy h slice) (sliceDestroyInfo slice) h fun s _ _ => answerOf s (do
    let l ← want (s.findSlice slice) .badHandle
    check (l.1 != 0) .badParam
    return (s.destroySlice l.1, []))

/-! ## Backing requests (R89, R209) -/

/-- A waiting MO_CREATE completes. -/
def State.passBack (s : State) (b : Back) : State :=
  let s1 := (s.onPool fun p => { p with backs := p.backs.filter (fun x => x.req != b.req) }).modMo b.mo fun m => { m with freed := false }
  s1.lateAnswer b.queue b.count b.tag 0x08 b.fence b.fval .ok (leNats 4 (s1.moHandle b.mo).toNat)

/-- PD_FRAMES_BACKED (R96, R209). -/
def opPdFramesBacked (req status : Nat) (s : State) (_ : Nat) : State × Ans :=
  if status ≠ 0 ∧ status ≠ 0x10 then (s, .bad .badParam [])
  else
    match s.pool.backs.find? (fun b => b.req == req) with
    | none => (s.freeReq req, .bad .badState [])
    | some b =>
      let s1 := s.freeReq req
      if status ≠ 0 then (s1.failBack b (Status.ofCode status), .ok [])
      else if b.backed ≠ b.frames then (s1.failBack b .noSlot, .ok [])
      else (s1.passBack b, .ok [])

/-- PD_FRAMES_BACKED (0xA8). -/
def execPdFramesBacked (h : Hdr) (req status : Nat) (s : State) : Result :=
  s.packet (.pdFramesBacked h req status) (pdFramesBackedInfo req status) h fun s c _ => opPdFramesBacked req status s c

/-- BACK_REQUEST_TIMEOUT: 100 ms without an answer fail the MO_CREATE with TIMEOUT (R89, R209). -/
def execBackRequestTimeout (req : Nat) (s : State) : Result :=
  match s.pool.backs.find? (fun b => b.req == req) with
  | none => .next s
  | some b => if s.now < b.since + txnLimit then .next s else .next (s.failBack b .timeout).finish

/-! ## Dirty logging (R281 to R284) -/

/-- A well-formed descriptor's ranges: 1 to 126, aligned, not overlapping. -/
def rangesOk (l : List (Nat × Nat × Nat)) : Bool :=
  1 ≤ l.length && l.length ≤ 126 && l.all (fun r => r.1 % 4096 = 0 && r.2.1 % 64 = 0 && r.2.2 % 8 = 0) &&
    decide (l.Pairwise (fun a b => a.1 + 4096 * a.2.1 ≤ b.1 ∨ b.1 + 4096 * b.2.1 ≤ a.1))

/-- SLICE_DIRTY_LOG (R281, R282, R284); a scrubbed slice accepts only its destruction (R317; log entry 230). -/
def opSliceDirtyLog (slice : Handle) (on hostMap poolMap : Nat) (ranges : Option (List (Nat × Nat × Nat))) (s : State) (_ : Nat) :
    Except Status (State × List Nat) := do
  let l ← want (s.findSlice slice) .badHandle
  check (on ≤ 1) .badParam
  check (!(s.tdi l.1).scrubbed) .badState
  if on = 0 then return ((s.flushDirty l.1).modSlice l.1 fun x => { x with dirty := none }, [])
  check (hostMap % 4096 = 0 && poolMap % 4096 = 0) .badParam
  check (hostMap = 0 || ranges.any rangesOk) .badParam
  check (poolMap = 0 || !l.2.conf) .denied
  let d : Dirty := { ranges := if hostMap = 0 then none else ranges, hostMap := hostMap, untracked := false, poolMap := poolMap, hostBits := []
                     poolBits := [] }
  return ((s.flushDirty l.1).modSlice l.1 fun x => { x with dirty := some d }, [])

/-- SLICE_DIRTY_LOG (0xA9); `ranges` is the descriptor as the block reads it (log entry 9). -/
def execSliceDirtyLog (h : Hdr) (slice : Handle) (on hostMap poolMap : Nat) (ranges : Option (List (Nat × Nat × Nat))) (s : State) : Result :=
  s.packet (.sliceDirtyLog h slice on hostMap poolMap ranges) (sliceDirtyLogInfo slice on hostMap poolMap) h fun s c _ => answerOf s (opSliceDirtyLog slice on hostMap poolMap ranges s c)

/-! ## Quiesce and resume (R285 to R287) -/

/-- The remote-dispatch timers of slice `l` stop or go on (R389): a slot holds its start time while they run, the time passed while they do not. -/
def State.flipSlots (s : State) (l : Nat) : State :=
  let mine (r : DWord) : Bool := (s.disp? r).any (fun d => s.sliceOf d.ctx == l)
  s.onLinks fun k => { k with tab := tmap k.tab fun _ x =>
    { x with slots := tmap x.slots fun _ e => if mine e.1 then (e.1, s.now - e.2) else e } }

/-- SLICE_QUIESCE's steps 1 to 3: fetching stops, timers and sweeps stop, dispatches are pre-empted; the reply waits for the saves. -/
def State.beginQuiesce (s : State) (l : Nat) (p : PendSig) : State :=
  let mine (c : Nat) : Bool := s.sliceOf c == l
  let s1 := (s.flipSlots l).modSlice l fun x => { x with state := .quiescing, qReply := some p }
  let s2 := s1.onObjs fun o =>
    { o with
      txns := tmap o.txns (fun _ t => if mine t.ctx then { t with left := some (t.last + txnLimit - s.now) } else t)
      ctxs := tmap o.ctxs (fun _ c => if c.slice = l ∧ c.sweep = .running then { c with sweep := .paused } else c) }
  let s3 := s2.preemptAll (fun d => mine d.ctx && d.work.onEngines)
  let stop (d : Disp) : Disp :=
    if mine d.ctx then
      { d with quiesced := true
               state := match d.work with | .fill .. => .preempted | .copy .. => .preempted | _ => d.state }
    else d
  s3.onSched fun x => { x with disps := x.disps.map stop }

/-- SLICE_QUIESCE (R276, R285); not of a scrubbed slice (R317; log entry 230). -/
def opSliceQuiesce (h : Hdr) (slice : Handle) (s : State) (c : Nat) (n : Word) : State × Ans :=
  match s.findSlice slice with
  | none => (s, .bad .badHandle [])
  | some (l, x) =>
    if l = 0 then (s, .bad .badParam [])
    else if x.state ≠ .active ∨ (s.tdi l).scrubbed = true then (s, .bad .badState [])
    else
      let f := match s.fenceOf h c with | some k => k + 1 | none => 0
      (s.beginQuiesce l { order := h.q, count := n, tag := h.tag, fence := f, value := h.fval }, .later)

/-- SLICE_QUIESCE (0xAA). -/
def execSliceQuiesce (h : Hdr) (slice : Handle) (s : State) : Result := s.packet (.sliceQuiesce h slice) (sliceQuiesceInfo slice) h (opSliceQuiesce h slice)

/-- SLICE_RESUME's effect (R287). -/
def State.resume (s : State) (l : Nat) : State :=
  let mine (c : Nat) : Bool := s.sliceOf c == l
  let s1 := ((s.flipSlots l).modSlice l fun x => { x with state := .active }).modTdi l fun t => { t with vecDue := false }
  let s2 := s1.onObjs fun o =>
    { o with
      txns := tmap o.txns (fun _ t => match t.left with
        | some n => if mine t.ctx then { t with left := none, last := s.now + n - txnLimit } else t
        | none => t)
      ctxs := tmap o.ctxs (fun _ c => if c.slice = l ∧ c.sweep = .paused then { c with sweep := .running } else c) }
  let go (d : Disp) : Disp :=
    if mine d.ctx then
      { d with quiesced := false
               state := match d.work with | .fill .. => .running | .copy .. => .running | _ => d.state }
    else d
  let s3 := (s2.onSched fun x => { x with disps := x.disps.map go }).postDue l
  (tkeys s3.objs.queues (fun q => q.wait.isSome && s3.sliceOf q.ctx == l)).foldl State.wake s3

/-- A quiesce that something else ends: its reply carries ABORTED. R276 has one way out of QUIESCING without SLICE_DESTROY, so the slice is
QUIESCED once nothing of it runs (log entry 147). -/
def State.abortQuiesce (s : State) (l : Nat) : State := s.endQuiesce l .aborted .quiescing

/-- SLICE_RESUME's packet (0xAB); its meaning, in Machine/Line.lean, goes on with the firmware packets that the quiesce held. -/
def State.resumePacket (h : Hdr) (slice : Handle) (s : State) : Result :=
  s.packet (.sliceResume h slice) (sliceResumeInfo slice) h fun s _ _ => answerOf s (do
    let l ← want (s.findSlice slice) .badHandle
    check (l.2.state == .quiesced) .badState
    check (!l.2.conf || (s.tdi l.1).state == 3) .badState
    return (s.resume l.1, []))

end Sys2Proof.Machine
end

