-- ==== Sys2Proof/Machine/Access.lean ====
section
/-!
DEFINITION. Access paths (spec/17): which path reaches a register (R507), and what happens to an access that does not (R508).
-/

namespace Sys2Proof.Machine

/-- The port is the administration port (R415). -/
def State.adminPort (s : State) (p : Nat) : Bool := p == s.mmc.admin

/-- The LNK registers that the MMC reaches before READY (R507), by offset in the LNK range. -/
def mmcLink (o : Nat) : Bool :=
  if o < 0x3000 then o % 256 == 0 || (0x40 ≤ o % 256 && o % 256 ≤ 0x64) else o == 0x4000 || o == 0x4004 || o == 0x4008

/-- A path reaches the BAR0 register at `off` (R395, R507): the unit ranges of R505. -/
def State.reaches (s : State) (p : Path) (off : Nat) (wr : Bool) : Bool :=
  let u := off / 0x10000
  match p with
  | .host q none _ => s.brg.ready && s.adminPort q
  | .host _ (some _) _ => false
  | .hostOdd _ => false
  | .core _ => s.pwr.ccUp && off != 0xC0004
  | .mmc => u == 6 || u == 11 || u == 12 || ((u == 8 || u == 9) && !s.mmc.lock && mmcLink (off - 0x80000))
  | .debug => s.sen.dbg.unlocked && (!wr || s.sen.dbg.scope.getLsbD 3)

/-- A host port's request is answered with Unsupported Request, and counted (R410). -/
def State.unsupported (s : State) (q : Nat) : State := (s.modPort q fun x => { x with ur := satInc x.ur }).emit (.ur q)

/-- An access that its path does not reach (R508): Unsupported Request and a count for a host port, nothing for the others. -/
def State.deny (s : State) (p : Path) : State :=
  match p with
  | .host q _ _ => s.unsupported q
  | .hostOdd q => s.unsupported q
  | _ => s

/-- A read that its path does not reach: Unsupported Request for a host port, zero for the others (R508). -/
def State.denyRead (s : State) (p : Path) : State := match p with | .host .. => s.deny p | .hostOdd _ => s.deny p | _ => s.emit (.value p 0)

/-- A write of the BAR0 register at `off`; no write comes from a port or core that the block does not have. -/
def State.onBar0 (s : State) (p : Path) (off : Nat) (f : State → State) : Result :=
  .next (if !p.wf then s else if s.reaches p off true then (f s).finish else s.deny p)

/-- A write of a register in an array at `off`, whose index the array has where `ok` holds; beyond it the offset is reserved, and a path that
reaches BAR0 completes the write without effect (R512). -/
def State.onReg (s : State) (p : Path) (ok : Bool) (off : Nat) (f : State → State) : Result :=
  s.onBar0 p off fun t => if ok then f t else t

/-- The slice that a host-port request belongs to (R272): slice 0's binding is to requests without a PASID on the administration port (R274). -/
def State.sliceBy (s : State) (port : Nat) (pasid : Option Nat) : Option Nat :=
  match pasid with
  | some ps => (s.slices.tab.find? (fun e => e.1 != 0 && e.2.port == port && e.2.pasid == ps)).map (·.1)
  | none => if s.adminPort port && thas s.slices.tab 0 then some 0 else none

/-- The interface of slice `l` accepts the request (R318): in its stream with T set, while it is CONFIG_LOCKED or RUN. -/
def State.teeOk (s : State) (l : Nat) (tee : Bool) : Bool := tee || !((s.tdi l).state == 2 || (s.tdi l).state == 3)

/-- A request to a page of BAR2 or BAR4, owned by slice `owner`: granted, or turned away with its counts (R272, R318, R340). -/
def State.onPage (s : State) (p : Path) (owner : Option Nat) (f : State → State) : Result :=
  .next <| if !p.wf then s
    else
      match p with
      | .host q ps tee =>
        (match s.sliceBy q ps with
          | some l =>
            if s.brg.ready && s.teeOk l tee then (if owner == some l then (f s).finish else s.deny p)
            else (if s.brg.ready then s.modTdi l fun x => { x with rejects := min 65535 (x.rejects + 1) } else s).deny p
          | none => s.deny p)
      | _ => s.deny p

/-! ## Doorbells (R46, R47, R66) -/

/-- A queue's TAIL is written (R47). A value exactly 2^31 away from the last accepted TAIL, which serial comparison leaves undefined, counts as
not ahead and is ignored (log entry 200). -/
def State.doorbell (s : State) (q : Nat) (v : Word) : State :=
  match s.queue? q with
  | none => s
  | some x =>
    let ahead := (v - x.tail).toNat
    if x.state = .destroying ∨ ahead = 0 ∨ 2 ^ 31 ≤ ahead then s
    else if 2 ^ x.ring.log2 < (v - x.head).toNat then
      (match x.state with
        | .halted => s
        | _ => (s.haltQueue q .badParam).postEvent x.ctx (mkEv 7 .badParam (s.queueHandle q) 0 0 0))
    else s.modQueue q fun y => { y with tail := v }

/-- QE_DB_TAIL_WRITE, through the doorbell page of queue slot `queue` (R49, R272). -/
def execQeDbTailWrite (p : Path) (queue : Nat) (val : Word) (s : State) : Result :=
  s.onPage p ((s.queue? queue).map fun x => s.sliceOf x.ctx) fun s => s.doorbell queue val

/-- A context's event-ring consumer count is written (R66): accepted, it re-arms, lets held records go, and raises the vector again where
records remain. -/
def State.evtCons (s : State) (c : Nat) (v : Word) : State :=
  match s.ctx? c with
  | none => s
  | some x =>
    if (x.prod - x.cons).toNat < (x.prod - v).toNat then s
    else
      let s1 := s.modCtx c fun y => { y with cons := v, armed := true }
      let s2 := if v = x.prod then s1 else (s1.modCtx c fun y => { y with armed := false }).raiseVec x.slice x.vector
      let s3 := if v = x.prod then s2 else s2.notifyLinks x.slice (s.ctxHandle c) x.prod
      s3.drain c

/-- QE_DB_EVT_CONS_WRITE, through a doorbell page or the event-ring block of context slot `ctx` (R396). -/
def execQeDbEvtConsWrite (p : Path) (ctx : Nat) (val : Word) (s : State) : Result :=
  s.onPage p ((s.ctx? ctx).map (·.slice)) fun s => s.evtCons ctx val

end Sys2Proof.Machine
end

