-- ==== Sys2Proof/Machine/Events.lean ====
section
/-!
DEFINITION. The event concentrator's commands (R418 to R429), wired inputs (R427), mailboxes (R430 to R437) and the pool driver's notices (R435).
-/

namespace Sys2Proof.Machine

/-! ## Pending and mask bits (R421) -/

/-- A source that R418 assigns. -/
def isSource (i : Nat) : Bool :=
  (1 ≤ i && i ≤ 47) || (64 ≤ i && i < 256) || (256 ≤ i && i < 576 && i % 16 ≤ 5) || (576 ≤ i && i < 768) ||
    (768 ≤ i && i < 928 && i % 8 ≤ 4) || (928 ≤ i && i < 960 && i % 8 ≤ 4)

/-- Apply `f` to each source of word `w` whose bit is set. -/
def State.eachBit (s : State) (w : Nat) (bits : Word) (f : State → Nat → State) : State :=
  ((List.range 32).filter bits.getLsbD).foldl (fun a b => if 1 ≤ 32 * w + b then f a (32 * w + b) else a) s

/-- Set a pending bit by hand; a reserved source stays clear (R418, R421). -/
def State.setPend (s : State) (i : Nat) : State := if isSource i then s.modSrc i fun x => { x with pend := true } else s

/-- Clear a pending bit; a level source whose condition holds is pending again at once. -/
def State.clrPend (s : State) (i : Nat) : State := s.modSrc i fun x => { x with pend := s.isLevel i && x.cond && !x.active }

/-- EVC_PEND_SET_WRITE. -/
def execEvcPendSetWrite (p : Path) (w : Nat) (bits : Word) (s : State) : Result :=
  s.onReg p (w < 64) (0x52000 + 4 * w) fun s => s.eachBit w bits State.setPend
/-- EVC_PEND_CLR_WRITE. -/
def execEvcPendClrWrite (p : Path) (w : Nat) (bits : Word) (s : State) : Result :=
  s.onReg p (w < 64) (0x52100 + 4 * w) fun s => s.eachBit w bits State.clrPend
/-- EVC_MASK_SET_WRITE. -/
def execEvcMaskSetWrite (p : Path) (w : Nat) (bits : Word) (s : State) : Result :=
  s.onReg p (w < 64) (0x52200 + 4 * w) fun s => s.eachBit w bits fun a i => a.modSrc i fun x => { x with masked := true }
/-- EVC_MASK_CLR_WRITE. -/
def execEvcMaskClrWrite (p : Path) (w : Nat) (bits : Word) (s : State) : Result :=
  s.onReg p (w < 64) (0x52300 + 4 * w) fun s => s.eachBit w bits fun a i => a.modSrc i fun x => { x with masked := false }

/-! ## Claim and end (R422, R423) -/

/-- The source that core `n` claims: highest priority, then lowest number. -/
def State.claimable (s : State) (n : Nat) : Option Nat :=
  (s.evc.srcs.map (·.1)).foldl (fun a i =>
    if s.eligible n i then
      match a with
      | none => some i
      | some j => if (s.src j).prio < (s.src i).prio ∨ ((s.src j).prio = (s.src i).prio ∧ i < j) then some i else a
    else a) none

/-- Core `n` claims a source. -/
def State.claim (s : State) (n : Nat) : State :=
  match s.claimable n with
  | none => s.emit (.value (.core n) 0)
  | some i =>
    let x := s.src i
    ((s.modSrc i fun y => { y with pend := false, active := true }).modCore n fun c =>
      { c with stack := (i, c.run) :: c.stack, run := x.prio }).emit (.value (.core n) (i + 65536 * x.prio))

/-- EVC_CLAIM_READ: the eight control cores run only while their domain is up. -/
def execEvcClaimRead (core : Nat) (s : State) : Result :=
  .next (if core < 8 ∧ s.pwr.ccUp = true then s.claim core else s)

/-- A source's claim ends: a level source whose condition still holds is pending again (R423). -/
def State.unclaim (s : State) (i : Nat) : State := s.modSrc i fun y => { y with active := false, pend := y.pend || (s.isLevel i && y.cond) }

/-- Core `n` writes an ID to EVC_EOI. -/
def State.eoi (s : State) (n id : Nat) : State :=
  match (s.core n).stack with
  | (i, r) :: t =>
    if i = id then (s.modCore n fun c => { c with stack := t, run := r }).unclaim i else s.modCore n fun c => { c with eoiErr := true }
  | [] => s.modCore n fun c => { c with eoiErr := true }

/-- EVC_EOI_WRITE; the ID is bits [10:0] of the word. -/
def execEvcEoiWrite (core id : Nat) (s : State) : Result :=
  .next (if core < 8 ∧ s.pwr.ccUp = true then s.eoi core (id % 2048) else s)

/-- A control core is reset (R425): its claims return to pending. -/
def State.resetCore (s : State) (n : Nat) : State :=
  ((s.core n).stack.foldl (fun a e => a.modSrc e.1 fun y => { y with active := false, pend := !s.isLevel e.1 || y.cond }) s).modCore n
    fun _ => Core.reset

/-! ## Wired inputs (R427) -/

/-- A wired input at reset (R429). -/
def Wire.reset : Wire := { filt := 16, mode := 0, raw := false, filtered := false }
/-- Wired input `i`. -/
def State.wire (s : State) (i : Nat) : Wire := tgetD s.evc.wires i Wire.reset
/-- Change wired input `i`. -/
def State.modWire (s : State) (i : Nat) (f : Wire → Wire) : State := { s with evc := { s.evc with wires := tset s.evc.wires i (f (s.wire i)) } }

/-- The level condition of a wired input; with FILT 0 the input is inactive. -/
def Wire.asserted (w : Wire) : Bool := w.filt != 0 && ((w.mode == 0 && w.filtered) || (w.mode == 1 && !w.filtered))

/-- A wired input's source follows its filtered level: `old` was the level before. -/
def State.driveWire (s : State) (i : Nat) (old : Bool) : State :=
  let w := s.wire i
  if w.mode ≤ 1 then s.setCond (1 + i) w.asserted
  else if old != w.filtered && w.filtered == (w.mode == 2) then s.raiseEdge (1 + i)
  else s

/-- WIRED_INPUT_CHANGE: input `i` of the 32 has stood at `level` for `samples` samples; the filter passes it from FILT samples on. -/
def execWiredInputChange (i : Nat) (level : Bool) (samples : Nat) (s : State) : Result :=
  let w := s.wire i
  let pass := w.filt != 0 && decide (w.filt ≤ samples)
  .next (if i < 32 then (s.modWire i fun x => { x with raw := level, filtered := if pass then level else x.filtered }).driveWire i w.filtered else s)

/-! ## Mailboxes (R430 to R436) -/

/-- The party can reach the mailbox unit: the pool driver through BAR0 of the administration port once READY, a cluster sequencer or a
control core while its domain is up. -/
def State.partyReaches (s : State) (who : Party) : Bool := match who with | .pool => s.brg.ready | p => s.partyUp p

/-- A party that does not reach the unit: the pool driver's host port answers Unsupported Request (R508). -/
def State.denyParty (s : State) (who : Party) : State := match who with | .pool => s.deny (.host s.mmc.admin none false) | _ => s

/-- A send (R431): wrong party, full, inactive cluster or narrow sets SERR and nothing else. -/
def State.mbxSend (s : State) (who : Party) (m width : Nat) (msg : DWord) : State :=
  if who ≠ mbxSender m ∨ width ≠ 8 ∨ 8 ≤ (s.mbox m).msgs.length ∨ s.mbxDead m = true then s.modMbox m fun x => { x with serr := true }
  else s.mbxPush m msg

/-- MBX_SEND; beyond the 64 mailboxes the offsets are reserved (R512). -/
def execMbxSend (who : Party) (m width : Nat) (msg : DWord) (s : State) : Result :=
  .next (if !who.wf then s else if s.partyReaches who then (if m < 64 then s.mbxSend who m width msg else s) else s.denyParty who)

/-- The pool driver attaches: one message for every occupied slot, by request number (R435). -/
def State.attachPd (s : State) : State :=
  let l := sortBy (fun a b => decide (a.req < b.req)) (s.pool.slots.map (·.2))
  ({ s with mbx := { s.mbx with attached := true } }.onPool fun p => { p with pdQ := l.map reqWord }).pump

/-- The pool driver detaches. -/
def State.detachPd (s : State) : State := { s with mbx := { s.mbx with attached := false } }.onPool fun p => { p with pdQ := [] }

/-- The firmware acts on a notice of mailbox 1; others it discards (R435). -/
def State.notice (s : State) (w : DWord) : State :=
  if w = 0x81#64 then s.attachPd else if w = 0x82#64 then s.detachPd else s

/-- A receive (R431): wrong party, empty or narrow returns 0 and sets RERR. A drained mailbox tells its sender (R432); the firmware then sends
what waits for room in mailbox 0, and acts on what it takes from mailbox 1. -/
def State.mbxRecv (s : State) (who : Party) (m width : Nat) : State × DWord :=
  match (s.mbox m).msgs with
  | w :: r =>
    if who ≠ mbxReceiver m ∨ width ≠ 8 then (s.modMbox m fun x => { x with rerr := true }, 0)
    else
      let s1 := s.modMbox m fun x => { x with msgs := r }
      let s2 := if r = [] then (if mbxReceiver m = .control then s1.setCond (64 + m) false else s1).noteSender m 1 else s1
      ((if m = 0 then s2.pump else if m = 1 then s2.notice w else s2), w)
  | [] => (s.modMbox m fun x => { x with rerr := true }, 0)

/-- MBX_RECV; beyond the 64 mailboxes the offsets are reserved and read 0. -/
def execMbxRecv (who : Party) (m width : Nat) (s : State) : Result :=
  .next (if !who.wf then s else if s.partyReaches who then
      (match if m < 64 then s.mbxRecv who m width else (s, 0) with
        | (s1, w) => (s1.emit (.recv m who w)).finish)
    else s.denyParty who)

/-- The firmware takes every message of mailbox 1. -/
def State.drainNotices : Nat → State → State
  | 0, s => s
  | n + 1, s => if (s.mbox 1).msgs = [] then s else State.drainNotices n (s.mbxRecv .control 1 8).1

/-- The pool driver sends a notice, and the firmware takes it while its domain is up (R433, R435). -/
def State.pdNotice (s : State) (w : DWord) : State :=
  if s.partyReaches .pool then
    let s1 := s.mbxSend .pool 1 8 w
    (if s1.pwr.ccUp then s1.drainNotices 8 else s1).finish
  else s.denyParty .pool

/-- PD_ATTACH. -/
def execPdAttach (s : State) : Result := .next (s.pdNotice 0x81)
/-- PD_DETACH. -/
def execPdDetach (s : State) : Result := .next (s.pdNotice 0x82)

end Sys2Proof.Machine
end

