-- ==== Sys2Proof/Machine/Links.lean ====
section
/-!
DEFINITION. The link layer (spec/11): training (R346, R347), data and control flits (R349 to R355), replay (R355 to R358), rekey (R312, R352),
retrain and width change (R362 to R364), link down (R365 to R367), and the LNK command registers (R391).
-/

namespace Sys2Proof.Machine

/-- A link at reset (R391). -/
def Link.reset (st : Nat) : Link :=
  { attach := false, vcsCfg := 1, dir := 0, enable := false, state := st, lanes := 0, reason := 1, vcs := 0, rdisp := false, ignored := 0
    width := 2, peer := 0, replays := 0, tagFail := 0, fecCorr := 0, spill := 0, ded := [], cap := 4095, rdto := 10000, ovh := 24, full := 0
    expSeq := 0, nakOut := false, unrep := 0, unrepT := none, dup := false, freed := [], freedRep := [], phaseRx := false, phaseTx := false, ctrTx := [], ctrRx := []
    ctlTx := 0, sent := 0, acked := 0, flits := [], lastAck := 0, replayAt := 0, replayN := 0, used := [], farDed := [], farCap := 0
    farFreed := [], req := none, reqId := 0, owed := [], waits := false, symErr := [], goal := none, tagTimes := [], retrainF := 0, retry := none, ctlQ := [], feastQ := []
    fairQ := [], finish := [], vtime := 0, flows := [], strict := 0, strictT := 0, slots := [], rstores := [], certDig := 0, secTx := none
    secRx := none, rekeyRx := false }

/-- The port of link `l` is licensed (R6, R345). -/
def State.linkLicensed (s : State) (l : Nat) : Bool := decide (l % 16 < s.brg.lPorts)

/-- The link may train: it exists, is licensed and enabled (R342, R345, R346). -/
def State.mayTrain (s : State) (l : Nat) (x : Link) : Bool := s.linkExists l && s.linkLicensed l && x.enable

/-- This link's identity (R348). -/
def State.linkIdent (s : State) (l : Nat) : Nat := s.sen.linkDev.toNat / 256 * 256 + l

/-- A link's state changed: its source, and LINK_PORT (R72, R418). -/
def State.linkChanged (s : State) (l : Nat) : State := (s.raiseEdge (576 + 4 * l)).almanac

/-! ## Messages that are lost (R367, R381) -/

/-- A completion of a request without data, to `dst`. -/
def State.plainCpl (s : State) (flow : Nat) (m : Msg) (strict : Bool) (st : Status) : State :=
  (s.sendMsg flow { s.newMsg 0x08 m.src m.binding m.tag (BitVec.ofNat 64 st.code) with flags := BitVec.ofNat 8 (b1 strict) }).1

/-- The requests that are answered by a CPL (R370). -/
def wantsCpl (t : Nat) : Bool := !(isCpl t || t == 0x10 || t == 0x11 || t == 0x20)

/-- What is sent for a message that this block drops: PATH_LOST to its requester, or LINK_DOWN where that is on one of its attach links. -/
def State.lostMsg (s : State) (m : Msg) : State :=
  let who := if isCpl m.mtype then m.dst else m.src
  if m.mtype = 0x09 then s
  else if s.isHere who then
    (if bits who 24 8 = 0xFF ∨ wantsCpl m.mtype = false then s else s.plainCpl 0 m (m.flags.getLsbD 0) .linkDown)
  else (s.sendMsg 0 (s.newMsg 0x09 who m.binding m.tag (BitVec.ofNat 64 (m.tag + 65536 * m.binding)))).1

/-! ## Link down (R365, R366) -/

/-- The messages that a link holds: queued, and sent without an acknowledgement. -/
def Link.holding (x : Link) : List Msg := (x.flits.filterMap (·.fin)) ++ (x.ctlQ ++ x.feastQ ++ x.fairQ).map (·.msg)

/-- The work of a dispatch needs link `l` (R366 step 5). -/
def Disp.needsLink (d : Disp) (l : Nat) : Bool :=
  match d.work with
  | .remote a => a.link == l
  | .attend a _ => a.ret == 1 && a.port == l
  | _ => false

/-- Fault the context of work packet `ref` for its link `l` (R494 classes 5 and 6). -/
def State.linkFault (s : State) (ref : DWord) (l cls : Nat) (st : Status) : State :=
  match s.disp? ref with
  | none => s
  | some d => s.faultCtx d.ctx { FaultRegs.zero with status := st, cls := cls, disp := ref, srcKind := 3, src := l, valid := 1 }

/-- What stays of a link that goes down: its configuration, its counters, its flows. -/
def Link.fallen (x : Link) (reason : Nat) (retry : Option Nat) : Link :=
  { Link.reset 1 with
    attach := x.attach, vcsCfg := x.vcsCfg, dir := x.dir, enable := x.enable, reason := reason, ignored := x.ignored, width := x.width
    peer := x.peer, replays := x.replays, tagFail := x.tagFail, fecCorr := x.fecCorr, ded := x.ded, cap := x.cap, rdto := x.rdto, ovh := x.ovh
    flows := x.flows, retry := retry }

/-- Link `l` goes down: the notice, the drop, PATH_LOST, the faults of dependent work, and the retry after 100 ms. -/
def State.linkFall (s : State) (l reason : Nat) : State :=
  match s.link? l with
  | none => s
  | some x =>
    if !x.up then s
    else
      let s1 := (s.sendCtl l false 4 0).modLink l fun y => y.fallen reason (if y.enable then some (s.now + 10000000) else none)
      let s2 := x.holding.foldl (fun a m => if m.src = a.address 0xFF then a else a.lostMsg m) s1
      let s3 := ((s2.sched.disps.filter (·.needsLink l)).map (·.ref)).foldl (fun a r => a.linkFault r l 5 .linkDown) s2
      s3.linkChanged l

/-- LNK_STAT.REASON of a down command. -/
def downCode : DownReason → Nat
  | .noSignal => 2 | .protocol => 8 | .integrity => 9 | .retrain => 10 | .notice => 11

/-- LINK_DOWN. -/
def execLinkDown (l : Nat) (r : DownReason) (s : State) : Result :=
  .next (s.linkFall l (downCode r)).finish

/-! ## Training (R346, R347) -/

/-- The lanes a link runs: full, half or quarter width, never below 2 (R344). -/
def lanesFor (full works : Nat) : Nat := (([full, full / 2, full / 4].filter (fun n => decide (2 ≤ n) && decide (n ≤ works))).head?).getD 0

/-- The agreed channel count of link `l`, or none where the profile allows no such count (R343, R347, R359). -/
def State.agreeVcs (s : State) (l : Nat) (x : Link) (far : FarEnd) : Option Nat :=
  let n := min (min (2 * 2 ^ x.vcsCfg) (s.fullWidth l)) far.vcs
  if x.vcsCfg ≤ 2 ∧ (n = 4 ∨ n = 8 ∨ (n = 2 ∧ x.attach = true)) then some n else none

/-- The reason a training fails with, or the channel count that it agrees; without an accepted certificate of its own the block cannot
authenticate itself (R291, R310). -/
def State.trainCheck (s : State) (l : Nat) (x : Link) (far : FarEnd) : Except Nat Nat :=
  if !far.signal then .error 2
  else if !far.phy || lanesFor (min (s.fullWidth l) far.width) far.lanes == 0 then .error 3
  else if s.sen.entropy then .error 7
  else if !(s.sen.linkOk && far.chain.leafOk && far.chain.sigOk && s.trusts far.chain.root) then .error 4
  else if x.attach != far.attach then .error 5
  else
    match s.agreeVcs l x far with
    | none => .error 5
    | some n => if !x.attach && (x.dir == 0 || far.coord != s.step1 (x.dir - 1)) then .error 6 else .ok n

/-- What the block says of itself in its training flits (R346 step 2); it takes remote dispatches as licensed (log entry 252). -/
def State.hello (s : State) (l : Nat) (x : Link) : Hello :=
  { ident := s.linkIdent l, attach := x.attach, width := s.fullWidth l, vcs := min (2 * 2 ^ x.vcsCfg) (s.fullWidth l), ded := (List.range 8).map x.dedOf
    cap := x.cap, coord := s.links.coord, dir := x.dir, rdisp := s.brg.lRemote }

/-- The own ephemeral private key of a link's key exchange, and the hash of its transcript, whose bytes the manual does not lay out: free values. -/
def State.ephemeral (s : State) : Nat := keyOf (Config.free s.free)
def State.transcript (s : State) : List Byte := beBytes 48 (Config.free (s.free + 1) % 2 ^ 384)

/-- The block's part of the key exchange (R311): its ephemeral public key, and its signature of the transcript. -/
def State.shake (s : State) (l : Nat) : State :=
  s.emit (.share l (publicKey s.ephemeral) (ecdsa s.sen.fused.linkKey (keyOf (Config.free (s.free + 2))) s.transcript))

/-- A link that has trained: every sequence number, counter and credit count is 0 (R346 step 5), with the traffic secrets of the exchange (R311). -/
def State.trained (s : State) (l n : Nat) (x : Link) (far : FarEnd) : Link :=
  let sec := linkSecrets (ecdh s.ephemeral far.share) s.transcript (decide (s.linkIdent l < far.ident.toNat))
  let full := min (s.fullWidth l) far.width
  { x.fallen 0 none with
    state := 3, lanes := lanesFor full far.lanes, full := full, vcs := n, rdisp := x.attach && far.rdisp, peer := far.ident
    farDed := far.ded.zipIdx.map (fun e => (e.2, e.1)), farCap := far.cap, certDig := far.certDig, lastAck := s.now
    secTx := some sec.1, secRx := some sec.2 }

/-- One training of link `l`. -/
def State.train (s : State) (l : Nat) (far : FarEnd) : State :=
  match s.link? l with
  | none => s
  | some x =>
    if x.up || !s.mayTrain l x || x.retry.any (fun t => decide (s.now < t)) then s
    else
      let step2 (a : State) : State := a.emit (.hello l (s.hello l x))
      let step3 (a : State) : State := (((step2 a).shake l).drew 3).asked 2
      match s.trainCheck l x far with
      | .error r =>
        (if r ≤ 3 then s else if r = 7 then step2 s else step3 s).modLink l fun y =>
          { y with state := 1, reason := r, retry := some (s.now + 10000000) }
      | .ok n => ((step3 s).modLink l fun _ => s.trained l n x far).linkChanged l

/-- LINK_TRAINING_START, with what the far end brings. -/
def execLinkTrainingStart (l : Nat) (far : FarEnd) (s : State) : Result :=
  .next (s.train l far).finish

/-! ## Receiving (R351 to R353, R356) -/

/-- A tag failure: more than 16 in 1 ms take the link down with INTEGRITY (R356). -/
def State.tagFailure (s : State) (l : Nat) (x : Link) : State :=
  let times := s.now :: x.tagTimes.filter (fun t => decide (s.now < t + 100000))
  let s1 := s.modLink l fun y => { y with tagFail := satInc y.tagFail, tagTimes := times }
  if 16 < times.length then (s1.raiseEdge (576 + 4 * l + 1)).linkFall l 9 else s1

/-- Ask for a replay, unless a NAK is outstanding. -/
def State.sendNak (s : State) (l : Nat) : State :=
  match s.link? l with
  | none => s
  | some x => if x.nakOut || !x.up then s else (s.modLink l fun y => { y with nakOut := true }).sendCtl l true 0 0

/-- Receive buffers freed and not reported on some channel. -/
def Link.freedDue (x : Link) : Bool := (List.range 8).any fun v => decide (32 ≤ tgetD x.freed v 0 - tgetD x.freedRep v 0)

/-- A flit is accepted in order: E advances, its buffer is freed, a new key phase takes over (R352, R353, R361). -/
def Link.accept (x : Link) (f : Flit) : Link :=
  let new := f.kph != x.phaseRx
  { x with
    secRx := if new then x.secRx.map nextSecret else x.secRx, rekeyRx := x.rekeyRx && !new
    expSeq := x.expSeq + 1, nakOut := false, unrep := x.unrep + 1, freed := tset x.freed f.vc (tgetD x.freed f.vc 0 + 1), phaseRx := f.kph
    ctrRx := tset (if new then [] else x.ctrRx) f.vc (f.ctr + 1) }

/-- The receiver holds the key of a phase (R352): the current one, or the next one while the far end's direction is to rekey. -/
def Link.keyHeld (x : Link) (kph : Bool) : Bool := kph == x.phaseRx || x.rekeyRx

/-- The flit verifies: its tag, under a key that the receiver holds. -/
def Link.tagGood (x : Link) (f : Flit) : Bool := f.tagOk && x.keyHeld f.kph

/-- Symbols that FEC corrects in a codeword of 544 (R341), on a lane, counted over 1 ms (R363). -/
def Link.noteSyms (x : Link) (lane n now : Nat) : Link :=
  let w := tgetD x.symErr lane (now, 0)
  { x with
    fecCorr := BitVec.ofNat 32 (min (2 ^ 32 - 1) (x.fecCorr.toNat + n))
    symErr := tset x.symErr lane (if now < w.1 + usTicks 1000 then (w.1, w.2 + n) else (now, n)) }

/-- A lane's corrected symbols have passed 10^-5 of the 42.5 million that it carries in 1 ms (R341, R363). -/
def Link.noisy (x : Link) : Bool := x.symErr.any fun e => decide (425 < e.2.2)

/-- The block asks for a narrower width: half the lanes; a link that runs 2 asks for a retrain where a lane is lost (R362, R363; log entry 249). -/
def State.narrow (s : State) (l : Nat) (lost : Bool) : State :=
  match s.link? l with
  | some x =>
    if 2 < x.lanes then (s.modLink l fun y => { y with symErr := [] }).requestLink l 2 (x.lanes / 2)
    else if lost then s.requestLink l 1 0
    else s
  | none => s

/-- A data flit arrives. What FEC has corrected in it, on which lane, and whether an uncorrectable codeword comes of a lost lane are free values. -/
def State.dataFlit (s : State) (l : Nat) (x : Link) (f : Flit) : State :=
  let y := x.noteSyms (s.peek / 16 % max x.lanes 1) (s.peek % 16) s.now
  let lost := !f.fecOk && decide (s.peek / 128 % 2 = 1)
  let s0 := (s.drew 1).modLink l fun _ => y
  let s1 := if y.noisy || lost then s0.narrow l lost else s0
  if !f.fecOk then s1.sendNak l
  else if !x.tagGood f then (s1.tagFailure l x).sendNak l
  else if f.seq = x.expSeq then
    let s2 := s1.modLink l fun y => { y.accept f with unrepT := some (y.unrepT.getD s.now) }
    match s2.link? l with
    | some y => if decide (64 ≤ y.unrep) || y.freedDue then s2.sendCtl l false 0 0 else s2
    | none => s2
  else if (f.seq - x.expSeq).toNat < 32768 then s1.sendNak l
  else s1.modLink l fun y => { y with dup := true }

/-- DATA_FLIT_RECEIVED. -/
def execDataFlitReceived (l : Nat) (f : Flit) (s : State) : Result :=
  match s.link? l with
  | some x => if x.up then .next (s.dataFlit l x f).finish else .next s
  | none => .next s

/-- IDLE_FLIT_RECEIVED: discarded. -/
def execIdleFlitReceived (_l : Nat) (s : State) : Result := .next s

/-- TRAINING_FLIT_RECEIVED: a protocol error on a link that is up. -/
def execTrainingFlitReceived (l : Nat) (s : State) : Result :=
  .next (s.linkFall l 8).finish

/-! ## Replay, rekey, retrain, width (R312, R355, R356, R362 to R364) -/

/-- Every unacknowledged flit is sent again from the oldest, under its own key phase and counter; the fourth replay in a row from one flit asks for a
retrain. -/
def State.replay (s : State) (l : Nat) : State :=
  match s.link? l with
  | none => s
  | some x =>
    match x.flits with
    | [] => s
    | f :: _ =>
      let n := if x.replayAt = f.seq + 1 then x.replayN + 1 else 1
      let s1 := s.modLink l fun y => { y with replays := satInc y.replays, replayAt := f.seq + 1, replayN := n % 4, lastAck := s.now }
      let s2 := x.flits.foldl (fun a u => a.emit (.flit l u.vc u.seq u.fill u.kph u.ctr u.bytes)) s1
      if n = 4 then s2.requestLink l 1 0 else s2

/-- REPLAY_TIMEOUT: 8 us without an advance of ACK. -/
def execReplayTimeout (l : Nat) (s : State) : Result :=
  match s.link? l with
  | some x => if x.up && !x.flits.isEmpty && decide (x.lastAck + usTicks 8 ≤ s.now) then .next (s.replay l).finish else .next s
  | none => .next s

/-- The transmit direction gets its next secret and so its next key and salts; its counters restart. Flits sent under the old one are replayed with the
bytes that they had. -/
def Link.rekeyed (x : Link) : Link :=
  { x with phaseTx := !x.phaseTx, ctrTx := [], secTx := x.secTx.map nextSecret, req := x.req.filter (fun r => r.1 != 3) }

/-- The transmit direction of link `l` rekeys. -/
def State.rekeyTx (s : State) (l : Nat) : State := (s.modLink l fun x => if x.up then x.rekeyed else x).pumpLink l

/-- The far end's direction is to rekey: this end takes up the next key with the first flit of the new phase (R352). -/
def State.rekeyRx (s : State) (l : Nat) : State := s.modLink l fun x => if x.up then { x with rekeyRx := true } else x

/-- REKEY of the transmit direction, or of the far end's. -/
def execRekey (l : Nat) (tx : Bool) (s : State) : Result :=
  .next (if tx then s.rekeyTx l else s.rekeyRx l)

/-- Run link `l` on at most `w` lanes, never above its trained full width. -/
def State.setLanes (s : State) (l w : Nat) : State :=
  match s.link? l with
  | none => s
  | some x =>
    if x.up && (w == 2 || w == 4 || w == 8) && decide (w ≤ x.full) then ((s.modLink l fun y => { y with lanes := w }).almanac).pumpLink l else s

/-- WIDTH_CHANGE. -/
def execWidthChange (l lanes : Nat) (s : State) : Result := .next (s.setLanes l lanes)

/-- A retrain: step 1 of R346 again. It succeeds, and the transmitter replays from ACK + 1; the third failure in a row takes the link down. -/
def State.retrainLink (s : State) (l : Nat) (far : FarEnd) : State :=
  match s.link? l with
  | none => s
  | some x =>
    let lanes := lanesFor x.full (min far.lanes (x.goal.getD 8))
    if !x.up then s
    else if far.signal && far.phy && lanes != 0 then
      (((s.modLink l fun y => { y with lanes := lanes, retrainF := 0, waits := false, goal := none, req := none }).almanac).replay l).pumpLink l
    else if 2 ≤ x.retrainF then s.linkFall l 10
    else s.modLink l fun y => { y with retrainF := y.retrainF + 1, waits := true }

/-- RETRAIN. -/
def execRetrain (l : Nat) (far : FarEnd) (s : State) : Result :=
  .next (s.retrainLink l far).finish

/-! ## Control flits received (R355, R364) -/

/-- Carry out what two ends agreed: traffic waits for the RETRAIN, to at most `w` lanes (0: no limit); a width or rekey follows at once. -/
def State.agreed (s : State) (l kind w : Nat) : State :=
  match kind with
  | 1 => s.modLink l fun x => { x with waits := true, goal := if w = 0 then none else some w }
  | 2 => s.setLanes l w
  | _ => s

/-- The combined request of a leader and a follower. -/
def combineReq (a b : Nat × Nat) : Nat × Nat :=
  match a.1, b.1 with
  | 2, 2 => (2, min a.2 b.2)
  | 1, 2 => (1, b.2)
  | _, _ => a

/-- The far end's request. Of two that collide the follower abandons its own and accepts the leader's (R364). -/
def State.farRequest (s : State) (l : Nat) (f : CtlFlit) : State :=
  match s.link? l with
  | none => s
  | some x =>
    let accept (a : State) : State := a.modLink l fun y => { y with owed := y.owed ++ [(1, f.reqId)] }
    match f.reqKind with
    | 0 => s
    | 3 => (accept s).rekeyRx l
    | 4 => s.linkFall l 11
    | k =>
      if k ≤ 2 then
        let s1 := s.raiseEdge (576 + 4 * l + 2)
        match x.req with
        | some (ok, oa, id) =>
          if ok = 3 then (accept s1).agreed l k f.reqArg
          else if s.linkIdent l < x.peer.toNat then
            let c := combineReq (ok, oa) (k, f.reqArg)
            s1.modLink l fun y => { y with req := some (c.1, c.2, id) }
          else
            let c := combineReq (k, f.reqArg) (ok, oa)
            (accept (s1.modLink l fun y => { y with req := none, owed := y.owed ++ [(2, id)] })).agreed l c.1 c.2
        | none => (accept s1).agreed l k f.reqArg
      else s

/-- The far end's reply: an accept of this end's request. An abandon answers the far end's own request, which this end has combined with its own
already (R364; log entry 248). -/
def State.farReply (s : State) (l : Nat) (f : CtlFlit) : State :=
  match (s.link? l).bind (·.req) with
  | some (k, a, id) =>
    if f.reply ≠ 1 ∨ f.replyId ≠ id then s
    else
      let s1 := s.modLink l fun y => { y with req := none }
      if k = 3 then s1.rekeyTx l else s1.agreed l k a
  | none => s

/-- Credits come back: FREED counts modulo 2^16. -/
def Link.credits (x : Link) (freed : List Nat) : Link :=
  freed.zipIdx.foldl (fun y e =>
    let d := (e.1 + 65536 - tgetD y.farFreed e.2 0 % 65536) % 65536
    { y with used := tset y.used e.2 (tgetD y.used e.2 0 - d), farFreed := tset y.farFreed e.2 (e.1 % 65536) }) x

/-- ACK of a control flit: the flits it releases, or none where it lies outside the window. -/
def Link.ackCount (x : Link) (ack : BitVec 16) : Option Nat :=
  let d := (ack.toNat + 65536 + 1 - x.acked % 65536) % 65536
  if d ≤ x.flits.length then some d else none

/-- Release acknowledged flits. -/
def Link.release (x : Link) (d now : Nat) : Link :=
  let rest := x.flits.drop d
  { x with flits := rest, acked := x.acked + d, lastAck := if d = 0 then x.lastAck else now, spill := x.flits.length - d - 256 * x.full }

/-- A control flit arrives. -/
def State.ctlFlit (s : State) (l : Nat) (x : Link) (f : CtlFlit) : State :=
  if !(f.tagOk && x.keyHeld f.kph) then s.tagFailure l x
  else
    match if f.ackValid || f.nak then x.ackCount f.ack else some 0 with
    | none => s.linkFall l 8
    | some d =>
      let s1 := s.modLink l fun y => (y.release d s.now).credits f.freed
      let s2 := if f.nak then s1.replay l else s1
      let s3 := (s2.farReply l f).farRequest l f
      (((s3.link? l).elim [] (·.owed)).foldl (fun a _ => a.sendCtl l false 0 0) s3).pumpLink l

/-- CONTROL_FLIT_RECEIVED. -/
def execControlFlitReceived (l : Nat) (f : CtlFlit) (s : State) : Result :=
  match s.link? l with
  | some x => if x.up then .next (s.ctlFlit l x f).finish else .next s
  | none => .next s

/-- A report is due (R354): 64 flits accepted, 100 ns since the first of them, 32 buffers freed, a reply, or a duplicate. -/
def Link.reportDue (x : Link) (now : Nat) : Bool :=
  decide (64 ≤ x.unrep) || x.unrepT.any (fun t => decide (t + 10 ≤ now)) || x.freedDue || x.owed != [] || x.dup

/-- CONTROL_FLIT_SEND: what is due is reported. -/
def execControlFlitSend (l : Nat) (s : State) : Result :=
  match s.link? l with
  | some x =>
    if x.up && x.reportDue s.now then
      .next (s.sendCtl l false 0 0)
    else .next s
  | none => .next s

/-! ## The replay extension (R206, R303, R357) -/

/-- What the stack of link `l`'s replay extension holds: the link's oldest unacknowledged flits, those that its on-chip buffer has no place for, each
a sector under the internal key set with the physical sector address (R303): stack, address, ciphertext and sideband word. -/
def State.spilled (s : State) (l : Nat) : List (Nat × Nat × List Byte × Nat) :=
  match s.link? l, tget s.pool.replayAt (l % 16) with
  | some x, some k =>
    (x.flits.take x.spill).map fun u =>
      let at_ := Config.spillAt l u.seq
      let key := s.keySet .internal
      let text := key.cipher at_ u.bytes
      (k, at_, text, sideband (key.mac at_ 0 text) 0)
  | _, _ => []

/-! ## The command registers (R391) -/

/-- A write to a register of link `l` at `o`; a link of an unlicensed port ignores it (R345). -/
def State.onLink (s : State) (p : Path) (l o : Nat) (f : State → State) : Result :=
  s.onReg p (decide (l < 48)) (0x80000 + 256 * l + o) fun s => if s.linkLicensed l then f s else s

/-- LNK_CTRL_RETRAIN. -/
def execLnkCtrlRetrain (p : Path) (l : Nat) (s : State) : Result := s.onLink p l 8 fun s => s.requestLink l 1 0
/-- A request to change to the width of LNK_CTRL.WIDTH. -/
def State.widthGo (s : State) (l : Nat) : State :=
  match s.link? l with
  | some x => if 2 * 2 ^ x.width ≤ x.full then s.requestLink l 2 (2 * 2 ^ x.width) else s
  | none => s
/-- LNK_CTRL_WIDTH_GO. -/
def execLnkCtrlWidthGo (p : Path) (l : Nat) (s : State) : Result := s.onLink p l 8 fun s => s.widthGo l
/-- LNK_CTRL_REKEY: the transmit direction. -/
def execLnkCtrlRekey (p : Path) (l : Nat) (s : State) : Result := s.onLink p l 8 fun s => s.requestLink l 3 0
/-- LNK_CTRL_DOWN. -/
def execLnkCtrlDown (p : Path) (l : Nat) (s : State) : Result := s.onLink p l 8 fun s => s.linkFall l 11
/-- LNK_CFG[l].ENABLE is written. -/
def State.setEnable (s : State) (l : Nat) (on : Bool) : State :=
  let s1 := s.modLink l fun x => { x with enable := on, retry := none }
  if on then s1 else s1.linkFall l 11
/-- LNK_CFG_ENABLE_WRITE: clearing ENABLE takes the link down with COMMANDED. -/
def execLnkCfgEnableWrite (p : Path) (l : Nat) (on : Bool) (s : State) : Result := s.onLink p l 0 fun s => s.setEnable l on
/-- LNK_TOPO_LOCK. -/
def execLnkTopoLock (p : Path) (s : State) : Result := s.onBar0 p 0x84004 fun s => s.onLinks fun k => { k with lock := true }

end Sys2Proof.Machine
end

