-- ==== Sys2Proof/Machine/Messages.lean ====
section
/-!
DEFINITION. Link messages (spec/11): requests to pool memory through a binding (R371 to R374), policing (R386), sealed payloads (R377),
completions (R376), transit (R379 to R381), and remote dispatch (R387 to R390).
-/

namespace Sys2Proof.Machine

/-! ## Arrival (R369, R371) -/

/-- A message is sealed. -/
def msgSealed (m : Msg) : Bool := m.flags.getLsbD 1

/-- Tokens of a bucket in hundredths of a byte: `rate` MB/s fill `rate` of them each tick. -/
def refill (tokens rate burst since now : Nat) : Nat := min burst (tokens + rate * (now - since))

/-- A header that agrees with itself: UNITS with MTYPE, LEN and SEALED (R370, R371, R388). A reserved type carries LEN bytes or none. -/
def msgAgrees (m : Msg) : Bool :=
  let a := m.addr.toNat
  let shape := m.len % 32 == 0 && a % 32 == 0 && decide (32 ≤ m.len) && decide (a % 4096 + m.len ≤ 4096)
  let bare := m.units == b1 (msgSealed m) && m.data.isEmpty
  let carries := m.units == (m.len + 31) / 32 + b1 (msgSealed m) && m.data.length == m.len
  !m.bad && decide (m.units ≤ 130) &&
    (match m.mtype with
      | 0x01 => shape && bare
      | 0x02 => shape && carries
      | 0x08 => m.len % 32 == 0 && carries
      | 0x09 | 0x10 | 0x11 | 0x1A => bare
      | 0x18 => m.len == 64 && carries
      | 0x19 => m.len == 32 && carries
      | 0x20 => carries
      | _ => bare || carries)

/-- A strict request that enters on link `l` within 10 % of the link's rate, with a burst of 16 KiB (R373); what is above goes as bulk. -/
def State.strictBudget (s : State) (l : Nat) (x : Link) (m : Msg) : State × Bool :=
  let t := refill (16384 - x.strict) (50 * x.lanes) 16384 x.strictT s.now
  let n := 32 * (1 + m.units)
  if n ≤ t then (s.modLink l fun z => { z with strict := 16384 - (t - n), strictT := s.now }, true) else (s, false)

/-- A message that is not for this block goes on (R379, R381): an unroutable request of an attach link completes with LINK_DOWN, anything else
unroutable is dropped under R367. PATH_LOST to one of this node's attach links becomes a completion with LINK_DOWN. Its strict requests keep the
budget of the link that they enter on. -/
def State.transit (s : State) (l : Nat) (x : Link) (m : Msg) : State :=
  if m.mtype = 0x09 ∧ s.isHere m.dst = true then
    s.plainCpl 0 { m with src := m.dst, tag := m.addr.toNat % 65536, binding := m.addr.toNat / 65536 % 65536 } false .linkDown
  else
    let (s0, ok) := if m.flags.getLsbD 0 && !isCpl m.mtype then s.strictBudget l x m else (s, true)
    match s0.sendMsg 0 m (!ok) with
    | (s1, true) => s1
    | (s1, false) => s1.lostMsg m

/-- A message of type `ty` as link `l` takes it: on an attach link SRC is the link's own address (R369), and FEAST is clear, which only a block sets
(R368). -/
def State.taken (s : State) (l ty : Nat) (x : Link) (m : Msg) : Msg :=
  if x.attach then { m with mtype := ty, src := s.address l, flags := m.flags &&& 0xFB#8 } else { m with mtype := ty }

/-- A message arrives on link `l`: applied where it is addressed to this node, else in transit; a header that disagrees is a protocol error (R371). -/
def State.arrive (s : State) (l ty : Nat) (m : Msg) (f : State → Link → Msg → State) : Result :=
  match s.link? l with
  | none => .next s
  | some x =>
    let m1 := s.taken l ty x m
    if !x.up then .next s
    else if !msgAgrees m1 then .next (s.linkFall l 8).finish
    else if m1.dst = s.address 0xFF then .next (f s x m1).finish
    else .next (s.transit l x m1).finish

/-- MESSAGE_FORWARD. -/
def execMessageForward (l : Nat) (m : Msg) (s : State) : Result := s.arrive l m.mtype m fun s _ _ => s

/-! ## Checks of a request (R372, R373, R377, R386) -/

/-- The binding-table entry that a message names, with its SRC: a valid one, or one that its context's destruction has ended. -/
def State.bindingAt (s : State) (m : Msg) : Option Binding :=
  (tget s.links.binds m.binding).filter fun b => (b.valid || b.ended) && b.src.toNat == m.src

/-- The first two checks: the binding, and its context; a binding whose context has been destroyed fails the second. -/
def State.bindingOf (s : State) (m : Msg) : Except Status (Nat × Ctx × Binding) :=
  match s.bindingAt m with
  | none => .error .denied
  | some b =>
    match (s.findCtx b.ctx).filter (fun e => b.valid && e.2.state == .active) with
    | none => .error .badHandle
    | some (c, x) => .ok (c, x, b)

/-- Pay 32 (1 + UNITS) tokens from the buckets of link and slice; none where either cannot pay (R386). -/
def State.police (s : State) (l k : Nat) (m : Msg) : Option State :=
  match s.link? l, s.slice? k with
  | some x, some y =>
    let f := tgetD x.flows k Flow.default
    let cost := 3200 * (1 + m.units)
    let a := refill f.tokens f.rate (102400 * f.burst) f.time s.now
    let b := refill y.tokens y.linkBw 6553600 y.tokTime s.now
    if (f.rate ≠ 0 ∧ a < cost) ∨ (y.linkBw ≠ 0 ∧ b < cost) then none
    else
      let f1 : Flow := { f with tokens := if f.rate = 0 then f.tokens else a - cost, time := s.now }
      some ((s.modLink l fun z => { z with flows := tset z.flows k f1 }).modSlice k fun z =>
        { z with tokens := if y.linkBw = 0 then z.tokens else b - cost, tokTime := s.now })
  | _, _ => some s

/-- The request is served in the strict class (R373): its flag, the flag of its binding, and the link's budget. -/
def State.strictNow (s : State) (l : Nat) (x : Link) (m : Msg) : State × Bool :=
  if m.flags.getLsbD 0 && (s.bindingAt m).any (·.strict) then s.strictBudget l x m else (s, false)

/-- A seal counter that is new, or at most 1,024 below the highest and not seen; `rxTop` is one above the highest (R377). -/
def Seal.fresh (k : Seal) (n : Nat) : Bool := decide (k.rxTop ≤ n) || (decide (k.rxTop ≤ n + 1 + 1024) && !k.seen.contains n)

/-- Take note of an accepted seal counter. -/
def Seal.note (k : Seal) (n : Nat) : Seal :=
  let top := max k.rxTop (n + 1)
  { k with rxTop := top, seen := (n :: k.seen).filter (fun i => decide (top ≤ i + 1 + 1024)) }

/-- Verify the seal of a message for context `c`, under the key of its endpoint: the tag, and the counter, which is then taken. The message has its data
in the clear after it. -/
def State.unseal (s : State) (c : Nat) (m : Msg) : Except Status (State × Msg) :=
  match s.ensureSeal c m.src with
  | none => .error (s.sealLack m.src)
  | some s1 =>
    match s1.sen.seals.find? (fun k => k.isFor c m.src) with
    | none => .error (s.sealLack m.src)
    | some k =>
      let r := k.unlock m
      if r.1 == m.sealTag && k.fresh m.sealCtr then
        .ok (s1.onSen fun x => { x with seals := x.seals.map fun y => if y.isFor c m.src then y.note m.sealCtr else y }, { m with data := r.2 })
      else .error .integrity

/-- A failed access of an attach-port request (R372, R495). -/
def State.portFault (s : State) (c l : Nat) (e : AccErr) : State := s.faultCtx c (e.portRegs 5 l)

/-- The completion of a request for context `c`; the data of a sealed request's completion travel sealed (R377). -/
def State.cplFor (s : State) (c : Nat) (m : Msg) (strict : Bool) (st : Status) (data : List Byte) : State :=
  let k := s.sliceOf c
  let r := { s.newMsg 0x08 m.src m.binding m.tag (BitVec.ofNat 64 st.code) with
    flags := BitVec.ofNat 8 (b1 strict + 2 * b1 (msgSealed m)), units := data.length / 32 + b1 (msgSealed m), len := data.length, data := data }
  if data = [] then s.plainCpl k m strict st
  else
    match if msgSealed m then s.takeSeal c m.src r else .ok (s, r) with
    | .ok (s1, r1) => ((s1.linkBytes c data.length).sendMsg k r1).1
    | .error e => s.plainCpl k m strict e

/-- The fifth check of R372 for a message of context `c`: a confidential context takes it only sealed (R319), and a seal verifies. With the status, the
context faults where the seal is missing. -/
def State.sealCheck (s : State) (c : Nat) (m : Msg) : Except (Status × Bool) (State × Msg) :=
  if msgSealed m then (s.unseal c m).mapError fun e => (e, false)
  else if s.confSlice (s.sliceOf c) then .error (.denied, true)
  else .ok (s, m)

/-- The course of a request that has a completion: the first five checks of R372 in their order, then what it does, for its context, its class and the
message in the clear. -/
def State.request (s : State) (l : Nat) (x : Link) (m : Msg) (act : State → Nat → Bool → Msg → State) : State :=
  match s.strictNow l x m with
  | (s0, strict) =>
    match s0.bindingOf m with
    | .error st => s0.plainCpl 0 m strict st
    | .ok (c, y, _) =>
      if !(s0.slice? y.slice).all (fun k => k.state == .active) then s0.plainCpl y.slice m strict .busy
      else
        match s0.police l y.slice m with
        | none => s0.plainCpl y.slice m strict .busy
        | some s1 =>
          match s1.sealCheck c m with
          | .error (st, missing) => (if missing then s1.portFault c l (accDike m.addr.toNat) else s1).plainCpl y.slice m strict st
          | .ok (s2, m2) => act s2 c strict m2

/-- MEM_RD and MEM_WR: a request whose access runs where the interface of a confidential slice is in RUN (R316). -/
def State.memRequest (s : State) (l : Nat) (x : Link) (m : Msg) (access : State → Nat → Msg → State × Except AccErr (List Byte)) : State :=
  s.request l x m fun a c strict m2 =>
    let k := a.sliceOf c
    match if a.confSlice k && (a.tdi k).state != 3 then (a, .error (accDike m.addr.toNat)) else access a c m2 with
    | (a1, .ok d) => a1.cplFor c m strict .ok d
    | (a1, .error e) => (a1.portFault c l e).plainCpl k m strict (if e.cls = 3 then .integrity else .denied)

/-- MEM_RD. -/
def execMemRd (l : Nat) (m : Msg) (s : State) : Result :=
  s.arrive l 0x01 m fun s x m => s.memRequest l x m fun a c m => a.readCtx c (.edge (l % 16)) m.addr.toNat m.len

/-- MEM_WR. -/
def execMemWr (l : Nat) (m : Msg) (s : State) : Result :=
  s.arrive l 0x02 m fun s x m => s.memRequest l x m fun a c m =>
    if !a.writable c m.addr.toNat m.len then (a, .error (accDike m.addr.toNat))
    else
      match a.writeCtx c (.edge (l % 16)) none m.addr.toNat m.data with
      | (a1, .ok ()) => (a1.linkBytes c m.len, .ok [])
      | (a1, .error e) => (a1, .error e)

/-- DOORBELL: a queue of the binding's context, else counted (R374). It has no completion: one that fails a check of R372 is ignored and counted; a
missing seal faults the context. While the slice is quiesced it still advances TAIL (R285 step 1; log entry 221). -/
def execDoorbell (l : Nat) (m : Msg) (s : State) : Result :=
  s.arrive l 0x10 m fun s _ m =>
    let ignore (a : State) : State := a.modLink l fun y => { y with ignored := min 131071 (y.ignored + 1) }
    match s.bindingOf m with
    | .error _ => ignore s
    | .ok (c, _, _) =>
      match s.sealCheck c m with
      | .error (_, missing) => ignore (if missing then s.portFault c l (accDike m.addr.toNat) else s)
      | .ok (s1, _) =>
        match (s1.findQueue (BitVec.ofNat 32 m.addr.toNat)).filter (fun e => e.2.ctx == c) with
        | some (q, _) => s1.doorbell q (BitVec.ofNat 32 (m.addr.toNat / 2 ^ 32))
        | none => ignore s1

/-- RESERVED_MTYPE: answered with BAD_PARAM (R370). -/
def execReservedMtype (l : Nat) (m : Msg) (s : State) : Result :=
  s.arrive l m.mtype m fun s x m => match s.strictNow l x m with | (s0, strict) => s0.plainCpl 0 m strict .badParam

/-- SECURED: a message of the seal session with the endpoint that sends it; the responder tells firmware (R314, R418). -/
def execSecured (l : Nat) (m : Msg) (s : State) : Result :=
  s.arrive l 0x20 m fun s _ m => if s.sealSession m.src then s.raiseEdge 42 else s

/-! ## Completions of this block's own requests (R376, R367) -/

/-- The work packet of the result store with a tag on link `l`. -/
def State.storeOf (s : State) (l tag : Nat) : Option DWord := (s.link? l).bind fun x => (tget x.rstores tag).map (·.1)

/-- A result store has ended. -/
def State.storeEnds (s : State) (l tag : Nat) (ref : DWord) (st : Status) : State :=
  let s1 := (s.modLink l fun x => { x with rstores := tdel x.rstores tag }).modDisp ref fun d => { d with stores := d.stores - 1 }
  if st = .ok then s1 else s1.linkFault ref l 5 st

/-- CPL: of a result store on its link; any other is of no consequence. -/
def execCpl (l : Nat) (m : Msg) (s : State) : Result :=
  s.arrive l 0x08 m fun s _ m => match s.storeOf l m.tag with
    | some ref => s.storeEnds l m.tag ref (Status.ofCode (m.addr.toNat % 65536))
    | none => s

/-- RESULT_STORE_TIMEOUT: a store of the work packet has waited for the link's RDISP timeout. -/
def execResultStoreTimeout (disp : DWord) (s : State) : Result :=
  let late := s.links.tab.findSome? fun e =>
    (e.2.rstores.find? (fun r => r.2.1 == disp && decide (r.2.2 + usTicks (1000 * e.2.rdto) ≤ s.now))).map fun r => (e.1, r.1)
  match late with
  | some (l, tag) => .next (s.storeEnds l tag disp .timeout).finish
  | none => .next s

/-- PATH_LOST: to the block, it ends a result store of its link; else it goes on (R367). -/
def execPathLost (l : Nat) (m : Msg) (s : State) : Result :=
  s.arrive l 0x09 m fun s _ m => match s.storeOf l (m.addr.toNat % 65536) with
    | some ref => s.storeEnds l (m.addr.toNat % 65536) ref .linkDown
    | none => s

/-! ## Remote dispatch (R387 to R390) -/

/-- DISPATCH_REMOTE's checks (R92, R387). -/
def opDispatchRemote (h : Hdr) (a : RemoteArgs) (s : State) (c : Nat) (n : Word) : Except Status (State × Disp) := do
  let g ← want (s.findMo c a.arg) .badHandle
  let r ← want (s.findMo c a.result) .badHandle
  check s.brg.lRemote .notLicensed
  check ((s.link? a.link).any (fun x => x.up && x.rdisp)) .badParam
  check (a.argLen ≤ g.2.len) .badParam
  check (r.2.flags.getLsbD 1) .denied
  let _ ← want (s.bindOn a.link (s.ctxHandle c)) .badState
  check (!s.confSlice (s.sliceOf c) || s.sealSession (s.address a.link)) .badState
  let s1 ← s.notify h c a.cookie
  return (s1, { s.blankDisp h c n (.remote a) with moRefs := [g.1, r.1] })

/-- DISPATCH_REMOTE (0x41). -/
def execDispatchRemote (h : Hdr) (a : RemoteArgs) (s : State) : Result :=
  s.packet (.dispatchRemote h a) (dispatchRemoteInfo a) h fun s c n => acceptOr s (opDispatchRemote h a s c n)

/-- The body of RDISP (R388). -/
def State.rdispBody (s : State) (d : Disp) (a : RemoteArgs) (b : Nat) (conf : Bool) : List Byte :=
  let at_ (h : Handle) : Nat × Nat := match s.mo? (hSlot h) with | some m => (m.base, m.len) | none => (0, 0)
  leBytes 8 a.func.toNat ++ leBytes 8 d.ref.toNat ++ leBytes 8 (at_ a.arg).1 ++ leBytes 8 a.argLen ++ leBytes 8 (at_ a.result).1 ++
    leBytes 8 (at_ a.result).2 ++ leBytes 2 b ++ leBytes 1 (b1 conf) ++ leBytes 13 0

/-- Send held remote dispatch `d` in slot `k` of link `l`. One that needs a seal and cannot have it waits for randomness (R293), and else faults with what
it lacks (R314, R319; log entry 254). -/
def State.sendRdisp (s : State) (l k : Nat) (d : Disp) (a : RemoteArgs) : State :=
  match s.bindOn l (s.ctxHandle d.ctx) with
  | none => s.linkFault d.ref l 5 .linkDown
  | some (b, e) =>
    let conf := s.confSlice (s.sliceOf d.ctx)
    let m := { s.newMsg 0x18 e.src.toNat b k 0 with
      flags := BitVec.ofNat 8 (2 * b1 conf + 4 * b1 (d.cls == 1)), units := 2 + b1 conf, len := 64, data := s.rdispBody d a b conf }
    match if conf then s.takeSeal d.ctx e.src.toNat m else .ok (s, m) with
    | .error .busy => s
    | .error st => s.linkFault d.ref l 5 st
    | .ok (s1, m1) =>
      let s2 := (s1.modLink l fun x => { x with slots := tset x.slots k (d.ref, s.now) }).modDisp d.ref fun y =>
        { y with state := .running, started := true }
      ((s2.linkBytes d.ctx 64).sendMsg (s.sliceOf d.ctx) m1).1

/-- The oldest held remote dispatch of link `l` (R387). -/
def State.heldRemote (s : State) (l : Nat) : Option Disp :=
  let held := s.sched.disps.filter (fun d => d.state == .pending && !d.quiesced && (match d.work with | .remote a => a.link == l | _ => false))
  (sortBy (fun a b => decide (a.order < b.order)) held).head?

/-- RDISP_SEND: the oldest held remote dispatch of link `l` takes a free slot of its 256. -/
def execRdispSend (l : Nat) (s : State) : Result :=
  match s.link? l with
  | none => .next s
  | some x =>
    match s.heldRemote l, (List.range 256).find? (fun k => !thas x.slots k) with
    | some d, some k =>
      (match d.work with
        | .remote a => if x.up then .next (s.sendRdisp l k d a).finish else .next s
        | _ => .next s)
    | _, _ => .next s

/-- A remote-dispatch slot is free again. -/
def State.freeRdisp (s : State) (l k : Nat) : State := s.modLink l fun x => { x with slots := tdel x.slots k }

/-- RDISP_DONE: the checks of R372, then TAG names the slot; its body's first two bytes are the status (R388, R389). -/
def execRdispDone (l : Nat) (m : Msg) (s : State) : Result :=
  s.arrive l 0x19 m fun s x m => s.request l x m fun a c strict m2 =>
    match (tget x.slots m.tag).bind (fun e => (a.disp? e.1).filter (fun d => d.ctx == c)) with
    | none => a.plainCpl (a.sliceOf c) m strict .badHandle
    | some d =>
      let a1 := ((a.linkBytes c 32).freeRdisp l m.tag).plainCpl (a.sliceOf c) m strict .ok
      let n := leNat (m2.data.take 2)
      if n = 0 then a1.endDisp d none else a1.linkFault d.ref l 6 (Status.ofCode n)

/-- RDISP_TIMEOUT: no RDISP_DONE within LNK_RDTO, the time of a quiesce not counted. -/
def execRdispTimeout (l slot : Nat) (s : State) : Result :=
  match s.link? l with
  | none => .next s
  | some x =>
    match tget x.slots slot with
    | none => .next s
    | some (ref, t) =>
      let held := (s.disp? ref).any (fun d => (s.slice? (s.sliceOf d.ctx)).any (fun k => k.state != .active))
      if held || decide (s.now < t + usTicks (1000 * x.rdto)) then .next s
      else .next ((s.raiseEdge (576 + 4 * l + 3)).linkFault ref l 6 .timeout).finish

end Sys2Proof.Machine
end

