-- ==== Sys2Proof/Machine/Security.lean ====
section
/-!
DEFINITION. The security engine's commands (spec/10): key rotation and sweeps (R304 to R307), attestation (R323 to R326), entropy (R293),
debug (R334, R335), SPDM sessions (R294, R331), and the interfaces of confidential slices (R315 to R321, R400 to R402).
-/

namespace Sys2Proof.Machine

/-! ## Key rotation (R304 to R307) -/

/-- The key set of the next season is installed in every ICU and becomes current; the sweep of the old one begins (R304). -/
def State.rotate (s : State) (c : Nat) : State :=
  let n := (s.ctx? c).elim 0 (·.season) + 1
  ((s.installKey (.ctx c n)).modCtx c fun x => { x with season := n, prevLive := true, sweep := .running, lastRot := s.now }).raiseEdge 41

/-- KEY_ROTATE's checks and effect; the reply carries the new season index. -/
def opKeyRotate (target : Handle) (s : State) (c : Nat) : Except Status (State × List Nat) := do
  let x ← want (s.findCtxIn (s.sliceOf c) target) .badHandle
  check (x.2.sweep != .running && x.2.sweep != .paused) .busy
  check (x.2.state == .active && x.2.season < 2 ^ 32 - 1) .badState
  return (s.rotate x.1, leNats 8 ((x.2.season + 1) % 16))

/-- KEY_ROTATE (0xC0). -/
def execKeyRotate (h : Hdr) (target : Handle) (s : State) : Result :=
  s.packet (.keyRotate h target) (keyRotateInfo target) h fun s c _ => answerOf s (opKeyRotate target s c)

/-- AUTO_KEY_ROTATE: KEY_POLICY's interval has passed since the last rotation began, and no sweep runs; not while the slice is quiesced (R306). -/
def execAutoKeyRotate (c : Nat) (s : State) : Result :=
  match s.ctx? c with
  | none => .next s
  | some x =>
    let live := (s.slice? x.slice).all (fun l => l.state == .active)
    if x.state == .active && x.sweep == .none && x.keyIval != 0 && live && decide (x.lastRot + x.keyIval ≤ s.now) &&
        decide (x.season < 2 ^ 32 - 1) then .next (s.rotate c)
    else .next s

/-- The sectors of context `c`'s bound frames that the previous season still tags. -/
def State.oldSectors (s : State) (c : Nat) (x : Ctx) : List Nat :=
  let fs := (s.pool.frames.filter (fun e => e.2.owner == some c && e.2.st.home.isSome)).map (·.1)
  fs.flatMap fun k => ((List.range 256).map (256 * k + ·)).filter fun i =>
    (tget s.pool.tags i).any (fun t => t.season + 1 == x.season)

/-- The sweep has walked every bound frame (R305): sectors are under the current season, the old key set is destroyed. A MAC failure faults
the context and stops the sweep (R307). -/
def State.endSweep (s : State) (c : Nat) (x : Ctx) : State :=
  let old := s.oldSectors c x
  match old.find? s.pool.bad.contains with
  | some i =>
    let k := ((s.frame? (i / 256)).bind (·.st.home)).getD 0
    let s1 := (s.onSen fun y => { y with integ := satInc y.integ }).raiseEdge (768 + 8 * k + 4)
    s1.faultCtx c (accInteg (((tget s.pool.tags i).elim 0 (·.cva)) * 256) (i / 256) (some k)).regs
  | none =>
    let s1 := s.onPool fun p => { p with tags := old.foldl (fun t i => tmod t i fun y => { y with season := x.season }) p.tags }
    let s2 := (s1.modCtx c fun y => { y with sweep := .none, prevLive := false }).destroyKeys (· == .ctx c (x.season - 1))
    ((tkeys s2.pool.stks (·.inSvc)).foldl (fun a k => a.raiseEdge (768 + 8 * k + 3)) s2).raiseEdge 41

/-- A closed sluice stops the sweep of a stack that holds the context's frames (R229). -/
def State.sweepHeld (s : State) (c : Nat) : Bool :=
  s.pool.frames.any fun e => e.2.owner == some c && e.2.st.home.any (fun k => !s.sluiceOpen k)

/-- SWEEP_COMPLETE. -/
def execSweepComplete (c : Nat) (s : State) : Result :=
  match s.ctx? c with
  | none => .next s
  | some x => if x.sweep = .running ∧ s.sweepHeld c = false then .next (s.endSweep c x).finish else .next s

/-! ## Attestation (R323 to R326) -/

/-- STATE of a link as LINK_PORT and PEERS show it (R325). -/
def State.peerState (s : State) (l : Nat) (x : Link) : Nat :=
  if !s.linkExists l || decide (s.brg.lPorts ≤ l % 16) then 0 else if x.up then 2 else 1

/-- The link peer table. -/
def State.peerTable (s : State) : List Byte :=
  (List.range 48).flatMap fun l =>
    let x := (s.link? l).getD (Link.reset 0)
    leBytes 1 l ++ leBytes 1 (s.peerState l x) ++ leBytes 6 0 ++ leBytes 48 (if x.up then x.certDig else 0)

/-- CERT_LEN: without a certificate that the SEN has accepted there is none to report (R291; log entry 222). -/
def State.certLen (s : State) : Nat := if s.sen.certOk then Config.certLen else 0

/-- The identity chain of a length, padded to a multiple of 8. -/
def certBytes (len : Nat) : List Byte := (List.range ((len + 7) / 8 * 8)).map fun i => if i < len then Config.certByte i else 0

/-- TOTAL_LEN of a report. -/
def reportLen (cert log : Nat) : Nat := 384 + (cert + 7) / 8 * 8 + 2688 + 64 * log + 96

/-- A signature with the identity key, under the next draw. -/
def State.signs (s : State) (text : List Byte) : List Byte := signText s.sen.fused.idKey s.peek text

/-- Everything before the signature of slice `l`'s report. -/
def State.reportBody (s : State) (l : Nat) (x : Slice) (nonce : List Byte) : List Byte :=
  let b := s.brg
  let flags := b1 x.conf + 2 * b1 b.unpaired + 4 * b1 b.golden + 8 * b1 b.legacy + 16 * b1 s.sen.dbg.was
  leBytes 4 0x52545441 ++ leBytes 2 0x0100 ++ leBytes 2 384 ++ leBytes 4 (reportLen s.certLen x.log.length) ++ leBytes 4 (s.sliceHandle l).toNat ++
    nonce.take 32 ++ leBytes 8 (x.reports + 1) ++ leBytes 2 b.stepping ++ leBytes 1 s.sen.sec ++ leBytes 1 flags ++
    leBytes 4 b.romVer.toNat ++ leBytes 4 b.fwSvn ++ leBytes 4 x.log.length ++ leBytes 4 x.dropped ++ leBytes 4 s.certLen ++
    leBytes 48 b.fwDig ++ leBytes 48 b.ucDig ++ leBytes 48 b.mmcDig ++ leBytes 48 b.lDig ++ leBytes 48 x.mr ++ leBytes 48 x.mrBase ++
    leBytes 16 0 ++ certBytes s.certLen ++ s.peerTable ++ x.log.flatMap MrEntry.bytes

/-- ATTEST_REPORT of the context's slice; a signature needs a fresh secret number, so there is none while the entropy source fails (R293). -/
def opAttestReport (obj : Handle) (nonce : List Byte) (s : State) (c : Nat) : State × Ans :=
  match s.findMo c obj, s.slice? (s.sliceOf c) with
  | none, _ => (s, .bad .badHandle [])
  | _, none => (s, .bad .badState [])
  | some (_, m), some x =>
    let n := reportLen s.certLen x.log.length
    if m.len < n ∨ m.flags.getLsbD 1 = false then (s, .bad .badParam (leNats 4 n))
    else if s.sen.entropy then (s, .bad .busy (leNats 4 n))
    else
      match m.destOk 0 n with
      | .error st => (s, .bad st [])
      | .ok () =>
        let body := s.reportBody (s.sliceOf c) x nonce
        match ((s.drew 1).asked 1).putResult c m 0 (body ++ s.signs body) (leNats 4 n) with
        | (s1, .ok r) => (s1.modSlice (s.sliceOf c) fun y => { y with reports := y.reports + 1 }, .ok r)
        | r => r

/-- ATTEST_REPORT (0xC2). -/
def execAttestReport (h : Hdr) (obj : Handle) (nonce : List Byte) (s : State) : Result :=
  s.packet (.attestReport h obj nonce) (attestReportInfo obj nonce) h fun s c _ => opAttestReport obj nonce s c

/-- SEN_STATE as a word (R340). -/
def State.senState (s : State) : Nat :=
  let x := s.sen
  x.sec + 4 * b1 x.dbg.unlocked + 8 * b1 x.dbg.trace + 16 * b1 x.unpaired + 32 * b1 x.legacy + 64 * b1 x.entropy +
    65536 * (s.slices.tab.filter (·.2.conf)).length

/-! ## Entropy and debug -/

/-- ENTROPY_HEALTH_FAIL: operations that need randomness are refused from now on. -/
def execEntropyHealthFail (s : State) : Result := .next ((s.onSen fun x => { x with entropy := true }).raiseEdge 40)
/-- ENTROPY_RECOVER. -/
def execEntropyRecover (s : State) : Result := .next ((s.onSen fun x => { x with entropy := false }).raiseEdge 40)

/-- A valid debug token (R334), signed by the debug authority or by a live management slot. -/
def State.tokenOk (s : State) (t : Token) : Bool :=
  s.sen.sec == 0 && t.magic == 0x4B544244 && t.version == 1 && !t.rsvd && decide (t.scope.toNat < 16) && t.device == s.sen.device &&
    t.challenge == s.sen.dbg.challenge && decide (1 ≤ t.lifetime) && decide (t.lifetime ≤ 86400) && t.sigOk &&
    (t.signer == s.sen.fused.dbgDig || (List.range 4).any (fun k =>
      s.sen.burnt.getLsbD k && !s.sen.revoked.getLsbD k && tget s.sen.digests k == some t.signer))

/-- DEBUG_TOKEN_LOAD: a valid token unlocks; DBG_CHALLENGE is replaced either way. While the entropy source fails there is no new challenge, so the
load is refused and changes nothing else (R293; log entry 223). Where the scope covers trace, whether it runs and what it has recorded are free
(log entry 231). -/
def execDebugTokenLoad (t : Token) (s : State) : Result :=
  let next (d : Debug) : Debug := { d with challenge := BitVec.ofNat 64 s.peek }
  let trace := t.scope.getLsbD 1 && decide (Config.free (s.free + 1) % 2 = 1)
  if s.sen.entropy then .next (s.onSen fun x => { x with dbg := { x.dbg with refused := true } })
  else .next (((s.drew 10).asked 1).onSen fun x =>
    { x with dbg := if s.tokenOk t then
        { next x.dbg with unlocked := true, scope := t.scope, expiry := s.now + 100000000 * t.lifetime, refused := false, was := true
                          trace := trace, buf := if trace then (s.drew 2).freeBytes 8 else [] }
      else { next x.dbg with refused := true } })

/-- DBG_CTRL_CLOSE: the debugger's close command. -/
def execDbgCtrlClose (s : State) : Result := .next (s.onSen fun x => { x with dbg := if x.dbg.unlocked then x.dbg.close else x.dbg })

/-- DEBUG_LIFETIME_EXPIRY. -/
def execDebugLifetimeExpiry (s : State) : Result :=
  .next (s.onSen fun x => { x with dbg := if x.dbg.unlocked && decide (x.dbg.expiry ≤ s.now) then x.dbg.close else x.dbg })

/-! ## SPDM sessions (R294, R331, R414) -/

/-- Management slot `k` is burnt and not revoked (R330). -/
def State.liveSlot (s : State) (k : Nat) : Bool := s.sen.burnt.getLsbD k && !s.sen.revoked.getLsbD k

/-- The live slots. -/
def State.liveSlots (s : State) : List Nat := (List.range 4).filter s.liveSlot

/-- The sessions open at a place: each host port, the links together, the management port. -/
def State.openAt (s : State) (w : SessWhere) : Nat :=
  (s.sen.sessions.filter (fun k => match w, k.at_ with
    | .hostPort p, .hostPort q => p == q
    | .link _, .link _ => true
    | .mgmt, .mgmt => true
    | _, _ => false)).length

/-- The limit of sessions at a place (R294). -/
def sessLimit : SessWhere → Nat | .hostPort _ => 8 | .link _ => 16 | .mgmt => 4

/-- What an SPDM message is answered with; session n is written n + 1, no session 0. -/
def State.spdm (s : State) (sess : Option Nat) (r : Option (List Nat)) : State := s.emit (.spdm (sess.elim 0 (· + 1)) r.isSome (r.getD []))

/-- A request that needs fresh randomness is refused with BUSY (R293). -/
def State.spdmBusy (s : State) (sess : Option Nat) : State := s.emit (.spdm (sess.elim 0 (· + 1)) false (leNats 2 Status.busy.code))

/-- The session may be opened, which takes an accepted identity certificate of the block's own (R291, R322): on the management port it is a claim session
while no slot is burnt, else the requester's leaf is a credential of the bundle, and its chain reaches a live slot; a link endpoint's chain must reach a
trusted root (R310, R314, R330, R331, R414). -/
def State.sessOk (s : State) (w : SessWhere) (slice : Option Nat) (selfRooted : Bool) (leaf root : Nat) (chainOk : Bool) : Bool :=
  decide (s.openAt w < sessLimit w) && s.sen.certOk &&
    (match w with
      | .mgmt =>
        if s.sen.burnt = 0 then selfRooted && chainOk
        else s.sen.credOk && chainOk && s.sen.creds.any (fun k => k.digest == leaf) && s.liveSlots.any (fun k => tget s.sen.digests k == some root)
      | .link _ => chainOk && s.trusts root
      | .hostPort p => slice.all (fun l => (s.slice? l).any (fun x => x.conf && x.port == p)))

/-- Bring-up has stopped at stage 1: the MMC's firmware failed, and it serves MCTP control and an update of its own firmware only (R441). -/
def State.mmcFailed (s : State) : Bool := s.brg.stage == 1 && s.brg.fail

/-- The SPDM responder is reached at a place that the block has: not on the management port in a cold reset, before it has an address (R411) or without
MMC firmware (R441), and not on a host port before READY, where a configuration request gets Request Retry Status (R456). -/
def State.spdmAt (s : State) (w : SessWhere) (f : State → State) : Result :=
  .next <| match w with
    | .mgmt => if s.mmcFailed || s.brg.stage == 0 || s.mmc.addr.isNone then s else f s
    | .hostPort p => if 4 ≤ p then s else if s.brg.ready then f s else s.emit (.retryStatus p)
    | .link _ => if w.wf then f s else s

/-- KEY_EXCHANGE: the secret of an ephemeral key and the requester's share, and the block's proof of identity in the same exchange (R322). The response is
the block's share and its signature of the transcript, whose bytes are the standard's: a free value (log entry 4). -/
def execKeyExchange (w : SessWhere) (slice : Option Handle) (share : Nat × Nat) (selfRooted : Bool) (leaf rootDigest : Nat) (chainOk : Bool)
    (s : State) : Result :=
  s.spdmAt w fun s =>
    if s.sen.entropy then s.spdmBusy none
    else
      let l := (slice.bind s.findSlice).map (·.1)
      if (slice.isSome && l.isNone) || !s.sessOk w l selfRooted leaf rootDigest chainOk then s.spdm none none
      else
        let own := publicKey s.ephemeral
        let k : Sess := { id := s.sen.nextSess, at_ := w, slice := if w == .mgmt then none else l, claim := w == .mgmt && s.sen.burnt == 0
                          root := rootDigest, leaf := leaf, secret := spdmSecret (ecdh s.ephemeral share) s.transcript, updates := 0, beat := s.now }
        ((((s.drew 3).asked 2).onSen fun x => { x with sessions := x.sessions ++ [k], nextSess := x.nextSess + 1 }).spdm (some k.id)
          (some ((beBytes 48 own.1 ++ beBytes 48 own.2 ++ (s.drew 2).signs s.transcript).map (·.toNat))))

/-- End session `k`; its seal keys go with it (R314). -/
def State.endSession (s : State) (k : Nat) : State :=
  match s.sen.sessions.find? (fun x => x.id == k) with
  | none => s
  | some x =>
    let s1 := s.endSessions (fun y => y.id == k)
    match x.at_ with
    | .link _ => s1.dropSeals (fun z => z.sess == k)
    | _ => s1

/-- SESSION_END. -/
def execSessionEnd (sess : Nat) (s : State) : Result := .next (s.endSession sess)

/-! ## The SPDM responder (R322, R323, R401) -/

/-- The indexes of the measurement blocks that a session may see: 16 for a host-port session that is bound to the slice's interface (R323). -/
def State.measured (s : State) (k : Option Sess) : List Nat :=
  [1, 2, 3, 4, 5, 6, 7] ++ (if k.any (fun x => x.slice.any fun l => (s.slice? l).any fun y => x.at_ == .hostPort y.port) then [16] else [])

/-- The content of a measurement block (R323). -/
def State.measurement (s : State) (k : Option Sess) (i : Nat) : List Byte :=
  let b := s.brg
  match i with
  | 1 => leBytes 4 b.romVer.toNat ++ leBytes 2 b.stepping
  | 2 => leBytes 48 b.fwDig
  | 3 => leBytes 48 b.ucDig
  | 4 => leBytes 48 b.mmcDig
  | 5 => leBytes 48 b.lDig
  | 6 => leBytes 4 s.senState ++ leBytes 4 s.sen.svn ++ leBytes 1 s.sen.burnt.toNat ++ leBytes 1 s.sen.revoked.toNat
  | 7 => s.peerTable
  | _ => match (k.bind (·.slice)).bind s.slice? with | some x => leBytes 48 x.mr ++ leBytes 4 x.log.length | none => []

/-- The DMTF type of a block's value: a digest of firmware (1) or of configuration (3), or raw bits (128) of ROM, hardware or configuration (log
entry 256). -/
def measureType (i : Nat) : Nat := match i with | 1 => 0x80 | 2 | 3 | 4 => 0x01 | 5 => 0x03 | 7 => 0x82 | _ => 0x83

/-- A block in the DMTF measurement block format (R323). -/
def State.measureBlock (s : State) (k : Option Sess) (i : Nat) : List Byte :=
  let v := s.measurement k i
  leBytes 1 i ++ leBytes 1 1 ++ leBytes 2 (3 + v.length) ++ leBytes 1 (measureType i) ++ leBytes 2 v.length ++ v

/-- The identity chain that slot 0 holds. -/
def State.slot0 (s : State) : List Byte := certBytes s.certLen

/-- CERT, CHAL, MEAS with signature, ENCRYPT, MAC, MUT_AUTH, KEY_EX, HBEAT and KEY_UPD, by their bits in the standard (R322; log entry 256). -/
def spdmCaps : Nat := 0x63D6

/-- The algorithms of R322: measurement hashes, signature, hash, key exchange and AEAD, one of each, by their bits in the standard. -/
def spdmAlgs : List Byte := leBytes 4 4 ++ leBytes 4 0x80 ++ leBytes 4 2 ++ leBytes 2 0x10 ++ leBytes 2 2

/-- A range of an interface report: its first 4 KiB page, its pages, its number. -/
def mmioRange (page count id : Nat) : List Byte := leBytes 8 page ++ leBytes 4 count ++ leBytes 4 (65536 * id)

/-- The interface report of a port's slice: all of BAR2, the event-ring region of BAR4, and the binding value (R401). -/
def State.ifaceReport (s : State) (port l : Nat) : List Byte :=
  let bar (i : Nat) : Nat := tgetD (s.port port).bars i 0
  leBytes 16 0 ++ leBytes 4 2 ++ mmioRange (bar 2 / 4096) 8192 2 ++ mmioRange (bar 4 / 4096 + 64) 64 4 ++ leBytes 4 32 ++ leBytes 32 (s.tdi l).binding

/-- A signed answer: the text, a nonce, and the signature of both. -/
def State.signed (s : State) (d : List Byte) : State × List Byte :=
  let body := d ++ beBytes 32 (Config.free (s.free + 1) % 2 ^ 256)
  ((s.drew 2).asked 2, body ++ s.signs body)

/-- Discovery (R331): what the management port serves outside a session. -/
def discovers : SpdmReq → Bool
  | .version | .capabilities | .algorithms | .digests | .certificate .. => true
  | _ => false

/-- The request needs fresh randomness: a nonce and a signature. -/
def needsDraw : SpdmReq → Bool | .challenge _ => true | .measurements _ g => g | _ => false

/-- The confidential slice that an INTERFACE_ID on the port names (R401): function 0, the slice, zeros. -/
def State.iface (s : State) (port : Nat) (id : IfaceId) : Option Nat :=
  if id.func = 0 ∧ id.rest = 0 then ((s.findSlice id.slice).filter (fun e => e.2.conf && e.2.port == port)).map (·.1) else none

/-- The measurement blocks of an index, 0 for their number and 255 for all of them. -/
def State.measures (s : State) (k : Option Sess) (i : Nat) : Option (List Byte) :=
  let l := s.measured k
  if i = 0 then some (leBytes 1 l.length)
  else if i = 255 then some (l.flatMap (s.measureBlock k))
  else if l.contains i then some (s.measureBlock k i) else none

/-- The answer to a request in session `k`, or outside one; none for an error. -/
def State.spdmAnswer (s : State) (w : SessWhere) (k : Option Sess) (r : SpdmReq) : State × Option (List Byte) :=
  match r with
  | .version => (s, some (leBytes 2 0x1300))
  | .capabilities => (s, some (leBytes 4 spdmCaps))
  | .algorithms => (s, some spdmAlgs)
  | .digests => (s, if s.sen.certOk then some (leBytes 1 1 ++ sha384Bytes s.slot0) else none)
  | .certificate slot off len =>
    (s, if slot = 0 ∧ s.sen.certOk = true then
        (let d := (s.slot0.drop off).take len; some (leBytes 2 d.length ++ leBytes 2 (s.slot0.length - off - d.length) ++ d))
      else none)
  | .challenge slot =>
    if slot = 0 ∧ s.sen.certOk = true then (let a := s.signed (sha384Bytes s.slot0); (a.1, some a.2)) else (s, none)
  | .measurements i sig =>
    (match s.measures k i with
      | none => (s, none)
      | some d => if sig then (if s.sen.certOk then (let a := s.signed d; (a.1, some a.2)) else (s, none)) else (s, some d))
  | .keyUpdate =>
    (match k with
      | some x => (s.onSen fun y => { y with sessions := y.sessions.map fun z => if z.id == x.id then { z with updates := z.updates + 1 } else z }, some [])
      | none => (s, none))
  | .heartbeat =>
    (match k with
      | some x => (s.onSen fun y => { y with sessions := y.sessions.map fun z => if z.id == x.id then { z with beat := s.now } else z }, some [])
      | none => (s, none))
  | .interfaceReport id =>
    (s, match w, k with
      | .hostPort p, some x => (s.iface p id).bind fun l => if (s.tdi l).sess = some x.id ∧ s.tee l = true then some (s.ifaceReport p l) else none
      | _, _ => none)

/-- The open session that a request travels in, at its place; a request that names another brings nothing. -/
def State.inSess (s : State) (w : SessWhere) (k : Nat) : Option Sess := s.sen.sessions.find? fun x => x.id == k && x.at_ == w

/-- GET_MEASUREMENTS and the other SPDM requests. On the management port they are served in an authenticated session, discovery also outside one, and a
claim session carries none (R331, R414). -/
def execGetMeasurements (w : SessWhere) (sess : Option Nat) (r : SpdmReq) (s : State) : Result :=
  s.spdmAt w fun s =>
    let k := sess.bind (s.inSess w)
    if sess.isSome && k.isNone then s
    else if w == .mgmt && (k.any (·.claim) || (k.isNone && !discovers r)) then s.spdm sess none
    else if needsDraw r && s.sen.entropy then s.spdmBusy sess
    else match s.spdmAnswer w k r with | (s1, d) => s1.spdm sess (d.map fun b => b.map (·.toNat))

/-! ## Interfaces (R316 to R321) -/

/-- R317: steps 1 to 4 of R67 for every context of the slice; a quiesce in progress ends with ABORTED (R321). -/
def State.scrub (s : State) (l : Nat) : State :=
  let s1 := if (s.slice? l).any (fun x => x.state == .quiescing) then s.abortQuiesce l else s
  ((s1.ctxsOf l).foldl (fun a c => (a.tearStart c).tearKeys c) s1).modTdi l fun t => { t with scrubbed := true }

/-- The interface of slice `l` goes to ERROR. -/
def State.toError (s : State) (l : Nat) : State :=
  if (s.tdi l).state = 0 ∨ (s.tdi l).state = 4 then s
  else (s.modTdi l fun t => { t with state := 4 }).scrub l

/-- The session is open on the port. -/
def State.sessOn (s : State) (port sess : Nat) : Bool := s.sen.sessions.any (fun k => k.id == sess && k.at_ == .hostPort port)

/-- A TDISP or IDE_KM request in a session of a port; the answer's body, or an error code of TDISP (log entry 256). -/
def State.tdisp (s : State) (port sess : Nat) (f : State → State × Except Nat (List Nat)) : Result :=
  if s.sessOn port sess then
    match f (s.raiseEdge (928 + 8 * port + 3)) with
    | (s1, .ok r) => .next (s1.spdm (some sess) (some r)).finish
    | (s1, .error e) => .next (s1.emit (.spdm (sess + 1) false (leNats 4 e))).finish
  else .next s

/-- TDISP's errors: INVALID_REQUEST, INVALID_INTERFACE_STATE, UNSUPPORTED_REQUEST, INVALID_INTERFACE. -/
def badRequest : Nat := 1
def badIfaceState : Nat := 4
def badVendorReq : Nat := 7
def badIface : Nat := 0x101

/-- A request about the interface that an INTERFACE_ID names; any other ID receives INVALID_INTERFACE (R401). -/
def State.onIface (s : State) (port sess : Nat) (id : IfaceId) (f : State → Nat → Tdi → State × Except Nat (List Nat)) : Result :=
  s.tdisp port sess fun s => match s.iface port id with
    | none => (s, .error badIface)
    | some l => f s l (s.tdi l)

/-- LOCK_INTERFACE: from CONFIG_UNLOCKED, with the stream's keys in place; never once scrubbed (R317). -/
def execLockInterface (port sess : Nat) (id : IfaceId) (s : State) : Result :=
  s.onIface port sess id fun s l t =>
    if t.state ≠ 1 ∨ t.scrubbed = true then (s, .error badIfaceState)
    else if t.ide.live then (s.modTdi l fun x => { x with state := 2, sess := some sess }, .ok [])
    else (s, .error badRequest)

/-- START_INTERFACE: from CONFIG_LOCKED, in the session that locked it; a fresh binding value (R320), BUSY while there is none (R293). A second one is
refused, and the binding value stays (R321). -/
def execStartInterface (port sess : Nat) (id : IfaceId) (s : State) : Result :=
  if s.sen.entropy && s.sessOn port sess then .next ((s.raiseEdge (928 + 8 * port + 3)).spdmBusy (some sess))
  else s.onIface port sess id fun s l t =>
    if t.state ≠ 2 then (s, .error badIfaceState)
    else if t.sess = some sess then
      ((((s.drew 1).asked 1).modTdi l fun x => { x with state := 3, binding := s.peek % 2 ^ 256 }).postDue l, .ok [])
    else (s, .error badRequest)

/-- STOP_INTERFACE: to CONFIG_UNLOCKED; leaving the locked states scrubs before the reply (R317). -/
def execStopInterface (port sess : Nat) (id : IfaceId) (s : State) : Result :=
  s.onIface port sess id fun s l t =>
    if t.sess ≠ some sess then (s, .error badRequest)
    else
      let s1 := s.modTdi l fun x => { x with state := 1 }
      (if t.state = 2 ∨ t.state = 3 then s1.scrub l else s1, .ok [])

/-- BIND_CLAIM: a vendor-defined request under the port's vendor ID, with command 0x0001 and the interface's ID on the old port (R320, R402): 2 not
QUIESCED, 3 claimed already, 1 mismatch, 0 recorded. -/
def execBindClaim (port sess : Nat) (vendor cmd : Nat) (id : IfaceId) (value : Nat) (s : State) : Result :=
  s.tdisp port sess fun s =>
    if vendor ≠ Config.vendorId % 65536 ∨ cmd ≠ 1 then (s, .error badVendorReq)
    else
      match if id.func = 0 ∧ id.rest = 0 then (s.findSlice id.slice).filter (fun e => e.2.conf && e.2.port != port) else none with
      | none => (s, .error badIface)
      | some (l, x) =>
        let t := s.tdi l
        if x.state ≠ .quiesced then (s, .ok [2])
        else if t.claimed then (s, .ok [3])
        else if t.state ≠ 3 ∨ t.binding ≠ value then (s, .ok [1])
        else (s.modTdi l fun y => { y with claimed := true, claimPort := port, claimSess := some sess }, .ok [0])

/-- A key set of a stream is programmed for a direction, or K_SET_GO switches the direction to it (R400). -/
def Ide.km (x : Ide) (keySet : Nat) (tx go : Bool) : Option Ide :=
  if 2 ≤ keySet then none
  else if go then
    (if x.progd.contains (keySet, tx) then some (if tx then { x with tx := some keySet } else { x with rx := some keySet }) else none)
  else some { x with progd := (keySet, tx) :: x.progd.filter (· != (keySet, tx)) }

/-- IDE_KM: for the port's Link IDE stream, or an interface's selective stream, which a session other than the interface's takes from a locked state to
ERROR (R316, R318). -/
def execIdeKmKeyProg (port sess : Nat) (stream : IdeStream) (keySet : Nat) (tx go : Bool) (s : State) : Result :=
  match stream with
  | .link => s.tdisp port sess fun s => match (s.port port).ide.km keySet tx go with
    | some k => (s.modPort port fun x => { x with ide := k }, .ok [])
    | none => (s, .error badRequest)
  | .selective id => s.onIface port sess id fun s l t =>
    if keySet < 2 ∧ (t.state = 2 ∨ t.state = 3) ∧ t.sess ≠ some sess then (s.toError l, .error badRequest)
    else
      match t.ide.km keySet tx go with
      | some k => (s.modTdi l fun x => { x with ide := k }, .ok [])
      | none => (s, .error badRequest)

/-- IDE_INTEGRITY_FAILURE of an interface's stream: its keys are lost, it goes to ERROR. -/
def execIdeIntegrityFailure (port : Nat) (slice : Handle) (s : State) : Result :=
  match s.iface port { func := 0, slice := slice, rest := 0 } with
  | none => .next s
  | some l => .next ((s.modTdi l fun t => { t with ide := Ide.none }).toError l).finish

end Sys2Proof.Machine
end

