-- ==== Sys2Proof/Machine/HostPorts.lean ====
section
/-!
DEFINITION. Host ports (spec/12): slice 0's bootstrap (R274), rebinding (R288, R320), CXL.mem windows (R404 to R407), MSI-X (R399), ATS and
PRI (R397, R398), and the loss and return of a port (R408).
-/

namespace Sys2Proof.Machine

/-! ## The bootstrap of slice 0 (R274, R415) -/

/-- The pool driver is reset (R434, R435): its mailbox is cleared, and it is detached. -/
def State.resetPd (s : State) : State := (s.mbxClear 0).detachPd

/-- The root context and the first queue of slice 0, in slots 0 where they are free. -/
def State.bootstrap (s : State) : Except Status State := do
  let x := s.slices
  check (6 ≤ x.s0Log2 && x.s0Log2 ≤ 16 && 4 ≤ x.s0QLog2 && x.s0QLog2 ≤ 16 && s.vecOk 0 x.s0Vec) .badParam
  s.ringOk 0 x.s0Evt.toNat 0 (32 * 2 ^ x.s0Log2) 1
  s.ringOk 0 x.s0Q.toNat 0 (64 * 2 ^ x.s0QLog2) 4096
  s.ringOk 0 x.s0R.toNat 0 (32 * 2 ^ x.s0QLog2) 4096
  check (!s.sen.entropy) .busy
  let o := s.objs
  let c ← want (if o.ctxMgr.freeAt o.ctxs 0 then some 0 else s.slotFor (slotCount 1) o.ctxMgr o.ctxs) .noSlot
  let q ← want (if o.qMgr.freeAt o.queues 0 then some 0 else s.slotFor (slotCount 2) o.qMgr o.queues) .noSlot
  let ring : Ring := { addr := x.s0Q.toNat, obj := 0, log2 := x.s0QLog2 }
  let ctx := Ctx.new (o.ctxMgr.gen c) 0 true { addr := x.s0Evt.toNat, obj := 0, log2 := x.s0Log2 } x.s0Vec (Config.free (s.free + 1) % 2 ^ 128) s.now
  let que := { Queue.new (o.qMgr.gen q) c 0 100 ring { addr := x.s0R.toNat, obj := 0, log2 := x.s0QLog2 } with state := .running }
  return (((((s.drew 2).asked 1).installKey (.ctx c 0)).raiseEdge 41).onObjs fun o =>
    { o with
      ctxs := tset o.ctxs c ctx, ctxMgr := { o.ctxMgr with gens := tset o.ctxMgr.gens c (o.ctxMgr.gen c) }
      queues := tset o.queues q que, qMgr := { o.qMgr with gens := tset o.qMgr.gens q (o.qMgr.gen q) } }).modSlice 0 fun y =>
        { y with root := c }

/-- GO is set; `lost`: the port is lost while the bootstrap runs (R409). A second GO, once DONE is set, is ignored. -/
def State.s0Go (s : State) (lost : Bool) : State :=
  if s.slices.s0Done then s
  else
    let s1 := s.resetPd
    let done (a : State) (ok : Bool) (st : Status) : State := a.onSlices fun x => { x with s0Done := ok, s0Stat := st }
    if lost then done s1 false .aborted
    else if !(s1.port s1.mmc.admin).cxl then done s1 false .badState
    else
      match s1.bootstrap with
      | .ok s2 => done s2 true .ok
      | .error st => done s1 false st

/-- HUB_S0_GO. -/
def execHubS0Go (p : Path) (lost : Bool) (s : State) : Result := s.onBar0 p 0x2018 fun s => s.s0Go lost

/-! ## Rebinding (R275, R288, R320) -/

/-- A slice other than `l` holds the PASID on the port. -/
def State.pasidHeld (s : State) (l port pasid : Nat) : Bool := s.slices.tab.any (fun e => e.1 != l && e.2.port == port && e.2.pasid == pasid)

/-- A slice other than `l` has a window on the port that overlaps. -/
def State.windowHeld (s : State) (l port base count : Nat) : Bool :=
  s.slices.tab.any (fun e => e.1 != l && e.2.port == port && decide (e.2.vecBase < base + count) && decide (base < e.2.vecBase + e.2.vecCount))

/-- The interface of a confidential slice follows a rebind to a port (R288, R320): the old interface's sessions end, and at the claimed port the claiming
session takes it over, its window still to be written. The claim has then been used up (R321). A port that is not the claimed one is 'any other port',
be it the old one (log entry 218). -/
def State.moveIface (s : State) (l new : Nat) : State :=
  let t := s.tdi l
  let old (keep : Option Nat) (k : Sess) : Bool := (k.slice == some l || t.sess == some k.id) && keep != some k.id
  if t.claimed && t.claimPort == new then
    ((s.endSessions (old t.claimSess)).onSen fun x =>
      { x with sessions := x.sessions.map fun k => if t.claimSess == some k.id then { k with slice := some l } else k }).modTdi l fun x =>
        { x with state := 2, sess := x.claimSess, claimed := false, claimPort := 0, claimSess := none, vecDue := true, ide := Ide.none }
  else
    let s1 := if t.state = 2 ∨ t.state = 3 then s.scrub l else s
    (s1.endSessions (old none)).modTdi l fun x =>
      { x with state := 1, sess := none, claimed := false, claimPort := 0, claimSess := none, vecDue := false, ide := Ide.none }

/-- The port forgets the translations and page requests of a PASID (R288). -/
def State.forgetPasid (s : State) (port pasid : Nat) : State :=
  s.modPort port fun x => { x with ats := x.ats.filter (fun e => e.1 != pasid), pri := x.pri.filter (fun e => e.pasid != pasid) }

/-- The written value keeps the limits that R271 and R275 state without a response: a PASID from 1, a window of 1 to 2,048 vectors. -/
def rebindFits (reg : RebindReg) (v : Nat) : Bool :=
  match reg with
  | .bind => bits v 0 20 != 0
  | .vec => bits v 12 12 != 0 && decide (bits v 0 11 + bits v 12 12 ≤ 2048)

/-- A write to HUB_SLICE_BIND or HUB_SLICE_VEC of a QUIESCED slice; none where R288 refuses it, or R317: a scrubbed slice accepts no rebind but one to
its claimed port. -/
def State.rebind (s : State) (l : Nat) (x : Slice) (reg : RebindReg) (v : Nat) : Option State :=
  match reg with
  | .bind =>
    let pasid := bits v 0 20
    let port := bits v 20 2
    let t := s.tdi l
    if s.pasidHeld l port pasid || s.windowHeld l port x.vecBase x.vecCount || (t.scrubbed && !(t.claimed && t.claimPort == port)) then none
    else
      let s1 := (s.forgetPasid x.port x.pasid).modSlice l fun y => { y with pasid := pasid, port := port }
      some (if x.conf then s1.moveIface l port else s1)
  | .vec =>
    let base := bits v 0 11
    let count := bits v 12 12
    let due := (s.tdi l).claimed || (s.tdi l).vecDue
    if s.windowHeld l x.port base count || ((s.tdi l).scrubbed && !due) then none
    else
      let s1 := s.modSlice l fun y => { y with vecBase := base, vecCount := count }
      some (if !x.conf then s1
        else if due then s1.modTdi l fun t => { t with vecDue := false }
        else if s.tee l then s1.toError l else s1)

/-- A write to a slice's HUB_SLICE_BIND or HUB_SLICE_VEC: BIND_ERR says whether it was refused. One outside the limits that no response is stated
for is ignored (R9). -/
def State.writeRebind (s : State) (l : Nat) (reg : RebindReg) (v : Nat) : State :=
  let err (b : Bool) (a : State) : State := a.onSlices fun x => { x with bindErr := tset x.bindErr l b }
  match s.slice? l with
  | some x =>
    if x.state = .quiesced then
      (if !rebindFits reg v then s else match s.rebind l x reg v with | some s1 => err false s1 | none => err true s) else err true s
  | none => err true s

/-- SLICE_REBIND. -/
def execSliceRebind (p : Path) (slice : Nat) (reg : RebindReg) (val : Word) (s : State) : Result :=
  s.onReg p (slice < 512) (16 * slice + (match reg with | .bind => 0 | .vec => 4)) fun s => s.writeRebind slice reg val.toNat

/-! ## Windows and CXL.mem (R404 to R407) -/

/-- A context window at reset. -/
def Win.reset : Win := { ctx := 0, cva := 0, valid := false, err := false }

/-- The handle names a context of a confidential slice. -/
def State.confHandle (s : State) (h : Handle) : Bool := (s.findCtx h).any (fun e => s.confSlice e.2.slice)

/-- A write to word `w` of HUB_HPWIN[port][k] (R407): refused with ERR where it names a context of a confidential slice. An accepted write takes
effect at once, no access being under way. -/
def State.writeWin (s : State) (port k w : Nat) (v : Word) : State :=
  if k = 0 ∨ 8 ≤ k ∨ 2 ≤ w then s
  else
    let x := tgetD (s.port port).wins k Win.reset
    let y : Win := if w = 0 then { x with ctx := v } else { x with cva := bits v.toNat 0 20 * 2 ^ 28, valid := v.getLsbD 31 }
    let z : Win := if s.confHandle y.ctx then { x with err := true } else { y with err := false }
    s.modPort port fun q => { q with wins := tset q.wins k z }

/-- HUB_HPWIN_WRITE. -/
def execHubHpwinWrite (p : Path) (port k word : Nat) (val : Word) (s : State) : Result :=
  s.onReg p (port < 4 ∧ k < 16 ∧ word < 4) (0x10000 + 0x400 * port + 0x40 + 16 * k + 4 * word) fun s => s.writeWin port k word val

/-- The context that a window of the port names: ACTIVE, its slice fetching (R285). -/
def State.winCtx (s : State) (port k : Nat) : Option (Nat × Nat) :=
  (tget (s.port port).wins k).bind fun w =>
    if w.valid then
      ((s.findCtx w.ctx).filter (fun e => e.2.state == .active && (s.slice? e.2.slice).all (fun l => l.state == .active))).map fun e => (e.1, w.cva)
    else none

/-- A CXL.mem access fails (R405): counted, with the first failing HPA. -/
def State.memFails (s : State) (port hpa : Nat) : State :=
  s.modPort port fun x =>
    { x with memErr := satInc x.memErr, memAdr := if x.memSet then x.memAdr else BitVec.ofNat 64 hpa, memSet := true }

/-- An access through a context window: unsealed, so a confidential context's fails its dike check (R319). -/
def State.winAccess {α : Type} (s : State) (port c cva : Nat) (f : State → State × Except AccErr α) : State × Option α :=
  let r := if s.confSlice (s.sliceOf c) then (s, .error (accDike cva)) else f s
  match r with
  | (s1, .ok a) => (s1, some a)
  | (s1, .error e) => (s1.faultCtx c (e.portRegs 5 port), none)

/-- Read a sector's bytes of table frame `lpf` (R216, R303). -/
def State.readTable (s : State) (lpf off n : Nat) : Option (List Byte) :=
  match s.frame? lpf with
  | none => none
  | some f =>
    let i := lpf * 256 + off / 256
    if f.owner ≠ none then none
    else
      match f.st with
      | .fresh => some (List.replicate n 0)
      | .lost => none
      | _ =>
        if s.pool.bad.contains i ∨ tget s.pool.tags i ≠ some (s.tableTag lpf (off / 256)) then none
        else some (memRead s.pool.mem (65536 * lpf + off) n)

/-- The HDM decoder of a port that claims an HPA, and the offset above its base (R404): the lowest that maps it; no access crosses a sector. -/
def State.hdmHit (s : State) (port hpa len : Nat) : Option (Nat × Nat) :=
  if !(s.port port).cxl || decide (256 < hpa % 256 + len) then none
  else
    ((s.port port).hdm.find? fun e => decide (e.1 < 8) && decide (e.2.1 * 2 ^ 28 ≤ hpa) && decide (hpa < (e.2.1 + e.2.2) * 2 ^ 28)).map fun e =>
      (e.1, hpa - e.2.1 * 2 ^ 28)

/-- The data of a CXL.mem read, or none where it fails. -/
def State.cxlRead (s : State) (port hpa len : Nat) : State × Option (List Byte) :=
  match s.hdmHit port hpa len with
  | none => (s, none)
  | some (0, off) =>
    if s.adminPort port && decide (off < 2 ^ 42) then (s.sampleTable (off / 65536) (.edge (16 + port)), s.readTable (off / 65536) (off % 65536) len)
    else (s, none)
  | some (dec, off) =>
    match s.winCtx port dec with
    | none => (s, none)
    | some (c, base) =>
      s.winAccess port c (base + off) fun a => match a.readCtx c (.edge (16 + port)) (base + off) len with
        | (a1, .ok d) => (a1.account c fun y => { y with host := y.host + BitVec.ofNat 64 len }, .ok d)
        | r => r

/-- CXL_MEM_READ on one of the four ports; before READY memory requests get Unsupported Request (R456). -/
def execCxlMemRead (port hpa len : Nat) (s : State) : Result :=
  .next (if 4 ≤ port then s else if !s.brg.ready then s.unsupported port else
    match s.cxlRead port hpa len with
    | (s1, some d) => (s1.emit (.data port d)).finish
    | (s1, none) => ((s1.memFails port hpa).emit (.data port (List.replicate len 0xFF))).finish)

/-- A CXL.mem write; false where it fails. -/
def State.cxlWrite (s : State) (port hpa : Nat) (d : List Byte) : State × Bool :=
  match s.hdmHit port hpa d.length with
  | none => (s, false)
  | some (0, off) =>
    if s.adminPort port && decide (off < 2 ^ 42) && (s.frame? (off / 65536)).any (fun f => f.owner.isNone) then
      s.writeTable (.edge (16 + port)) (off / 65536) (off % 65536) d
    else (s, false)
  | some (dec, off) =>
    match s.winCtx port dec with
    | none => (s, false)
    | some (c, base) =>
      match s.winAccess port c (base + off) fun a =>
        if !a.writable c (base + off) d.length then (a, .error (accDike (base + off)))
        else
          match a.writeCtx c (.edge (16 + port)) none (base + off) d with
          | (a1, .ok ()) => (a1.account c fun y => { y with host := y.host + BitVec.ofNat 64 d.length }, .ok ())
          | r => r with
      | (s1, r) => (s1, r.isSome)

/-- CXL_MEM_WRITE. -/
def execCxlMemWrite (port hpa : Nat) (data : List Byte) (s : State) : Result :=
  .next (if 4 ≤ port then s else if !s.brg.ready then s.unsupported port else
    match s.cxlWrite port hpa data with
    | (s1, true) => s1.finish
    | (s1, false) => (s1.memFails port hpa).finish)

/-! ## MSI-X (R399) -/

/-- One message for each of the unmasked vectors that is pending, unless the function is masked. -/
def State.sendPending (s : State) (port : Nat) (vs : List Nat) : State :=
  if (s.port port).fmask then s
  else
    (vs.filter (s.port port).msixPnd.contains).foldl (fun a v =>
      (a.modPort port fun x => { x with msixPnd := x.msixPnd.filter (· != v) }).sendVec port v) s

/-- A vector is unmasked: what was pending is sent as one message. -/
def State.unmask (s : State) (port v : Nat) : State :=
  let p := s.port port
  if p.unmask.contains v then s
  else
    let s1 := match s.lockedVec port v with | some l => s.toError l | none => s
    (s1.modPort port fun x => { x with unmask := v :: x.unmask }).sendPending port [v]

/-- The function mask is set or cleared; when it is cleared, what was pending on unmasked vectors is sent. -/
def State.setFmask (s : State) (port : Nat) (on : Bool) : State :=
  (s.modPort port fun x => { x with fmask := on }).sendPending port (s.port port).unmask

/-- MSIX_VECTOR_UNMASK: a write to the MSI-X table, before READY answered with Unsupported Request (R456). -/
def execMsixVectorUnmask (port vec : Nat) (s : State) : Result :=
  .next (if port < 4 ∧ vec < 2048 then (if s.brg.ready then (s.unmask port vec).finish else s.unsupported port) else s)

/-! ## ATS and PRI (R397, R398) -/

/-- ATS_INVALIDATION of a PASID's range, with its completion: every access is over within its own command (R397). -/
def execAtsInvalidation (port pasid base len : Nat) (s : State) : Result :=
  .next (if 4 ≤ port then s else
    ((s.modPort port fun x =>
      { x with ats := x.ats.filter fun e => !(e.1 == pasid && decide (base < e.2.1 + e.2.2) && decide (e.2.1 < base + len)) }).raiseEdge
        (928 + 8 * port + 2)).emit (.invDone port pasid base len))

/-- A page request has failed: what waits on it ends (R398). -/
def State.priFails (s : State) (port : Nat) (r : Pri) : State :=
  let s1 := s.raiseEdge (928 + 8 * port + 1)
  let mover (ref : DWord) (k buf off : Nat) : State := match s1.eng? ref k with
    | some e => s1.engFault ref k e.pc { cause := 9, buf := some buf, off := off, acc := none }
    | none => s1
  let ctx (c : Nat) : State := s1.faultCtx c { FaultRegs.zero with status := .faulted, cls := 4, srcKind := 4, src := port }
  match r.who with
  | .buffer ref k b o => mover ref k b o
  | .store ref k b o => mover ref k b o
  | .fetch q => s1.fetchFails q
  | .record c => ctx c
  | .write c => ctx c

/-- A page request has succeeded: the translation is held, and the access is made again (R398). A fetch and a mover's read follow with their own
commands; bytes that wait go out, a record is posted. -/
def State.priDone (s : State) (port : Nat) (r : Pri) : State :=
  let s1 := match r.addr with | some a => (s.drew 1).modPort port fun x => x.hold r.pasid a s.peek | none => s
  let put (c a : Nat) : State := if s1.dmaOk (s1.sliceOf c) then s1.hostPut c (s1.sliceOf c) port r.pasid a r.data else s1
  match r.who, r.addr with
  | .store ref .., some a => (match s1.disp? ref with | some d => put d.ctx a | none => s1)
  | .write c, some a => put c a
  | .record c, _ => s1.postDue (s1.sliceOf c)
  | _, _ => s1

/-- An outstanding page request ends. -/
def State.endPri (s : State) (port id : Nat) (f : State → Pri → State) : State :=
  match (s.port port).pri.find? (fun r => r.id == id) with
  | none => s
  | some r => f (s.modPort port fun x => { x with pri := x.pri.filter (fun y => y.id != id) }) r

/-- PRI_RESPONSE: on Success the access is retried once; a Response Failure makes every further miss fail at once. -/
def execPriResponse (port id : Nat) (code : PriCode) (s : State) : Result :=
  .next (s.endPri port id fun a r => match code with
    | .success => a.priDone port r
    | .invalid => a.priFails port r
    | .failure => (a.modPort port fun x => { x with priBad := true }).priFails port r).finish

/-- PRI_TIMEOUT: no response within HUB_HPPRI.TO_MS. -/
def execPriTimeout (port id : Nat) (s : State) : Result :=
  match (s.port port).pri.find? (fun r => r.id == id) with
  | none => .next s
  | some r => if s.now < r.since + usTicks (1000 * (s.port port).toMs) then .next s
    else .next (s.endPri port id fun a x => a.priFails port x).finish

/-! ## Loss and return (R394, R408) -/

/-- The slices bound to a port, other than slice 0. -/
def State.onPort (s : State) (port : Nat) : List Nat := (s.slices.tab.filter (fun e => e.1 != 0 && e.2.port == port)).map (·.1)

/-- What a port's loss does to one slice on it. -/
def State.losePort (s : State) (port l : Nat) : State :=
  match s.slice? l with
  | none => s
  | some x =>
    if x.conf then (s.modTdi l fun t => { t with ide := Ide.none }).toError l
    else if x.state = .quiesced then s
    else
      let s1 := if x.state = .quiescing then s.abortQuiesce l else s
      (s1.ctxsOf l).foldl (fun a c => a.faultCtx c { FaultRegs.zero with status := .linkDown, cls := 4, srcKind := 4, src := port }) s1

/-- HOST_PORT_LOSS of one of the four ports: every cause is a loss, and resets the port's controller with its configuration registers (R394). -/
def execHostPortLoss (port : Nat) (_why : PortLoss) (s : State) : Result :=
  if 4 ≤ port then .next s
  else
    let s0 := (s.raiseEdge (928 + 8 * port + 4)).raiseEdge (928 + 8 * port)
    let s1 := s0.modPort port fun x =>
      { x with
        up := false, rate := 0, width := 0, cxl := false, ats := [], pri := [], priBad := false, atsOn := false, priOn := false, msix := []
        unmask := [], msixPnd := [], cmd := 0, bars := [], pasidOn := false, fmask := false, hdm := [], ide := Ide.none }
    let s2 := (s1.onPort port).foldl (fun a l => a.losePort port l) s1
    let s3 := s2.endSessions (fun k => k.at_ == .hostPort port)
    if s.brg.ready && s.adminPort port then
      .next ((((s3.ctxsOf 0).foldl State.teardown s3).resetPd).onSlices fun x => { x with s0Done := false }).finish
    else .next s3.finish

/-- HOST_PORT_LINK_UP, at a rate and width of R393; CXL.mem needs 256-byte flits, which the operand `cxl` stands for (R403). -/
def execHostPortLinkUp (port rate width : Nat) (cxl : Bool) (s : State) : Result :=
  .next (if 4 ≤ port || !hostRate rate width then s else
    (s.modPort port fun x => { x with up := true, rate := rate, width := width, cxl := cxl }).raiseEdge (928 + 8 * port))

end Sys2Proof.Machine
end

