-- ==== Sys2Proof/Machine/Placement.lean ====
section
/-!
DEFINITION. The placement engine (spec/07): frame commands (R219), invalidation (R216), requests' ends (R208), epochs and moves (R224 to
R228), stack retirement (R232 to R236), the pool driver's notices (R435).
-/

namespace Sys2Proof.Machine

/-! ## Frame commands (R218, R219) -/

/-- End of the dynamic range (R204). -/
def dynEnd : Nat := 30474240

/-- PLE_FCMD_COUNT; 0 stands for 2^24. -/
def State.fcmdCount (s : State) : Nat := if s.pool.fCount = 0 then 16777216 else s.pool.fCount

/-- The frames that a command names. -/
def State.fcmdFrames (s : State) : List Nat := (List.range s.fcmdCount).map (s.pool.fLpf + ·)

/-- The range lies in the dynamic range (R219); a COUNT above 2^24 names none (R218). -/
def State.fcmdInRange (s : State) : Bool := decide (s.fcmdCount ≤ 16777216) && decide (s.pool.fLpf + s.fcmdCount ≤ dynEnd)

/-- The status of a frame command, with its effect. -/
def State.fcmdDone (s : State) (r : Except Status State) : State :=
  match r with
  | .ok t => t.onPool fun p => { p with fStat := .ok }
  | .error st => s.onPool fun p => { p with fStat := st }

/-- Put FRESH frames into the map. -/
def State.putFresh (s : State) (fs : List Nat) (f : Frame) : State := s.onPool fun p => { p with frames := fs.foldl (fun t k => tset t k f) p.frames }

/-- BACK's checks and effect. -/
def State.backCmd (s : State) : Except Status State := do
  check (!s.pool.frozen) .badState
  check s.fcmdInRange .badParam
  let b ← want (s.pool.backs.find? (fun b => BitVec.ofNat 32 b.req == s.pool.fReq)) .badState
  let m ← want (s.mo? b.mo) .badState
  check (b.backed + s.fcmdCount ≤ b.frames) .badParam
  check (s.fcmdFrames.all fun k => !thas s.pool.frames k) .badState
  check (s.backed + s.fcmdCount ≤ s.placeable s.pool.embank) .noSlot
  let s1 := s.putFresh s.fcmdFrames (Frame.new (some m.ctx) b.mo (if m.ty = 1 then 0 else m.policy) b.req)
  return s1.onPool fun p => { p with backs := p.backs.map fun x => if x.req = b.req then { x with backed := x.backed + s.fcmdCount } else x }

/-- BACK. -/
def execBack (p : Path) (s : State) : Result := s.onBar0 p 0x34008 fun s => s.fcmdDone s.backCmd

/-- TABLE's checks and effect. -/
def State.tableCmd (s : State) : Except Status State := do
  check (!s.pool.frozen) .badState
  check s.fcmdInRange .badParam
  check (s.fcmdFrames.all fun k => !thas s.pool.frames k) .badState
  check (s.backed + s.fcmdCount ≤ s.placeable s.pool.embank) .noSlot
  return s.putFresh s.fcmdFrames (Frame.new none 0 1 0)

/-- TABLE. -/
def execTable (p : Path) (s : State) : Result := s.onBar0 p 0x34008 fun s => s.fcmdDone s.tableCmd

/-- UNTABLE's checks and effect. -/
def State.untableCmd (s : State) : Except Status State := do
  check s.fcmdInRange .badParam
  check (s.fcmdFrames.all fun k => (s.frame? k).any (fun f => f.owner.isNone)) .badState
  return s.unback s.fcmdFrames

/-- UNTABLE. -/
def execUntable (p : Path) (s : State) : Result := s.onBar0 p 0x34008 fun s => s.fcmdDone s.untableCmd

/-- STATE of PLE_FCMD_RESULT. -/
def Frame.code (f : Frame) : Nat :=
  if f.owner.isNone then 5
  else match f.st with | .fresh => 1 | .bound _ => 2 | .moving _ _ => 3 | .lost => 4

/-- QUERY's checks and effect; while Sealed a confidential context's frame shows neither its stack nor a move (R328). -/
def State.queryCmd (s : State) : Except Status State := do
  check (s.pool.fCount == 1) .badParam
  check s.fcmdInRange .badParam
  let put (k st o : Nat) (a : State) : State := a.onPool fun p => { p with rStack := k, rState := st, rOwner := o }
  return match s.frame? s.pool.fLpf with
    | none => put (s.peek % 32) 0 0 (s.drew 1)
    | some f =>
      let o := f.owner.getD 0
      let hide := s.sen.sec != 0 && f.owner.any (fun c => s.confSlice (s.sliceOf c))
      if hide then put 0 (if f.code = 3 then 2 else f.code) o s
      else if f.code = 2 then put (f.st.home.getD 0) 2 o s
      else put (s.peek % 32) f.code o (s.drew 1)

/-- QUERY. -/
def execQuery (p : Path) (s : State) : Result := s.onBar0 p 0x34008 fun s => s.fcmdDone s.queryCmd

/-! ## Invalidation and requests' ends -/

/-- GO: the range that the registers name (R216); ignored while one runs. -/
def State.invGo (s : State) : State :=
  if s.pool.invJob.isSome then s else s.onPool fun q => { q with invJob := some (q.invCtx, q.invBase, q.invPages.toNat) }

/-- PLE_INV_GO. -/
def execPleInvGo (p : Path) (s : State) : Result := s.onBar0 p 0x34034 State.invGo

/-- INVALIDATION_DONE: no NI holds an old entry of the range; BUSY clears. -/
def execInvalidationDone (s : State) : Result :=
  match s.pool.invJob with
  | none => .next s
  | some (c, b, n) =>
    .next (s.onPool fun q =>
      { q with
        invJob := none
        tlb := q.tlb.filter fun e => !(e.ctx == c && (n == 0 || (decide (b ≤ e.page) && decide (e.page < b + n)))) })

/-- PLE_REQ_DONE_WRITE: frees the slot of a request; narrower than 8 bytes it is ignored (R208, R509). -/
def execPleReqDoneWrite (p : Path) (width : Nat) (val : DWord) (s : State) : Result :=
  s.onBar0 p 0x34040 fun s => if width = 8 then s.freeReq (val.toNat % 2 ^ 48) else s

/-! ## Epochs and moves -/

/-- The statistics of every bound frame, halved, a further epoch old; AGE saturates as the other u8 counters (R224; log entry 215). -/
def Stat.epoch (x : Stat) : Stat := { x with loc := x.loc / 2, rem := x.rem / 2, edge := x.edge / 2, votes := x.votes / 2, age := min 255 (x.age + 1) }

/-- A frame that R225 moves, and its destination. -/
def State.wantsMove (s : State) (k : Nat) (f : Frame) : Option Nat :=
  let x := tgetD s.pool.stats k Stat.zero
  match f.st with
  | .bound a =>
    if f.owner.isSome && f.policy == 0 && decide (32 ≤ x.rem) && decide (2 * (x.loc + x.edge) ≤ x.rem) && decide (8 ≤ x.votes) &&
        decide (4 ≤ x.age) && x.cand != a && s.svc.contains x.cand && decide (s.held x.cand < stackLimit s.pool.embank) && !s.pinned f then
      some x.cand
    else none
  | _ => none

/-- The moves that waited for a later epoch are queued where there is room now (R222, R223, R225). -/
def State.retryMoves (s : State) : State :=
  s.pool.waitQ.foldl (fun a e => a.queueMove e.1 e.2 true) (s.onPool fun p => { p with waitQ := [] })

/-- The candidates of R225 are queued, those with the highest REMOTE first. -/
def State.queueStats (s : State) : State :=
  let rem (k : Nat) : Nat := (tgetD s.pool.stats k Stat.zero).rem
  (sortBy (fun a b => decide (rem b.1 < rem a.1)) s.pool.frames).foldl (fun a e => match s.wantsMove e.1 e.2 with
    | some d => a.queueMove e.1 d false
    | none => a) s

/-- PLE_EPOCH: waiting moves and candidates queued, then every word halved and aged; PLE_EPOCH's source (R224, R225, R418). -/
def execPleEpoch (s : State) : Result :=
  let s1 := s.retryMoves.queueStats
  let bound := s.pool.frames.filter (fun e => e.2.st.home.isSome)
  .next ((s1.onPool fun p =>
    { p with stats := bound.foldl (fun t e => tset t e.1 (tgetD t e.1 Stat.zero).epoch) p.stats }).raiseEdge 45).finish

/-- Moves that run into stack `k`, and out of it. -/
def State.movesIn (s : State) (k : Nat) : Nat := (s.pool.moves.filter (fun m => m.dst == k)).length
/-- Moves out of stack `k`. -/
def State.movesOut (s : State) (k : Nat) : Nat :=
  (s.pool.moves.filter (fun m => (s.frame? m.lpf).any (fun f => f.st.home == some k))).length

/-- A queued move may begin now: at most 64 into and 64 out of a stack, room at the destination, open sluices (R221, R226, R229, R233). -/
def State.moveReady (s : State) (m : Move) : Bool :=
  match (s.frame? m.lpf).bind (·.st.home) with
  | none => false
  | some a =>
    decide (s.movesIn m.dst < 64) && decide (s.movesOut a < 64) &&
      (if m.evac then decide (s.held m.dst < stackFrames)
       else decide (s.held m.dst < stackLimit s.pool.embank) && s.sluiceOpen a && s.sluiceOpen m.dst && s.svc.contains m.dst && !s.pool.frozen)

/-- The queued move into stack `k` that begins next, as it is queued and as it runs: the first frame to evacuate, where the rotation has come to this
stack; else placement moves by REMOTE, descending (R225, R233, R235; log entry 216). -/
def State.nextMove (s : State) (k : Nat) : Option (Move × Move) :=
  let l := s.pool.moveQ.filter (fun m => !m.evac && m.dst == k && s.moveReady m)
  match (s.pool.moveQ.find? (·.evac)).filter (fun _ => s.evacDst == some k) with
  | some m => if s.moveReady { m with dst := k } then some (m, { m with dst := k }) else none
  | none => (sortBy (fun a b => decide (b.prio < a.prio)) l).head?.map fun m => (m, m)

/-- MOVE_START: one queued move into stack `stack` begins: the destination is reserved and writes are mirrored (R226 step 1). An evacuation for which no
room is left loses its frames. -/
def execMoveStart (stack : Nat) (s : State) : Result :=
  let s0 := s.evacRoom
  match s0.nextMove stack with
  | none => .next s0.finish
  | some (q, m) =>
    .next (((s0.modFrame m.lpf fun f => match f.st with | .bound a => { f with st := .moving a m.dst } | _ => f).onPool fun p =>
      { p with moveQ := p.moveQ.erase q, moves := p.moves ++ [m], evPtr := if m.evac then m.dst + 1 else p.evPtr }).evacRoom).finish

/-- Sectors of frame `k` are unreadable. -/
def State.anyBad (s : State) (k : Nat) : Bool := s.pool.bad.any (fun i => i / 256 == k)

/-- A sluice that has been closed holds the copy of a placement move (R229). -/
def State.copyHeld (s : State) (m : Move) : Bool :=
  !m.evac && (!s.sluiceOpen m.dst || ((s.frame? m.lpf).bind (·.st.home)).any (fun k => !s.sluiceOpen k))

/-- The move `m` has been made (R226 steps 3 and 4): the map names the destination, no NI holds the old place, the source is freed; a placement move
counts in PLE_MOVES (R218, R328). -/
def State.moved (s : State) (m : Move) : State :=
  let src := (s.frame? m.lpf).bind (·.st.home)
  let s1 := (s.modFrame m.lpf fun f => match f.st with | .moving _ b => { f with st := .bound b } | _ => f).remapped m.lpf
  let s2 := s1.onPool fun p =>
    let c := stepCount (s.sen.sec != 0) 1000000 s.now p.moved p.movedHid p.movedAt
    { p with
      stats := tset p.stats m.lpf { tgetD p.stats m.lpf Stat.zero with age := 0 }
      moved := if m.evac then p.moved else c.1, movedHid := if m.evac then p.movedHid else c.2.1
      movedAt := if m.evac then p.movedAt else c.2.2 }
  match m.evac, src with
  | true, some k => s2.modStack k fun x => { x with evac := x.evac + 1 }
  | _, _ => s2

/-- MOVE_COPY_DONE: the move ends. A sector that cannot be read abandons a placement move and loses an evacuated frame (R228, R234). -/
def execMoveCopyDone (lpf : Nat) (s : State) : Result :=
  match s.pool.moves.find? (fun m => m.lpf == lpf) with
  | none => .next s
  | some m =>
    if s.anyBad lpf then .next ((if m.evac then s.loseFrame lpf else s.abandon (fun x => x.lpf == lpf))).finish
    else if s.copyHeld m then .next s
    else .next (s.moved m).finish

/-! ## Retirement -/

/-- Stacks in service that no retirement awaits. -/
def State.lasting (s : State) : List Nat := s.evacDests

/-- STACK_RETIRE (0xE2, R98, R232, R233): the reply comes when the evacuation has ended. -/
def opStackRetire (h : Hdr) (k : Nat) (s : State) (c : Nat) (n : Word) : State × Ans :=
  match s.stack? k with
  | none => (s, .bad .badParam [])
  | some x =>
    if !x.inSvc || x.retiring || x.wait || s.lasting.length ≤ 1 then (s, .bad .badState [])
    else
      let f := match s.fenceOf h c with | some j => j + 1 | none => 0
      let s1 := s.modStack k fun y => { y with reply := some { order := h.q, count := n, tag := h.tag, fence := f, value := h.fval } }
      (s1.retire k, .later)

/-- STACK_RETIRE. -/
def execStackRetire (h : Hdr) (stack : Nat) (s : State) : Result := s.packet (.stackRetire h stack) (stackRetireInfo stack) h (opStackRetire h stack)

/-- STACK_PHY_TRAINING_LOSS: one loss and its retrain; three that fail retire the stack (R232, R418). -/
def execStackPhyTrainingLoss (stack : Nat) (retrained : Bool) (s : State) : Result :=
  match s.stack? stack with
  | none => .next s
  | some x =>
    let n := if retrained then 0 else x.fails + 1
    let s1 := (s.modStack stack fun y => { y with fails := n }).raiseEdge (768 + 8 * stack + 1)
    .next (if 3 ≤ n then s1.retire stack else s1).finish

/-- UNCORRECTABLE_READ of a sector that stack `stack` holds: counted; a move of the frame is abandoned, an evacuation loses it; more than 64
within 1 s retire the stack (R228, R232, R234). -/
def execUncorrectableRead (stack lpf sector : Nat) (s : State) : Result :=
  match s.stack? stack, s.frame? lpf with
  | some x, some f =>
    if sector < 256 && f.st.home == some stack then
      let i := lpf * 256 + sector
      let times := s.now :: x.uncorr.filter (fun t => decide (s.now < t + 100000000))
      let s1 := (s.onPool fun p => { p with bad := if p.bad.contains i then p.bad else i :: p.bad }).modStack stack fun y =>
        { y with uncorr := times }
      let s2 := s1.raiseEdge (768 + 8 * stack)
      let run := s2.pool.moves.find? (fun m => m.lpf == lpf)
      let s3 := match run with
        | some m => if m.evac then s2.loseFrame lpf else s2.abandon (fun x => x.lpf == lpf)
        | none => s2
      .next (if 64 < times.length then s3.retire stack else s3).finish
    else .next s
  | _, _ => .next s

end Sys2Proof.Machine
end

