-- ==== Sys2Proof/Machine/Power.lean ====
section
/-!
DEFINITION. Supply, power, temperature and power states (spec/15): voltage requests (R470, R471), power and thermal limits (R484, R485), the
supply monitor (R486 to R489) with the guarantees it suspends (R263), rate monitors (R475), cluster and control cluster states (R478 to R483).
-/

namespace Sys2Proof.Machine

/-! ## States (R478) -/

/-- Cluster `c` executes work: a dispatch runs on its engines, or its movers and CSQ do a fill, a copy, a fork or an eviction (R90, R201, R478). -/
def State.working (s : State) (c : Nat) : Bool :=
  s.sched.disps.any (fun d => (d.holds && d.engines.any (fun e => e / 16 == c)) || d.mover == some c)

/-- The state of cluster `c` as PWR_CSTATE shows it. -/
def State.cluState (s : State) (c : Nat) : Nat :=
  if !s.active c then 3 else if 2 ≤ (s.clu c).st then (s.clu c).st else if s.working c then 0 else 1

/-- The block's state. -/
def State.bstate (s : State) : Nat :=
  let l := s.actives.map s.cluState
  if l.contains 0 then 0 else if s.pwr.ccUp || l.contains 1 then 1 else if l.contains 2 then 2 else 3

/-- Issue is limited to (8 - THROT) / 8: the lower rate of the warning's half and the thermal throttle (R486, R489). -/
def Pwr.throtNow (p : Pwr) : Nat := if p.warn then max 4 p.throt else p.throt

/-! ## Voltage requests (R470, R471) -/

/-- The voltage that the block wants, in mV. -/
def State.wantMv (s : State) : Nat :=
  let p := s.pwr
  let r := min p.vtgt (min p.pceil p.tceil)
  max (if s.bstate = 3 then min r p.vdeep else r) 600

/-- One step of the request: at most 25 mV, at most once in 10 us, not upward during a warning. -/
def State.vstep (s : State) (ok : Bool) : State :=
  let p := s.pwr
  if p.avsErr then (if ok then s.onPwr fun x => { x with avsErr := false } else s)
  else
    let w := s.wantMv
    let r := if p.vreq < w then (if p.warn then p.vreq else min w (p.vreq + 25)) else max w (p.vreq - 25)
    if r = p.vreq ∨ s.now < p.lastV + usTicks 10 then s
    else if ok then (s.onPwr fun x => { x with vreq := r, lastV := s.now }).emit (.avs r)
    else s.onPwr fun x => { x with avsErr := true }

/-- Measurements in one average of PWR_POWER: 1 ms, and 10 ms while Sealed (R328, R491). -/
def State.powerWindow (s : State) : Nat := if s.sen.sec = 0 then 100 else 1000

/-- A measurement of `uw` microwatts: averages, ceiling, energy (R484, R264). -/
def State.measurePower (s : State) (mv uw : Nat) : State :=
  let p := s.pwr
  let avg := p.psusAvg + uw / 100000 - p.psusAvg / 100000
  let lim := p.plim * 1000000
  let sus := p.psus * 1000000
  let hot := decide (lim < uw) || decide (sus < avg)
  let cool := decide (100 * uw < 95 * lim) && decide (100 * avg < 95 * sus)
  let calm := if cool then p.calm + 1 else 0
  let ceil := if hot then p.pceil - 10 else if calm = 10 then min 850 (p.pceil + 5) else p.pceil
  let full := decide (s.powerWindow ≤ p.pCnt + 1)
  let s1 := (s.drew 20).onPwr fun x =>
    { x with
      meas := mv, psusAvg := avg, pceil := ceil, calm := if calm = 10 then 0 else calm, energy := x.energy + uw
      pSum := if full then 0 else x.pSum + uw, pCnt := if full then 0 else x.pCnt + 1
      power := if full then (x.pSum + uw) / (x.pCnt + 1) / 1000000 else x.power
      cpow := if full then (List.range 20).map (fun c => (c, Config.free (s.free + c) % 4096)) else x.cpow }
  ((s1.sched.disps.filter (·.holds)).map (·.ctx)).dedup.foldl (fun a c =>
    (a.drew 1).account c fun y => { y with energyUj := y.energyUj + BitVec.ofNat 64 (Config.energy a.free) }) s1

/-- POWER_MEASUREMENT: the voltage and the current read over AVSBus; `avsOk`: the bus answers (R470, R484). -/
def execPowerMeasurement (mv ma : Nat) (avsOk : Bool) (s : State) : Result :=
  .next (((s.measurePower mv (mv * ma)).onPwr fun p => { p with amps := ma }).vstep avsOk)

/-- The block energy in mJ: in steps of 100 mJ while Sealed (R328). -/
def State.energyMj (s : State) : Nat := if s.sen.sec = 0 then s.pwr.energy / 10 ^ 8 else s.pwr.energy / 10 ^ 10 * 100

/-! ## Temperature (R485) -/

/-- The dies at or above 120 degrees, with since when. -/
def hotDies (now : Nat) (old : Tab Nat) (temps : List Nat) : Tab Nat :=
  (temps.zipIdx.filter (fun e => decide (120 ≤ e.1))).map fun e => (e.2, tgetD old e.2 now)

/-- The sources of the dies follow their hottest readings and PWR_TTHR.THR (R485). -/
def State.hotSources (s : State) : State :=
  (s.pwr.temps.filter (fun e => decide (e.1 < 5))).foldl (fun a e => a.setCond (35 + e.1) (decide (s.pwr.tthr < e.2))) s

/-- The thermal ceiling, the throttle and the dies' sources, by the hottest reading of each die. -/
def State.thermal (s : State) (temps : List Nat) : State :=
  let thr := s.pwr.tthr
  (s.onPwr fun p =>
    { p with
      tempMax := temps.foldl max 0 % 128
      tceil := if temps.any (fun t => decide (thr < t)) then max 600 (p.tceil - 5)
        else if temps.all (fun t => decide (t + 2 ≤ thr)) then min 850 (p.tceil + 5) else p.tceil
      throt := if temps.any (fun t => decide (105 < t)) then min 7 (p.throt + 1) else p.throt - 1
      temps := temps.zipIdx.map fun e => (e.2, e.1)
      hot := hotDies s.now p.hot temps }).hotSources

/-- THERMAL_CEILING_STEP: the hottest reading of each die, and within it a voltage request; whether the regulator answers is a free value (R470,
R471; log entry 122). -/
def execThermalCeilingStep (temps : List Nat) (s : State) : Result :=
  let s1 := s.thermal temps
  .next ((s1.drew 1).vstep (s1.peek % 2 == 1))

/-! ## The supply monitor (R486, R487, R263) -/

/-- The runs in progress: polder and context. -/
def State.runsNow (s : State) : List (Nat × Nat) :=
  s.sched.polders.flatMap fun e => (e.2.resv.filter (·.inRun)).map fun r => (e.1, r.ctx)

/-- A dip begins: each run in progress counts it. -/
def State.dipBegins (s : State) : State :=
  let s1 := s.onSched fun x =>
    { x with polders := tmap x.polders fun _ p => { p with resv := p.resv.map fun r => if r.inRun then { r with dips := r.dips + 1 } else r } }
  (s1.onSched fun x =>
    { x with dipRuns := x.polders.flatMap fun e => (e.2.resv.filter (·.inRun)).map fun r => (e.1, r.ctx, r.dips) }).onPwr fun p =>
      { p with inDip := true }

/-- A warning begins: SUPPLY_WARN, issue at half rate, every polder's guarantee suspended. -/
def State.warnBegins (s : State) : State :=
  (((s.raiseEdge 33).onSched fun x =>
    { x with warned := s.runsNow, polders := tmap x.polders fun _ p => { p with susp := true } }).onPwr fun p => { p with warn := true })

/-- SUPPLY_WARN: a dip begins, and with it a warning where none is in progress. -/
def execSupplyWarn (s : State) : Result :=
  if s.pwr.inDip then .next s else .next (if s.pwr.warn then s.dipBegins else s.dipBegins.warnBegins)

/-- GUARANTEE_SUSPENDED for context `c`, with the dip's duration. -/
def State.suspendOne (s : State) (ticks c : Nat) : State :=
  (s.account c fun a => { a with suspensions := a.suspensions + 1 }).postEvent c (mkEv 5 .ok (s.ctxHandle c) 0 0 (BitVec.ofNat 64 ticks))

/-- The contexts that a dip's end suspends (R263): those whose run overlapped the warning where it lasted more than 50 us, else those whose
run it was the second dip of; each must still hold its feast admission. -/
def State.suspended (s : State) (ticks : Nat) : List Nat :=
  let l := if usTicks 50 < ticks then s.sched.warned else (s.sched.dipRuns.filter (fun e => e.2.2 == 2)).map (fun e => (e.1, e.2.1))
  ((l.filter (fun e => s.sched.adms.any (fun a => a.polder == e.1 && a.ctx == e.2 && a.feast))).map (·.2)).dedup

/-- Record a dip's depth and duration (R487, R488). -/
def State.noteDip (s : State) (mv ticks : Nat) : State := s.onPwr fun p => { p with dipMv := mv, dipDur := BitVec.ofNat 32 ticks }

/-- DIP_END: recorded, counted, and the guarantees of R263. -/
def execDipEnd (minMv ticks : Nat) (s : State) : Result :=
  if !s.pwr.inDip then .next s
  else
    let s1 := (s.noteDip minMv ticks).onPwr fun p =>
      { p with
        inDip := false, hyst := s.now, dipCnt := min 65535 (p.dipCnt + 1)
        worst := if p.worst = 0 then minMv else min p.worst minMv }
    .next (((s.suspended ticks).foldl (fun a c => a.suspendOne ticks c) s1).onSched fun x => { x with dipRuns := [] }).finish

/-- SUPPLY_CLEAR: the supply has stood above the warning level for 100 us. -/
def execSupplyClear (s : State) : Result :=
  if !s.pwr.warn || s.pwr.inDip || decide (s.now < s.pwr.hyst + usTicks 100) then .next s
  else
    .next (((s.raiseEdge 34).onPwr fun p => { p with warn := false }).onSched fun x =>
      { x with warned := [], dipRuns := [], polders := tmap x.polders fun _ p => { p with susp := false } })

/-! ## Rate monitors (R475, R72) -/

/-- The floor of cluster `c` in MHz. -/
def State.rateFloor (s : State) (c : Nat) : Nat := tgetD s.pwr.floors c 1010

/-- RATE_UPDATE: the 1 ms averages of the 20 rate monitors in MHz; the almanac's RATE entry is rewritten, its GENERATION unchanged. While
Sealed the entry averages ten of them. -/
def execRateUpdate (mhz : List Nat) (s : State) : Result :=
  let on := s.actives.filter (fun c => decide ((s.clu c).st ≤ 1))
  let s2 := on.foldl (fun a c => if mhz.getD c 0 < a.rateFloor c then a.raiseEdge (256 + 16 * c + 5) else a) s
  let (s3, r) := match (on.map (fun c => mhz.getD c 0)).min? with
    | some m => (s2, m)
    | none => (s2.drew 1, s2.peek % 2 ^ 32)
  let a := s3.alm
  .next { s3 with alm :=
    if s.sen.sec = 0 then { a with rate := r, sum := 0, cnt := 0 }
    else if a.cnt + 1 < 10 then { a with sum := a.sum + r, cnt := a.cnt + 1 }
    else { a with rate := (a.sum + r) / 10, sum := 0, cnt := 0 } }

/-! ## Cluster states (R480 to R483) -/

/-- Every KV_APPEND and KV_ATTEND that has started (R459). -/
def Disp.kvStarted (d : Disp) : Bool := d.started && d.work.onEngines && d.work.kvObj.isSome

/-- A pre-empted KV operation keeps its partial state in cluster `c` (R202). -/
def Disp.kvPartial (d : Disp) (c : Nat) : Bool := d.kvStarted && d.state == .preempted && d.kvEngs.any (fun e => e / 16 == c)

/-- What keeps cluster `c` from sleeping (R480): work, KV partial state, a message, a feast admission in a polder that holds a unit of it. -/
def State.mayNap (s : State) (c : Nat) : Bool :=
  s.active c && !s.sched.disps.any (fun d => d.engines.any (fun e => e / 16 == c) || d.kvPartial c || d.mover == some c) && (s.mbox (12 + c)).msgs.isEmpty &&
    !s.sched.polders.any (fun e => e.2.clusters.contains c && s.sched.adms.any (fun a => a.polder == e.1 && a.feast))

/-- CLUSTER_NAP_ENTRY: Idle for NAPDLY without interruption; its rate reads 0 (R491). -/
def execClusterNapEntry (c : Nat) (s : State) : Result :=
  if (s.clu c).st ≤ 1 ∧ s.mayNap c = true ∧ s.pwr.napDly ≠ 0 ∧ (s.clu c).since + usTicks s.pwr.napDly ≤ s.now then
    .next ((s.setClu c 2).onPwr fun p => { p with mhz := tdel p.mhz c })
  else .next s

/-- CLUSTER_DEEP_ENTRY: in Nap for DEEPDLY. -/
def execClusterDeepEntry (c : Nat) (s : State) : Result :=
  if (s.clu c).st = 2 ∧ s.mayNap c = true ∧ s.pwr.deepDly ≠ 0 ∧ (s.clu c).since + usTicks (1000 * s.pwr.deepDly) ≤ s.now then
    .next ((s.setClu c 3).dropUcode c)
  else .next s

/-- What wakes cluster `c` (R482): a message for its CSQ, or a start that the scheduler makes next on its engines. -/
def State.wakeDue (s : State) (c : Nat) : Bool :=
  (s.mbox (12 + c)).wake || s.sched.polders.any fun e => match s.nextStart e.1 e.2 with
    | some (_, some es) => !thas s.sched.resets e.1 && es.any (fun x => x / 16 == c)
    | _ => false

/-- CLUSTER_WAKE: the ramp of a wake ends; it pauses while a supply warning lasts (R483). -/
def execClusterWake (c : Nat) (s : State) : Result :=
  if s.wakeDue c && s.active c && !s.pwr.warn && !s.brg.maint then .next (s.wakeCluster c)
  else .next s

/-! ## The control cluster (R428, R481) -/

/-- PWR_CCSLEEP_REQ. -/
def execPwrCcsleepReq (p : Path) (s : State) : Result := s.onBar0 p 0xB0034 fun s => s.onPwr fun x => { x with ccReq := true }

/-- A firmware packet is in service: it is issued, has no reply yet, and is not one that waits in the line. -/
def State.serving (s : State) : Bool :=
  s.objs.queues.any (fun e => e.2.fwBusy.isSome && !s.objs.fwQ.any (fun w => w.queue == e.1))

/-- CONTROL_CLUSTER_DOWN: every active cluster sleeps and no firmware packet is in service; the EVC's state is kept. -/
def execControlClusterDown (s : State) : Result :=
  if s.pwr.ccReq && s.pwr.ccUp && s.actives.all (fun c => decide (2 ≤ (s.clu c).st)) && !s.serving then
    let s1 := s.onPwr fun p => { p with ccUp := false, ccReq := false }
    .next { s1 with evc := { s1.evc with saved := true } }
  else .next s

/-- A wake request for the control cluster: a source that some core would take, or a message that waits for it (R428, R433). -/
def State.ccWakes (s : State) : Bool :=
  (List.range 8).any (fun n => s.evc.srcs.any (fun e => s.eligible n e.1)) || s.mbx.boxes.any (fun e => e.2.wake && mbxReceiver e.1 == .control)

/-- The control cluster is up again, for a wake request that stands. -/
def State.ccUp (s : State) : State :=
  if !s.pwr.ccUp && s.ccWakes then
    let s1 := (s.dashed []).onPwr fun p => { p with ccUp := true }
    let s2 : State := { s1 with evc := { s1.evc with saved := false } }
    (s2.mbx.boxes.filter (fun e => e.2.wake && mbxReceiver e.1 == .control)).foldl (fun a e =>
      (a.modMbox e.1 fun x => { x with wake := false }).noteNonempty e.1) s2
  else s

end Sys2Proof.Machine
end

