-- ==== Sys2Proof/Machine/Boot.lean ====
section
/-!
DEFINITION. Bring-up and the whole resets (spec/14): image checks (R442 to R447), the defect map (R450, R451), licences (R454, R455), READY (R456),
cold and block reset (R438 to R441, R462), and what the block still writes when it fails (R290). One command carries a bring-up whole.
-/

namespace Sys2Proof.Machine

/-! ## Images (R337, R338, R444, R445) -/

/-- A chain that verifies and reaches the Crebry root digest. -/
def Sen.reaches (x : Sen) (k : Chain) : Bool := k.sigOk && k.root == x.fused.rootDig

/-- The largest body of a component (R442); the MMC's has no stated limit. -/
def bodyMax (comp : Nat) : Nat := if comp = 2 then 2 ^ 22 else if comp = 3 then 2 ^ 32 - 1 else 2 ^ 23

/-- The container of component `comp` is in order (R337, R442): its header's fields, and then the native chain, signature and body digest, or the legacy
container's signature, tag under the image key and plaintext digest. The boot ROM alone takes the legacy container, which counts as the component of its
slot. -/
def Sen.containerOk (x : Sen) (i : Image) (comp : Nat) : Bool :=
  i.present && !i.rsvd && i.sigOk && i.bodyOk &&
    (if i.legacy then
      i.magic == 0x32315154 && i.format == 0x0103 && i.hdrLen == 256 && i.keySlot == 0 && i.tagOk && i.key == x.fused.imgKey && comp != 3
    else
      i.magic == 0x4E574643 && i.format == 0x0200 && i.hdrLen == 512 && decide (i.bodyLen ≤ bodyMax comp) && decide (i.certLen % 8 = 0) &&
        x.reaches i.chain && i.component == comp)

/-- Checks 1 to 3 of R444 for component `comp` under the fused values `x`. -/
def Sen.imageOk (x : Sen) (i : Image) (comp : Nat) : Bool := x.containerOk i comp && decide (x.svn ≤ i.svn)

/-- The descriptor and the pairing table of a control firmware body (R443): 1 to 1,024 entries within the body, the zero bytes zero. -/
def tableOk (i : Image) : Bool :=
  i.padOk && decide (1 ≤ i.pairs.length) && decide (i.pairs.length ≤ 1024) && decide (i.tableOff + 8 * i.pairs.length ≤ i.bodyLen)

/-- A control firmware image passes R444. -/
def Sen.firmwareOk (x : Sen) (i : Image) (comp stepping : Nat) : Bool :=
  x.imageOk i comp && tableOk i && i.pairs.any (fun e => e.1 == stepping)

/-- The control firmware that runs, and whether it is the golden image. -/
def Sen.firmwareOf (x : Sen) (b : Boot) (stepping : Nat) : Option (Image × Bool) :=
  if x.firmwareOk b.fw 1 stepping then some (b.fw, false) else if x.firmwareOk b.golden 4 stepping then some (b.golden, true) else none

/-- The microcode passes R445 under control firmware `fw`. -/
def Sen.microcodeOk (x : Sen) (b : Boot) (fw : Image) (stepping : Nat) : Bool := x.imageOk b.ucode 2 && fw.pairs.contains (stepping, b.ucode.version)

/-- A certificate that the SEN accepts: its key is the fused one, its chain reaches the Crebry root digest (R291). -/
def Sen.accepts (x : Sen) (k : Chain) : Bool := k.leafOk && x.reaches k

/-! ## Licences (R3, R454, R455) -/

/-- A record whose signature, DEVICE, FEATURE and VALUE are valid on the block with identity `dev`. -/
def recordOk (dev : DWord) (r : LicRec) : Bool :=
  r.sigOk && !r.rsvd && r.device == dev && ((decide (r.feature ≤ 4) && r.value == 1) || (r.feature == 16 && (r.value == 12 || r.value == 16 || r.value == 20)) ||
    (r.feature == 17 && decide (1 ≤ r.value) && decide (r.value ≤ 16)))

/-- The licence set's header and chain are in order (R454). -/
def Sen.setOk (x : Sen) (l : LicSet) : Bool :=
  l.magic == 0x5353434C && l.format == 0x0100 && l.count == l.recs.length && decide (1 ≤ l.count) && decide (l.count ≤ 64) && l.chainLen != 0 &&
    l.rsvd == 0 && x.reaches l.chain

/-- The valid records of the licence set. -/
def Sen.licences (x : Sen) (l : LicSet) : List LicRec := if x.setOk l then l.recs.filter (recordOk x.device) else []

/-! ## The credential bundle (R330) -/

/-- The key of a live slot has signed the bundle. -/
def Sen.bundleOk (x : Sen) (b : Bundle) : Bool :=
  b.sigOk && (List.range 4).any fun k => x.burnt.getLsbD k && !x.revoked.getLsbD k && tget x.digests k == some b.signer

/-! ## The integrator's store (R413) -/

/-- What a bring-up reads, with the components that firmware update has written into the store in place of those that it brings. -/
def Store.over (t : Store) (b : Boot) : Boot :=
  { b with
    fw := t.fw.getD b.fw, golden := t.golden.getD b.golden, ucode := t.ucode.getD b.ucode, mmcFw := t.mmcFw.getD b.mmcFw, lics := t.lics.getD b.lics
    bundle := t.bundle.getD b.bundle, idCert := t.certs.elim b.idCert (·.1), linkCert := t.certs.elim b.linkCert (·.2) }

/-- What the MMC reads from the store (R440 stage 1): its own firmware where that verifies, the bundle and the certificates. -/
def State.readStore (s : State) (b : Boot) : State :=
  let x := s.sen
  let s1 := if x.containerOk b.mmcFw 3 then s.onBrg fun y => { y with mmcVer := b.mmcFw.version, mmcDig := b.mmcFw.digest } else s
  let live := x.bundleOk b.bundle
  s1.onSen fun y =>
    { y with
      credOk := live, vendors := if live then b.bundle.vendors.take 8 else [], creds := if live then b.bundle.creds else []
      certOk := x.accepts b.idCert, linkOk := x.accepts b.linkCert }

/-- A switched feature is in force under the valid records `l`. -/
def switched (l : List LicRec) (f : Nat) : Bool := l.any (fun r => r.feature == f)

/-- The largest valid count of a counted feature. -/
def counted (l : List LicRec) (f : Nat) : Nat := ((l.filter (fun r => r.feature == f)).map (·.value)).foldl max 0

/-- Unpaired-run is not in force while confidential mode is. -/
def unpairedRun (l : List LicRec) : Bool := switched l 4 && !switched l 0

/-- The licences in force under the valid records `l` of a set with digest `dig`. -/
def Brg.licensed (x : Brg) (l : List LicRec) (dig : Nat) : Brg :=
  { x with
    lConf := switched l 0, lCq4 := switched l 1, lRemote := switched l 2, lForced := switched l 3
    lUnpair := unpairedRun l, lClust := counted l 16, lPorts := counted l 17, lDig := dig }

/-! ## The defect map (R450, R451, R453) -/

/-- Engines j < 16 among failed physical engines. -/
def lowBad (bad : BitVec 17) : List Nat := (List.range 16).filter bad.getLsbD

/-- The lowest cause code of a failed cluster, 0 for none; without a run only the engines count. -/
def failCause (bad : BitVec 17) (r : Option KatResult) : Nat :=
  if 2 ≤ (lowBad bad).length || (lowBad bad != [] && bad.getLsbD 16) then 1
  else
    match r with
    | none => 0
    | some k => if !k.store then 2 else if !k.mover then 3 else if !k.csq then 4 else if !k.icu then 5 else 0

/-- The map entry of a cluster whose physical engines `bad` have failed since the last whole reset. -/
def defectOf (bad : BitVec 17) (r : Option KatResult) (active : Bool) : Defect :=
  let cause := failCause bad r
  let spare := (lowBad bad).length == 1 && !bad.getLsbD 16
  { good := ~~~bad, spareFor := if spare then (lowBad bad).headD 0 else 0, spareUsed := spare, failed := cause != 0
    active := active && cause == 0, cause := cause, bad := bad }

/-- The physical engines that a known-answer run adds to the failed ones. -/
def newBad (bad : BitVec 17) (r : Option KatResult) : BitVec 17 := match r with | some k => bad ||| ~~~k.pass | none => bad

/-- The run's result for cluster `c`, if stage 6 runs. -/
def bootKat (b : Boot) (runs : Bool) (c : Nat) : Option KatResult := if runs then b.kat[c]? else none

/-- The defect map of bring-up, every cluster not yet active. -/
def bootDefects (b : Boot) (runs : Bool) : Tab Defect :=
  (List.range 20).map fun c =>
    (c, defectOf (newBad (~~~(b.fuseGood.getD c 0x1FFFF#17)) (bootKat b runs c)) (bootKat b runs c) false)

/-- The n lowest clusters that are not failed are active (R455). -/
def activate (n : Nat) (t : Tab Defect) : Tab Defect :=
  let on := (tkeys t (fun d => !d.failed)).take n
  tmap t fun c d => { d with active := on.contains c }

/-! ## Stacks and links (R440 stages 7 and 8) -/

/-- A stack as bring-up leaves it (R231, R232). -/
def Stack.start (ok : Bool) : Stack :=
  { inSvc := ok, retiring := false, wait := false, cap := 50, fails := 0, uncorr := [], smp := 0, evac := 0, reply := none }

/-- The stacks: those that train, less those whose ICU failed. -/
def bootStacks (b : Boot) (runs : Bool) : Tab Stack :=
  (List.range 20).map fun k => (k, Stack.start (b.stackOk.getLsbD k && (match bootKat b runs k with | some r => r.icu | none => true)))

/-- A far end that shows no signal. -/
def noFarEnd : FarEnd :=
  { signal := false, phy := false, lanes := 0, ident := 0, attach := false, width := 0, vcs := 0, ded := [], cap := 0, coord := (0, 0, 0)
    rdisp := false, chain := { leafOk := false, sigOk := false, root := 0 }, share := 0, certDig := 0 }

/-- The links at reset: STATE 1 where the link exists and its port is licensed, else 0 (R345). -/
def State.freshLinks (s : State) : State :=
  s.onLinks fun k => { k with tab := (List.range 48).map fun l => (l, Link.reset (b1 (s.linkExists l && s.linkLicensed l))) }

/-- Stage 8: the link configuration record is written and locked, and the enabled links train. -/
def State.bootLinks (s : State) (b : Boot) : State :=
  match b.links with
  | none => s.freshLinks
  | some r =>
    let s1 := (s.onLinks fun k =>
      { k with bifur := r.bifur, dimX := r.dims.1, dimY := r.dims.2.1, dimZ := r.dims.2.2, kind := r.kind, coord := r.coord }).freshLinks
    let s2 := r.links.foldl (fun a e => a.modLink e.link fun x =>
      if a.linkExists e.link && a.linkLicensed e.link then
        { x with attach := e.attach, vcsCfg := e.vcs % 4, dir := e.dir % 8, enable := e.enable }
      else x) s1
    let s3 := s2.onLinks fun k => { k with lock := true }
    (tkeys s3.links.tab (·.enable)).foldl (fun a l => a.train l (((b.far.find? (fun e => e.1 == l)).map (·.2)).getD noFarEnd)) s3

/-! ## READY (R242, R274, R456) -/

/-- Slice 0 as it is bound at READY; the frame quota is unlimited. -/
def Slice.zero (port : Nat) (now : Nat) : Slice :=
  { gen := 1, state := .active, pasid := 0, port := port, conf := false, vecBase := 0, vecCount := 16, qCtx := 64, qQueue := 256, qFence := 1024
    qFrame := none, hostBw := 0, linkBw := 0, root := 0, shares := [(0, 100)], nextSh := [], deficit := [], dirty := none, tokens := 6553600
    tokTime := now, mr := 0, mrBase := 0, log := [], logSeq := 0, dropped := 0, reports := 0, qReply := none }

/-- Polder 0 as it is shaped at READY. -/
def Polder.zero (units : BitVec 40) (now : Nat) : Polder :=
  { units := units, dayUs := 250, feast := 0, excl := 0, nFeast := 0, nExcl := 0, dayStart := now, day := 0, rot := 0, owner := none
    claimant := none, resv := [], susp := false }

/-- The units of every active cluster (R242). -/
def State.activeUnits (s : State) : BitVec 40 := s.actives.foldl (fun m c => m ||| (3#40 <<< (2 * c))) 0

/-- Stage 10. -/
def State.setReady (s : State) (b : Boot) : State :=
  let admin := b.admin.getD 0 % 4
  let s1 : State := { s with mmc := { s.mmc with admin := admin, lock := true } }
  let s2 := s1.onBrg fun x => { x with stage := 10, ready := true, bootUs := b.bootUs % 2 ^ 32 }
  let s3 := s2.onSlices fun x => { x with tab := tset x.tab 0 (Slice.zero admin s.now) }
  let s4 := s3.onSched fun x => { x with polders := tset x.polders 0 (Polder.zero s.activeUnits s.now) }
  s4.freeze.almanac

/-! ## The stages (R440, R441) -/

/-- Bring-up stops at a stage. -/
def State.bootFails (s : State) (stage : Nat) : State := s.onBrg fun x => { x with stage := stage, fail := true }

/-- A known-answer run of bring-up ends: its sources (R418). -/
def State.katEnds (s : State) (c : Nat) (d : Defect) : State :=
  let s1 := s.raiseEdge (256 + 16 * c + 3)
  if d.spareUsed || d.failed then s1.raiseEdge (256 + 16 * c + 4) else s1

/-- Stages 4 to 10 with control firmware `fw`. -/
def State.bootRest (s : State) (b : Boot) (fw : Image) : State :=
  let ok := s.sen.microcodeOk b fw s.brg.stepping
  let lics := s.sen.licences b.lics
  let unp := unpairedRun lics
  let runs := ok || unp
  let map := bootDefects b runs
  let good := runs && s.sen.imageOk b.ucode 2
  let legacy := fw.legacy || (good && b.ucode.legacy)
  let s1 := s.onBrg fun x =>
    { x.licensed lics b.lics.digest with
      stage := 9, ucodeOk := ok, maint := !runs, unpaired := unp, ucVer := b.ucode.version, ucDig := b.ucode.digest, legacy := legacy
      defects := activate (counted lics 16) map
      uStore := if good then (List.range 4).map fun k => (k, (b.ucode.version, b.ucode.digest)) else [] }
  let s2 := s1.onSen fun x => { x with unpaired := unp, legacy := legacy, sec := if switched lics 3 then 2 else 0 }
  let s3 := (s2.onPool fun p => { p with stks := bootStacks b runs }).layInternal
  let s4 := if runs then s2.actives.foldl State.loadUcode (map.foldl (fun a e => a.katEnds e.1 e.2) s3)
    else s3.onPwr fun p => { p with clus := (List.range 20).map fun c => (c, { st := 3, since := s.now }) }
  (s4.bootLinks b).setReady b

/-- Stages 2 to 10. -/
def State.bootStages (s : State) (b : Boot) : State :=
  match s.sen.firmwareOf b s.brg.stepping with
  | none => s.bootFails 2
  | some (fw, gold) =>
    let s1 := s.onBrg fun x =>
      { x with
        stage := 3, golden := gold, fwSrc := gold, legacy := fw.legacy, romVer := b.romVer, fwVer := fw.version, fwSvn := fw.svn, fwDig := fw.digest }
    let s2 := s1.onSen fun x => { x with legacy := fw.legacy }
    if b.hubOk then s2.bootRest b fw else s2.bootFails 3

/-- The DRBG draws the boot nonce, the debug challenge and the ICUs' transport keys, and the ICUs get the block's own key sets (R293, R295, R462,
R513); an entropy source that fails its test is recorded. -/
def State.draws (s : State) (b : Boot) : State :=
  let s1 := ((s.drew 22).asked 22).onSen fun x =>
    { x with
      bootNonce := Config.free s.free % 2 ^ 128, entropy := !b.entropyOk, keys := [.table, .internal], icus := newIcus (s.free + 2)
      dbg := { x.dbg with challenge := BitVec.ofNat 64 (Config.free (s.free + 1)) } }
  if b.entropyOk then s1 else s1.raiseEdge 40

/-! ## Cold reset (R438, R439) -/

/-- The fuses survive everything (R291): the fused keys and digests, security version, slots, identities. -/
def Sen.fuses (x : Sen) : Sen :=
  { Sen.empty with
    svn := x.svn, burnt := x.burnt, revoked := x.revoked, digests := x.digests, device := x.device, nextSess := x.nextSess, fused := x.fused
    linkDev := x.linkDev }

/-- Every domain is reset, the integrator's store is not; the commands that wait, the free values and the outputs are the model's own and go on. -/
def State.cold (s : State) : State :=
  { State.reset with
    sen := s.sen.fuses, brg := { Brg.empty with stepping := s.brg.stepping }, mmc := { State.reset.mmc with staged := s.mmc.staged }
    pending := s.pending, free := s.free, out := s.out }

/-- Stage 1: the fuses are sensed; a fuse once burnt stays burnt. -/
def State.sense (s : State) (b : Boot) : State :=
  (s.onSen fun x =>
    { x with
      svn := max x.svn b.svn, burnt := x.burnt ||| b.burnt, revoked := x.revoked ||| b.revoked, device := b.device, linkDev := b.linkDev, fused := b.fused
      digests := (List.range 4).foldl (fun t k =>
        if b.burnt.getLsbD k && !x.burnt.getLsbD k then tset t k (b.slots.getD k 0) else t) x.digests }).onBrg fun x =>
          { x with stepping := b.stepping % 65536, stage := 1 }

/-- Stages 1 to 10 from a cold reset; the always-on counter starts at 0. -/
def State.coldBoot (s : State) (b : Boot) : State :=
  let s1 : State := { s.cold with now := usTicks b.bootUs }
  let s2 := s1.sense b
  let c := s.mmc.staged.over b
  if s2.sen.containerOk c.mmcFw 3 then ((s2.draws c).readStore c).bootStages c else s2.bootFails 1

/-! ## Block reset (R290, R462) -/

/-- The replies that are still owed, with DEVICE_LOST. -/
def State.lostReplies (s : State) : State :=
  let s1 := s.objs.queues.foldl (fun a e =>
    let a1 := match e.2.wait with | some w => a.reply e.1 w.count w.tag 0x61 .deviceLost 0 [] | none => a
    e.2.signals.foldl (fun a p => a.reply e.1 p.count p.tag 0x60 .deviceLost 0 []) a1) s
  let s1 := s.objs.fwQ.foldl (fun a e => a.reply e.queue e.count e.hdr.tag e.code .deviceLost 0 []) s1
  let s2 := s.pool.backs.foldl (fun a x => a.reply x.queue x.count x.tag 0x08 .deviceLost 0 []) s1
  let s3 := (s.slices.tab.filterMap (·.2.qReply)).foldl (fun a p => a.reply p.order p.count p.tag 0xAA .deviceLost 0 []) s2
  let s4 := (s.sched.resets.map (·.2.2)).foldl (fun a p => a.reply p.order p.count p.tag 0xE0 .deviceLost 0 []) s3
  (s.pool.stks.filterMap (·.2.reply)).foldl (fun a p => a.reply p.order p.count p.tag 0xE2 .deviceLost 0 []) s4

/-- A block that fails writes for QUIESCED slices too: what waited for them goes out (R289, R290). -/
def State.unquiet (s : State) : State :=
  let s1 := s.onSlices fun x => { x with tab := tmap x.tab fun _ l => if l.state = .quiesced then { l with state := .quiescing } else l }
  (tkeys s1.slices.tab (fun _ => true)).foldl State.postDue s1

/-- What a failing block still writes (R290), where a slice other than slice 0 exists. -/
def State.deviceLost (s : State) : State :=
  if s.slices.tab.any (fun e => e.1 != 0) then
    let s1 := s.unquiet.lostReplies
    let s2 := s.objs.notes.foldl (fun a n =>
      let v := match s.fence? n.fence with | some f => f.value | none => 0
      a.postEvent n.ctx (mkEv 2 .deviceLost (s.fenceHandle n.fence) n.cookie v 0)) s1
    (tkeys s.objs.ctxs (fun _ => true)).foldl (fun a c => a.postEvent c (mkEv 3 .deviceLost (s.ctxHandle c) 0 0 0)) s2
  else s

/-- The always-on power settings, dip and energy records (R491). -/
def Pwr.kept (p : Pwr) (trip : Bool) : Pwr :=
  { Pwr.empty with
    ttrip := trip, vtgt := p.vtgt, vdeep := p.vdeep, plim := p.plim, psus := p.psus, energy := p.energy, dipMv := p.dipMv, dipDur := p.dipDur
    dipCnt := p.dipCnt, worst := p.worst, tthr := p.tthr, hot := p.hot, napDly := p.napDly, deepDly := p.deepDly, floors := p.floors }

/-- Everything but the always-on domain is reset (R462, R465); mailbox 3's abort is recorded for the MMC, which is told of it (R432, R434). -/
def State.afterBlock (s : State) (cause : Nat) (trip : Bool) : State :=
  let n := (s.mbox 3).msgs.length
  let s1 : State :=
    { State.reset with
      now := s.now, pending := s.pending, free := s.free, out := s.out, sen := s.sen.fuses
      brg := { Brg.empty with cause := cause, count := min 255 (s.brg.count + 1), stepping := s.brg.stepping, mmcVer := s.brg.mmcVer, mmcDig := s.brg.mmcDig }
      evc := { srcs := [], cores := [], wires := s.evc.wires, saved := false }
      mbx := { boxes := [], mmcAbort := s.mbx.mmcAbort || n != 0, mmcDrop := if n = 0 then s.mbx.mmcDrop else n, attached := false }
      pwr := s.pwr.kept trip
      mmc := { addr := s.mmc.addr, eid := s.mmc.eid, staged := s.mmc.staged, admin := 0, lock := false } }
  let s2 := if n = 0 then s1 else s1.emit (.mail 3 .mmc 2)
  (List.range 32).foldl (fun a i => if (a.wire i).mode ≤ 1 then a.setCond (1 + i) (a.wire i).asserted else a) s2

/-- A block reset with cause `cause`, and bring-up from stage 2; a block that is held in cold reset or stopped at stage 1 stays there. -/
def State.blockBoot (s : State) (cause : Nat) (trip : Bool) (b : Boot) : State :=
  if s.brg.stage ≤ 1 then s
  else
    let s1 := s.afterBlock cause trip
    let c := s.mmc.staged.over b
    ((({ s1 with now := s.now + usTicks b.bootUs }).draws c).readStore c).bootStages c

/-- COLD_RESET: COLD_RST_N is low. -/
def execColdReset (s : State) : Result := .next s.deviceLost.cold

/-- COLD_RESET_RELEASE: COLD_RST_N rises; a block that is not held in reset has nothing to release. -/
def execColdResetRelease (b : Boot) (s : State) : Result := .next (if s.brg.stage = 0 then s.coldBoot b else s)

/-- BLOCK_RESET with BRG_CAUSE 1 to 3, no other cause being one of a block reset (R466); a supply reset leaves no time for R290's writes. -/
def execBlockReset (cause : Nat) (b : Boot) (s : State) : Result :=
  .next (if 1 ≤ cause ∧ cause ≤ 3 then (if cause = 1 then s else s.deviceLost).blockBoot cause false b else s)

/-- FATAL_INTERNAL_ERROR (R463). -/
def execFatalInternalError (b : Boot) (s : State) : Result := .next (s.deviceLost.blockBoot 3 false b)

/-- SUPPLY_RESET (R488): below 0.52 V for 2 us; the depth and duration up to then are recorded. -/
def execSupplyReset (minMv ticks : Nat) (b : Boot) (s : State) : Result :=
  if s.brg.stage = 0 then .next s else .next ((s.noteDip minMv ticks).blockBoot 1 false b)

/-- THERMAL_TRIP (R485): the die has stood at or above 120 degrees for 1 ms, so the MMC orders a block reset. -/
def execThermalTrip (die : Nat) (b : Boot) (s : State) : Result :=
  if decide (die < 5) && (tget s.pwr.hot die).any (fun t => decide (t + 100000 ≤ s.now)) then .next (s.deviceLost.blockBoot 2 true b)
  else .next s

/-! ## Watchdogs (R463) -/

/-- The firmware packets whose service the dying core had begun are answered with ABORTED; the spec does not say which core serves a packet, so
free value `d` says so of each. -/
def State.abortPackets (s : State) (d : Nat) : State :=
  let mine (n : Nat) : Bool := d.testBit n
  let s1 := (s.pool.backs.filter (fun x => mine x.queue)).foldl (fun a x => a.failBack x .aborted) s
  let s2 := (s.slices.tab.filter (fun e => e.2.qReply.any (fun p => mine p.order))).foldl (fun a e => a.abortQuiesce e.1) s1
  let s3 := s2.sched.resets.foldl (fun a e =>
    if mine e.2.2.order then
      (a.onSched fun x => { x with resets := tmap x.resets (fun _ r => (r.1, r.2.orphan e.2.2.order)) }).late e.2.2 0xE0 .aborted []
    else a) s2
  s.pool.stks.foldl (fun a e => match e.2.reply with
    | some p => if mine p.order then (a.modStack e.1 fun x => { x with reply := none }).late p 0xE2 .aborted [] else a
    | none => a) s3

/-- WATCHDOG_EXPIRY of control core `core`: its claims return; the eighth core reset within 1 s is a fatal internal error. -/
def execWatchdogExpiry (core : Nat) (b : Boot) (s : State) : Result :=
  if 8 ≤ core then .next s
  else
    let l := s.now :: s.brg.coreRst.filter (fun t => decide (s.now < t + 100000000))
    let s1 := ((s.drew 1).resetCore core).onBrg fun x => { x with coreRst := l }
    if 8 ≤ l.length then .next (s1.deviceLost.blockBoot 3 false b)
    else .next (s1.abortPackets s.peek).finish

end Sys2Proof.Machine
end

