-- ==== Sys2Proof/Machine/Resets.lean ====
section
/-!
DEFINITION. The partial resets (R457 to R461), known-answer runs after READY (R453), and uncorrectable SRAM errors (R497).
-/

namespace Sys2Proof.Machine

/-! ## Aborts (R459) -/

/-- Reset logical engine `n`. -/
def State.resetEngine (s : State) (n : Nat) : State := ((s.abortWhere fun d => d.engines.contains n).zeroed fun e _ => e == n).dashed [n / 16]

/-- Reset the compute of cluster `c`: its work, its KV partial states and its mailbox (R434); it ends Idle, and the KV_FORKs and KV_EVICTs that
the reset interrupted are finished before anything is decoded again (R520). -/
def State.resetCluster (s : State) (c : Nat) : State :=
  let s1 := s.abortWhere fun d => d.engines.any (fun e => e / 16 == c) || d.kvPartial c
  ((((s1.zeroed fun e _ => e / 16 == c).mbxClear (12 + c)).wakeCluster c).dashed [c]).kvResume

/-- A polder reset is in its window, and one of its units meets `p`: a reset or a run there waits (R457, R464). -/
def State.inReset (s : State) (p : Nat → Bool) : Bool :=
  s.sched.resets.any fun e => (s.polder? e.1).any fun x => (List.range 40).any fun u => x.units.getLsbD u && p u

/-! ## Known-answer runs (R453) -/

/-- BRG_DEFECT of cluster `c`. -/
def State.defect (s : State) (c : Nat) : Defect := (tget s.brg.defects c).getD (defectOf 0x1FFFF none false)

/-- Cluster `c` carries work, or the partial state of a pre-empted KV operation. -/
def State.carries (s : State) (c : Nat) : Bool :=
  s.sched.disps.any (fun d => d.engines.any (fun e => e / 16 == c) || d.kvPartial c)

/-- A cluster has failed: its units leave their polders, the admissions that no longer pass are withdrawn, and the polders' calendars start again
(R243 steps 1 to 3). -/
def State.dropCluster (s : State) (c : Nat) : State :=
  let m : BitVec 40 := 3#40 <<< (2 * c)
  let hit := s.sched.polders.filter (fun e => e.2.units &&& m != 0)
  let s1 := hit.foldl (fun a e => a.reshape e.1 (e.2.units &&& ~~~m) e.2.dayUs) s
  let bad := s1.sched.adms.filter fun a => hit.any (fun e => e.1 == a.polder) && (match s1.polder? a.polder with
    | some p => !s1.admOk a.polder p a
    | none => true)
  (((bad.foldl (fun a x => a.withdraw x.ctx x.polder) s1).restarts s).setClu c 3).dropUcode c

/-- A run of cluster `c` ends with result `r` and leaves every register zeroed (R450): an engine that has failed stays out, a spare that is in use
fails the cluster, a failed ICU takes the stack out of service. -/
def State.applyKat (s : State) (c : Nat) (r : KatResult) : State :=
  let d := s.defect c
  let n := defectOf (newBad d.bad (some r)) (some r) d.active
  let s1 := ((s.zeroed fun e _ => e / 16 == c).onBrg fun x => { x with defects := tset x.defects c n }).raiseEdge (256 + 16 * c + 3)
  let s2 := if n = d then s1 else s1.raiseEdge (256 + 16 * c + 4)
  let s3 := if n.failed && !d.failed then (s2.dropCluster c).almanac else s2
  if r.icu then s3 else s3.retire c

/-- The mask of a KAT_RUN reply: logical engine j is mapped to an engine that passed and is in service. -/
def katMask (d : Defect) (r : KatResult) : Nat :=
  ((List.range 16).map fun j =>
    let p := if d.spareUsed && d.spareFor == j then 16 else j
    2 ^ j * b1 (r.pass.getLsbD p && d.good.getLsbD p)).sum

/-- KAT_RUN's checks and run. -/
def opKatRun (c : Nat) (r : KatResult) (s : State) (_ : Nat) : Except Status (State × List Nat) := do
  check (!s.brg.maint) .heldVersion
  check (s.active c) .badState
  check (!s.carries c && !s.inReset (fun u => u / 2 == c)) .busy
  let s1 := ((s.wakeCluster c).setClu c 1).applyKat c r
  return (s1, leNats 2 (katMask (s1.defect c) r))

/-- KAT_RUN (0xE1). -/
def execKatRun (h : Hdr) (cluster : Nat) (r : KatResult) (s : State) : Result :=
  s.packet (.katRun h cluster r) (katRunInfo cluster) h fun s c _ => answerOf s (opKatRun cluster r s c)

/-! ## RESET_REQUEST (R457, R460) -/

/-- RESET_REQUEST of kind 0 (0xE0). -/
def execResetRequestEngine (h : Hdr) (n : Nat) (s : State) : Result :=
  s.packet (.resetRequestEngine h n) (resetRequestInfo 0 n) h fun s _ _ => answerOf s (do
    check (s.active (n / 16)) .badState
    check (!s.inReset (fun u => u == n / 8)) .busy
    return (s.resetEngine n, []))

/-- RESET_REQUEST of kind 1. -/
def execResetRequestCluster (h : Hdr) (n : Nat) (s : State) : Result :=
  s.packet (.resetRequestCluster h n) (resetRequestInfo 1 n) h fun s _ _ => answerOf s (do
    check (s.active n) .badState
    check (!s.inReset (fun u => u / 2 == n)) .busy
    return (s.resetCluster n, []))

/-- A polder reset opens its window: the reply comes when it ends (R457, R459). -/
def opResetPolder (h : Hdr) (k : Nat) (s : State) (c : Nat) (n : Word) : State × Ans :=
  match s.polder? k with
  | none => (s, .bad .badParam [])
  | some x =>
    if s.inReset (fun u => x.units.getLsbD u) || thas s.sched.resets k then (s, .bad .busy [])
    else
      let p : PendSig := { order := h.q, count := n, tag := h.tag, fence := (s.fenceOf h c).elim 0 (· + 1), value := h.fval }
      (s.onSched fun y => { y with resets := tset y.resets k (s.now, p) }, .later)

/-- RESET_REQUEST of kind 2. -/
def execResetRequestPolder (h : Hdr) (n : Nat) (s : State) : Result :=
  s.packet (.resetRequestPolder h n) (resetRequestInfo 2 n) h (opResetPolder h n)

/-- The inner reset: aborts, mailboxes 12 to 31, translation caches and placement moves, PLE_MOVES and SCH_PREEMPT (not kept across it, R218, R270),
every active cluster off and on, its run; the KV_FORKs and KV_EVICTs that it interrupted are finished (R520). -/
def State.inner (s : State) (kat : List KatResult) : State :=
  let s1 := s.abortWhere fun d => d.engines != [] || d.kvStarted
  let s2 := (List.range 20).foldl (fun a c => a.mbxClear (12 + c)) s1
  let s3 := ((s2.abandon (fun m => !m.evac)).onPool fun p => { p with tlb := [], pmap := [], waitQ := [], moved := 0, movedHid := 0 }).onSched fun x =>
    { x with preempts := 0, preHid := 0, dirty := [] }
  let s4 := s3.dashed (List.range 20)
  if s.brg.maint then s4.almanac
  else
    let up := s.actives
    let s5 := up.foldl (fun a c => ((a.wakeCluster c).loadUcode c).setClu c 1) s4
    (up.foldl (fun a c => match kat[c]? with | some r => a.applyKat c r | none => a) s5).almanac.kvResume

/-- RESET_REQUEST of kind 3; its logical number is 0. -/
def execInnerReset (h : Hdr) (n : Nat) (kat : List KatResult) (s : State) : Result :=
  s.packet (.innerReset h n kat) (resetRequestInfo 3 n) h fun s _ _ => answerOf s (do
    check (n == 0) .badParam
    check s.sched.resets.isEmpty .busy
    return (s.inner kat, []))

/-! ## SRAM errors (R497, R498) -/

/-- Count an uncorrectable error of cluster `c`, with where it struck. -/
def State.noteEcc (s : State) (c engine store addr : Nat) : State :=
  let s1 : State := { s with ecc := { s.ecc with
    uncorr := tset s.ecc.uncorr c (min 65535 (tgetD s.ecc.uncorr c 0 + 1)), last := tset s.ecc.last c (engine, store, addr % 2 ^ 24) } }
  s1.raiseEdge (256 + 16 * c)

/-- SRAM_UNCORRECTABLE_ERROR: `addr` is the word address; an engine or cluster that the block does not have has no SRAM. -/
def execSramUncorrectableError (w : EccWhere) (addr : Nat) (b : Boot) (s : State) : Result :=
  match w with
  | .engine e st =>
    .next (if 320 ≤ e then s else ((s.noteEcc (e / 16) (e % 16) (st % 8) addr).resetEngine e).finish)
  | .staging c =>
    .next (if 20 ≤ c then s else (s.noteEcc c 0 4 addr).onSched fun x =>
      { x with disps := x.disps.map fun d => { d with staged := d.staged.filter (fun u => u.cluster != c) } })
  | .kvPartial c ref =>
    .next (if 20 ≤ c then s else ((s.noteEcc c 0 4 addr).abortWhere fun d => d.ref == ref && d.kvStarted).finish)
  | .save c ref =>
    .next (if 20 ≤ c then s else ((s.noteEcc c 0 4 addr).abortWhere fun d => d.ref == ref && d.started).finish)
  | .csq c => .next (if 20 ≤ c then s else ((s.noteEcc c 0 5 addr).resetCluster c).finish)
  | .hub => .next (s.deviceLost.blockBoot 3 false b)
  | .keyStore => .next (s.deviceLost.blockBoot 3 false b)

end Sys2Proof.Machine
end

