-- ==== Sys2Proof/Machine/Line.lean ====
section
/-!
DEFINITION. The firmware's line at work (R83, R84, R285): the firmware packets that waited are served, when the control cluster is up again and
when a quiesce that held them ends.
-/

namespace Sys2Proof.Machine

/-- The meaning of a firmware packet: what the firmware does with the entry of its line that holds this command. -/
def firmware (i : Instr) (s : State) : Result :=
  match i with
  | .ctxCreate h ring log2 vec => execCtxCreate h ring log2 vec s
  | .ctxDestroy h target => execCtxDestroy h target s
  | .queueCreate h a => execQueueCreate h a s
  | .ctxSetRing h addr obj log2 vec => execCtxSetRing h addr obj log2 vec s
  | .queueDestroy h queue => execQueueDestroy h queue s
  | .queueStart h queue => execQueueStart h queue s
  | .queueStop h queue => execQueueStop h queue s
  | .moCreate h base len ty mflags => execMoCreate h base len ty mflags s
  | .moFree h obj => execMoFree h obj s
  | .moSeal h obj => execMoSeal h obj s
  | .fenceCreate h init => execFenceCreate h init s
  | .fenceFree h f => execFenceFree h f s
  | .programLoad h obj off => execProgramLoad h obj off s
  | .programFree h prog => execProgramFree h prog s
  | .queueSetWeight h queue weight => execQueueSetWeight h queue weight s
  | .moFill h obj val off len => execMoFill h obj val off len s
  | .moCopy h src dst srcOff dstOff len => execMoCopy h src dst srcOff dstOff len s
  | .moPlaceHint h obj policy => execMoPlaceHint h obj policy s
  | .ctxSetSlowdown h thr => execCtxSetSlowdown h thr s
  | .txnBegin h => execTxnBegin h s
  | .txnCommit h t => execTxnCommit h t s
  | .txnAbort h t => execTxnAbort h t s
  | .queryAlmanac h obj off => execQueryAlmanac h obj off s
  | .queryFence h f => execQueryFence h f s
  | .queryContext h target obj off => execQueryContext h target obj off s
  | .queryMo h obj => execQueryMo h obj s
  | .queryQueue h queue => execQueryQueue h queue s
  | .queryDigest h src dst off => execQueryDigest h src dst off s
  | .sliceCreate h a => execSliceCreate h a s
  | .sliceDestroy h slice => execSliceDestroy h slice s
  | .sliceSetQuota h slice field val => execSliceSetQuota h slice field val s
  | .sliceSetShare h slice polder weight => execSliceSetShare h slice polder weight s
  | .polderShape h polder units dayUs => execPolderShape h polder units dayUs s
  | .polderCalendar h polder feast excl => execPolderCalendar h polder feast excl s
  | .polderAdmit h target polder kind days prog => execPolderAdmit h target polder kind days prog s
  | .linkShape h a => execLinkShape h a s
  | .pdFramesBacked h req status => execPdFramesBacked h req status s
  | .sliceDirtyLog h slice on hostMap poolMap ranges => execSliceDirtyLog h slice on hostMap poolMap ranges s
  | .sliceQuiesce h slice => execSliceQuiesce h slice s
  | .sliceResume h slice => State.resumePacket h slice s
  | .sluiceSet h stack cap => execSluiceSet h stack cap s
  | .embankmentSet h pct => execEmbankmentSet h pct s
  | .placementMode h mode => execPlacementMode h mode s
  | .keyRotate h target => execKeyRotate h target s
  | .keyPolicy h target ival cap => execKeyPolicy h target ival cap s
  | .attestReport h obj nonce => execAttestReport h obj nonce s
  | .resetRequestEngine h n => execResetRequestEngine h n s
  | .resetRequestCluster h n => execResetRequestCluster h n s
  | .resetRequestPolder h n => execResetRequestPolder h n s
  | .innerReset h n kat => execInnerReset h n kat s
  | .katRun h cluster r => execKatRun h cluster r s
  | .stackRetire h stack => execStackRetire h stack s
  | .unassignedOpcode h op => execUnassignedOpcode h op s
  | _ => .next s

/-- Serve what the firmware may take from its line, in its order. -/
def State.lineGo : Nat → State → State
  | 0, s => s
  | n + 1, s =>
    match s.fwHead with
    | none => s
    | some e =>
      match firmware e.cmd s with
      | .next t => State.lineGo n t
      | _ => s

/-- `lineGo` with fuel for every entry; a cluster that is down serves none. -/
def State.lineServe (s : State) : State := if s.pwr.ccUp then State.lineGo s.objs.fwQ.length s else s

/-- A command after which the firmware goes on with its line. -/
def thenLine (r : Result) : Result := match r with | .next t => .next t.lineServe | r => r

/-- SLICE_RESUME (0xAB, R285 step 2, R287). -/
def execSliceResume (h : Hdr) (slice : Handle) (s : State) : Result := thenLine (State.resumePacket h slice s)

/-- CONTROL_CLUSTER_WAKE: the block leaves Nap or Deep (R478), the domain is up again, the notices that waited are given, and the firmware serves its
line. A supply warning does not hold it: R483 pauses power gates' ramps, of which this domain has none (R482). -/
def execControlClusterWake (s : State) : Result := thenLine (.next s.ccUp)

end Sys2Proof.Machine
end

