-- ==== Sys2Proof/Machine/Mgmt.lean ====
section
/-!
DEFINITION. The management port (R411 to R415): MCTP control, PLDM firmware update (R413), and the vendor-defined commands that burn slots, burn the
security version and order resets (R330, R338, R414).
-/

namespace Sys2Proof.Machine

/-! ## MCTP control (R412) -/

/-- The block has an MCTP message to send: it announces each packet, of at most the baseline unit, with an in-band interrupt (R411, R412). -/
def State.mctp (s : State) (body : List Nat) : State :=
  (pieces 64 0 body.length).foldl (fun a e => (a.emit .inBand).emit (.mctp ((body.drop e.1).take e.2))) s

/-- The I3C bus owner gives the target its dynamic address; one that has an address keeps it (log entry 257). -/
def State.i3cAddr (s : State) (a : Nat) : State :=
  if s.mmc.addr.isSome then s else { s with mmc := { s.mmc with addr := some (a % 128) } }

/-- MCTP_CONTROL: a request of the types that R412 lists, in transmission units of `unit` bytes up to the largest, is answered; any other is discarded, and
so is one before the target has its dynamic address. The identifier and the versions are free values. A cold reset interrupts the port (R411). -/
def execMctpControl (unit : Nat) (r : MctpReq) (s : State) : Result :=
  .next <| if s.brg.stage = 0 then s
    else
      match r with
      | .setdasa a => s.i3cAddr a
      | .entdaa a => s.i3cAddr a
      | _ =>
        if s.mmc.addr.isNone || decide (256 < unit) then s
        else
          match r with
          | .setEid e => { s.mctp [1, e % 256] with mmc := { s.mmc with eid := e % 256 } }
          | .getEid => s.mctp [2, s.mmc.eid]
          | .getUuid => (s.drew 16).mctp (3 :: (s.freeBytes 16).map (·.toNat))
          | .getVersion => (s.drew 4).mctp (4 :: (s.freeBytes 4).map (·.toNat))
          | .getTypes => s.mctp [5, 0x00, 0x01, 0x05, 0x06, 0x7E]
          | _ => s

/-! ## Sessions (R294, R331, R414) -/

/-- An open management session, and whether it is the claim session. -/
def State.mgmt (s : State) (k : Nat) (claim : Bool) : Bool := s.sen.sessions.any fun x => x.id == k && x.at_ == .mgmt && x.claim == claim

/-- The answer to a vendor-defined command. -/
def State.answerMgmt (s : State) (k : Nat) (ok : Bool) : State := s.emit (.spdm (k + 1) ok [])

/-- A command of a management session: accepted, with its effect, or refused. -/
def State.onMgmt (s : State) (k : Nat) (claim : Bool) (ok : Bool) (f : State → State) : Result :=
  if s.mgmt k claim then .next (if ok then (f s).answerMgmt k true else s.answerMgmt k false) else .next s

/-! ## PLDM (R413) -/

/-- At VerifyComplete the MMC checks the container format and the signature of a component; the store with a component that passes. -/
def Sen.verified (x : Sen) (t : Store) (c : Component) : Option Store :=
  match c with
  | .image 1 i => if x.containerOk i 1 then some { t with fw := some i } else none
  | .image 2 i => if x.containerOk i 2 then some { t with ucode := some i } else none
  | .image 3 i => if x.containerOk i 3 then some { t with mmcFw := some i } else none
  | .image 4 i => if x.containerOk i 4 then some { t with golden := some i } else none
  | .image _ _ => none
  | .licences l => if x.setOk l then some { t with lics := some l } else none
  | .bundle b => if x.bundleOk b then some { t with bundle := some b } else none
  | .certs i l => if x.accepts i && x.accepts l then some { t with certs := some (i, l) } else none
  | .unknown _ => none

/-- A component that has verified is written into the integrator's store, and takes effect at the next block reset (R332). -/
def State.stageComponent (s : State) (c : Component) : State :=
  match s.sen.verified s.mmc.staged c with
  | some t => { s with mmc := { s.mmc with staged := t } }
  | none => s

/-- A numeric sensor, by the model's number: block power in W, core voltage in mV, core current in mA, the temperatures of the five dies, the block's
energy in mJ. Power and energy are coarse while Sealed (R328). -/
def State.sensor (s : State) (n : Nat) : Option Nat :=
  if n = 0 then some s.pwr.power
  else if n = 1 then some s.pwr.meas
  else if n = 2 then some s.pwr.amps
  else if n < 8 then some (tgetD s.pwr.temps (n - 3) 0)
  else if n = 8 then some s.energyMj
  else none

/-- The component is the MMC's firmware. -/
def mmcImage : Component → Bool | .image 3 _ => true | _ => false

/-- PLDM_FIRMWARE_UPDATE and the other PLDM requests: the types, the sensors, and a component, which is staged where it verifies. An MMC whose own firmware
failed serves component 3 alone, which no session can precede (R441). -/
def execPldmFirmwareUpdate (sess : Nat) (r : PldmReq) (s : State) : Result :=
  if s.mmcFailed then .next (match r with | .update c => if mmcImage c then s.stageComponent c else s | _ => s)
  else
    match r with
    | .types => if s.mgmt sess false then .next (s.spdm (some sess) (some [0, 2, 5])) else .next s
    | .sensor n => if s.mgmt sess false then .next (s.spdm (some sess) ((s.sensor n).map (leNats 8))) else .next s
    | .update c => s.onMgmt sess false (s.sen.verified s.mmc.staged c).isSome fun s => s.stageComponent c

/-- CLAIM_SLOT (0x01): in the claim session, while no slot is burnt, with the digest of the requester's own root; burns slot 0. -/
def execClaimSlot (sess digest : Nat) (s : State) : Result :=
  s.onMgmt sess true (s.sen.burnt == 0 && s.sen.sessions.any (fun x => x.id == sess && x.root == digest)) fun s =>
    s.onSen fun x => { x with burnt := x.burnt ||| 1, digests := tset x.digests 0 digest }

/-- BURN_SLOT (0x02), signed by the key of a live slot; a burnt slot cannot be burnt again. -/
def execBurnSlot (sess slot digest signer : Nat) (sigOk : Bool) (s : State) : Result :=
  s.onMgmt sess false (decide (slot < 4) && s.liveSlot signer && sigOk && !s.sen.burnt.getLsbD slot) fun s =>
    s.onSen fun x => { x with burnt := x.burnt ||| (1#4 <<< slot), digests := tset x.digests slot digest }

/-- REVOKE_SLOT (0x03): the last live slot is not revoked. -/
def execRevokeSlot (sess slot signer : Nat) (sigOk : Bool) (s : State) : Result :=
  s.onMgmt sess false (decide (slot < 4) && s.liveSlot signer && sigOk && s.liveSlots != [slot]) fun s =>
    s.onSen fun x => { x with revoked := x.revoked ||| (1#4 <<< slot) }

/-- BURN_SVN (0x04): up to an SVN at or below the running image's; burning is irreversible. -/
def execBurnSvn (sess svn signer : Nat) (sigOk : Bool) (s : State) : Result :=
  s.onMgmt sess false (decide (svn ≤ s.brg.fwSvn) && s.liveSlot signer && sigOk) fun s => s.onSen fun x => { x with svn := max x.svn svn }

/-- RESET of kind 0 (0x05): a block reset. -/
def execResetBlock (sess : Nat) (b : Boot) (s : State) : Result :=
  if s.mgmt sess false then .next (s.deviceLost.blockBoot 2 false b) else .next s

/-- RESET of kind 1: a cold reset, with the bring-up that follows it. -/
def execResetCold (sess : Nat) (b : Boot) (s : State) : Result :=
  if s.mgmt sess false then .next (s.deviceLost.coldBoot b) else .next s

end Sys2Proof.Machine
end

