-- ==== Sys2Proof/Machine/Scan.lean ====
section
/-!
DEFINITION. The register spaces beside the BARs, each with a number of the model's own in the BAR operand: the debug port's scan instructions
(R334, R336, R416, R513), a host port's configuration space (R392, R401, R456) and its HDM decoder registers (R404). Log entry 259 gives the offsets.
-/

namespace Sys2Proof.Machine

/-! ## Words -/

/-- The low or the high half of a 64-bit value. -/
def half (v i : Nat) : Nat := bits v (32 * i) 32

/-- A 64-bit number with its low or its high half replaced. -/
def withHalf (d i v : Nat) : Nat := if i = 0 then half d 1 * 2 ^ 32 + v else v * 2 ^ 32 + half d 0

/-! ## The debug port -/

/-- Debug is unlocked with bit `i` of the scope (R334). -/
def State.scoped (s : State) (i : Nat) : Bool := s.sen.dbg.unlocked && s.sen.dbg.scope.getLsbD i

/-- Seconds of unlock left (R513). -/
def State.remain (s : State) : Nat := if s.sen.dbg.unlocked then ceilDiv (s.sen.dbg.expiry - s.now) 100000000 else 0

/-- DBG_STAT (R513). -/
def State.dbgStat (s : State) : Nat :=
  let d := s.sen.dbg
  bits d.scope.toNat 0 4 + 16 * b1 d.unlocked + 32 * b1 d.refused + 2 ^ 15 * (s.remain % 2 ^ 17)

/-- The pins that SAMPLE captures, of which the model holds the levels of the wired inputs (R416). -/
def State.pins (s : State) : Nat := ((List.range 32).map fun i => 2 ^ i * b1 (s.wire i).raw).sum

/-- The engine of a dispatch that has `e`. -/
def State.engineAt (s : State) (e : Nat) : Option Engine :=
  (s.sched.disps.find? (·.engines.contains e)).bind fun d => tget d.engs (d.engines.idxOf e)

/-- Word `w` of an engine's registers as the debugger numbers them: the vector registers, then S, A and the general ones by halves, the predicates, and
the bundle counter. One that nothing has written holds what the last dispatch left: a free value where the engine has not been zeroed since. -/
def State.engineWord (s : State) (e w : Nat) : Nat :=
  let open_ := if thas s.sched.dirty e || (s.engineAt e).any (·.seed.isSome) then s.peek else 0
  match s.engineAt e with
  | none => open_ % 2 ^ 32
  | some x =>
    let dw (t : Tab DWord) (i : Nat) : Nat := match tget t (i / 2) with | some v => half v.toNat (i % 2) | none => half open_ (i % 2)
    if w < 0x10000 then (match tget x.v w with | some v => v.toNat | none => open_ % 2 ^ 32)
    else if w < 0x10100 then dw x.s (w - 0x10000)
    else if w < 0x10200 then dw x.a (w - 0x10100)
    else if w < 0x10300 then dw x.gen (w - 0x10200)
    else if w < 0x10400 then
      (match tget x.p ((w - 0x10300) / 16) with | some v => bits v.toNat (32 * ((w - 0x10300) % 16)) 32 | none => open_ % 2 ^ 32)
    else if w = 0x10400 then x.pc
    else 0

/-- A scan read of an engine's register: an error while its cluster is in Deep; retained values are read in Nap, and no cluster wakes (R336). -/
def State.scanEngine (s : State) (o : Nat) : State :=
  let e := o / 0x80000
  if !(s.scoped 2 && s.active (e / 16)) then s.emit (.value .debug 0)
  else if s.cluState (e / 16) = 3 then s.emit .poweredOff
  else (s.drew 1).emit (.value .debug (s.engineWord e (o % 0x80000 / 4)))

/-- A control core's word: whether it is halted; then its memory, which the manual gives no contents, so a free value. -/
def State.scanCore (s : State) (o : Nat) : State :=
  let v := if o % 0x1000000 = 0 then b1 (s.sen.dbg.halted.contains (o / 0x1000000)) else s.peek % 2 ^ 32
  (s.drew 1).emit (.value .debug (if s.scoped 0 then v else 0))

/-- A scan instruction that reads (R416): IDCODE, BYPASS, SAMPLE, CHALLENGE in its 64 bits, DBG_STAT, and what the scope opens: trace, cores, engine
registers. -/
def State.scanRead (s : State) (o : Nat) : State :=
  if o < 0x100 then
    s.emit (.value .debug (match o with
      | 0x00 => Config.idcode % 2 ^ 32
      | 0x08 => s.pins
      | 0x18 => s.sen.dbg.challenge.toNat
      | 0x20 => s.dbgStat
      | _ => 0))
  else if o < 0x8000000 then s.emit (.value .debug (if s.scoped 1 then leNat ((s.sen.dbg.buf.drop (o - 0x100)).take 4) else 0))
  else if o < 0x10000000 then s.scanCore (o - 0x8000000)
  else s.scanEngine (o - 0x10000000)

/-- A debugger's command to control core `n`: halt, resume, or a step, after which the core stands halted. -/
def Debug.run (d : Debug) (n v : Nat) : Debug :=
  if v = 1 then { d with halted := (n :: d.halted).dedup }
  else if v = 2 then { d with halted := d.halted.filter (· != n) }
  else d

/-- A scan instruction that writes: EXTEST, with scope bit 3 while Open; DBG_CTRL; a core's control word and its breakpoints. A write of an engine
register has no scope, and one of a core's memory is seen by its firmware alone. -/
def State.scanWrite (s : State) (o v : Nat) : State :=
  if o = 0x10 then (if s.scoped 3 && s.sen.sec == 0 then s.emit (.pins v) else s)
  else if o = 0x24 then (if v.testBit 0 then s.onSen fun x => { x with dbg := if x.dbg.unlocked then x.dbg.close else x.dbg } else s)
  else if 0x8000000 ≤ o ∧ o < 0x10000000 ∧ s.scoped 0 = true then
    let n := (o - 0x8000000) / 0x1000000
    let r := (o - 0x8000000) % 0x1000000
    if r = 0 then s.onSen fun x => { x with dbg := x.dbg.run n (v % 4) }
    else if r = 4 then s.onSen fun x => { x with dbg := { x.dbg with brks := ((n, v) :: x.dbg.brks).dedup } }
    else if r = 8 then s.onSen fun x => { x with dbg := { x.dbg with brks := x.dbg.brks.filter (· != (n, v)) } }
    else s
  else s

/-! ## The configuration space -/

/-- The size of a BAR (R395). -/
def barSize (b : Nat) : Nat := match b with | 0 => 0x1000000 | 2 => 0x2000000 | 4 => 0x100000 | _ => 2 ^ 32

/-- A locked item of a port changes: the interfaces on it that are locked or run go to ERROR (R316, R401). -/
def State.lockedItem (s : State) (q : Nat) (changed : Bool) : State :=
  if changed then ((s.slices.tab.filter (fun e => e.2.conf && e.2.port == q && s.tee e.1)).map (·.1)).foldl State.toError s else s

/-- The configuration registers of a port's function. -/
def Port.cfg (p : Port) (o : Nat) : Nat :=
  match o with
  | 0x000 => Config.vendorId % 65536 + 65536 * 0x0040
  | 0x004 => p.cmd
  | 0x008 => 0x12000000
  | 0x100 => b1 p.pasidOn
  | 0x104 => b1 p.atsOn
  | 0x108 => b1 p.priOn
  | 0x10C => 2047 + 2 ^ 14 * b1 p.fmask
  | _ => if 0x10 ≤ o ∧ o < 0x28 then half (tgetD p.bars ((o - 0x10) / 8 * 2) 0) (o % 8 / 4) + 4 * b1 (o % 8 == 0) else 0

/-- A configuration write. The Command register holds the bits that PCIe gives a function of this kind; the low bits of a BAR are its size's. PRI that is
enabled again takes page requests again (R398). -/
def Port.setCfg (p : Port) (o v : Nat) : Port :=
  match o with
  | 0x004 => { p with cmd := v &&& 0x546 }
  | 0x100 => { p with pasidOn := v.testBit 0 }
  | 0x104 => { p with atsOn := v.testBit 0 }
  | 0x108 => { p with priOn := v.testBit 0, priBad := p.priBad && (p.priOn || !v.testBit 0) }
  | _ =>
    if 0x10 ≤ o ∧ o < 0x28 then
      let b := (o - 0x10) / 8 * 2
      { p with bars := tset p.bars b (withHalf (tgetD p.bars b 0) (o % 8 / 4) v / barSize b * barSize b) }
    else p

/-- A configuration request's write: a change of a register that R401 lists is one of a locked item, the MSI-X function mask is none. -/
def State.cfgWrite (s : State) (q o v : Nat) : State :=
  if o = 0x10C then s.setFmask q (v.testBit 14)
  else (s.modPort q fun x => x.setCfg o v).lockedItem q ((s.port q).cfg o != ((s.port q).setCfg o v).cfg o)

/-! ## HDM decoders -/

/-- Word `w` of decoder `k`: base and size by halves. -/
def Port.hdmWord (p : Port) (k w : Nat) : Nat :=
  let d := tgetD p.hdm k (0, 0)
  if w < 2 then half (2 ^ 28 * d.1) w else if w < 4 then half (2 ^ 28 * d.2) (w - 2) else 0

/-- A write of decoder `k` of the eight: base and size, in units of 256 MiB. -/
def Port.setHdm (p : Port) (k w v : Nat) : Port :=
  let d := tgetD p.hdm k (0, 0)
  if 8 ≤ k ∨ 4 ≤ w then p
  else { p with hdm := tset p.hdm k (if w < 2 then (withHalf (2 ^ 28 * d.1) w v / 2 ^ 28, d.2) else (d.1, withHalf (2 ^ 28 * d.2) (w - 2) v / 2 ^ 28)) }

/-! ## Requests to these spaces -/

/-- A configuration request, before READY answered with Request Retry Status (R456). -/
def State.onCfg (s : State) (p : Path) (f : Nat → State) : State :=
  match p with
  | .host q none _ => if s.brg.ready then f q else s.emit (.retryStatus q)
  | _ => s.deny p

/-- A request to a port's own memory-mapped registers. -/
def State.onOwn (s : State) (p : Path) (f : Nat → State) : State :=
  match p with
  | .host q none _ => if s.brg.ready then f q else s.deny p
  | _ => s.deny p

/-- A read of space 5, 6 or 7. -/
def State.readSide (s : State) (p : Path) (bar off : Nat) : State :=
  if bar = 5 then (match p with | .debug => s.scanRead off | _ => s.denyRead p)
  else if bar = 6 then s.onCfg p fun q => s.emit (.value p ((s.port q).cfg off))
  else s.onOwn p fun q => s.emit (.value p ((s.port q).hdmWord (off / 32) (off % 32 / 4)))

/-- A write of one word of space 5, 6 or 7. -/
def State.writeSide (s : State) (p : Path) (bar off v : Nat) : State :=
  if bar = 5 then (match p with | .debug => s.scanWrite off v | _ => s.deny p)
  else if bar = 6 then s.onCfg p fun q => s.cfgWrite q off v
  else s.onOwn p fun q => s.modPort q fun x => x.setHdm (off / 32) (off % 32 / 4) v

end Sys2Proof.Machine
end

