-- ==== Sys2Proof/Machine/Regs.lean ====
section
/-!
DEFINITION. Register reads and writes (spec/17): the BAR0 map of R505 and R514 with the field maps of each unit, BAR2 and BAR4 pages (R395), access
codes (R13) and widths (R509). Every register is accessed as 32-bit words; an access of 8 bytes to two of them is made in ascending order.
-/

namespace Sys2Proof.Machine

/-! ## Reads -/

/-- A 32-bit word of little-endian bytes. -/
def wordOf (d : List Byte) (o : Nat) : Nat := leNat ((d.drop o).take 4)

/-- State number of a slice slot (R276). -/
def SliceState.no : SliceState → Nat
  | .active => 1 | .quiescing => 2 | .quiesced => 3 | .destroying => 4

/-- The slice registers (R275). -/
def State.rdSlice (s : State) (o : Nat) : Nat :=
  let x := s.slices
  if o < 0x2000 then
    let l := o / 16
    match o % 16, s.slice? l with
    | 0, some y =>
      y.pasid + 2 ^ 20 * y.port + 2 ^ 22 * b1 (tgetD x.bindErr l false) + 2 ^ 23 * b1 y.conf + 2 ^ 24 * y.state.no
    | 0, none => 2 ^ 22 * b1 (tgetD x.bindErr l false)
    | 4, some y => y.vecBase + 4096 * y.vecCount
    | 4, none => 4096 * 16
    | _, _ => 0
  else
    match o with
    | 0x2000 => half x.s0Evt.toNat 0
    | 0x2004 => half x.s0Evt.toNat 1
    | 0x2008 => half x.s0Q.toNat 0
    | 0x200C => half x.s0Q.toNat 1
    | 0x2010 => half x.s0R.toNat 0
    | 0x2014 => half x.s0R.toNat 1
    | 0x2018 => x.s0Log2 + 256 * x.s0QLog2 + 65536 * x.s0Vec
    | 0x201C => b1 x.s0Done + 65536 * x.s0Stat.code
    | _ => 0

/-- The host-port registers (R407, R410). -/
def State.rdHost (s : State) (o : Nat) : Nat :=
  let q := o / 0x400
  let p := s.port q
  let r := o % 0x400
  if 4 ≤ q then 0
  else if 0x50 ≤ r ∧ r < 0xC0 then
    let w := tgetD p.wins ((r - 0x40) / 16) Win.reset
    match r % 16 with
    | 0 => w.ctx.toNat
    | 4 => w.cva / 2 ^ 28 + 2 ^ 31 * b1 w.valid
    | 8 => 2 * b1 w.err
    | _ => 0
  else
    match r with
    | 0x000 => b1 p.up + 2 * (p.rate % 8) + 16 * (p.width % 32) + 512 * b1 p.cxl + 1024 * b1 (s.mmc.lock && s.adminPort q)
    | 0x004 => p.toMs
    | 0x008 => p.memErr.toNat
    | 0x00C => half p.memAdr.toNat 0
    | 0x010 => half p.memAdr.toNat 1
    | 0x014 => p.ur.toNat
    | _ => 0

/-- The fault registers (R498); while Sealed, ADDR reads zero. -/
def State.rdFault (s : State) (o : Nat) : Nat :=
  if o < 160 then
    let c := o / 8
    if o % 8 = 0 then tgetD s.ecc.corr c 0 + 65536 * tgetD s.ecc.uncorr c 0
    else
      match tget s.ecc.last c with
      | some (e, st, a) => e + 16 * st + 256 * (if s.sen.sec = 0 then a else 0)
      | none => 0
  else if o = 0x100 then s.ecc.ksErr.toNat
  else 0

/-- A request record's word (R208). -/
def Req.word (r : Req) (w : Nat) : Nat :=
  wordOf (leBytes 8 r.req ++ leBytes 4 r.ctx.toNat ++ leBytes 4 r.obj.toNat ++ leBytes 8 r.base ++ leBytes 8 r.frames) (4 * w)

/-- The placement registers (R218). -/
def State.rdPle (s : State) (o : Nat) : Nat :=
  let p := s.pool
  if o < 0x4000 then (match tget p.roots (o / 4) with | some r => r.1 + 2 ^ 31 * b1 r.2 | none => 0)
  else if 0x8000 ≤ o ∧ o < 0xA000 then
    (match tget p.recs ((o - 0x8000) / 32) with | some r => r.word (o % 32 / 4) | none => 0)
  else
    match o with
    | 0x4000 => p.fLpf
    | 0x4004 => p.fCount
    | 0x400C => p.fReq.toNat
    | 0x4010 => 65536 * p.fStat.code
    | 0x4014 => p.rStack + 32 * p.rState + 256 * p.rOwner
    | 0x4020 => p.invCtx
    | 0x4028 => half (65536 * p.invBase) 0
    | 0x402C => half (65536 * p.invBase) 1
    | 0x4030 => p.invPages.toNat
    | 0x4034 => 2 * b1 p.invJob.isSome
    | 0x4048 => (readCount (s.sen.sec != 0) 1000000 s.now p.moved p.movedHid p.movedAt).1.toNat
    | _ => 0

/-- SCH_PSTATE of polder `k`; while Sealed, BUSY is that of the last 100 us boundary (R328). -/
def State.pstate (s : State) (k : Nat) (p : Polder) : Nat :=
  let busy := if s.sen.sec = 0 then s.busyIn p else tgetD s.sched.busyAt k 0
  p.day + 64 * p.kind + 256 * b1 p.owner.isSome + 512 * b1 (p.resv.any (fun r => !r.inRun)) + 1024 * b1 p.susp + 65536 * busy

/-- The scheduler registers (R270). -/
def State.rdSch (s : State) (o : Nat) : Nat :=
  if o < 0x1000 then half (tgetD s.sched.jobs (o / 8) 0).toNat (o % 8 / 4)
  else if o < 0x1100 then
    match s.polder? ((o - 0x1000) / 16), o % 16 with
    | some p, 0 => s.pstate ((o - 0x1000) / 16) p
    | some p, 4 => p.dayStart % 2 ^ 32
    | some p, 8 => p.rot.toNat
    | _, _ => 0
  else if o = 0x1100 then (readCount (s.sen.sec != 0) 10000 s.now s.sched.preempts s.sched.preHid s.sched.preAt).1.toNat
  else 0

/-- 32 bits, one for each source of word `w`; bit 0 of word 0, which has no source, reads `z`. -/
def State.srcWord (s : State) (w : Nat) (z : Bool) (f : Src → Bool) : Nat :=
  ((List.range 32).map fun b => 2 ^ b * b1 (if 32 * w + b = 0 then z else f (s.src (32 * w + b)))).sum

/-- The event registers (R429); EVC_CLAIM has an effect and is read apart. -/
def State.rdEvc (s : State) (o : Nat) : Nat :=
  if o < 0x2000 then
    if o < 4 then 0
    else
      let x := s.src (o / 4)
      x.prio + 256 * x.target.toNat + 65536 * b1 (s.isLevel (o / 4))
  else if o < 0x2200 then s.srcWord (o % 256 / 4) false (·.pend)
  else if o < 0x2400 then s.srcWord (o % 256 / 4) true (·.masked)
  else if o < 0x2500 then s.srcWord (o % 256 / 4) false (·.active)
  else if 0x3000 ≤ o ∧ o < 0x3200 ∧ o % 64 = 8 then
    let c := s.core ((o - 0x3000) / 64)
    c.run + 16 * c.stack.length + 65536 * (c.stack.head?.elim 0 (·.1)) + 2 ^ 27 * b1 c.eoiErr
  else if 0x4000 ≤ o ∧ o < 0x4080 then
    let w := s.wire ((o - 0x4000) / 4)
    w.filt + 256 * w.mode + 65536 * b1 w.raw + 131072 * b1 w.filtered
  else 0

/-- The cluster of a mailbox's CSQ party, else 0. -/
def mbxCluster (m : Nat) : Nat :=
  match mbxSender m, mbxReceiver m with
  | .csq c, _ => c
  | _, .csq c => c
  | _, _ => 0

/-- The mailbox registers (R437). -/
def State.rdMbx (s : State) (o : Nat) : Nat :=
  let m := o / 0x40
  let b := s.mbox m
  if 64 ≤ m then 0
  else
    match o % 0x40 with
    | 0x10 => b.msgs.length + 256 * b1 b.serr + 512 * b1 b.rerr + 1024 * b1 b.aborted + 65536 * b.dropped
    | 0x14 => partyCode (mbxSender m) + 8 * partyCode (mbxReceiver m) + 64 * mbxCluster m + (if m ≤ 1 then 2048 * b.vector else 0)
    | _ => 0

/-- The SEN registers (R340). -/
def State.rdSen (s : State) (o : Nat) : Nat :=
  if 0x1000 ≤ o ∧ o < 0x1800 then
    let t := s.tdi ((o - 0x1000) / 4)
    t.state + 8 * b1 t.scrubbed + 16 * t.claimPort + 64 * b1 t.claimed + 65536 * t.rejects
  else
    match o with
    | 0x0000 => s.senState
    | 0x0004 => s.sen.integ.toNat
    | 0x0008 => s.sen.svn
    | 0x000C => s.sen.burnt.toNat + 16 * s.sen.revoked.toNat
    | _ => 0

/-- A link's registers (R391). -/
def Link.rd (x : Link) (o : Nat) : Nat :=
  if 0x40 ≤ o ∧ o < 0x60 then x.dedOf ((o - 0x40) / 4)
  else
    match o with
    | 0x00 => b1 x.attach + 2 * x.vcsCfg + 8 * x.dir + 64 * b1 x.enable
    | 0x04 => x.state + 4 * x.lanes + 64 * x.reason + 1024 * x.vcs + 16384 * b1 x.rdisp + 32768 * x.ignored
    | 0x08 => 4 * x.width
    | 0x10 => half x.peer.toNat 0
    | 0x14 => half x.peer.toNat 1
    | 0x20 => x.replays.toNat
    | 0x24 => x.tagFail.toNat
    | 0x28 => x.fecCorr.toNat
    | 0x2C => x.spill
    | 0x60 => x.cap
    | 0x64 => x.rdto
    | 0x68 => x.ovh
    | _ => 0

/-- A binding entry's words (R372). -/
def Binding.rd (b : Binding) (w : Nat) : Nat :=
  match w with
  | 0 => b.ctx.toNat
  | 1 => b.src.toNat
  | 2 => b1 b.valid + 2 * b1 b.notify + 4 * b1 b.strict
  | _ => 0

/-- The link registers. -/
def State.rdLnk (s : State) (o : Nat) : Nat :=
  let k := s.links
  if o < 0x3000 then (match s.link? (o / 256) with | some x => x.rd (o % 256) | none => (Link.reset 0).rd (o % 256))
  else if 0x10000 ≤ o then (match tget k.binds ((o - 0x10000) / 16) with | some b => b.rd (o % 16 / 4) | none => 0)
  else
    match o with
    | 0x4000 => k.bifur.toNat
    | 0x4004 => k.dimX + 256 * k.dimY + 65536 * k.dimZ + 2 ^ 24 * k.kind + 2 ^ 31 * b1 k.lock
    | 0x4008 => s.here
    | _ => 0

/-- A cluster's map entry as BRG_DEFECT shows it (R466). -/
def Defect.word (d : Defect) : Nat :=
  d.good.toNat + 2 ^ 17 * d.spareFor + 2 ^ 21 * b1 d.spareUsed + 2 ^ 22 * b1 d.failed + 2 ^ 23 * b1 d.active + 2 ^ 24 * d.cause

/-- The bring-up registers (R466). -/
def State.rdBrg (s : State) (o : Nat) : Nat :=
  let b := s.brg
  if 0x100 ≤ o ∧ o < 0x150 then (match tget b.defects ((o - 0x100) / 4) with | some d => d.word | none => 0)
  else
    match o with
    | 0x0 => b.stage + 16 * b1 b.ready + 32 * b1 b.maint + 64 * b1 b.golden + 128 * b1 b.unpaired + 256 * b1 b.fail + 65536 * (if s.sched.resets.isEmpty then b.reset else 3)
    | 0x4 => b.cause + 256 * b.count
    | 0x8 => b.bootUs
    | 0xC => b.stepping + 65536 * b1 b.ucodeOk + 131072 * b1 b.fwSrc + 262144 * b1 b.legacy
    | _ => 0

/-- Two bits for each cluster from `c` on; 0 until bring-up has determined the active clusters (R491; log entry 269). -/
def State.cstates (s : State) (c n : Nat) : Nat :=
  if s.brg.defects.isEmpty then 0 else ((List.range n).map fun i => 4 ^ i * s.cluState (c + i)).sum

/-- The power registers (R491); a cluster's rate and power read as zero while Sealed (R328). -/
def State.rdPwr (s : State) (o : Nat) : Nat :=
  let p := s.pwr
  if 0x100 ≤ o ∧ o < 0x150 then
    let c := (o - 0x100) / 4
    (if s.sen.sec = 0 ∧ s.cluState c ≤ 1 then tgetD p.mhz c 0 else 0) + 65536 * s.rateFloor c
  else if 0x180 ≤ o ∧ o < 0x1D0 then (if s.sen.sec = 0 then tgetD p.cpow ((o - 0x180) / 4) 0 else 0)
  else
    match o with
    | 0x00 => s.bstate + 4 * b1 p.warn + 8 * p.throtNow + 64 * b1 (decide (p.tceil < p.vtgt)) + 128 * b1 (decide (p.pceil < p.vtgt)) +
        256 * b1 p.ttrip + 512 * b1 p.avsErr
    | 0x04 => p.vtgt + 65536 * p.vdeep
    | 0x08 => p.vreq + 65536 * p.meas
    | 0x0C => p.plim + 65536 * p.psus
    | 0x10 => p.power
    | 0x18 => half s.energyMj 0
    | 0x1C => half s.energyMj 1
    | 0x20 => p.dipMv
    | 0x24 => p.dipDur.toNat
    | 0x28 => p.dipCnt + 65536 * p.worst
    | 0x2C => p.tthr + 256 * p.tempMax
    | 0x30 => p.napDly + 65536 * p.deepDly
    | 0x34 => b1 p.ccReq
    | 0x40 => s.cstates 0 16
    | 0x44 => s.cstates 16 4
    | _ => 0

/-- The MMC registers (R415, R437); MMC_MBXSTAT only on the MMC's own path. -/
def State.rdMmc (s : State) (mmc : Bool) (o : Nat) : Nat :=
  match o with
  | 0 => s.mmc.admin + 2 ^ 31 * b1 s.mmc.lock
  | 4 => if mmc then b1 s.mbx.mmcAbort + 2 * s.mbx.mmcDrop else 0
  | _ => 0

/-- The 32-bit word at a BAR0 offset (R505); reserved offsets read zero (R512). -/
def State.read0 (s : State) (mmc : Bool) (off : Nat) : Nat :=
  let o := off % 0x10000
  match off / 0x10000 with
  | 0 => s.rdSlice o
  | 1 => s.rdHost o
  | 2 => s.rdFault o
  | 3 => s.rdPle o
  | 4 => s.rdSch o
  | 5 => s.rdEvc o
  | 6 => s.rdMbx o
  | 7 => s.rdSen o
  | 8 => s.rdLnk o
  | 9 => s.rdLnk (o + 0x10000)
  | 10 => s.rdBrg o
  | 11 => s.rdPwr o
  | 12 => s.rdMmc mmc o
  | _ => 0

/-- What a read of an RC register leaves (R13). -/
def State.clearRc (s : State) (off : Nat) : State :=
  let o := off % 0x10000
  match off / 0x10000 with
  | 1 =>
    if 4 ≤ o / 0x400 then s
    else if o % 0x400 = 0x008 then s.modPort (o / 0x400) fun x => { x with memErr := 0, memSet := false }
    else if o % 0x400 = 0x014 then s.modPort (o / 0x400) fun x => { x with ur := 0 }
    else s
  | 2 =>
    if o < 160 ∧ o % 8 = 0 then { s with ecc := { s.ecc with corr := tdel s.ecc.corr (o / 8), uncorr := tdel s.ecc.uncorr (o / 8) } }
    else if o = 0x100 then { s with ecc := { s.ecc with ksErr := 0 } }
    else s
  | 3 =>
    if o = 0x4048 then s.onPool fun p =>
      let c := readCount (s.sen.sec != 0) 1000000 s.now p.moved p.movedHid p.movedAt
      { p with moved := c.2.1, movedHid := c.2.2 }
    else s
  | 4 =>
    if o = 0x1100 then s.onSched fun x =>
      let c := readCount (s.sen.sec != 0) 10000 s.now x.preempts x.preHid x.preAt
      { x with preempts := c.2.1, preHid := c.2.2 }
    else s
  | 7 => if o = 4 then s.onSen fun x => { x with integ := 0 } else s
  | 8 =>
    if o < 0x3000 then s.modLink (o / 256) fun x =>
      if o % 256 = 0x20 then { x with replays := 0 } else if o % 256 = 0x24 then { x with tagFail := 0 }
      else if o % 256 = 0x28 then { x with fecCorr := 0 } else x
    else s
  | 11 => if o = 0x28 then s.onPwr fun p => { p with dipCnt := 0, worst := 0 } else s
  | _ => s

/-- The party that a path is to the mailboxes (R430); the debug port is none of them. -/
def pathParty : Path → Party
  | .host .. => .pool
  | .core _ => .control
  | .mmc => .mmc
  | .hostOdd _ | .debug => .csq 20

/-- The core whose EVC_CLAIM the access reads: a core claims for itself only (R422). -/
def claimOf (p : Path) (off : Nat) : Option Nat :=
  match p with
  | .core n => if off = 0x53000 + 64 * n then some n else none
  | _ => none

/-- A read of PWR_RATE finds the live rate that its monitor averages over 1 us: a free value, and none while the cluster sleeps (R475). -/
def State.liveRate (s : State) (off : Nat) : State :=
  let c := (off - 0xB0100) / 4
  if 0xB0100 ≤ off ∧ off < 0xB0150 ∧ s.cluState c ≤ 1 then s.onPwr fun p => { p with mhz := tset p.mhz c (s.peek % 4096) } else s

/-- A read of one word on a BAR0 path that reaches it: another core's EVC_CLAIM reads zero (R422), MBX_RECV read narrow is refused (R431), an RC field
is cleared, but not by a debug read (R511). -/
def State.readBar0 (s : State) (p : Path) (off : Nat) : State × Nat :=
  if 0x53000 ≤ off ∧ off < 0x53200 ∧ off % 64 = 0 then (s, 0)
  else if 0x60000 ≤ off ∧ off < 0x61000 ∧ (off % 64 = 8 ∨ off % 64 = 12) then
    ((s.mbxRecv (pathParty p) ((off - 0x60000) / 64) 4).1, 0)
  else
    let s1 := s.liveRate off
    (if p == .debug then s1 else s1.clearRc off, s1.read0 (p == .mmc) off)

/-- A queue's doorbell page (R49). -/
def State.rdPage (s : State) (x : Queue) (o : Nat) : Nat :=
  match o with
  | 0x008 => x.head.toNat
  | 0x010 => x.state.no + 65536 * x.halt.code
  | 0x018 => (match s.ctx? x.ctx with | some c => c.cons.toNat | none => 0)
  | 0x020 => (match s.ctx? x.ctx with | some c => c.prod.toNat | none => 0)
  | _ => 0

/-- A context's event-ring control block (R396). -/
def Ctx.rdEvr (x : Ctx) (o : Nat) : Nat :=
  match o with
  | 0x00 => half x.ring.addr 0
  | 0x04 => half x.ring.addr 1
  | 0x08 => x.ring.log2 + 32 * x.vector + 65536 * b1 (x.ring.obj != 0) + 131072 * b1 x.armed
  | 0x0C => x.prod.toNat
  | 0x10 => x.cons.toNat
  | _ => 0

/-- An MSI-X table word: address, data, and the mask bit; then the pending bits (R395, R399). A word that nothing has written since the reset of
the port has no stated value, so a free one. -/
def State.rdMsix (s : State) (q o : Nat) : Nat :=
  let p := s.port q
  let v := o / 16
  if o < 0x8000 then
    match o % 16, tget p.msix v with
    | 12, _ => b1 (!p.unmask.contains v)
    | 0, some e => half e.1.toNat 0
    | 4, some e => half e.1.toNat 1
    | 8, some e => e.2.toNat
    | _, _ => s.peek % 2 ^ 32
  else ((List.range 32).map fun b => 2 ^ b * b1 (p.msixPnd.contains (8 * (o - 0x8000) + b))).sum

/-- What lies past the pending bits of BAR4 is reserved, and is reached by what reaches BAR0 (R512). -/
def State.reachesRest (s : State) (p : Path) (wr : Bool) : Bool := s.reaches p 0xD0000 wr

/-- A read of a page of BAR2 or BAR4, owned by slice `owner`: the word `v` for its owner (R272). -/
def State.readPage (s : State) (p : Path) (owner : Option Nat) (v : Nat) : Result :=
  match p with
  | .host .. => s.onPage p owner fun s => s.emit (.value p v)
  | _ => .next (s.denyRead p)

/-- The parts of BAR4 that are no slice's: the almanac, the MSI-X table and pending bits, and what is reserved past them (R395, R507). -/
def State.reaches4 (s : State) (p : Path) (off : Nat) (wr : Bool) : Bool :=
  if off < 0x40000 then
    match p with | .host q none _ => s.brg.ready && s.adminPort q | .core _ => s.pwr.ccUp && !wr | .mmc => !wr | _ => false
  else if off < 0x88100 then (match p with | .host _ none _ => s.brg.ready | _ => false)
  else s.reachesRest p wr

/-- REGISTER_READ_CLEAR: a 4-byte read on a path of R507, from a port or core that the block has. A word that clears on read is cleared; any other
keeps its value. A claim and a message have their own answers. -/
def execRegisterReadClear (p : Path) (bar off : Nat) (s : State) : Result :=
  if !p.wf then .next s
  else if 5 ≤ bar then .next (s.readSide p bar off).finish
  else if off % 4 ≠ 0 then .next (s.deny p)
  else if barSize bar ≤ off then .next (s.denyRead p)
  else if bar = 0 then
    if s.reaches p off false then
      match claimOf p off with
      | some n => .next (s.claim n).finish
      | none => .next (((s.readBar0 p off).1.drew 1).emit (.value p (s.readBar0 p off).2)).finish
    else .next (s.denyRead p)
  else if bar = 2 then
    let q := off / 4096
    s.readPage p ((s.queue? q).map fun x => s.sliceOf x.ctx) (match s.queue? q with | some x => s.rdPage x (off % 4096) | none => 0)
  else if off < 0x40000 then
    .next (if s.reaches4 p off false then (s.drew 1).emit (.value p (wordOf (s.almBytes none) off)) else s.denyRead p)
  else if off < 0x80000 then
    let c := (off - 0x40000) / 64
    s.readPage p ((s.ctx? c).map (·.slice)) (match s.ctx? c with | some x => x.rdEvr (off % 64) | none => 0)
  else if off < 0x88100 then
    match p with
    | .host q none _ => .next (if s.reaches4 p off false then (s.drew 1).emit (.value p (s.rdMsix q (off - 0x80000))) else s.denyRead p)
    | _ => .next (s.denyRead p)
  else .next (if s.reachesRest p false then s.emit (.value p 0) else s.denyRead p)

/-! ## Writes -/

/-- Replace the low or the high half of a 64-bit register. -/
def setHalf (d : DWord) (i v : Nat) : DWord := BitVec.ofNat 64 (withHalf d.toNat i v)

/-- A field keeps its value where the written one lies outside its range. -/
def inRange (old v lo hi : Nat) : Nat := if lo ≤ v ∧ v ≤ hi then v else old

/-- The slice registers (R275). -/
def State.wrSlice (s : State) (o v : Nat) : State :=
  if o < 0x2000 then
    if o % 16 = 0 then s.writeRebind (o / 16) .bind v else if o % 16 = 4 then s.writeRebind (o / 16) .vec v else s
  else
    match o with
    | 0x2000 => s.onSlices fun x => { x with s0Evt := setHalf x.s0Evt 0 v }
    | 0x2004 => s.onSlices fun x => { x with s0Evt := setHalf x.s0Evt 1 v }
    | 0x2008 => s.onSlices fun x => { x with s0Q := setHalf x.s0Q 0 v }
    | 0x200C => s.onSlices fun x => { x with s0Q := setHalf x.s0Q 1 v }
    | 0x2010 => s.onSlices fun x => { x with s0R := setHalf x.s0R 0 v }
    | 0x2014 => s.onSlices fun x => { x with s0R := setHalf x.s0R 1 v }
    | 0x2018 =>
      let s1 := s.onSlices fun x => { x with s0Log2 := bits v 0 5, s0QLog2 := bits v 8 5, s0Vec := bits v 16 11 }
      if v.testBit 31 then s1.s0Go false else s1
    | _ => s

/-- The host-port registers (R407, R410). -/
def State.wrHost (s : State) (o v : Nat) : State :=
  let q := o / 0x400
  let r := o % 0x400
  if 4 ≤ q then s
  else if r = 0x004 then s.modPort q fun x => { x with toMs := inRange x.toMs (v % 65536) 1 65535 }
  else if 0x50 ≤ r ∧ r < 0xC0 ∧ r % 4 = 0 then s.writeWin q ((r - 0x40) / 16) (r % 16 / 4) (BitVec.ofNat 32 v)
  else s

/-- A write of PLE_FCMD_CTRL: OP 1 to 4, other values are reserved (R218, R219). -/
def State.fcmd (s : State) (op : Nat) : State :=
  match op with
  | 1 => s.fcmdDone s.backCmd
  | 2 => s.fcmdDone s.tableCmd
  | 3 => s.fcmdDone s.untableCmd
  | 4 => s.fcmdDone s.queryCmd
  | _ => s

/-- The placement registers (R218). -/
def State.wrPle (s : State) (o v : Nat) : State :=
  if o < 0x4000 then s.onPool fun p => { p with roots := tset p.roots (o / 4) (bits v 0 26, v.testBit 31) }
  else
    match o with
    | 0x4000 => s.onPool fun p => { p with fLpf := bits v 0 26 }
    | 0x4004 => s.onPool fun p => { p with fCount := bits v 0 25 }
    | 0x4008 => s.fcmd (v % 8)
    | 0x400C => s.onPool fun p => { p with fReq := BitVec.ofNat 32 v }
    | 0x4020 => s.onPool fun p => { p with invCtx := v % 4096 }
    | 0x4028 => s.onPool fun p => { p with invBase := p.invBase / 65536 * 65536 + bits v 16 16 }
    | 0x402C => s.onPool fun p => { p with invBase := p.invBase % 65536 + bits v 0 16 * 65536 }
    | 0x4030 => s.onPool fun p => { p with invPages := BitVec.ofNat 32 v }
    | 0x4034 => if v.testBit 0 then s.invGo else s
    | _ => s

/-- A wired input's filter and mode are set (R427). FILT 0 makes the filtered level inactive. The source follows its condition where the old or the new
mode is a level one; a pending edge stays. -/
def State.wrWire (s : State) (i v : Nat) : State :=
  let old := (s.wire i).mode
  let s1 := s.modWire i fun x => { x with filt := v % 256, mode := bits v 8 2, filtered := x.filtered && v % 256 != 0 }
  if (s1.wire i).mode ≤ 1 then s1.setCond (1 + i) (s1.wire i).asserted
  else if old ≤ 1 then s1.setCond (1 + i) false
  else s1

/-- The event registers (R429). -/
def State.wrEvc (s : State) (o v : Nat) : State :=
  let w := o % 256 / 4
  let b : Word := BitVec.ofNat 32 v
  if o < 0x2000 then if o < 4 then s else s.modSrc (o / 4) fun x => { x with prio := v % 16, target := BitVec.ofNat 8 (v / 256) }
  else if o < 0x2100 then s.eachBit w b State.setPend
  else if o < 0x2200 then s.eachBit w b State.clrPend
  else if o < 0x2300 then s.eachBit w b fun a i => a.modSrc i fun x => { x with masked := true }
  else if o < 0x2400 then s.eachBit w b fun a i => a.modSrc i fun x => { x with masked := false }
  else if 0x3000 ≤ o ∧ o < 0x3200 then
    let n := (o - 0x3000) / 64
    if o % 64 = 4 then s.eoi n (v % 2048)
    else if o % 64 = 8 ∧ v.testBit 27 = true then s.modCore n fun c => { c with eoiErr := false }
    else s
  else if 0x4000 ≤ o ∧ o < 0x4080 then s.wrWire ((o - 0x4000) / 4) v
  else s

/-- The mailbox registers: a narrow send is refused, W1C bits are cleared, VECTOR is the pool driver's (R431, R437). -/
def State.wrMbx (s : State) (p : Path) (o v : Nat) : State :=
  let m := o / 64
  if 64 ≤ m then s
  else
    match o % 64 with
    | 0x00 => s.mbxSend (pathParty p) m 4 0
    | 0x04 => s.mbxSend (pathParty p) m 4 0
    | 0x10 => s.modMbox m fun x =>
      { x with serr := x.serr && !v.testBit 8, rerr := x.rerr && !v.testBit 9, aborted := x.aborted && !v.testBit 10 }
    | 0x14 => if m ≤ 1 ∧ pathParty p = Party.pool then s.modMbox m fun x => { x with vector := bits v 11 4 } else s
    | _ => s

/-- LNK_CFG: the RWL fields until LOCK, and ENABLE (R391). -/
def State.wrLnkCfg (s : State) (l : Nat) (x : Link) (v : Nat) : State :=
  let s1 := if s.links.lock then s else s.modLink l fun y => { y with attach := v.testBit 0, vcsCfg := bits v 1 2, dir := bits v 3 3 }
  if v.testBit 6 = x.enable then s1 else s1.setEnable l (v.testBit 6)

/-- LNK_CTRL: WIDTH, then the commands whose bits are set. -/
def State.wrLnkCtrl (s : State) (l v : Nat) : State :=
  let s1 := s.modLink l fun y => { y with width := bits v 2 2 }
  let s2 := if v.testBit 0 then s1.requestLink l 1 0 else s1
  let s3 := if v.testBit 1 then s2.widthGo l else s2
  let s4 := if v.testBit 4 then s3.requestLink l 3 0 else s3
  if v.testBit 5 then s4.linkFall l 11 else s4

/-- LNK_BIFUR: links that the new mode does not have go down; those it has and had not are down, not unlicensed (R342, R345); the reserved mode keeps
the port down with NOT_ENABLED (R365). -/
def State.wrBifur (s : State) (v : Nat) : State :=
  if s.links.lock then s
  else
    let s1 := s.onLinks fun k => { k with bifur := BitVec.ofNat 32 v }
    (List.range 48).foldl (fun a l => match a.link? l with
      | none => a
      | some x =>
        let ok := a.linkExists l && a.linkLicensed l
        if decide (l < 16) && a.linkLicensed l && bits v (2 * l) 2 == 3 then (a.linkFall l 1).modLink l fun y => { y with state := 1, reason := 1 }
        else if !ok then (a.linkFall l 11).modLink l fun y => { y with state := 0 }
        else if x.state = 0 then a.modLink l fun y => { y with state := 1 }
        else a) s1

/-- The link registers (R391). -/
def State.wrLnk (s : State) (o v : Nat) : State :=
  if o < 0x3000 then
    let l := o / 256
    let r := o % 256
    match s.link? l with
    | none => s
    | some x =>
      if !s.linkLicensed l then s
      else if 0x40 ≤ r ∧ r < 0x60 ∧ r % 4 = 0 then s.modLink l fun y =>
        { y with ded := tset y.ded ((r - 0x40) / 4) (inRange (y.dedOf ((r - 0x40) / 4)) (v % 2048) 16 1024) }
      else
        match r with
        | 0x00 => s.wrLnkCfg l x v
        | 0x08 => s.wrLnkCtrl l v
        | 0x60 => s.modLink l fun y => { y with cap := v % 8192 }
        | 0x64 => s.modLink l fun y => { y with rdto := inRange y.rdto (v % 65536) 1 65535 }
        | _ => s
  else if 0x10000 ≤ o then
    let b := (o - 0x10000) / 16
    s.onLinks fun k =>
      let x : Binding := { tgetD k.binds b { ctx := 0, src := 0, valid := false, notify := false, strict := false, ended := false } with ended := false }
      match o % 16 with
      | 0 => { k with binds := tset k.binds b { x with ctx := BitVec.ofNat 32 v } }
      | 4 => { k with binds := tset k.binds b { x with src := BitVec.ofNat 32 v } }
      | 8 => { k with binds := tset k.binds b { x with valid := v.testBit 0, notify := v.testBit 1, strict := v.testBit 2 } }
      | _ => k
  else
    match o with
    | 0x4000 => s.wrBifur v
    | 0x4004 => s.onLinks fun k =>
      let k1 := if k.lock then k else { k with dimX := bits v 0 8, dimY := bits v 8 8, dimZ := bits v 16 8, kind := bits v 24 2 }
      if v.testBit 31 then { k1 with lock := true } else k1
    | 0x4008 => s.onLinks fun k => if k.lock then k else { k with coord := (bits v 0 8, bits v 8 8, bits v 16 8) }
    | _ => s

/-- The power registers (R491): a field ignores a value outside its range. -/
def State.wrPwr (s : State) (o v : Nat) : State :=
  if 0x100 ≤ o ∧ o < 0x150 then s.onPwr fun p => { p with floors := tset p.floors ((o - 0x100) / 4) (bits v 16 12) }
  else
    match o with
    | 0x04 => s.onPwr fun p => { p with vtgt := inRange p.vtgt (bits v 0 10) 600 850, vdeep := inRange p.vdeep (bits v 16 10) 600 850 }
    | 0x0C => s.onPwr fun p => { p with plim := inRange p.plim (bits v 0 11) 1000 1600, psus := inRange p.psus (bits v 16 11) 1000 1600 }
    | 0x2C => (s.onPwr fun p => { p with tthr := inRange p.tthr (bits v 0 7) 85 105 }).hotSources
    | 0x30 => s.onPwr fun p => { p with napDly := bits v 0 16, deepDly := bits v 16 16 }
    | 0x34 => if v.testBit 0 then s.onPwr fun p => { p with ccReq := true } else s
    | _ => s

/-- The MMC registers: the administration port until LOCK, and the MMC's record of mailbox 3 (R415, R437). -/
def State.wrMmc (s : State) (mmc : Bool) (o v : Nat) : State :=
  if !mmc then s
  else
    match o with
    | 0 => if s.mmc.lock then s else { s with mmc := { s.mmc with admin := v % 4 } }
    | 4 => if v.testBit 0 then { s with mbx := { s.mbx with mmcAbort := false } } else s
    | _ => s

/-- A 32-bit write at a BAR0 offset; RO registers and reserved offsets ignore it. -/
def State.write0 (s : State) (p : Path) (off v : Nat) : State :=
  let o := off % 0x10000
  match off / 0x10000 with
  | 0 => s.wrSlice o v
  | 1 => s.wrHost o v
  | 3 => s.wrPle o v
  | 5 => s.wrEvc o v
  | 6 => s.wrMbx p o v
  | 8 => s.wrLnk o v
  | 9 => s.wrLnk (o + 0x10000) v
  | 11 => s.wrPwr o v
  | 12 => s.wrMmc (p == .mmc) o v
  | _ => s

/-- A write of BAR0 in its width: MBX_SEND and PLE_REQ_DONE take 8 bytes at once, elsewhere 8 bytes are two words in ascending order (R509). -/
def State.writeBar0 (s : State) (p : Path) (off width : Nat) (v : DWord) : State :=
  if width = 8 then
    if 0x60000 ≤ off ∧ off < 0x61000 ∧ off % 64 = 0 then s.mbxSend (pathParty p) ((off - 0x60000) / 64) 8 v
    else if off = 0x34040 then s.freeReq (v.toNat % 2 ^ 48)
    else (s.write0 p off (half v.toNat 0)).write0 p (off + 4) (half v.toNat 1)
  else s.write0 p off (half v.toNat 0)

/-- A word of an MSI-X table entry is written by host software; an entry of a locked window is a locked item (R399, R401). -/
def State.wrMsix (s : State) (q o v : Nat) : State :=
  let k := o / 16
  let s1 := match s.lockedVec q k with | some l => s.toError l | none => s
  let e : DWord × Word := tgetD (s1.port q).msix k (0, 0)
  match o % 16 with
  | 0 => s1.modPort q fun x => { x with msix := tset x.msix k (setHalf e.1 0 v, e.2) }
  | 4 => s1.modPort q fun x => { x with msix := tset x.msix k (setHalf e.1 1 v, e.2) }
  | 8 => s1.modPort q fun x => { x with msix := tset x.msix k (e.1, BitVec.ofNat 32 v) }
  | _ => if v.testBit 0 then s1.modPort q fun x => { x with unmask := x.unmask.filter (· != k) } else s1.unmask q k

/-- The words of a write, in ascending order. -/
def wordsOf (off width : Nat) (v : DWord) : List (Nat × Nat) :=
  if width = 8 then [(off, half v.toNat 0), (off + 4, half v.toNat 1)] else [(off, half v.toNat 0)]

/-- REGISTER_WRITE: naturally aligned and 4 or 8 bytes wide, else refused (R509). -/
def execRegisterWrite (p : Path) (bar off width : Nat) (val : DWord) (s : State) : Result :=
  if !p.wf then .next s
  else if (width ≠ 4 ∧ width ≠ 8) ∨ off % width ≠ 0 then .next (s.deny p)
  else if 5 ≤ bar then .next ((wordsOf off width val).foldl (fun a e => a.writeSide p bar e.1 e.2) s).finish
  else if barSize bar ≤ off then .next (s.deny p)
  else if bar = 0 then
    .next (if s.reaches p off true then (s.writeBar0 p off width val).finish else s.deny p)
  else if bar = 2 then
    let q := off / 4096
    s.onPage p ((s.queue? q).map fun x => s.sliceOf x.ctx) fun s =>
      (wordsOf (off % 4096) width val).foldl (fun a e =>
        if e.1 = 0 then a.doorbell q (BitVec.ofNat 32 e.2)
        else if e.1 = 0x018 then (match a.queue? q with | some x => a.evtCons x.ctx (BitVec.ofNat 32 e.2) | none => a)
        else a) s
  else if off < 0x40000 then
    .next (if s.reaches4 p off true then s else s.deny p)
  else if off < 0x80000 then
    let c := (off - 0x40000) / 64
    s.onPage p ((s.ctx? c).map (·.slice)) fun s =>
      (wordsOf (off % 64) width val).foldl (fun a e => if e.1 = 0x10 then a.evtCons c (BitVec.ofNat 32 e.2) else a) s
  else if 0x88100 ≤ off then .next (if s.reaches4 p off true then s else s.deny p)
  else
    match p with
    | .host q none _ =>
      .next (if s.reaches4 p off true then
        (if off < 0x88000 then (wordsOf (off - 0x80000) width val).foldl (fun a e => a.wrMsix q e.1 e.2) s else s).finish
      else s.deny p)
    | _ => .next (s.deny p)

end Sys2Proof.Machine
end

