-- ==== Sys2Proof/Machine/Dispatch.lean ====
section
/-!
DEFINITION. What each command does: one arm for each constructor of `Instr`, a direct call of its meaning.
-/

namespace Sys2Proof.Machine

open Sys2Proof

/-- The effect of a command on everything but the queue. -/
def exec (i : Instr) (s : State) : Host.Outcome State Fault Refusal :=
  match i with
  | .ctxCreate h ring log2 vec => Sys2Proof.Machine.execCtxCreate h ring log2 vec s
  | .ctxDestroy h target => Sys2Proof.Machine.execCtxDestroy h target s
  | .queueCreate h a => Sys2Proof.Machine.execQueueCreate h a s
  | .ctxSetRing h addr obj log2 vec => Sys2Proof.Machine.execCtxSetRing h addr obj log2 vec s
  | .queueDestroy h queue => Sys2Proof.Machine.execQueueDestroy h queue s
  | .queueStart h queue => Sys2Proof.Machine.execQueueStart h queue s
  | .queueStop h queue => Sys2Proof.Machine.execQueueStop h queue s
  | .moCreate h base len ty mflags => Sys2Proof.Machine.execMoCreate h base len ty mflags s
  | .moFree h obj => Sys2Proof.Machine.execMoFree h obj s
  | .moSeal h obj => Sys2Proof.Machine.execMoSeal h obj s
  | .fenceCreate h init => Sys2Proof.Machine.execFenceCreate h init s
  | .fenceFree h f => Sys2Proof.Machine.execFenceFree h f s
  | .programLoad h obj off => Sys2Proof.Machine.execProgramLoad h obj off s
  | .programFree h prog => Sys2Proof.Machine.execProgramFree h prog s
  | .queueSetWeight h queue weight => Sys2Proof.Machine.execQueueSetWeight h queue weight s
  | .moFill h obj val off len => Sys2Proof.Machine.execMoFill h obj val off len s
  | .moCopy h src dst srcOff dstOff len => Sys2Proof.Machine.execMoCopy h src dst srcOff dstOff len s
  | .moPlaceHint h obj policy => Sys2Proof.Machine.execMoPlaceHint h obj policy s
  | .dispatch h a => Sys2Proof.Machine.execDispatch h a s
  | .dispatchRemote h a => Sys2Proof.Machine.execDispatchRemote h a s
  | .kvAppend h a => Sys2Proof.Machine.execKvAppend h a s
  | .kvAttend h a => Sys2Proof.Machine.execKvAttend h a s
  | .kvFork h obj parent child pfx cookie => Sys2Proof.Machine.execKvFork h obj parent child pfx cookie s
  | .kvEvictRelease h obj seq cookie => Sys2Proof.Machine.execKvEvictRelease h obj seq cookie s
  | .kvEvictTruncate h obj seq newLen cookie => Sys2Proof.Machine.execKvEvictTruncate h obj seq newLen cookie s
  | .kvEvictFormat h obj seq cookie => Sys2Proof.Machine.execKvEvictFormat h obj seq cookie s
  | .fenceSignal h => Sys2Proof.Machine.execFenceSignal h s
  | .fenceWait h f target => Sys2Proof.Machine.execFenceWait h f target s
  | .fenceNotify h f target cookie => Sys2Proof.Machine.execFenceNotify h f target cookie s
  | .fenceReset h f val => Sys2Proof.Machine.execFenceReset h f val s
  | .ctxSetSlowdown h thr => Sys2Proof.Machine.execCtxSetSlowdown h thr s
  | .txnBegin h => Sys2Proof.Machine.execTxnBegin h s
  | .txnCommit h t => Sys2Proof.Machine.execTxnCommit h t s
  | .txnAbort h t => Sys2Proof.Machine.execTxnAbort h t s
  | .queryAlmanac h obj off => Sys2Proof.Machine.execQueryAlmanac h obj off s
  | .queryFence h f => Sys2Proof.Machine.execQueryFence h f s
  | .queryContext h target obj off => Sys2Proof.Machine.execQueryContext h target obj off s
  | .queryMo h obj => Sys2Proof.Machine.execQueryMo h obj s
  | .queryQueue h queue => Sys2Proof.Machine.execQueryQueue h queue s
  | .queryDigest h src dst off => Sys2Proof.Machine.execQueryDigest h src dst off s
  | .sliceCreate h a => Sys2Proof.Machine.execSliceCreate h a s
  | .sliceDestroy h slice => Sys2Proof.Machine.execSliceDestroy h slice s
  | .sliceSetQuota h slice field val => Sys2Proof.Machine.execSliceSetQuota h slice field val s
  | .sliceSetShare h slice polder weight => Sys2Proof.Machine.execSliceSetShare h slice polder weight s
  | .polderShape h polder units dayUs => Sys2Proof.Machine.execPolderShape h polder units dayUs s
  | .polderCalendar h polder feast excl => Sys2Proof.Machine.execPolderCalendar h polder feast excl s
  | .polderAdmit h target polder kind days prog => Sys2Proof.Machine.execPolderAdmit h target polder kind days prog s
  | .linkShape h a => Sys2Proof.Machine.execLinkShape h a s
  | .pdFramesBacked h req status => Sys2Proof.Machine.execPdFramesBacked h req status s
  | .sliceDirtyLog h slice on hostMap poolMap ranges => Sys2Proof.Machine.execSliceDirtyLog h slice on hostMap poolMap ranges s
  | .sliceQuiesce h slice => Sys2Proof.Machine.execSliceQuiesce h slice s
  | .sliceResume h slice => Sys2Proof.Machine.execSliceResume h slice s
  | .sluiceSet h stack cap => Sys2Proof.Machine.execSluiceSet h stack cap s
  | .embankmentSet h pct => Sys2Proof.Machine.execEmbankmentSet h pct s
  | .placementMode h mode => Sys2Proof.Machine.execPlacementMode h mode s
  | .keyRotate h target => Sys2Proof.Machine.execKeyRotate h target s
  | .keyPolicy h target ival cap => Sys2Proof.Machine.execKeyPolicy h target ival cap s
  | .attestReport h obj nonce => Sys2Proof.Machine.execAttestReport h obj nonce s
  | .resetRequestEngine h n => Sys2Proof.Machine.execResetRequestEngine h n s
  | .resetRequestCluster h n => Sys2Proof.Machine.execResetRequestCluster h n s
  | .resetRequestPolder h n => Sys2Proof.Machine.execResetRequestPolder h n s
  | .innerReset h n kat => Sys2Proof.Machine.execInnerReset h n kat s
  | .katRun h cluster r => Sys2Proof.Machine.execKatRun h cluster r s
  | .stackRetire h stack => Sys2Proof.Machine.execStackRetire h stack s
  | .unassignedOpcode h a => Sys2Proof.Machine.execUnassignedOpcode h a s
  | .qeDbTailWrite p queue val => Sys2Proof.Machine.execQeDbTailWrite p queue val s
  | .qeDbEvtConsWrite p ctx val => Sys2Proof.Machine.execQeDbEvtConsWrite p ctx val s
  | .back p => Sys2Proof.Machine.execBack p s
  | .table p => Sys2Proof.Machine.execTable p s
  | .untable p => Sys2Proof.Machine.execUntable p s
  | .query p => Sys2Proof.Machine.execQuery p s
  | .pleInvGo p => Sys2Proof.Machine.execPleInvGo p s
  | .invalidationDone => Sys2Proof.Machine.execInvalidationDone s
  | .pleReqDoneWrite p width val => Sys2Proof.Machine.execPleReqDoneWrite p width val s
  | .hubS0Go p lost => Sys2Proof.Machine.execHubS0Go p lost s
  | .sliceRebind p slice reg val => Sys2Proof.Machine.execSliceRebind p slice reg val s
  | .hubHpwinWrite p port k word val => Sys2Proof.Machine.execHubHpwinWrite p port k word val s
  | .msixVectorUnmask port vec => Sys2Proof.Machine.execMsixVectorUnmask port vec s
  | .evcClaimRead core => Sys2Proof.Machine.execEvcClaimRead core s
  | .evcEoiWrite core id => Sys2Proof.Machine.execEvcEoiWrite core id s
  | .evcPendSetWrite p w bits => Sys2Proof.Machine.execEvcPendSetWrite p w bits s
  | .evcPendClrWrite p w bits => Sys2Proof.Machine.execEvcPendClrWrite p w bits s
  | .evcMaskSetWrite p w bits => Sys2Proof.Machine.execEvcMaskSetWrite p w bits s
  | .evcMaskClrWrite p w bits => Sys2Proof.Machine.execEvcMaskClrWrite p w bits s
  | .mbxSend who m width msg => Sys2Proof.Machine.execMbxSend who m width msg s
  | .mbxRecv who m width => Sys2Proof.Machine.execMbxRecv who m width s
  | .pdAttach => Sys2Proof.Machine.execPdAttach s
  | .pdDetach => Sys2Proof.Machine.execPdDetach s
  | .lnkCtrlRetrain p l => Sys2Proof.Machine.execLnkCtrlRetrain p l s
  | .lnkCtrlWidthGo p l => Sys2Proof.Machine.execLnkCtrlWidthGo p l s
  | .lnkCtrlRekey p l => Sys2Proof.Machine.execLnkCtrlRekey p l s
  | .lnkCtrlDown p l => Sys2Proof.Machine.execLnkCtrlDown p l s
  | .lnkCfgEnableWrite p l on => Sys2Proof.Machine.execLnkCfgEnableWrite p l on s
  | .lnkTopoLock p => Sys2Proof.Machine.execLnkTopoLock p s
  | .pwrCcsleepReq p => Sys2Proof.Machine.execPwrCcsleepReq p s
  | .registerReadClear p bar off => Sys2Proof.Machine.execRegisterReadClear p bar off s
  | .registerWrite p bar off width val => Sys2Proof.Machine.execRegisterWrite p bar off width val s
  | .debugTokenLoad t => Sys2Proof.Machine.execDebugTokenLoad t s
  | .dbgCtrlClose => Sys2Proof.Machine.execDbgCtrlClose s
  | .debugLifetimeExpiry => Sys2Proof.Machine.execDebugLifetimeExpiry s
  | .bundleIssue disp k => Sys2Proof.Machine.execBundleIssue disp k s
  | .barrierRelease disp id => Sys2Proof.Machine.execBarrierRelease disp id s
  | .moverOpComplete disp k tag => Sys2Proof.Machine.execMoverOpComplete disp k tag s
  | .dispatchStart polder => Sys2Proof.Machine.execDispatchStart polder s
  | .dispatchComplete disp => Sys2Proof.Machine.execDispatchComplete disp s
  | .kvOpComplete disp => Sys2Proof.Machine.execKvOpComplete disp s
  | .contextFaulted ctx => Sys2Proof.Machine.execContextFaulted ctx s
  | .preemptFullStop disp k => Sys2Proof.Machine.execPreemptFullStop disp k s
  | .preemptSaveStart disp => Sys2Proof.Machine.execPreemptSaveStart disp s
  | .preemptSaveDone disp => Sys2Proof.Machine.execPreemptSaveDone disp s
  | .dayBoundary polder => Sys2Proof.Machine.execDayBoundary polder s
  | .eveStart polder ctx => Sys2Proof.Machine.execEveStart polder ctx s
  | .shareDeficitCharge polder => Sys2Proof.Machine.execShareDeficitCharge polder s
  | .slowdownEpoch interference => Sys2Proof.Machine.execSlowdownEpoch interference s
  | .pleEpoch => Sys2Proof.Machine.execPleEpoch s
  | .moveStart stack => Sys2Proof.Machine.execMoveStart stack s
  | .moveCopyDone lpf => Sys2Proof.Machine.execMoveCopyDone lpf s
  | .rateUpdate mhz => Sys2Proof.Machine.execRateUpdate mhz s
  | .txnTimeout txn => Sys2Proof.Machine.execTxnTimeout txn s
  | .backRequestTimeout req => Sys2Proof.Machine.execBackRequestTimeout req s
  | .sweepComplete ctx => Sys2Proof.Machine.execSweepComplete ctx s
  | .autoKeyRotate ctx => Sys2Proof.Machine.execAutoKeyRotate ctx s
  | .stackPhyTrainingLoss stack retrained => Sys2Proof.Machine.execStackPhyTrainingLoss stack retrained s
  | .uncorrectableRead stack lpf sector => Sys2Proof.Machine.execUncorrectableRead stack lpf sector s
  | .sramUncorrectableError w addr b => Sys2Proof.Machine.execSramUncorrectableError w addr b s
  | .entropyHealthFail => Sys2Proof.Machine.execEntropyHealthFail s
  | .entropyRecover => Sys2Proof.Machine.execEntropyRecover s
  | .linkTrainingStart l far => Sys2Proof.Machine.execLinkTrainingStart l far s
  | .dataFlitReceived l f => Sys2Proof.Machine.execDataFlitReceived l f s
  | .controlFlitReceived l f => Sys2Proof.Machine.execControlFlitReceived l f s
  | .idleFlitReceived l => Sys2Proof.Machine.execIdleFlitReceived l s
  | .controlFlitSend l => Sys2Proof.Machine.execControlFlitSend l s
  | .replayTimeout l => Sys2Proof.Machine.execReplayTimeout l s
  | .rekey l tx => Sys2Proof.Machine.execRekey l tx s
  | .retrain l far => Sys2Proof.Machine.execRetrain l far s
  | .widthChange l lanes => Sys2Proof.Machine.execWidthChange l lanes s
  | .linkDown l r => Sys2Proof.Machine.execLinkDown l r s
  | .memRd l m => Sys2Proof.Machine.execMemRd l m s
  | .memWr l m => Sys2Proof.Machine.execMemWr l m s
  | .cpl l m => Sys2Proof.Machine.execCpl l m s
  | .resultStoreTimeout disp => Sys2Proof.Machine.execResultStoreTimeout disp s
  | .pathLost l m => Sys2Proof.Machine.execPathLost l m s
  | .doorbell l m => Sys2Proof.Machine.execDoorbell l m s
  | .rdispSend l => Sys2Proof.Machine.execRdispSend l s
  | .rdispDone l m => Sys2Proof.Machine.execRdispDone l m s
  | .rdispTimeout l slot => Sys2Proof.Machine.execRdispTimeout l slot s
  | .secured l m => Sys2Proof.Machine.execSecured l m s
  | .reservedMtype l m => Sys2Proof.Machine.execReservedMtype l m s
  | .messageForward l m => Sys2Proof.Machine.execMessageForward l m s
  | .cxlMemRead port hpa len => Sys2Proof.Machine.execCxlMemRead port hpa len s
  | .cxlMemWrite port hpa data => Sys2Proof.Machine.execCxlMemWrite port hpa data s
  | .hostPortLoss port why => Sys2Proof.Machine.execHostPortLoss port why s
  | .atsInvalidation port pasid base len => Sys2Proof.Machine.execAtsInvalidation port pasid base len s
  | .priResponse port id code => Sys2Proof.Machine.execPriResponse port id code s
  | .priTimeout port id => Sys2Proof.Machine.execPriTimeout port id s
  | .startInterface port sess id => Sys2Proof.Machine.execStartInterface port sess id s
  | .lockInterface port sess id => Sys2Proof.Machine.execLockInterface port sess id s
  | .stopInterface port sess id => Sys2Proof.Machine.execStopInterface port sess id s
  | .bindClaim port sess vendor cmd id value => Sys2Proof.Machine.execBindClaim port sess vendor cmd id value s
  | .ideKmKeyProg port sess stream keySet tx go => Sys2Proof.Machine.execIdeKmKeyProg port sess stream keySet tx go s
  | .ideIntegrityFailure port slice => Sys2Proof.Machine.execIdeIntegrityFailure port slice s
  | .getMeasurements w sess r => Sys2Proof.Machine.execGetMeasurements w sess r s
  | .keyExchange w slice share selfRooted leaf rootDigest chainOk => Sys2Proof.Machine.execKeyExchange w slice share selfRooted leaf rootDigest chainOk s
  | .mctpControl unit r => Sys2Proof.Machine.execMctpControl unit r s
  | .pldmFirmwareUpdate sess r => Sys2Proof.Machine.execPldmFirmwareUpdate sess r s
  | .claimSlot sess digest => Sys2Proof.Machine.execClaimSlot sess digest s
  | .burnSlot sess slot digest signer sigOk => Sys2Proof.Machine.execBurnSlot sess slot digest signer sigOk s
  | .revokeSlot sess slot signer sigOk => Sys2Proof.Machine.execRevokeSlot sess slot signer sigOk s
  | .burnSvn sess svn signer sigOk => Sys2Proof.Machine.execBurnSvn sess svn signer sigOk s
  | .resetBlock sess b => Sys2Proof.Machine.execResetBlock sess b s
  | .resetCold sess b => Sys2Proof.Machine.execResetCold sess b s
  | .coldReset => Sys2Proof.Machine.execColdReset s
  | .coldResetRelease b => Sys2Proof.Machine.execColdResetRelease b s
  | .blockReset cause b => Sys2Proof.Machine.execBlockReset cause b s
  | .watchdogExpiry core b => Sys2Proof.Machine.execWatchdogExpiry core b s
  | .fatalInternalError b => Sys2Proof.Machine.execFatalInternalError b s
  | .supplyWarn => Sys2Proof.Machine.execSupplyWarn s
  | .dipEnd minMv ticks => Sys2Proof.Machine.execDipEnd minMv ticks s
  | .supplyClear => Sys2Proof.Machine.execSupplyClear s
  | .supplyReset minMv ticks b => Sys2Proof.Machine.execSupplyReset minMv ticks b s
  | .powerMeasurement mv ma avsOk => Sys2Proof.Machine.execPowerMeasurement mv ma avsOk s
  | .thermalCeilingStep temps => Sys2Proof.Machine.execThermalCeilingStep temps s
  | .thermalTrip die b => Sys2Proof.Machine.execThermalTrip die b s
  | .wiredInputChange ix level samples => Sys2Proof.Machine.execWiredInputChange ix level samples s
  | .clusterNapEntry c => Sys2Proof.Machine.execClusterNapEntry c s
  | .clusterDeepEntry c => Sys2Proof.Machine.execClusterDeepEntry c s
  | .clusterWake c => Sys2Proof.Machine.execClusterWake c s
  | .controlClusterDown => Sys2Proof.Machine.execControlClusterDown s
  | .controlClusterWake => Sys2Proof.Machine.execControlClusterWake s
  | .moFillCopyWorkEnd disp => Sys2Proof.Machine.execMoFillCopyWorkEnd disp s
  | .hostPortLinkUp port rate width cxl => Sys2Proof.Machine.execHostPortLinkUp port rate width cxl s
  | .sessionEnd sess => Sys2Proof.Machine.execSessionEnd sess s
  | .trainingFlitReceived l => Sys2Proof.Machine.execTrainingFlitReceived l s

end Sys2Proof.Machine
end

