-- ==== Sys2Proof/Safety.lean ====
section
/-!
DEFINITION. The terms in which claims about the block are put: its invariant, when a packet is served and how it is answered, and when the
end of a command has nothing to settle.
-/

namespace Sys2Proof.Machine

/-- A control core's claims are nested: each entry of its stack, from the top, saves a running priority below the one above it (R424). -/
def nested : List (Nat × Nat) → Nat → Bool
  | [], _ => true
  | (_, r) :: t, run => decide (r < run) && nested t r

/-- The event concentrator's priorities: no source's and no core's running priority exceeds 15, and every core's claims are nested (R424). -/
def EvcOk (s : State) : Prop :=
  (∀ e ∈ s.evc.srcs, e.2.prio ≤ 15) ∧ ∀ e ∈ s.evc.cores, e.2.run ≤ 15 ∧ nested e.2.stack e.2.run = true

/-- What every step keeps: the pool memory's canonical form, an even GENERATION of the almanac (R72: it is odd only while a change is being
made), at most eight messages in a mailbox (R430), and a core's claims nested by strictly rising priority, 15 entries at most (R424). -/
def Inv (s : State) : Prop :=
  Memory.wf s.pool.mem = true ∧ s.alm.gen.toNat % 2 = 0 ∧ (∀ e ∈ s.mbx.boxes, e.2.msgs.length ≤ 8) ∧ EvcOk s ∧
    ∀ e ∈ s.evc.cores, e.2.stack.length ≤ 15

/-- How far a packet command gets: the state in which its opcode runs, its context, its count and the slot of its fence, which holds one reference
more while the packet is served (R54). None where the packet is not served (`State.take`), or a header check fails (R516). -/
def State.served (s : State) (i : OpInfo) (h : Hdr) : Option (State × Nat × Word × Option Nat) :=
  match s.take i h with
  | .serve t c n =>
    if h.cont ≤ 15 ∧ t.headerCheck i h c = none then
      some (match t.fenceOf h c with | some k => t.incFence k | none => t, c, n, t.fenceOf h c)
    else none
  | _ => none

/-- The state after a packet's OK answer: its fence, its reply, and what follows from them. -/
def State.done (s : State) (i : OpInfo) (h : Hdr) (n : Word) (f : Option Nat) (res : List Nat) : State := (s.answer i h n f (.ok res)).finish

/-- The state after a packet's answer with another status. -/
def State.failed (s : State) (i : OpInfo) (h : Hdr) (n : Word) (f : Option Nat) (st : Status) : State := (s.answer i h n f (.bad st [])).finish

/-- The state after a packet whose reply comes with a later command. -/
def State.putOff (s : State) (i : OpInfo) (h : Hdr) (n : Word) (f : Option Nat) : State := (s.answer i h n f .later).finish

/-- The object of a KV packet at decode, with the geometry that its header's bytes `hd` name (R183). -/
def State.kvAt (s : State) (h : Hdr) (n : Word) (k : Nat) (m : Mo) (hd : List Byte) : KvEnv :=
  { ref := s.dref h.q n, m := k, mo := m, geo := geoOf hd (m.len / 65536), who := .hub }

/-- The end of a command has nothing to settle: the almanac shows the parked slots, no ring has refused a record, no polder is in the window of a
reset, no slice is quiescing, no stack retires or waits to, and every FENCE_SIGNAL that waits has earlier work to wait for. -/
def Quiet (s : State) : Prop :=
  s.alm.parked = s.parkedAll ∧ s.ringBad = [] ∧ s.sched.resets = [] ∧ (∀ e ∈ s.slices.tab, e.2.state ≠ .quiescing) ∧
    (∀ e ∈ s.pool.stks, e.2.retiring = false ∧ e.2.wait = false) ∧ ∀ e ∈ s.objs.queues, ∀ p ∈ e.2.signals, s.earlierWork e.1 p.order = true

end Sys2Proof.Machine
end

