-- ==== Sys2Proof/Certificates/Slice0/Obligations.lean ====
section
/-!
DEFINITION. The statements for the provers. A packet statement reads: where the packet at HEAD is served (`State.served`) and its opcode's checks
pass in the state the opcode sees, `exec` answers the next state, in which the opcode's own effect has happened and the answer of R82 follows
(`State.done`, `State.failed`, `State.putOff`).
-/

open Sys2Proof Sys2Proof.Machine

/-- CTX_CREATE, CTX_DESTROY and CTX_SET_RING complete: the new context in a free slot of the queue's slice, its key installed, the torn-down context,
the ring with both counts restarted (R36, R63, R66, R67, R88, R295). The installed key raises SEN_KEY (R418). -/
def Obligations.ContextPackets : Prop :=
  (∀ (h : Hdr) (ring log2 vec : Nat) (s s1 : State) (c : Nat) (n : Word) (f : Option Nat) (x : Slice) (k : Nat),
    s.served (ctxCreateInfo ring log2 vec) h = some (s1, c, n, f) → 6 ≤ log2 → log2 ≤ 16 → ring % (32 * 2 ^ log2) = 0 →
    s1.slice? (s1.sliceOf c) = some x → vec < x.vecCount → s1.sen.entropy = false → (s1.ctxsOf (s1.sliceOf c)).length < x.qCtx →
    s1.slotFor (slotCount 1) s1.objs.ctxMgr s1.objs.ctxs = some k →
    let t := ((((s1.drew 2).asked 1).onObjs fun o =>
      { o with ctxs := tset o.ctxs k (Ctx.new (o.ctxMgr.gen k) (s1.sliceOf c) false { addr := ring, obj := 0, log2 := log2 } vec
                 (Config.free (s1.free + 1) % 2 ^ 128) s1.now)
               ctxMgr := { o.ctxMgr with gens := tset o.ctxMgr.gens k (o.ctxMgr.gen k) } }).installKey (.ctx k 0)).raiseEdge 41
    exec (.ctxCreate h ring log2 vec) s = .next (t.done (ctxCreateInfo ring log2 vec) h n f (leNats 4 (t.ctxHandle k).toNat))) ∧
  (∀ (h : Hdr) (target : Handle) (s s1 : State) (c : Nat) (n : Word) (f : Option Nat) (k : Nat) (x : Ctx),
    s.served (ctxDestroyInfo target) h = some (s1, c, n, f) → s1.findCtxIn (s1.sliceOf c) target = some (k, x) → x.root = false → k ≠ c →
    exec (.ctxDestroy h target) s = .next ((s1.teardown k).done (ctxDestroyInfo target) h n f [])) ∧
  (∀ (h : Hdr) (addr : Nat) (obj : Handle) (log2 vec : Nat) (s s1 : State) (c : Nat) (n : Word) (f : Option Nat) (x : Ctx),
    s.served (ctxSetRingInfo addr obj log2 vec) h = some (s1, c, n, f) → s1.ctx? c = some x → 6 ≤ log2 → log2 ≤ 16 → s1.vecOk x.slice vec = true →
    s1.ringOk c addr obj (32 * 2 ^ log2) 1 = .ok () → x.prod = x.cons → x.held = [] →
    exec (.ctxSetRing h addr obj log2 vec) s =
      .next ((((s1.refRing obj).unrefRing x.ring.obj).modCtx c fun y =>
        { y with ring := { addr := addr, obj := obj, log2 := log2 }, vector := vec, prod := 0, cons := 0, armed := true }).done (ctxSetRingInfo addr obj log2 vec) h n f []))

/-- QUEUE_CREATE, QUEUE_DESTROY, QUEUE_START and QUEUE_STOP complete: the new queue STOPPED in a free slot, the queue gone with its work, RUNNING,
STOPPED with a wait dropped (R49, R50, R88). -/
def Obligations.QueuePackets : Prop :=
  (∀ (h : Hdr) (a : QueueArgs) (s s1 : State) (c : Nat) (n : Word) (f : Option Nat) (k : Nat) (x : Ctx) (l : Slice) (q : Nat),
    s.served (queueCreateInfo a) h = some (s1, c, n, f) → s1.findCtxIn (s1.sliceOf c) a.target = some (k, x) → 4 ≤ a.log2 → a.log2 ≤ 16 → a.cls ≤ 2 →
    1 ≤ a.weight → a.weight ≤ 65535 → (k = c ∨ a.ringObj = 0 ∧ a.replyObj = 0) → s1.ringOk k a.ringAddr a.ringObj (64 * 2 ^ a.log2) 4096 = .ok () →
    s1.ringOk k a.replyAddr a.replyObj (32 * 2 ^ a.log2) 4096 = .ok () → x.state = .active →
    (a.cls = 0 ∨ ∃ y ∈ s1.sched.adms, y.ctx = k ∧ y.feast = (a.cls == 1)) → s1.slice? (s1.sliceOf c) = some l →
    s1.queueUse (s1.sliceOf c) < l.qQueue → s1.slotFor (slotCount 2) s1.objs.qMgr s1.objs.queues = some q →
    let t := (((s1.drew 1).onObjs fun o =>
      { o with queues := tset o.queues q (Queue.new (o.qMgr.gen q) k a.cls a.weight { addr := a.ringAddr, obj := a.ringObj, log2 := a.log2 }
                 { addr := a.replyAddr, obj := a.replyObj, log2 := a.log2 })
               qMgr := { o.qMgr with gens := tset o.qMgr.gens q (o.qMgr.gen q) } }).refRing a.ringObj).refRing a.replyObj
    exec (.queueCreate h a) s = .next (t.done (queueCreateInfo a) h n f (leNats 4 (t.queueHandle q).toNat))) ∧
  (∀ (h : Hdr) (queue : Handle) (s s1 : State) (c : Nat) (n : Word) (f : Option Nat) (k : Nat) (x : Queue),
    s.served (queueDestroyInfo queue) h = some (s1, c, n, f) → s1.queueFor c queue = some (k, x) → k ≠ h.q →
    exec (.queueDestroy h queue) s = .next ((s1.destroyQueue k x).done (queueDestroyInfo queue) h n f [])) ∧
  (∀ (h : Hdr) (queue : Handle) (s s1 : State) (c : Nat) (n : Word) (f : Option Nat) (k : Nat) (x : Queue) (y : Ctx),
    s.served (queueStartInfo queue) h = some (s1, c, n, f) → s1.queueFor c queue = some (k, x) → (x.state = .stopped ∨ x.state = .halted) →
    s1.ctx? x.ctx = some y → y.state = .active →
    exec (.queueStart h queue) s = .next ((s1.modQueue k fun z => { z with state := .running, halt := .ok, look := none }).done (queueStartInfo queue) h n f [])) ∧
  (∀ (h : Hdr) (queue : Handle) (s s1 : State) (c : Nat) (n : Word) (f : Option Nat) (k : Nat) (x : Queue),
    s.served (queueStopInfo queue) h = some (s1, c, n, f) → s1.queueFor c queue = some (k, x) → (x.state = .running ∨ x.state = .waiting) →
    exec (.queueStop h queue) s =
      .next ((match x.wait with
        | some w => s1.endWait k x w .aborted .stopped .ok
        | none => s1.modQueue k fun z => { z with state := .stopped }).done (queueStopInfo queue) h n f []))

/-- MO_CREATE, MO_FREE and MO_SEAL complete: a host-backed object, an object backed from the carve-out while placement is frozen, an object whose frames
the pool driver is asked for (its reply comes later); the handle freed; the object SEALED, with its digest where it is measured
(R51, R53, R55, R88, R89, R239). -/
def Obligations.MemoryObjectPackets : Prop :=
  (∀ (h : Hdr) (base len ty : Nat) (fl : BitVec 8) (s s1 : State) (c : Nat) (n : Word) (f : Option Nat) (k : Nat),
    s.served (moCreateInfo base len ty fl) h = some (s1, c, n, f) → moParamsOk base len ty fl = true → fl.getLsbD 0 = true → s1.hostMapped c base len = true →
    s1.slotFor (slotCount 3) s1.objs.moMgr s1.objs.mos = some k →
    let t := (s1.drew 1).putMo k (Mo.new (s1.objs.moMgr.gen k) c base len ty fl false)
    exec (.moCreate h base len ty fl) s = .next (t.done (moCreateInfo base len ty fl) h n f (leNats 4 (t.moHandle k).toNat))) ∧
  (∀ (h : Hdr) (base len ty : Nat) (fl : BitVec 8) (s s1 t : State) (c : Nat) (n : Word) (f : Option Nat) (k p : Nat) (x : Slice),
    s.served (moCreateInfo base len ty fl) h = some (s1, c, n, f) → moParamsOk base len ty fl = true → fl.getLsbD 0 = false →
    s1.slice? (s1.sliceOf c) = some x → (∀ q, x.qFrame = some q → s1.frameUse (s1.sliceOf c) + len / 65536 ≤ q) →
    s1.slotFor (slotCount 3) s1.objs.moMgr s1.objs.mos = some k → s1.pool.frozen = true → s1.carvePolder (s1.sliceOf c) = some p →
    ((s1.drew 1).putMo k (Mo.new (s1.objs.moMgr.gen k) c base len ty fl false)).carveBack p c k base (len / 65536) = some t →
    exec (.moCreate h base len ty fl) s = .next (t.done (moCreateInfo base len ty fl) h n f (leNats 4 (t.moHandle k).toNat))) ∧
  (∀ (h : Hdr) (base len ty : Nat) (fl : BitVec 8) (s s1 : State) (c : Nat) (n : Word) (f : Option Nat) (k : Nat) (x : Slice),
    s.served (moCreateInfo base len ty fl) h = some (s1, c, n, f) → moParamsOk base len ty fl = true → fl.getLsbD 0 = false →
    s1.slice? (s1.sliceOf c) = some x → (∀ q, x.qFrame = some q → s1.frameUse (s1.sliceOf c) + len / 65536 ≤ q) →
    s1.slotFor (slotCount 3) s1.objs.moMgr s1.objs.mos = some k → s1.pool.frozen = false → s1.mbx.attached = true →
    let t := (s1.drew 1).putMo k (Mo.new (s1.objs.moMgr.gen k) c base len ty fl true)
    let b : Back := { req := s1.pool.reqNext, queue := h.q, count := n, tag := h.tag, fence := s1.fenceOf h c, fval := h.fval, mo := k
                      frames := len / 65536, backed := 0, since := s1.now }
    exec (.moCreate h base len ty fl) s =
      .next (((t.onPool fun p => { p with backs := p.backs ++ [b] }).sendPd 1 (t.ctxHandle c) (t.moHandle k) base (len / 65536)).putOff
        (moCreateInfo base len ty fl) h n f)) ∧
  (∀ (h : Hdr) (obj : Handle) (s s1 : State) (c : Nat) (n : Word) (f : Option Nat) (k : Nat) (m : Mo),
    s.served (moFreeInfo obj) h = some (s1, c, n, f) → s1.findMo c obj = some (k, m) →
    exec (.moFree h obj) s = .next (((s1.modMo k fun y => { y with freed := true }).decMo k).done (moFreeInfo obj) h n f [])) ∧
  (∀ (h : Hdr) (obj : Handle) (s s1 : State) (c : Nat) (n : Word) (f : Option Nat) (k : Nat) (m : Mo),
    s.served (moSealInfo obj) h = some (s1, c, n, f) → s1.findMo c obj = some (k, m) → m.flags.getLsbD 2 = true → m.isSealed = false →
    s1.writers k = false → m.flags.getLsbD 3 = false →
    exec (.moSeal h obj) s = .next ((s1.modMo k fun y => { y with isSealed := true }).done (moSealInfo obj) h n f [])) ∧
  (∀ (h : Hdr) (obj : Handle) (s s1 s2 : State) (c : Nat) (n : Word) (f : Option Nat) (k : Nat) (m : Mo) (b : List Byte),
    s.served (moSealInfo obj) h = some (s1, c, n, f) → s1.findMo c obj = some (k, m) → m.flags.getLsbD 2 = true → m.isSealed = false →
    s1.writers k = false → m.flags.getLsbD 3 = true → s1.readMo m .hub 0 m.len = (s2, .ok b) →
    let d := sha384 b
    exec (.moSeal h obj) s =
      .next (((s2.modMo k fun y => { y with isSealed := true, digest := d }).measure (s1.sliceOf c) 2 m.ty obj (s1.ctxHandle c) d).done
        (moSealInfo obj) h n f (leNats 24 d)))

/-- FENCE_CREATE, FENCE_FREE, PROGRAM_LOAD and PROGRAM_FREE complete: the new fence ACTIVE in a free slot, the handles freed, the program of a sealed image
in a free slot with its entry in the slice's measurement log (R36, R55, R56, R148, R149, R324). -/
def Obligations.FenceAndProgramPackets : Prop :=
  (∀ (h : Hdr) (init : DWord) (s s1 : State) (c : Nat) (n : Word) (f : Option Nat) (x : Slice) (k : Nat),
    s.served (fenceCreateInfo init) h = some (s1, c, n, f) → s1.slice? (s1.sliceOf c) = some x → s1.fenceUse (s1.sliceOf c) < x.qFence →
    s1.slotFor (slotCount 4) s1.objs.fMgr s1.objs.fences = some k →
    let t := (s1.drew 1).onObjs fun o =>
      { o with fences := tset o.fences k (Fence.new (o.fMgr.gen k) c init), fMgr := { o.fMgr with gens := tset o.fMgr.gens k (o.fMgr.gen k) } }
    exec (.fenceCreate h init) s = .next (t.done (fenceCreateInfo init) h n f (leNats 4 (t.fenceHandle k).toNat))) ∧
  (∀ (h : Hdr) (fh : Handle) (s s1 : State) (c : Nat) (n : Word) (f : Option Nat) (k : Nat) (x : Fence),
    s.served (fenceFreeInfo fh) h = some (s1, c, n, f) → s1.findFence c fh = some (k, x) →
    exec (.fenceFree h fh) s = .next (((s1.modFence k fun y => { y with freed := true }).decFence k).done (fenceFreeInfo fh) h n f [])) ∧
  (∀ (h : Hdr) (obj : Handle) (off : Nat) (s s1 s2 : State) (c : Nat) (n : Word) (f : Option Nat) (k p : Nat) (m : Mo) (d : List Byte),
    s.served (programLoadInfo obj off) h = some (s1, c, n, f) → s1.findMo c obj = some (k, m) → m.isSealed = true →
    (s1.confSlice (s1.sliceOf c) = false ∨ m.flags.getLsbD 3 = true) → m.ty = 2 → off ≤ m.len →
    s1.readMo m .hub off (min (m.len - off) 524288) = (s2, .ok d) → imgCheck d (m.len - off) = .ok () →
    s2.slotFor (slotCount 6) s2.objs.pMgr s2.objs.progs = some p →
    let dig := sha384 (d.take (imgNat d 20 4))
    let g := s2.objs.pMgr.gen p
    let t := ((s2.drew 1).onObjs fun o =>
      { o with progs := tset o.progs p (imgProgram d off g c k dig), pMgr := { o.pMgr with gens := tset o.pMgr.gens p g } }).incMo k
    exec (.programLoad h obj off) s =
      .next ((t.measure (s1.sliceOf c) 1 m.ty (mkHandle 6 g p) (t.ctxHandle c) dig).done (programLoadInfo obj off) h n f
        (leNats 4 (mkHandle 6 g p).toNat ++ leNats 4 0x0200 ++ leNats 16 dig))) ∧
  (∀ (h : Hdr) (prog : Handle) (s s1 : State) (c : Nat) (n : Word) (f : Option Nat) (k : Nat) (x : Program),
    s.served (programFreeInfo prog) h = some (s1, c, n, f) → s1.findProg c prog = some (k, x) →
    exec (.programFree h prog) s = .next (((s1.modProg k fun y => { y with freed := true }).decProg k).done (programFreeInfo prog) h n f []))

/-- FENCE_SIGNAL, FENCE_WAIT, FENCE_NOTIFY and FENCE_RESET complete: the signal is applied once the queue's earlier work has ended; a wait passes where its
target is reached, makes the queue WAITING below it, and halts it on a FAULTED fence; a notification is posted at once or armed; the reset writes the
value where the fence stands at its top with nobody waiting (R57 to R60, R84, R93). -/
def Obligations.FencePackets : Prop :=
  (∀ (h : Hdr) (s s1 : State) (c : Nat) (n : Word) (f : Option Nat) (k : Nat),
    s.served fenceSignalInfo h = some (s1, c, n, f) → s1.fenceOf h c = some k →
    let p : PendSig := { order := s1.sched.order, count := n, tag := h.tag, fence := k, value := h.fval }
    exec (.fenceSignal h) s =
      .next (((s1.modQueue h.q fun y => { y with signals := y.signals ++ [p] }).flushSignals h.q).putOff fenceSignalInfo h n f)) ∧
  (∀ (h : Hdr) (fh : Handle) (target : DWord) (s s1 : State) (c : Nat) (n : Word) (f : Option Nat) (k : Nat) (x : Fence),
    s.served (fenceWaitInfo fh target) h = some (s1, c, n, f) → s1.findFenceWait c fh = some (k, x) → x.faulted = false → target ≤ x.value →
    exec (.fenceWait h fh target) s = .next (s1.done (fenceWaitInfo fh target) h n f (leNats 8 x.value.toNat))) ∧
  (∀ (h : Hdr) (fh : Handle) (target : DWord) (s s1 : State) (c : Nat) (n : Word) (f : Option Nat) (k : Nat) (x : Fence),
    s.served (fenceWaitInfo fh target) h = some (s1, c, n, f) → s1.findFenceWait c fh = some (k, x) → x.faulted = false → x.value < target →
    exec (.fenceWait h fh target) s =
      .next (((s1.modQueue h.q fun y =>
        { y with state := .waiting, wait := some { fence := k, target := target, count := n, tag := h.tag } }).incFence k).putOff
          (fenceWaitInfo fh target) h n f)) ∧
  (∀ (h : Hdr) (fh : Handle) (target : DWord) (s s1 : State) (c : Nat) (n : Word) (f : Option Nat) (k : Nat) (x : Fence),
    s.served (fenceWaitInfo fh target) h = some (s1, c, n, f) → s1.findFenceWait c fh = some (k, x) → x.faulted = true →
    exec (.fenceWait h fh target) s =
      .next ((((s1.modQueue h.q fun y => { y with state := .halted, halt := .faulted }).reply h.q n h.tag 0x61 .faulted 0 (leNats 8 x.value.toNat)).postEvent
        c (mkEv 2 x.status fh 0 x.value x.disp)).putOff (fenceWaitInfo fh target) h n f)) ∧
  (∀ (h : Hdr) (fh : Handle) (target cookie : DWord) (s s1 : State) (c : Nat) (n : Word) (f : Option Nat) (k : Nat) (x y : Fence),
    s.served (fenceNotifyInfo fh target cookie) h = some (s1, c, n, f) → s1.findFenceWait c fh = some (k, x) → s1.fence? k = some y → y.faulted = false →
    target ≤ y.value → s1.noteUse < noteCount →
    exec (.fenceNotify h fh target cookie) s =
      .next ((s1.postEvent c (mkNote 1 .ok (s1.fenceHandle k) cookie y.value s1.time)).done (fenceNotifyInfo fh target cookie) h n f [])) ∧
  (∀ (h : Hdr) (fh : Handle) (target cookie : DWord) (s s1 : State) (c : Nat) (n : Word) (f : Option Nat) (k : Nat) (x y : Fence),
    s.served (fenceNotifyInfo fh target cookie) h = some (s1, c, n, f) → s1.findFenceWait c fh = some (k, x) → s1.fence? k = some y → y.faulted = false →
    y.value < target → s1.noteUse < noteCount →
    exec (.fenceNotify h fh target cookie) s =
      .next (((s1.onObjs fun o => { o with notes := o.notes ++ [{ fence := k, target := target, cookie := cookie, ctx := c }] }).incFence k).done
        (fenceNotifyInfo fh target cookie) h n f [])) ∧
  (∀ (h : Hdr) (fh : Handle) (v : DWord) (s s1 : State) (c : Nat) (n : Word) (f : Option Nat) (k : Nat) (x : Fence),
    s.served (fenceResetInfo fh v) h = some (s1, c, n, f) → s1.findFence c fh = some (k, x) → x.faulted = false → x.value = BitVec.allOnes 64 →
    s1.objs.queues.any (fun e => e.2.wait.any (fun w => w.fence == k)) = false → s1.objs.notes.any (fun a => a.fence == k) = false →
    exec (.fenceReset h fh v) s = .next ((s1.modFence k fun y => { y with value := v }).done (fenceResetInfo fh v) h n f []))

/-- MO_FILL, MO_COPY, MO_PLACE_HINT and the end of a fill or copy complete: the work packet is entered with its references, the policy stands in the
object and its frames, with moves queued; at the end the bytes stand in the object and the work has left the scheduler; one whose destination has
become a formatted KV_CACHE object, or a save area in use, ends with BAD_STATE (log entry 210) (R54, R75, R90, R179, R188, R222). -/
def Obligations.FillCopyPackets : Prop :=
  (∀ (h : Hdr) (obj : Handle) (v : Byte) (off len : Nat) (s s1 : State) (c : Nat) (n : Word) (f : Option Nat) (k : Nat) (m : Mo),
    s.served (moFillInfo obj v off len) h = some (s1, c, n, f) → s1.findMo c obj = some (k, m) → s1.brg.maint = false → off + len ≤ m.len →
    m.isSealed = false → m.formatted = false → m.saving = false →
    exec (.moFill h obj v off len) s =
      .next ((s1.accept { s1.blankDisp h c n (.fill k v off len) with state := .running, moRefs := [k] }).done (moFillInfo obj v off len) h n f [])) ∧
  (∀ (h : Hdr) (src dst : Handle) (so dO len : Nat) (s s1 : State) (c : Nat) (n : Word) (f : Option Nat) (a b : Nat) (x y : Mo),
    s.served (moCopyInfo src dst so dO len) h = some (s1, c, n, f) → s1.findMo c src = some (a, x) → s1.findMo c dst = some (b, y) →
    s1.brg.maint = false → so + len ≤ x.len → dO + len ≤ y.len → y.isSealed = false → y.formatted = false → y.saving = false →
    exec (.moCopy h src dst so dO len) s =
      .next ((s1.accept { s1.blankDisp h c n (.copy a b so dO len) with state := .running, moRefs := [a, b] }).done (moCopyInfo src dst so dO len) h n f [])) ∧
  (∀ (h : Hdr) (obj : Handle) (p : Nat) (s s1 : State) (c : Nat) (n : Word) (f : Option Nat) (k : Nat) (m : Mo),
    s.served (moPlaceHintInfo obj p) h = some (s1, c, n, f) → s1.findMo c obj = some (k, m) → p ≤ 2 → m.ty ≠ 1 →
    let s2 := s1.modMo k fun x => { x with policy := p }
    let s3 := (s1.moFrames c k).foldl (fun a j => a.modFrame j fun g => { g with policy := p }) s2
    let s4 := (s1.moFrames c k).foldl (fun a j => match a.frame? j with
      | some g => (match a.ownPolicy j g .hub with
        | some d => if p = 1 ∨ ((a.mo? k).bind (·.home)).isSome then a.queueMove j d true else a
        | none => a)
      | none => a) s3
    exec (.moPlaceHint h obj p) s = .next ((if p = 0 then s3 else s4).done (moPlaceHintInfo obj p) h n f [])) ∧
  (∀ (h : Hdr) (obj : Handle) (p : Nat) (s s1 : State) (c : Nat) (n : Word) (f : Option Nat) (k : Nat) (m : Mo),
    s.served (moPlaceHintInfo obj p) h = some (s1, c, n, f) → s1.findMo c obj = some (k, m) → p ≤ 2 → m.ty = 1 →
    exec (.moPlaceHint h obj p) s = .next ((s1.modMo k fun x => { x with policy := p }).done (moPlaceHintInfo obj p) h n f [])) ∧
  (∀ (ref : DWord) (s s1 : State) (d : Disp) (o off len : Nat) (v : Byte) (m : Mo),
    s.disp? ref = some d → d.state = .running → d.work = .fill o v off len → s.ontoKv d.work = false → s.mo? o = some m →
    s.writeMo m d.who off (List.replicate len v) = (s1, .ok ()) →
    exec (.moFillCopyWorkEnd ref) s = .next (s1.endDisp d none).finish) ∧
  (∀ (ref : DWord) (s s1 s2 : State) (d : Disp) (a b so dO len : Nat) (x y : Mo) (bs : List Byte),
    s.disp? ref = some d → d.state = .running → d.work = .copy a b so dO len → s.ontoKv d.work = false →
    s.mo? a = some x → s.mo? b = some y →
    s.readMo x d.who so len = (s1, .ok bs) → s1.writeMo y d.who dO bs = (s2, .ok ()) →
    exec (.moFillCopyWorkEnd ref) s = .next (s2.endDisp d none).finish) ∧
  (∀ (ref : DWord) (s : State) (d : Disp), s.disp? ref = some d → d.state = .running → s.ontoKv d.work = true →
    exec (.moFillCopyWorkEnd ref) s = .next (s.endDisp d (some .badState)).finish)

/-- Every packet that stages: served without TXN, it is checked as at staging and then is a commit of its own, whose effect `State.applyAll`, the start of the
calendars that it changes `State.restarts` and the commit's consequences `State.committed` name (R72, R100, R102, R103, R243). -/
def Obligations.SettingPackets : Prop :=
  ∀ (i : OpInfo) (h : Hdr) (x : Setting) (cmd : Instr),
    ((∃ q w, i = queueSetWeightInfo q w ∧ x = .qweight q w ∧ cmd = .queueSetWeight h q w) ∨
     (∃ v, i = ctxSetSlowdownInfo v ∧ x = .slowdown h.context v ∧ cmd = .ctxSetSlowdown h v) ∨
     (∃ l j v, i = sliceSetQuotaInfo l j v ∧ x = .quota l j v ∧ cmd = .sliceSetQuota h l j v) ∨
     (∃ l p w, i = sliceSetShareInfo l p w ∧ x = .share l p w ∧ cmd = .sliceSetShare h l p w) ∨
     (∃ p m d, i = polderShapeInfo p m d ∧ x = .shape p m d ∧ cmd = .polderShape h p m d) ∨
     (∃ p a b, i = polderCalendarInfo p a b ∧ x = .calendar p a b ∧ cmd = .polderCalendar h p a b) ∨
     (∃ t p k d g, i = polderAdmitInfo t p k d g ∧ x = .admission t p k d g ∧ cmd = .polderAdmit h t p k d g) ∨
     (∃ a, i = linkShapeInfo a ∧ x = .link a ∧ cmd = .linkShape h a) ∨
     (∃ k v, i = sluiceSetInfo k v ∧ x = .sluice k v ∧ cmd = .sluiceSet h k v) ∨
     (∃ e, i = embankmentSetInfo e ∧ x = .embankment e ∧ cmd = .embankmentSet h e) ∨
     (∃ m, i = placementModeInfo m ∧ x = .mode m ∧ cmd = .placementMode h m) ∨
     (∃ t v w, i = keyPolicyInfo t v w ∧ x = .keyPolicy t v w ∧ cmd = .keyPolicy h t v w)) →
    (∀ (s s1 : State) (c : Nat) (n : Word) (f : Option Nat), s.served i h = some (s1, c, n, f) → h.flags.getLsbD 2 = false →
      s1.stageOk c [] x = .ok () → (s1.applyAll [x]).settingFits x = .ok () →
      exec cmd s = .next ((((s1.applyAll [x]).restarts s1).committed [x]).done i h n f [])) ∧
    (∀ (s s1 : State) (c : Nat) (n : Word) (f : Option Nat) (k : Nat) (t : Txn), s.served i h = some (s1, c, n, f) → h.flags.getLsbD 2 = true →
      s1.txnOf c = some (k, t) → t.settings.length < 256 → s1.stageOk c t.settings x = .ok () →
      exec cmd s =
        .next (((s1.onObjs fun o => { o with txns := tset o.txns k { t with settings := t.settings ++ [x], last := s1.now } }).answer i h n f
          (.staged t.settings.length)).finish))

/-- TXN_BEGIN, TXN_COMMIT, TXN_ABORT and TXN_TIMEOUT complete: a transaction in a free slot (slots 0 to 3 are slice 0's), every setting applied at one
instant, the transaction gone, rolled back with its handle kept (R87, R101, R103, R104, R106). -/
def Obligations.TransactionCommands : Prop :=
  (∀ (h : Hdr) (s s1 : State) (c : Nat) (n : Word) (f : Option Nat) (k : Nat),
    s.served txnBeginInfo h = some (s1, c, n, f) → s1.txnOf c = none →
    pickSlot 64 (fun j => s1.objs.tMgr.freeAt s1.objs.txns j && (s1.sliceOf c == 0 || decide (4 ≤ j))) s1.peek = some k →
    let g := s1.objs.tMgr.gen k
    let t : Txn := { gen := g, ctx := c, beginSeq := s1.objs.seq, settings := [], last := s1.now, left := none }
    exec (.txnBegin h) s =
      .next ((((s1.drew 1).onObjs fun o => { o with txns := tset o.txns k t, tMgr := { o.tMgr with gens := tset o.tMgr.gens k g } }).modCtx c fun y =>
        { y with rolled := none }).done txnBeginInfo h n f (leNats 4 (mkHandle 7 g k).toNat))) ∧
  (∀ (h : Hdr) (t : Handle) (s s1 s2 : State) (c : Nat) (n : Word) (f : Option Nat) (k : Nat) (x : Txn),
    s.served (txnCommitInfo t) h = some (s1, c, n, f) → s1.findTxn c t = .ok (k, x) →
    x.settings.any (fun y => s1.objs.keySeq.any (fun e => e.1 == y.key && decide (x.beginSeq < e.2))) = false →
    (s1.endTxn k c).commitAll c x.settings = .ok s2 →
    exec (.txnCommit h t) s =
      .next (s2.done (txnCommitInfo t) h n f (leNats 2 x.settings.length ++ leNats 6 0 ++ leNats 8 s2.objs.seq))) ∧
  (∀ (h : Hdr) (t : Handle) (s s1 : State) (c : Nat) (n : Word) (f : Option Nat) (k : Nat) (x : Txn),
    s.served (txnCommitInfo t) h = some (s1, c, n, f) → s1.findTxn c t = .ok (k, x) →
    x.settings.any (fun y => s1.objs.keySeq.any (fun e => e.1 == y.key && decide (x.beginSeq < e.2))) = true →
    exec (.txnCommit h t) s = .next ((s1.endTxn k c).failed (txnCommitInfo t) h n f .txnConflict)) ∧
  (∀ (h : Hdr) (t : Handle) (s s1 : State) (c : Nat) (n : Word) (f : Option Nat) (k : Nat) (x : Txn),
    s.served (txnAbortInfo t) h = some (s1, c, n, f) → s1.findTxn c t = .ok (k, x) →
    exec (.txnAbort h t) s = .next ((s1.endTxn k c).done (txnAbortInfo t) h n f [])) ∧
  (∀ (k : Nat) (s : State) (t : Txn), tget s.objs.txns k = some t → t.left = none → t.last + 10000000 ≤ s.now →
    exec (.txnTimeout k) s =
      .next (((s.endTxn k t.ctx).modCtx t.ctx fun y => { y with rolled := some (mkHandle 7 t.gen k) }).raiseEdge 44))

/-- The query packets complete: the slice's almanac, a fence's value and state, a context's fault registers and accounting, a memory object's and a queue's
state, a digest; each leaves everything as it was but for the bytes it writes into an object and its answer (R71, R73, R95, R266, R495). -/
def Obligations.QueryPackets : Prop :=
  (∀ (h : Hdr) (obj : Handle) (off : Nat) (s s1 s2 : State) (c : Nat) (n : Word) (f : Option Nat) (k : Nat) (m : Mo),
    s.served (queryAlmanacInfo obj off) h = some (s1, c, n, f) → s1.findMo c obj = some (k, m) → 16384 ≤ m.len →
    let d := s1.almBytes (some (s1.sliceOf c))
    m.destOk off d.length = .ok () → (s1.drew 1).writeMo m .hub off d = (s2, .ok ()) →
    exec (.queryAlmanac h obj off) s = .next (s2.done (queryAlmanacInfo obj off) h n f (leNats 8 s1.alm.gen.toNat ++ leNats 4 d.length))) ∧
  (∀ (h : Hdr) (fh : Handle) (s s1 : State) (c : Nat) (n : Word) (f : Option Nat) (k : Nat) (x : Fence),
    s.served (queryFenceInfo fh) h = some (s1, c, n, f) → s1.findFence c fh = some (k, x) →
    exec (.queryFence h fh) s =
      .next (s1.done (queryFenceInfo fh) h n f
        (leNats 8 x.value.toNat ++ [b1 x.faulted, 0] ++ leNats 2 x.status.code ++ leNats 4 0 ++ leNats 8 x.disp.toNat))) ∧
  (∀ (h : Hdr) (target obj : Handle) (off : Nat) (s s1 s2 : State) (c : Nat) (n : Word) (f : Option Nat) (j k : Nat) (x : Ctx) (m : Mo),
    s.served (queryContextInfo target obj off) h = some (s1, c, n, f) → s1.findCtxIn (s1.sliceOf c) target = some (j, x) → s1.findMo c obj = some (k, m) →
    m.destOk off 256 = .ok () → s1.writeMo m .hub off (x.fault.bytes ++
      { x.acct with engineNs := x.acct.engineNs + BitVec.ofNat 64 ((s1.sched.disps.filter (fun d : Disp => d.ctx == j)).map s1.owed).sum }.bytes s1.now) = (s2, .ok ()) →
    exec (.queryContext h target obj off) s = .next (s2.done (queryContextInfo target obj off) h n f (leNats 4 256))) ∧
  (∀ (h : Hdr) (obj : Handle) (s s1 : State) (c : Nat) (n : Word) (f : Option Nat) (k : Nat) (m : Mo),
    s.served (queryMoInfo obj) h = some (s1, c, n, f) → s1.findMo c obj = some (k, m) →
    exec (.queryMo h obj) s =
      .next (s1.done (queryMoInfo obj) h n f ([m.stateNo, m.ty, m.flags.toNat, 0] ++ leNats 4 (m.refs + 1) ++ leNats 8 m.len))) ∧
  (∀ (h : Hdr) (queue : Handle) (s s1 : State) (c : Nat) (n : Word) (f : Option Nat) (k : Nat) (x : Queue),
    s.served (queryQueueInfo queue) h = some (s1, c, n, f) → s1.findQueue queue = some (k, x) → s1.sliceOf x.ctx = s1.sliceOf c →
    exec (.queryQueue h queue) s =
      .next (s1.done (queryQueueInfo queue) h n f
        ([x.state.no, x.cls] ++ leNats 2 x.halt.code ++ leNats 4 x.head.toNat ++ leNats 4 x.tail.toNat))) ∧
  (∀ (h : Hdr) (src dst : Handle) (off : Nat) (s s1 s2 : State) (c : Nat) (n : Word) (f : Option Nat) (k d : Nat) (m : Mo),
    s.served (queryDigestInfo src dst off) h = some (s1, c, n, f) → s1.digestOf c src = .ok d → s1.findMo c dst = some (k, m) → m.destOk off 48 = .ok () →
    s1.writeMo m .hub off (leBytes 48 d) = (s2, .ok ()) →
    exec (.queryDigest h src dst off) s = .next (s2.done (queryDigestInfo src dst off) h n f []))

/-- Slice administration and the pool driver's answers complete: the new slice with its root context and first queue, the slice gone with its contexts, a
waiting MO_CREATE answered, dirty logging on and off, the quiesce begun (its reply comes when the saves have ended), the slice ACTIVE again
(R68, R96, R209, R273, R281 to R287). -/
def Obligations.SlicePackets : Prop :=
  (∀ (h : Hdr) (a : SliceArgs) (s s1 t : State) (c : Nat) (n : Word) (f : Option Nat) (b l k q : Nat) (r u : State),
    s.served (sliceCreateInfo a) h = some (s1, c, n, f) → a.port ≤ 3 → a.mode ≤ 1 →
    (a.mode = 1 → s1.brg.lConf = true) → 1 ≤ a.pasid → a.pasid < 2 ^ 20 → (∀ e ∈ s1.slices.tab, e.1 ≠ 0 → e.2.port = a.port → e.2.pasid ≠ a.pasid) →
    (s1.port a.port).up = true → 6 ≤ a.evtLog2 → a.evtLog2 ≤ 16 → a.evtAddr % (32 * 2 ^ a.evtLog2) = 0 → a.vector < 16 → 4 ≤ a.ringLog2 →
    a.ringLog2 ≤ 16 → 1 ≤ a.weight → a.weight ≤ 65535 → s1.ringOk 0 a.ringAddr 0 (64 * 2 ^ a.ringLog2) 4096 = .ok () →
    s1.ringOk 0 a.replyAddr 0 (32 * 2 ^ a.ringLog2) 4096 = .ok () → s1.quotaSum 0 + a.qCtx ≤ slotCount 1 → s1.quotaSum 1 + a.qQueue ≤ slotCount 2 →
    s1.quotaSum 2 + a.qFence ≤ slotCount 4 → 1 ≤ a.qCtx → 1 ≤ a.qQueue → s1.freeWindow a.port = some b →
    (a.mode = 1 → (s1.slices.tab.filter (fun e => e.2.conf && e.2.port == a.port)).length < 64) →
    s1.slotFor (slotCount 5) s1.slices.mgr s1.slices.tab = some l →
    let g := s1.slices.mgr.gen l
    let s2 := (s1.drew 1).onSlices fun x =>
      { x with tab := tset x.tab l (Slice.new g a.pasid a.port (a.mode == 1) b a), mgr := { x.mgr with gens := tset x.mgr.gens l g } }
    let s3 := if a.mode = 1 then s2.secUpdate.modTdi l (fun _ => { Tdi.none with state := 1 }) else s2.modTdi l (fun _ => Tdi.none)
    (s3.onSched fun x => { x with jobs := tset x.jobs l 0 }).makeCtx l true a.qCtx { addr := a.evtAddr, obj := 0, log2 := a.evtLog2 } a.vector =
      .ok (r, k) →
    r.makeQueue k 0 a.weight { addr := a.ringAddr, obj := 0, log2 := a.ringLog2 } { addr := a.replyAddr, obj := 0, log2 := a.ringLog2 } = .ok (u, q) →
    t = (u.modSlice l fun x => { x with root := k, tokTime := s1.now }).almanac →
    exec (.sliceCreate h a) s =
      .next (t.done (sliceCreateInfo a) h n f
        (leNats 4 (mkHandle 5 g l).toNat ++ leNats 4 (t.ctxHandle k).toNat ++ leNats 4 (t.queueHandle q).toNat))) ∧
  (∀ (h : Hdr) (slice : Handle) (s s1 : State) (c : Nat) (n : Word) (f : Option Nat) (l : Nat) (x : Slice),
    s.served (sliceDestroyInfo slice) h = some (s1, c, n, f) → s1.findSlice slice = some (l, x) → l ≠ 0 →
    exec (.sliceDestroy h slice) s = .next ((s1.destroySlice l).done (sliceDestroyInfo slice) h n f [])) ∧
  (∀ (h : Hdr) (req status : Nat) (s s1 : State) (c : Nat) (n : Word) (f : Option Nat) (b : Back),
    s.served (pdFramesBackedInfo req status) h = some (s1, c, n, f) → (status = 0 ∨ status = 0x10) →
    s1.pool.backs.find? (fun x => x.req == req) = some b →
    exec (.pdFramesBacked h req status) s =
      .next ((if status ≠ 0 then (s1.freeReq req).failBack b .noSlot
        else if b.backed = b.frames then (s1.freeReq req).passBack b else (s1.freeReq req).failBack b .noSlot).done
          (pdFramesBackedInfo req status) h n f [])) ∧
  (∀ (h : Hdr) (slice : Handle) (hostMap poolMap : Nat) (r : Option (List (Nat × Nat × Nat))) (s s1 : State) (c : Nat) (n : Word) (f : Option Nat)
    (l : Nat) (x : Slice),
    s.served (sliceDirtyLogInfo slice 1 hostMap poolMap) h = some (s1, c, n, f) → s1.findSlice slice = some (l, x) → hostMap % 4096 = 0 → poolMap % 4096 = 0 →
    (hostMap = 0 ∨ ∃ d, r = some d ∧ rangesOk d = true) → (poolMap = 0 ∨ x.conf = false) → (s1.tdi l).scrubbed = false →
    exec (.sliceDirtyLog h slice 1 hostMap poolMap r) s =
      .next (((s1.flushDirty l).modSlice l fun y =>
        { y with dirty := some { ranges := if hostMap = 0 then none else r, hostMap := hostMap, untracked := false, poolMap := poolMap, hostBits := []
                                 poolBits := [] } }).done (sliceDirtyLogInfo slice 1 hostMap poolMap) h n f [])) ∧
  (∀ (h : Hdr) (slice : Handle) (hostMap poolMap : Nat) (r : Option (List (Nat × Nat × Nat))) (s s1 : State) (c : Nat) (n : Word) (f : Option Nat)
    (l : Nat) (x : Slice),
    s.served (sliceDirtyLogInfo slice 0 hostMap poolMap) h = some (s1, c, n, f) → s1.findSlice slice = some (l, x) →
    (s1.tdi l).scrubbed = false →
    exec (.sliceDirtyLog h slice 0 hostMap poolMap r) s =
      .next (((s1.flushDirty l).modSlice l fun y => { y with dirty := none }).done (sliceDirtyLogInfo slice 0 hostMap poolMap) h n f [])) ∧
  (∀ (h : Hdr) (slice : Handle) (s s1 : State) (c : Nat) (n : Word) (f : Option Nat) (l : Nat) (x : Slice),
    s.served (sliceQuiesceInfo slice) h = some (s1, c, n, f) → s1.findSlice slice = some (l, x) → l ≠ 0 → x.state = .active →
    (s1.tdi l).scrubbed = false →
    exec (.sliceQuiesce h slice) s =
      .next ((s1.beginQuiesce l { order := h.q, count := n, tag := h.tag, fence := (s1.fenceOf h c).elim 0 (· + 1), value := h.fval }).putOff
        (sliceQuiesceInfo slice) h n f)) ∧
  (∀ (h : Hdr) (slice : Handle) (s s1 : State) (c : Nat) (n : Word) (f : Option Nat) (l : Nat) (x : Slice),
    s.served (sliceResumeInfo slice) h = some (s1, c, n, f) → s1.findSlice slice = some (l, x) → x.state = .quiesced →
    (x.conf = true → (s1.tdi l).state = 3) →
    exec (.sliceResume h slice) s = .next ((s1.resume l).done (sliceResumeInfo slice) h n f []).lineServe) ∧
  (∀ (req : Nat) (s : State) (b : Back), s.pool.backs.find? (fun x => x.req == req) = some b → b.since + 10000000 ≤ s.now →
    exec (.backRequestTimeout req) s = .next (s.failBack b .timeout).finish)

/-- DISPATCH and DISPATCH_REMOTE complete: the work packet is entered with its engines, bindings and references once every check of R517 (of R387)
passes (R92, R171, R387). -/
def Obligations.DispatchPackets : Prop :=
  (∀ (h : Hdr) (a : DispArgs) (s s1 s2 : State) (c : Nat) (n : Word) (f : Option Nat) (g sv : Nat) (x : Program) (m : Mo) (bs : List (Bind × Mo))
    (p : Polder) (t : Tab Desc),
    s.served (dispatchInfo a) h = some (s1, c, n, f) → s1.findProg c a.program = some (g, x) →
    a.save ≠ 0 → s1.findMo c a.save = some (sv, m) → s1.bindMos c a.binds = .ok bs → s1.brg.maint = false → s1.actives ≠ [] →
    s1.polder? a.polder = some p → 1 ≤ a.count → a.count ≤ p.eCount →
    s1.classOk ((s1.queue? h.q).elim 0 (·.cls)) c a.polder (some g) = true → x.engMin ≤ a.count → a.count ≤ x.engMax → a.entry < x.blocks.length →
    (x.fmtMask.getLsbD 9 = true → s1.brg.lCq4 = true) → m.ty = 4 → saveSlot * a.count ≤ m.len → bindAll x bs [] = .ok t →
    (∀ e ∈ x.bufs, e.optional = false → thas t e.index = true) → s1.notify h c a.cookie = .ok s2 →
    let d := { s1.blankDisp h c n (.program g a.entry sv) with
      polder := a.polder, count := a.count, binds := t, moRefs := sv :: bs.map (fun b => hSlot b.1.obj) }
    exec (.dispatch h a) s =
      .next ((s2.accept d).done (dispatchInfo a) h n f (leNats 8 (s1.dref h.q n).toNat))) ∧
  (∀ (h : Hdr) (a : RemoteArgs) (s s1 s2 : State) (c : Nat) (n : Word) (f : Option Nat) (i j : Nat) (x y : Mo) (l : Link) (b : Nat × Binding),
    s.served (dispatchRemoteInfo a) h = some (s1, c, n, f) → s1.findMo c a.arg = some (i, x) → s1.findMo c a.result = some (j, y) →
    s1.brg.lRemote = true → s1.link? a.link = some l → l.up = true → l.rdisp = true → a.argLen ≤ x.len → y.flags.getLsbD 1 = true →
    s1.bindOn a.link (s1.ctxHandle c) = some b → (s1.confSlice (s1.sliceOf c) = true → s1.sealSession (s1.address a.link) = true) →
    s1.notify h c a.cookie = .ok s2 →
    exec (.dispatchRemote h a) s =
      .next ((s2.accept { s1.blankDisp h c n (.remote a) with moRefs := [i, j] }).done (dispatchRemoteInfo a) h n f
        (leNats 8 (s1.dref h.q n).toNat)))

/-- KV_APPEND and KV_ATTEND complete: once the checks of R194 pass, in their order, the work packet is entered; an append leaves the sequence's new length
in the directory at once and reserves its blocks, an attend takes each query record's sequence and length (R189, R190, R194, R195). -/
def Obligations.KvRecordPackets : Prop :=
  (∀ (h : Hdr) (a : AppendArgs) (s s1 s2 s3 s4 s5 s6 : State) (c : Nat) (n : Word) (f : Option Nat) (k j : Nat) (m src : Mo) (hd : List Byte)
    (st len t : Nat),
    s.served (kvAppendInfo a) h = some (s1, c, n, f) → s1.findMo c a.obj = some (k, m) →
    s1.findMo c a.source = some (j, src) → s1.brg.maint = false → s1.actives ≠ [] → (s1.polder? a.polder).isSome = true →
    s1.classOk ((s1.queue? h.q).elim 0 (·.cls)) c a.polder none = true → m.ty = 1 → src.ty = 0 → m.flags.getLsbD 1 = true → m.isSealed = false →
    s1.readMo m .hub 0 48 = (s2, .ok hd) → imgNat hd 40 1 = 1 →
    let e := s1.kvAt h n k m hd
    let x := e.geo
    let last := x.idx ((a.pos + a.count - 1) / x.tpb) (a.layer0 + a.nlay - 1) (x.ng - 1)
    let need := ((a.pos + a.count - 1) / x.tpb - a.pos / x.tpb + 1) * a.nlay * x.ng + t
    1 ≤ a.nlay → a.layer0 + a.nlay ≤ x.layers → a.seq < x.slots → 1 ≤ a.count → a.count ≤ 65535 → a.form ≤ 1 → a.srcOff % 64 = 0 →
    a.srcOff + a.nlay * a.count * x.srcTok a.form ≤ src.len → e.seqLen a.seq s2 = .ok (st, len) s3 → a.pos ≤ len → a.pos + a.count ≤ x.maxLen →
    e.lacks a.seq (last + 1) s3 = .ok t s4 → need ≤ s4.kvAvail k (imgNat hd 36 4) x.pool → s4.notify h c a.cookie = .ok s5 →
    e.setSeq a.seq 1 (max len (a.pos + a.count)) s5 = .ok () s6 →
    exec (.kvAppend h a) s =
      .next ((s6.accept { s1.kvDisp h c n (.append a) [k, j] with polder := a.polder, kvRes := need, kvHead := hd }).done
        (kvAppendInfo a) h n f (leNats 8 (s1.dref h.q n).toNat))) ∧
  (∀ (h : Hdr) (a : AttendArgs) (s s1 s2 s3 s4 : State) (c : Nat) (n : Word) (f : Option Nat) (k j : Nat) (m src : Mo) (res : Option (Nat × Mo))
    (hd : List Byte) (qs : List (Nat × Nat)),
    s.served (kvAttendInfo a) h = some (s1, c, n, f) → s1.findMo c a.obj = some (k, m) →
    s1.findMo c a.queries = some (j, src) → s1.findMoOpt c a.results = .ok res → s1.brg.maint = false → s1.actives ≠ [] →
    (s1.polder? a.polder).isSome = true → s1.classOk ((s1.queue? h.q).elim 0 (·.cls)) c a.polder none = true → m.ty = 1 → src.ty = 0 →
    (∀ r, res = some r → r.2.ty = 0 ∧ r.2.flags.getLsbD 1 = true) → s1.readMo m .hub 0 48 = (s2, .ok hd) → imgNat hd 40 1 = 1 →
    let e := s1.kvAt h n k m hd
    let x := e.geo
    a.layer < x.layers → 1 ≤ a.nq → a.nq ≤ 1024 → a.qOff % 64 = 0 → a.rOff % 64 = 0 → a.ret ≤ 1 → a.opts ≤ 1 → 6 ≤ a.outFmt → a.outFmt ≤ 8 →
    (f32 a.sigma).special = false → (f32 a.sigma).isZero = false → a.qOff + a.nq * pad64 x.qBytes ≤ src.len → (a.ret = 1 ↔ a.results = 0) →
    (∀ r, res = some r → a.rOff + a.nq * x.rs a.outFmt a.opts ≤ r.2.len) → e.queries a src s2 = .ok qs s3 →
    (a.ret = 0 ∨ s3.attachUp a.port = true) → s3.notify h c a.cookie = .ok s4 →
    exec (.kvAttend h a) s =
      .next ((s4.accept { s1.kvDisp h c n (.attend a []) (k :: j :: (res.map (·.1)).toList) with polder := a.polder, work := .attend a qs, kvHead := hd }).done
        (kvAttendInfo a) h n f (leNats 8 (s1.dref h.q n).toNat)))

/-- KV_FORK and KV_EVICT complete: once the checks of R194 pass, the directory holds the sequence's new state and length at once and the work packet is
entered, running; a FORMAT writes the header and empties the directory (R183, R184, R191, R192, R194, R195). -/
def Obligations.KvDirectoryPackets : Prop :=
  (∀ (h : Hdr) (obj : Handle) (parent child pfx : Nat) (cookie : DWord) (s s1 s2 s3 s4 s5 s6 : State) (c : Nat) (n : Word) (f : Option Nat) (k : Nat)
    (m : Mo) (hd : List Byte) (len qlen : Nat),
    s.served (kvForkInfo obj parent child pfx cookie) h = some (s1, c, n, f) → s1.findMo c obj = some (k, m) → s1.brg.maint = false →
    m.ty = 1 → m.flags.getLsbD 1 = true → m.isSealed = false → s1.readMo m .hub 0 48 = (s2, .ok hd) → imgNat hd 40 1 = 1 →
    let e := s1.kvAt h n k m hd
    let x := e.geo
    let need := x.ng * x.layers + tableFrames (ceilDiv pfx x.tpb * x.layers * x.ng)
    parent < x.slots → child < x.slots → e.seqLen parent s2 = .ok (1, len) s3 → e.seqLen child s3 = .ok (0, qlen) s4 → parent ≠ child → pfx ≤ len →
    need ≤ s4.kvAvail k (imgNat hd 36 4) x.pool → s4.notify h c cookie = .ok s5 → e.setSeq child 1 pfx s5 = .ok () s6 →
    exec (.kvFork h obj parent child pfx cookie) s =
      .next ((s6.accept { s1.kvDisp h c n (.fork k parent child pfx) [k] with state := .running, kvRes := need, kvHead := hd }).done
        (kvForkInfo obj parent child pfx cookie) h n f (leNats 8 (s1.dref h.q n).toNat))) ∧
  (∀ (h : Hdr) (obj : Handle) (seq : Nat) (cookie : DWord) (s s1 s2 s3 s4 s5 : State) (c : Nat) (n : Word) (f : Option Nat) (k : Nat) (m : Mo)
    (hd : List Byte) (len : Nat),
    s.served (kvEvictInfo obj seq 0 (.any 4) cookie) h = some (s1, c, n, f) → s1.findMo c obj = some (k, m) → s1.brg.maint = false →
    m.ty = 1 → s1.readMo m .hub 0 48 = (s2, .ok hd) → imgNat hd 40 1 = 1 →
    let e := s1.kvAt h n k m hd
    seq < e.geo.slots → e.seqLen seq s2 = .ok (1, len) s3 → s3.notify h c cookie = .ok s4 → e.setSeq seq 0 0 s4 = .ok () s5 →
    exec (.kvEvictRelease h obj seq cookie) s =
      .next ((s5.accept { s1.kvDisp h c n (.evict k seq 0 0) [k] with state := .running, kvHead := hd }).done (kvEvictInfo obj seq 0 (.any 4) cookie) h n f
        (leNats 8 (s1.dref h.q n).toNat))) ∧
  (∀ (h : Hdr) (obj : Handle) (seq newLen : Nat) (cookie : DWord) (s s1 s2 s3 s4 s5 : State) (c : Nat) (n : Word) (f : Option Nat) (k : Nat) (m : Mo)
    (hd : List Byte) (len : Nat),
    s.served (kvEvictInfo obj seq 1 (num 4 newLen) cookie) h = some (s1, c, n, f) → s1.findMo c obj = some (k, m) → s1.brg.maint = false →
    m.ty = 1 → s1.readMo m .hub 0 48 = (s2, .ok hd) → imgNat hd 40 1 = 1 →
    let e := s1.kvAt h n k m hd
    seq < e.geo.slots → e.seqLen seq s2 = .ok (1, len) s3 → newLen ≤ len → s3.notify h c cookie = .ok s4 → e.setSeq seq 1 newLen s4 = .ok () s5 →
    exec (.kvEvictTruncate h obj seq newLen cookie) s =
      .next ((s5.accept { s1.kvDisp h c n (.evict k seq 1 newLen) [k] with state := .running, kvHead := hd }).done (kvEvictInfo obj seq 1 (num 4 newLen) cookie) h n f
        (leNats 8 (s1.dref h.q n).toNat))) ∧
  (∀ (h : Hdr) (obj : Handle) (cookie : DWord) (s s1 s2 s3 s4 s5 : State) (c : Nat) (n : Word) (f : Option Nat) (k : Nat) (m : Mo) (hd : List Byte),
    s.served (kvEvictInfo obj noFrame 2 (.any 4) cookie) h = some (s1, c, n, f) → s1.findMo c obj = some (k, m) → s1.brg.maint = false →
    m.ty = 1 → s1.readMo m .hub 0 48 = (s2, .ok hd) → imgNat hd 40 1 ≤ 1 →
    let e := s1.kvAt h n k m hd
    let x := e.geo
    let free := if m.formatted then imgNat hd 36 4 else x.pool
    let head := hd.take 14 ++ leBytes 2 x.tpb ++ (hd.drop 16).take 8 ++ leBytes 4 x.dirFrames ++ leBytes 4 x.mapFrames ++ leBytes 4 x.first ++
      leBytes 4 free ++ leBytes 1 1 ++ List.replicate 65495 0
    x.magic = 0x4B564F42 → x.ok = true → x.first ≤ x.frames → s2.notify h c cookie = .ok s3 → s3.writeMo m .hub 0 head = (s4, .ok ()) →
    (if m.formatted then ((List.range x.slots).forM fun q => e.setSeq q 0 0) s4
      else kvDo (e.wr 65536 (List.replicate (65536 * x.dirFrames) 0)) s4) = .ok () s5 →
    exec (.kvEvictFormat h obj noFrame cookie) s =
      .next (((s5.modMo k fun y => { y with formatted := true }).accept
        { s1.kvDisp h c n (.evict k noFrame 2 0) [k] with state := .running, kvHead := hd }).done (kvEvictInfo obj noFrame 2 (.any 4) cookie) h n f
          (leNats 8 (s1.dref h.q n).toNat)))

/-- KEY_ROTATE, ATTEST_REPORT and an opcode that no table assigns complete: the next season with its sweep, the signed report in its object, which
needs randomness, BAD_PARAM (R81, R304, R306, R324 to R326). -/
def Obligations.SecurityPackets : Prop :=
  (∀ (h : Hdr) (target : Handle) (s s1 : State) (c : Nat) (n : Word) (f : Option Nat) (k : Nat) (x : Ctx),
    s.served (keyRotateInfo target) h = some (s1, c, n, f) → s1.findCtxIn (s1.sliceOf c) target = some (k, x) → x.sweep ≠ .running → x.sweep ≠ .paused →
    x.state = .active → x.season < 2 ^ 32 - 1 →
    exec (.keyRotate h target) s =
      .next ((((s1.installKey (.ctx k (x.season + 1))).modCtx k fun y =>
        { y with season := x.season + 1, prevLive := true, sweep := .running, lastRot := s1.now }).raiseEdge 41).done
        (keyRotateInfo target) h n f (leNats 8 ((x.season + 1) % 16)))) ∧
  (∀ (h : Hdr) (obj : Handle) (nonce : List Byte) (s s1 s2 : State) (c : Nat) (n : Word) (f : Option Nat) (k : Nat) (m : Mo) (x : Slice),
    s.served (attestReportInfo obj nonce) h = some (s1, c, n, f) → s1.findMo c obj = some (k, m) → s1.slice? (s1.sliceOf c) = some x →
    m.flags.getLsbD 1 = true → s1.sen.entropy = false → m.destOk 0 (reportLen s1.certLen x.log.length) = .ok () → reportLen s1.certLen x.log.length ≤ m.len →
    let body := s1.reportBody (s1.sliceOf c) x nonce
    ((s1.drew 1).asked 1).writeMo m .hub 0 (body ++ s1.signs body) = (s2, .ok ()) →
    exec (.attestReport h obj nonce) s =
      .next ((s2.modSlice (s1.sliceOf c) fun y => { y with reports := y.reports + 1 }).done (attestReportInfo obj nonce) h n f
        (leNats 4 (reportLen s1.certLen x.log.length)))) ∧
  (∀ (h : Hdr) (a : RawArgs) (s s1 s2 : State) (x : Queue), assignedOps.contains a.op = false → s.queue? h.q = some x →
    (∀ e ∈ s.objs.fwQ, e.queue ≠ h.q) → s.stands (unassignedInfo a) h x = true → s.canIssue h.q x h = true →
    s.fetchMiss h.q x (needOf h) = some (s1, false) → (isHw a.op || s1.pwr.ccUp) = true → h.cont ≤ 15 →
    (s1.takeTurn h.q x).fetchRing h.q x (needOf h) = (s2, true) → h.context = s2.ctxHandle x.ctx →
    exec (.unassignedOpcode h a) s =
      .next (s2.failPacket (isHw a.op) (unassignedInfo a) h x.head (s2.fenceOf h x.ctx) .badParam []).finish) ∧
  (∀ (h : Hdr) (a : RawArgs) (s s1 : State) (c : Nat) (n : Word) (f : Option Nat), a.op = 0xE0 → 4 ≤ a.sel → s.served (resetRequestInfo a.sel a.seq) h = some (s1, c, n, f) →
    exec (.unassignedOpcode h a) s = .next (s1.failed (resetRequestInfo a.sel a.seq) h n f .badParam)) ∧
  (∀ (h : Hdr) (a : RawArgs) (s s1 s2 : State) (c : Nat) (n : Word) (f : Option Nat) (k : Nat) (m : Mo) (hd : List Byte),
    a.op = 0x4B → 3 ≤ a.sel → s.served (kvEvictInfo a.obj a.seq a.sel (num 4 a.newLen) a.cookie) h = some (s1, c, n, f) → s1.findMo c a.obj = some (k, m) →
    s1.brg.maint = false → m.ty = 1 → s1.readMo m .hub 0 48 = (s2, .ok hd) → imgNat hd 40 1 = 1 →
    exec (.unassignedOpcode h a) s = .next (s1.failed (kvEvictInfo a.obj a.seq a.sel (num 4 a.newLen) a.cookie) h n f .badParam))

/-- RESET_REQUEST, KAT_RUN and STACK_RETIRE complete: the work of the engine, or of the cluster with its mailbox and KV partial states, aborted, its
engines zeroed (R339, R459) and the fields that R491 marks '-' at their reset values (R14), interrupted KV_FORKs and KV_EVICTs finished (R520); a
polder reset's window and a stack's evacuation begun, their replies to come; the inner reset; the cluster's run with the engines that passed (R14,
R98, R233, R453, R457, R459, R460, R520). -/
def Obligations.MaintenancePackets : Prop :=
  (∀ (h : Hdr) (e : Nat) (s s1 : State) (c : Nat) (n : Word) (f : Option Nat),
    s.served (resetRequestInfo 0 e) h = some (s1, c, n, f) → s1.active (e / 16) = true → s1.inReset (fun u => u == e / 8) = false →
    exec (.resetRequestEngine h e) s =
      .next ((((s1.abortWhere fun d => d.engines.contains e).zeroed fun j _ => j == e).dashed [e / 16]).done (resetRequestInfo 0 e) h n f [])) ∧
  (∀ (h : Hdr) (k : Nat) (s s1 : State) (c : Nat) (n : Word) (f : Option Nat),
    s.served (resetRequestInfo 1 k) h = some (s1, c, n, f) → s1.active k = true → s1.inReset (fun u => u / 2 == k) = false →
    exec (.resetRequestCluster h k) s =
      .next (((((((s1.abortWhere fun d => d.engines.any (fun e => e / 16 == k) || d.kvPartial k).zeroed fun e _ => e / 16 == k).mbxClear (12 + k)).wakeCluster
        k).dashed [k]).kvResume).done
        (resetRequestInfo 1 k) h n f [])) ∧
  (∀ (h : Hdr) (k : Nat) (s s1 : State) (c : Nat) (n : Word) (f : Option Nat) (x : Polder),
    s.served (resetRequestInfo 2 k) h = some (s1, c, n, f) → s1.polder? k = some x → s1.inReset (fun u => x.units.getLsbD u) = false →
    thas s1.sched.resets k = false →
    let p : PendSig := { order := h.q, count := n, tag := h.tag, fence := (s1.fenceOf h c).elim 0 (· + 1), value := h.fval }
    exec (.resetRequestPolder h k) s =
      .next ((s1.onSched fun y => { y with resets := tset y.resets k (s1.now, p) }).putOff (resetRequestInfo 2 k) h n f)) ∧
  (∀ (h : Hdr) (kat : List KatResult) (s s1 : State) (c : Nat) (n : Word) (f : Option Nat),
    s.served (resetRequestInfo 3 0) h = some (s1, c, n, f) → s1.sched.resets = [] →
    exec (.innerReset h 0 kat) s = .next ((s1.inner kat).done (resetRequestInfo 3 0) h n f [])) ∧
  (∀ (h : Hdr) (k : Nat) (r : KatResult) (s s1 : State) (c : Nat) (n : Word) (f : Option Nat),
    s.served (katRunInfo k) h = some (s1, c, n, f) → s1.brg.maint = false → s1.active k = true → s1.carries k = false →
    s1.inReset (fun u => u / 2 == k) = false →
    let t := ((s1.wakeCluster k).setClu k 1).applyKat k r
    exec (.katRun h k r) s = .next (t.done (katRunInfo k) h n f (leNats 2 (katMask (t.defect k) r)))) ∧
  (∀ (h : Hdr) (k : Nat) (s s1 : State) (c : Nat) (n : Word) (f : Option Nat) (x : Stack),
    s.served (stackRetireInfo k) h = some (s1, c, n, f) → s1.stack? k = some x → x.inSvc = true → x.retiring = false → x.wait = false →
    2 ≤ s1.lasting.length →
    let p : PendSig := { order := h.q, count := n, tag := h.tag, fence := (s1.fenceOf h c).elim 0 (· + 1), value := h.fval }
    exec (.stackRetire h k) s =
      .next (((s1.modStack k fun y => { y with reply := some p }).retire k).putOff (stackRetireInfo k) h n f))

/-- A register row, on a path that reaches its register, has its effect and the command ends. -/
def Obligations.RegisterRows : Prop :=
  ∀ (p : Path) (s : State) (cmd : Instr) (off : Nat) (f : State → State),
    ((∃ b, cmd = .hubS0Go p b ∧ off = 0x2018 ∧ f = fun s => s.s0Go b) ∨
     (∃ l v, l < 512 ∧ cmd = .sliceRebind p l .bind v ∧ off = 16 * l ∧ f = fun s => s.writeRebind l .bind v.toNat) ∨
     (∃ l v, l < 512 ∧ cmd = .sliceRebind p l .vec v ∧ off = 16 * l + 4 ∧ f = fun s => s.writeRebind l .vec v.toNat) ∨
     (∃ q k w v, q < 4 ∧ k < 16 ∧ w < 4 ∧ cmd = .hubHpwinWrite p q k w v ∧ off = 0x10040 + 0x400 * q + 16 * k + 4 * w ∧
       f = fun s => s.writeWin q k w v) ∨
     (cmd = .pleInvGo p ∧ off = 0x34034 ∧ f = State.invGo) ∨
     (∃ v, cmd = .pleReqDoneWrite p 8 v ∧ off = 0x34040 ∧ f = fun s => s.freeReq (v.toNat % 2 ^ 48)) ∨
     (∃ w b, w < 64 ∧ cmd = .evcPendSetWrite p w b ∧ off = 0x52000 + 4 * w ∧ f = fun s => s.eachBit w b State.setPend) ∨
     (∃ w b, w < 64 ∧ cmd = .evcPendClrWrite p w b ∧ off = 0x52100 + 4 * w ∧ f = fun s => s.eachBit w b State.clrPend) ∨
     (∃ w b, w < 64 ∧ cmd = .evcMaskSetWrite p w b ∧ off = 0x52200 + 4 * w ∧
       f = fun s => s.eachBit w b fun a i => a.modSrc i fun x => { x with masked := true }) ∨
     (∃ w b, w < 64 ∧ cmd = .evcMaskClrWrite p w b ∧ off = 0x52300 + 4 * w ∧
       f = fun s => s.eachBit w b fun a i => a.modSrc i fun x => { x with masked := false }) ∨
     (∃ l, l < 48 ∧ s.linkLicensed l = true ∧ off = 0x80008 + 256 * l ∧
       ((cmd = .lnkCtrlRetrain p l ∧ f = fun s => s.requestLink l 1 0) ∨ (cmd = .lnkCtrlWidthGo p l ∧ f = fun s => s.widthGo l) ∨
        (cmd = .lnkCtrlRekey p l ∧ f = fun s => s.requestLink l 3 0) ∨ (cmd = .lnkCtrlDown p l ∧ f = fun s => s.linkFall l 11))) ∨
     (∃ l b, l < 48 ∧ s.linkLicensed l = true ∧ cmd = .lnkCfgEnableWrite p l b ∧ off = 0x80000 + 256 * l ∧ f = fun s => s.setEnable l b) ∨
     (cmd = .lnkTopoLock p ∧ off = 0x84004 ∧ f = fun s => s.onLinks fun k => { k with lock := true }) ∨
     (cmd = .pwrCcsleepReq p ∧ off = 0xB0034 ∧ f = fun s => s.onPwr fun x => { x with ccReq := true })) →
    p.wf = true → s.reaches p off true = true → exec cmd s = .next (f s).finish

/-- A register row on a path that does not reach its register has no effect but the Unsupported Request of a host port, which is counted (R507, R508). -/
def Obligations.DeniedRegisterRows : Prop :=
  ∀ (p : Path) (s : State) (cmd : Instr) (off : Nat),
    (cmd = .back p ∧ off = 0x34008 ∨ cmd = .table p ∧ off = 0x34008 ∨ cmd = .untable p ∧ off = 0x34008 ∨ cmd = .query p ∧ off = 0x34008 ∨
     (∃ b, cmd = .hubS0Go p b ∧ off = 0x2018) ∨ cmd = .pleInvGo p ∧ off = 0x34034 ∨ (∃ n v, cmd = .pleReqDoneWrite p n v ∧ off = 0x34040) ∨
     (∃ l, l < 48 ∧ cmd = .lnkCtrlDown p l ∧ off = 0x80008 + 256 * l) ∨ cmd = .lnkTopoLock p ∧ off = 0x84004 ∨ cmd = .pwrCcsleepReq p ∧ off = 0xB0034) →
    p.wf = true → s.reaches p off true = false →
    exec cmd s = .next (match p with
      | .host q _ _ => (s.modPort q fun x => { x with ur := satInc x.ur }).emit (.ur q)
      | .hostOdd q => (s.modPort q fun x => { x with ur := satInc x.ur }).emit (.ur q)
      | _ => s)

/-- The frame commands complete with status OK: the frames backed for the waiting request, the pool driver's table frames, their removal, one frame's
state (R205, R219). -/
def Obligations.FrameCommands : Prop :=
  (∀ (p : Path) (s : State) (b : Back) (m : Mo), p.wf = true → s.reaches p 0x34008 true = true → s.pool.frozen = false → s.fcmdInRange = true →
    s.pool.backs.find? (fun b => BitVec.ofNat 32 b.req == s.pool.fReq) = some b → s.mo? b.mo = some m → b.backed + s.fcmdCount ≤ b.frames →
    (∀ k ∈ s.fcmdFrames, thas s.pool.frames k = false) → s.backed + s.fcmdCount ≤ s.placeable s.pool.embank →
    exec (.back p) s = .next (((s.putFresh s.fcmdFrames (Frame.new (some m.ctx) b.mo (if m.ty = 1 then 0 else m.policy) b.req)).onPool fun q =>
      { q with backs := q.backs.map (fun x => if x.req = b.req then { x with backed := x.backed + s.fcmdCount } else x), fStat := .ok }).finish)) ∧
  (∀ (p : Path) (s : State), p.wf = true → s.reaches p 0x34008 true = true → s.pool.frozen = false → s.fcmdInRange = true →
    (∀ k ∈ s.fcmdFrames, thas s.pool.frames k = false) → s.backed + s.fcmdCount ≤ s.placeable s.pool.embank →
    exec (.table p) s = .next ((s.putFresh s.fcmdFrames (Frame.new none 0 1 0)).onPool fun q => { q with fStat := .ok }).finish) ∧
  (∀ (p : Path) (s : State), p.wf = true → s.reaches p 0x34008 true = true → s.fcmdInRange = true →
    (∀ k ∈ s.fcmdFrames, ∃ f, s.frame? k = some f ∧ f.owner = none) →
    exec (.untable p) s = .next ((s.unback s.fcmdFrames).onPool fun q => { q with fStat := .ok }).finish) ∧
  (∀ (p : Path) (s : State) (f : Frame) (c a : Nat), p.wf = true → s.reaches p 0x34008 true = true → s.pool.fCount = 1 → s.fcmdInRange = true →
    s.frame? s.pool.fLpf = some f → f.owner = some c → f.st = .bound a → s.sen.sec = 0 →
    exec (.query p) s = .next (s.onPool fun q => { q with rStack := a, rState := 2, rOwner := c, fStat := .ok }).finish) ∧
  (∀ (p : Path) (s : State) (f : Frame), p.wf = true → s.reaches p 0x34008 true = true → s.pool.fCount = 1 → s.fcmdInRange = true →
    s.frame? s.pool.fLpf = some f → f.owner = none →
    exec (.query p) s = .next ((s.drew 1).onPool fun q => { q with rStack := s.peek % 32, rState := 5, rOwner := 0, fStat := .ok }).finish)

/-- A doorbell write of the slice that owns the page (R47): ignored at a queue that is being destroyed and where the value is not ahead of TAIL; a
value that would publish more packets than the ring holds halts the queue with BAD_PARAM and leaves TAIL, a HALTED queue unchanged; every other value
becomes TAIL in every state. A queue that is not RUNNING fetches nothing (a packet of it that waits for the firmware aside), and no queue fetches
ahead of a ready one of class 1, where it has another class, or of one of its own class whose turn comes first (R86; the order of the turns is log
entry 196's). -/
def Obligations.TailDoorbell : Prop :=
  (∀ (port : Nat) (ps : Option Nat) (tee : Bool) (k : Nat) (v : Word) (s : State) (l : Nat) (x : Queue), port < 4 → (∀ i, ps = some i → i < 2 ^ 20) →
    s.queue? k = some x → s.sliceBy port ps = some l → s.sliceOf x.ctx = l → s.brg.ready = true → s.teeOk l tee = true →
    let w := exec (.qeDbTailWrite (.host port ps tee) k v) s
    let ahead := (v - x.tail).toNat
    let ahead31 := ahead ≠ 0 ∧ ahead < 2 ^ 31
    (x.state = .destroying → w = .next s.finish) ∧
    (¬ahead31 → w = .next s.finish) ∧
    (x.state = .halted → ahead31 → 2 ^ x.ring.log2 < (v - x.head).toNat → w = .next s.finish) ∧
    ((x.state = .running ∨ x.state = .stopped ∨ x.state = .waiting) → ahead31 → 2 ^ x.ring.log2 < (v - x.head).toNat →
      w = .next ((s.haltQueue k .badParam).postEvent x.ctx (mkEv 7 .badParam (s.queueHandle k) 0 0 0)).finish ∧
      ((s.haltQueue k .badParam).queue? k).map (fun y => (y.state, y.halt, y.tail)) = some (.halted, .badParam, x.tail)) ∧
    (x.state ≠ .destroying → ahead31 → (v - x.head).toNat ≤ 2 ^ x.ring.log2 →
      w = .next (s.modQueue k fun y => { y with tail := v }).finish)) ∧
  (∀ (cmd : Instr) (i : OpInfo) (h : Hdr) (op : State → Nat → Word → State × Ans) (s : State), (∀ e ∈ s.objs.fwQ, e.queue ≠ h.q) →
    (∀ x, s.queue? h.q = some x → x.state ≠ .running) → s.packet cmd i h op = .next s) ∧
  (∀ (cmd : Instr) (i : OpInfo) (h : Hdr) (op : State → Nat → Word → State × Ans) (s : State) (x y : Queue) (k : Nat), s.queue? h.q = some x →
    (∀ e ∈ s.objs.fwQ, e.queue ≠ h.q) → (k, y) ∈ s.objs.queues → s.ready k y = true →
    y.cls = 1 ∧ x.cls ≠ 1 ∨ y.cls = x.cls ∧ s.roundPos x.cls k < s.roundPos x.cls h.q → s.packet cmd i h op = .next s)

/-- A write of the consumer count completes for a request of the slice that owns the page: taken where it does not pass the producer count, it re-arms the
interrupt, lets held records go and raises the vector again where records remain; any other value is ignored (R66, R272). -/
def Obligations.ConsumerDoorbell : Prop :=
  ∀ (port : Nat) (ps : Option Nat) (tee : Bool) (c : Nat) (v : Word) (s : State) (l : Nat) (x : Ctx), port < 4 → (∀ i, ps = some i → i < 2 ^ 20) →
    s.ctx? c = some x → s.sliceBy port ps = some l → x.slice = l → s.brg.ready = true → s.teeOk l tee = true →
    let t := s.modCtx c fun y => { y with cons := v, armed := true }
    (v = x.prod → exec (.qeDbEvtConsWrite (.host port ps tee) c v) s = .next (t.drain c).finish) ∧
    (v ≠ x.prod → (x.prod - v).toNat ≤ (x.prod - x.cons).toNat →
      exec (.qeDbEvtConsWrite (.host port ps tee) c v) s =
        .next ((((t.modCtx c fun y => { y with armed := false }).raiseVec x.slice x.vector).notifyLinks x.slice (s.ctxHandle c) x.prod).drain c).finish) ∧
    ((x.prod - x.cons).toNat < (x.prod - v).toNat → exec (.qeDbEvtConsWrite (.host port ps tee) c v) s = .next s.finish)

/-- A claim read takes, of the sources eligible for the core, the one of the highest priority and of these the lowest ID: in one step its pending bit goes,
its active bit comes, the entry is pushed, the running priority raised, and the ID and the priority returned; with none eligible the read returns 0
and changes nothing else (R422). -/
def Obligations.ClaimRead : Prop :=
  (∀ (n i : Nat) (s : State), n < 8 → s.pwr.ccUp = true → (∃ e ∈ s.evc.srcs, e.1 = i) → s.eligible n i = true →
    (∀ j, s.eligible n j = true → (s.src j).prio < (s.src i).prio ∨ (s.src j).prio = (s.src i).prio ∧ i ≤ j) →
    exec (.evcClaimRead n) s =
      .next (((s.modSrc i fun y => { y with pend := false, active := true }).modCore n fun c =>
        { c with stack := (i, c.run) :: c.stack, run := (s.src i).prio }).emit (.value (.core n) (i + 65536 * (s.src i).prio)))) ∧
  (∀ (n : Nat) (s : State), n < 8 → s.pwr.ccUp = true → (∀ i, s.eligible n i = false) → exec (.evcClaimRead n) s = .next (s.emit (.value (.core n) 0)))

/-- A write of EVC_EOI ends the claim at the top of the core's stack where the ID is its source's: the entry is popped, the running priority restored, the
active bit cleared, and a level source whose condition holds pending again; any other ID, and any write while the stack is empty, only sets EOI_ERR
(R423). -/
def Obligations.EndOfInterrupt : Prop :=
  (∀ (n i r : Nat) (t : List (Nat × Nat)) (s : State), n < 8 → s.pwr.ccUp = true → i < 2048 → (s.core n).stack = (i, r) :: t →
    exec (.evcEoiWrite n i) s =
      .next ((s.modCore n fun c => { c with stack := t, run := r }).modSrc i fun y => { y with active := false, pend := y.pend || (s.isLevel i && y.cond) })) ∧
  (∀ (n i : Nat) (s : State), n < 8 → s.pwr.ccUp = true → i < 2048 → (∀ e, (s.core n).stack.head? = some e → e.1 ≠ i) →
    exec (.evcEoiWrite n i) s = .next (s.modCore n fun c => { c with eoiErr := true }))

/-- A wired input completes: once it has stood FILT samples it drives its level source, or at the edge its mode names raises its edge source; before, and
with FILT 0, the filtered level stays and only the raw level is noted (R427). -/
def Obligations.WiredInputs : Prop :=
  ∀ (i : Nat) (level : Bool) (n : Nat) (s : State), i < 32 →
    let w := s.wire i
    let t := s.modWire i fun x => { x with raw := level, filtered := level }
    let r := s.modWire i fun x => { x with raw := level }
    (w.filt ≠ 0 → w.filt ≤ n → w.mode = 0 → exec (.wiredInputChange i level n) s = .next (t.setCond (1 + i) level)) ∧
    (w.filt ≠ 0 → w.filt ≤ n → w.mode = 1 → exec (.wiredInputChange i level n) s = .next (t.setCond (1 + i) !level)) ∧
    (w.filt ≠ 0 → w.filt ≤ n → w.mode = 2 → exec (.wiredInputChange i level n) s =
      .next (if w.filtered = false ∧ level = true then t.raiseEdge (1 + i) else t)) ∧
    (w.filt ≠ 0 → w.filt ≤ n → 3 ≤ w.mode → exec (.wiredInputChange i level n) s =
      .next (if w.filtered = true ∧ level = false then t.raiseEdge (1 + i) else t)) ∧
    (w.filt ≠ 0 → n < w.filt → w.mode = 0 → exec (.wiredInputChange i level n) s = .next (r.setCond (1 + i) w.filtered)) ∧
    (w.filt ≠ 0 → n < w.filt → w.mode = 1 → exec (.wiredInputChange i level n) s = .next (r.setCond (1 + i) !w.filtered)) ∧
    (w.filt = 0 → w.mode ≤ 1 → exec (.wiredInputChange i level n) s = .next (r.setCond (1 + i) false)) ∧
    (w.filt = 0 ∨ n < w.filt → 2 ≤ w.mode → exec (.wiredInputChange i level n) s = .next r)

/-- The mailboxes complete: an 8-byte send of the mailbox's sender enters behind the messages that wait, an 8-byte receive of its receiver returns the
oldest and removes it; every other access changes no message and sets SERR or RERR, and a refused receive returns 0 (R431). The pool driver's notices
are taken by the firmware (R435). -/
def Obligations.MailboxCommands : Prop :=
  (∀ (m : Nat) (msg : DWord) (s : State), m < 64 → (mbxSender m).wf = true → s.partyReaches (mbxSender m) = true → (s.mbox m).msgs.length < 8 →
    s.mbxDead m = false → exec (.mbxSend (mbxSender m) m 8 msg) s = .next (s.mbxPush m msg)) ∧
  (∀ (who : Party) (m width : Nat) (msg : DWord) (s : State), m < 64 → who.wf = true → s.partyReaches who = true →
    (who ≠ mbxSender m ∨ width ≠ 8 ∨ 8 ≤ (s.mbox m).msgs.length ∨ s.mbxDead m = true) →
    exec (.mbxSend who m width msg) s = .next (s.modMbox m fun x => { x with serr := true })) ∧
  (∀ (m : Nat) (w : DWord) (r : List DWord) (s : State), m < 64 → (mbxReceiver m).wf = true → s.partyReaches (mbxReceiver m) = true →
    (s.mbox m).msgs = w :: r →
    let s1 := s.modMbox m fun x => { x with msgs := r }
    let s2 := if r = [] then (if mbxReceiver m = .control then s1.setCond (64 + m) false else s1).noteSender m 1 else s1
    exec (.mbxRecv (mbxReceiver m) m 8) s =
      .next (((if m = 0 then s2.pump else if m = 1 then s2.notice w else s2).emit (.recv m (mbxReceiver m) w)).finish)) ∧
  (∀ (who : Party) (m width : Nat) (s : State), m < 64 → who.wf = true → s.partyReaches who = true →
    (who ≠ mbxReceiver m ∨ width ≠ 8 ∨ (s.mbox m).msgs = []) →
    exec (.mbxRecv who m width) s = .next ((s.modMbox m fun x => { x with rerr := true }).emit (.recv m who 0)).finish) ∧
  (∀ (cmd : Instr) (w : DWord) (s : State), (cmd = .pdAttach ∧ w = 0x81 ∨ cmd = .pdDetach ∧ w = 0x82) → s.brg.ready = true → s.pwr.ccUp = true →
    (s.mbox 1).msgs.length < 8 → ((s.mbxPush 1 w).pwr.ccUp = true) → exec cmd s = .next ((s.mbxPush 1 w).drainNotices 8).finish)

/-- REGISTER_WRITE and REGISTER_READ_CLEAR complete for every path, BAR and offset: a write that reaches BAR0 is made in its width; a page of BAR2 and an
event-ring block of BAR4 take their owner's doorbell writes and show it their words; the almanac is read and keeps its bytes; the MSI-X table is written
and read by the requests without a PASID of its port; reserved offsets read zero and ignore writes; an RC register is zero after any read but the debug
port's; every other access is turned away (R13, R272, R395, R507 to R509, R511, R512). Beside the BARs (space numbers and offsets: log entry 259) a port's
configuration space is read and written, and answers Request Retry Status before READY (R456), its HDM decoders hold base and size (R404), and the debug
port reads its challenge and status and drives pins by EXTEST in scope, while Open (R416, R513). -/
def Obligations.RegisterAccess : Prop :=
  (∀ (p : Path) (bar off width : Nat) (v : DWord) (s : State), p.wf = true → (width ≠ 4 ∧ width ≠ 8 ∨ off % width ≠ 0) →
    exec (.registerWrite p bar off width v) s = .next (s.deny p)) ∧
  (∀ (p : Path) (off width : Nat) (v : DWord) (s : State), p.wf = true → width = 4 ∨ width = 8 → off % width = 0 →
    exec (.registerWrite p 0 off width v) s = .next (if off < 2 ^ 24 ∧ s.reaches p off true = true then (s.writeBar0 p off width v).finish else s.deny p)) ∧
  (∀ (port : Nat) (ps : Option Nat) (tee : Bool) (off width : Nat) (v : DWord) (s : State) (l : Nat), port < 4 → (∀ i, ps = some i → i < 2 ^ 20) →
    s.sliceBy port ps = some l → s.brg.ready = true → s.teeOk l tee = true →
    let low := BitVec.ofNat 32 (half v.toNat 0)
    (∀ x, s.queue? (off / 4096) = some x → s.sliceOf x.ctx = l → off < 2 ^ 25 → width = 4 ∨ width = 8 → off % width = 0 →
      exec (.registerWrite (.host port ps tee) 2 off width v) s =
        .next (if off % 4096 = 0 then s.doorbell (off / 4096) low else if off % 4096 = 0x018 then s.evtCons x.ctx low else s).finish) ∧
    (∀ x, s.queue? (off / 4096) = some x → s.sliceOf x.ctx = l → off < 2 ^ 25 → off % 4 = 0 →
      exec (.registerReadClear (.host port ps tee) 2 off) s = .next (s.emit (.value (.host port ps tee) (s.rdPage x (off % 4096)))).finish) ∧
    (∀ x, s.ctx? ((off - 0x40000) / 64) = some x → x.slice = l → 0x40000 ≤ off → off < 0x80000 → width = 4 ∨ width = 8 → off % width = 0 →
      exec (.registerWrite (.host port ps tee) 4 off width v) s =
        .next (if off % 64 = 0x10 then s.evtCons ((off - 0x40000) / 64) low else s).finish) ∧
    (∀ x, s.ctx? ((off - 0x40000) / 64) = some x → x.slice = l → 0x40000 ≤ off → off < 0x80000 → off % 4 = 0 →
      exec (.registerReadClear (.host port ps tee) 4 off) s = .next (s.emit (.value (.host port ps tee) (x.rdEvr (off % 64)))).finish)) ∧
  (∀ (port : Nat) (ps : Option Nat) (tee : Bool) (cmd : Instr) (bar off width : Nat) (v : DWord) (s : State), port < 4 → (∀ i, ps = some i → i < 2 ^ 20) →
    cmd = .registerWrite (.host port ps tee) bar off width v ∧ (width = 4 ∨ width = 8) ∧ off % width = 0 ∨
      cmd = .registerReadClear (.host port ps tee) bar off ∧ off % 4 = 0 →
    bar = 2 ∧ off < 2 ^ 25 ∨ bar = 4 ∧ 0x40000 ≤ off ∧ off < 0x80000 →
    let owner := if bar = 2 then (s.queue? (off / 4096)).map fun x => s.sliceOf x.ctx else (s.ctx? ((off - 0x40000) / 64)).map (·.slice)
    (s.sliceBy port ps = none → exec cmd s = .next (s.deny (.host port ps tee))) ∧
    (∀ l, s.sliceBy port ps = some l → s.brg.ready = false → exec cmd s = .next (s.deny (.host port ps tee))) ∧
    (∀ l, s.sliceBy port ps = some l → s.brg.ready = true → s.teeOk l tee = false →
      exec cmd s = .next ((s.modTdi l fun x => { x with rejects := min 65535 (x.rejects + 1) }).deny (.host port ps tee))) ∧
    (∀ l, s.sliceBy port ps = some l → s.brg.ready = true → s.teeOk l tee = true → owner ≠ some l →
      exec cmd s = .next (s.deny (.host port ps tee)))) ∧
  (∀ (q : Nat) (tee : Bool) (off width : Nat) (v : DWord) (s : State), q < 4 → width = 4 ∨ width = 8 → off % width = 0 →
    (off < 0x40000 → s.brg.ready = true → s.adminPort q = true → exec (.registerWrite (.host q none tee) 4 off width v) s = .next s) ∧
    (0x80000 ≤ off → off < 0x88000 → s.brg.ready = true → exec (.registerWrite (.host q none tee) 4 off width v) s =
      .next (if width = 8 then (s.wrMsix q (off - 0x80000) (half v.toNat 0)).wrMsix q (off - 0x80000 + 4) (half v.toNat 1)
        else s.wrMsix q (off - 0x80000) (half v.toNat 0)).finish) ∧
    (0x88000 ≤ off → off < 0x88100 → s.brg.ready = true → exec (.registerWrite (.host q none tee) 4 off width v) s = .next s.finish) ∧
    (0x88100 ≤ off → off < 2 ^ 20 → s.brg.ready = true → s.adminPort q = true → exec (.registerWrite (.host q none tee) 4 off width v) s = .next s) ∧
    (off < 0x40000 ∨ 0x80000 ≤ off → s.brg.ready = false ∨ (off < 0x80000 ∨ 0x88100 ≤ off) ∧ s.adminPort q = false →
      exec (.registerWrite (.host q none tee) 4 off width v) s = .next (s.deny (.host q none tee)))) ∧
  (∀ (p : Path) (bar off : Nat) (s : State), p.wf = true → bar < 5 → off % 4 ≠ 0 → exec (.registerReadClear p bar off) s = .next (s.deny p)) ∧
  (∀ (p : Path) (off : Nat) (s : State), p.wf = true → off % 4 = 0 →
    let claims := 0x53000 ≤ off ∧ off < 0x53200 ∧ off % 64 = 0
    let receives := 0x60000 ≤ off ∧ off < 0x61000 ∧ (off % 64 = 8 ∨ off % 64 = 12)
    (2 ^ 24 ≤ off → exec (.registerReadClear p 0 off) s = .next (s.denyRead p)) ∧
    (s.reaches p off false = false → exec (.registerReadClear p 0 off) s = .next (s.denyRead p)) ∧
    (s.reaches p off false = true → off < 2 ^ 24 → ¬claims → ¬receives → p ≠ .debug →
      exec (.registerReadClear p 0 off) s = .next ((((s.liveRate off).clearRc off).drew 1).emit (.value p ((s.liveRate off).read0 (p == .mmc) off))).finish) ∧
    (s.reaches p off false = true → off < 2 ^ 24 → ¬claims → ¬receives → p = .debug →
      exec (.registerReadClear p 0 off) s = .next (((s.liveRate off).drew 1).emit (.value p ((s.liveRate off).read0 false off))).finish) ∧
    (∀ n, s.reaches p off false = true → p = .core n → off = 0x53000 + 64 * n → exec (.registerReadClear p 0 off) s = .next (s.claim n).finish) ∧
    (s.reaches p off false = true → claims → (∀ n, p = .core n → off ≠ 0x53000 + 64 * n) →
      exec (.registerReadClear p 0 off) s = .next ((s.drew 1).emit (.value p 0)).finish) ∧
    (s.reaches p off false = true → receives → exec (.registerReadClear p 0 off) s =
      .next (((s.modMbox ((off - 0x60000) / 64) fun x => { x with rerr := true }).drew 1).emit (.value p 0)).finish)) ∧
  (∀ (q : Nat) (tee : Bool) (off : Nat) (s : State), q < 4 → off % 4 = 0 →
    (off < 0x40000 → s.brg.ready = true → s.adminPort q = true →
      exec (.registerReadClear (.host q none tee) 4 off) s = .next ((s.drew 1).emit (.value (.host q none tee) (wordOf (s.almBytes none) off)))) ∧
    (0x80000 ≤ off → off < 0x88100 → s.brg.ready = true →
      exec (.registerReadClear (.host q none tee) 4 off) s = .next ((s.drew 1).emit (.value (.host q none tee) (s.rdMsix q (off - 0x80000))))) ∧
    (0x88100 ≤ off → off < 2 ^ 20 → s.brg.ready = true → s.adminPort q = true →
      exec (.registerReadClear (.host q none tee) 4 off) s = .next (s.emit (.value (.host q none tee) 0))) ∧
    (off < 0x40000 ∨ 0x80000 ≤ off → s.brg.ready = false ∨ (off < 0x80000 ∨ 0x88100 ≤ off) ∧ s.adminPort q = false →
      exec (.registerReadClear (.host q none tee) 4 off) s = .next (s.deny (.host q none tee)))) ∧
  (∀ (q i : Nat) (tee : Bool) (cmd : Instr) (off width : Nat) (v : DWord) (s : State), q < 4 → i < 2 ^ 20 → off < 0x40000 ∨ 0x80000 ≤ off →
    cmd = .registerWrite (.host q (some i) tee) 4 off width v ∧ (width = 4 ∨ width = 8) ∧ off % width = 0 ∨
      cmd = .registerReadClear (.host q (some i) tee) 4 off ∧ off % 4 = 0 →
    exec cmd s = .next (s.deny (.host q (some i) tee))) ∧
  (∀ (p : Path) (bar off width : Nat) (v : DWord) (s : State), p.wf = true → (∀ q ps tee, p ≠ .host q ps tee) → (∀ q, p ≠ .hostOdd q) → bar = 2 ∨ bar = 4 →
    (width = 4 ∨ width = 8 → off % width = 0 → exec (.registerWrite p bar off width v) s = .next s) ∧
    (off % 4 = 0 → ¬(bar = 4 ∧ off < 0x40000) → exec (.registerReadClear p bar off) s = .next (s.emit (.value p 0))) ∧
    (off % 4 = 0 → bar = 4 → off < 0x40000 → (p = .mmc ∨ (∃ n, p = .core n) ∧ s.pwr.ccUp = true) →
      exec (.registerReadClear p bar off) s = .next ((s.drew 1).emit (.value p (wordOf (s.almBytes none) off)))) ∧
    (off % 4 = 0 → bar = 4 → off < 0x40000 → (p = .debug ∨ (∃ n, p = .core n) ∧ s.pwr.ccUp = false) →
      exec (.registerReadClear p bar off) s = .next (s.emit (.value p 0)))) ∧
  (∀ (q bar off width : Nat) (v : DWord) (s : State), q < 4 → bar < 5 → width = 4 ∨ width = 8 → off % width = 0 →
    exec (.registerWrite (.hostOdd q) bar off width v) s = .next (s.deny (.hostOdd q)) ∧
    exec (.registerReadClear (.hostOdd q) bar off) s = .next (s.deny (.hostOdd q))) ∧
  (∀ (q off : Nat) (tee : Bool) (v : DWord) (s : State), q < 4 → off % 4 = 0 →
    (s.brg.ready = true → exec (.registerReadClear (.host q none tee) 6 off) s = .next (s.emit (.value (.host q none tee) ((s.port q).cfg off))).finish) ∧
    (s.brg.ready = true → exec (.registerWrite (.host q none tee) 6 off 4 v) s = .next (s.cfgWrite q off (half v.toNat 0)).finish) ∧
    (s.brg.ready = false → exec (.registerReadClear (.host q none tee) 6 off) s = .next (s.emit (.retryStatus q)).finish) ∧
    (s.brg.ready = false → exec (.registerWrite (.host q none tee) 6 off 4 v) s = .next (s.emit (.retryStatus q)).finish)) ∧
  (∀ (q k base size : Nat) (tee : Bool) (s : State), q < 4 → k < 8 → base < 2 ^ 36 → size < 2 ^ 36 → s.brg.ready = true →
    tgetD (s.port q).hdm k (0, 0) = (base, size) →
    exec (.registerReadClear (.host q none tee) 7 (32 * k)) s = .next (s.emit (.value (.host q none tee) (half (2 ^ 28 * base) 0))).finish ∧
    exec (.registerReadClear (.host q none tee) 7 (32 * k + 4)) s = .next (s.emit (.value (.host q none tee) (half (2 ^ 28 * base) 1))).finish ∧
    ∀ v, v < 2 ^ 36 →
      (∃ t : State, exec (.registerWrite (.host q none tee) 7 (32 * k) 8 (BitVec.ofNat 64 (2 ^ 28 * v))) s = .next t.finish ∧
        tgetD (t.port q).hdm k (0, 0) = (v, size)) ∧
      ∃ t : State, exec (.registerWrite (.host q none tee) 7 (32 * k + 8) 8 (BitVec.ofNat 64 (2 ^ 28 * v))) s = .next t.finish ∧
        tgetD (t.port q).hdm k (0, 0) = (base, v)) ∧
  (∀ (v : DWord) (s : State),
    exec (.registerReadClear .debug 5 0x18) s = .next (s.emit (.value .debug s.sen.dbg.challenge.toNat)).finish ∧
    exec (.registerReadClear .debug 5 0x20) s = .next (s.emit (.value .debug s.dbgStat)).finish ∧
    exec (.registerWrite .debug 5 0x10 4 v) s =
      .next (if s.scoped 3 = true ∧ s.sen.sec = 0 then s.emit (.pins (half v.toNat 0)) else s).finish ∧
    (∀ p, p ≠ .debug → p.wf = true → exec (.registerReadClear p 5 0x18) s = .next (s.denyRead p).finish))

/-- Debug and the entropy source complete: a valid token unlocks with its scope and lifetime, any other is refused, and the challenge is replaced
either way; closing locks, resumes the cores, clears the breakpoints and zeroes the trace buffer (R333); a failed source refuses what needs randomness
until it recovers, and a token with it (the model's choice, log entry 223) (R293, R334, R335). -/
def Obligations.DebugAndEntropy : Prop :=
  (∀ (t : Token) (s : State), s.sen.entropy = false → s.tokenOk t = true →
    let trace := t.scope.getLsbD 1 && decide (Config.free (s.free + 1) % 2 = 1)
    exec (.debugTokenLoad t) s = .next (((s.drew 10).asked 1).onSen fun x =>
      { x with dbg := { x.dbg with challenge := BitVec.ofNat 64 s.peek, unlocked := true, scope := t.scope, expiry := s.now + 100000000 * t.lifetime
                                   refused := false, was := true, trace := trace, buf := if trace = true then (s.drew 2).freeBytes 8 else [] } })) ∧
  (∀ (t : Token) (s : State), s.sen.entropy = false → s.tokenOk t = false →
    exec (.debugTokenLoad t) s = .next (((s.drew 10).asked 1).onSen fun x =>
      { x with dbg := { x.dbg with challenge := BitVec.ofNat 64 s.peek, refused := true } })) ∧
  (∀ (t : Token) (s : State), s.sen.entropy = true →
    exec (.debugTokenLoad t) s = .next (s.onSen fun x => { x with dbg := { x.dbg with refused := true } })) ∧
  (∀ (s : State), s.sen.dbg.unlocked = true →
    exec .dbgCtrlClose s = .next (s.onSen fun x => { x with dbg := { x.dbg with unlocked := false, scope := 0, expiry := 0, trace := false, halted := [], brks := [], buf := [] } })) ∧
  (∀ (s : State), s.sen.dbg.unlocked = true → s.sen.dbg.expiry ≤ s.now →
    exec .debugLifetimeExpiry s = .next (s.onSen fun x => { x with dbg := { x.dbg with unlocked := false, scope := 0, expiry := 0, trace := false, halted := [], brks := [], buf := [] } })) ∧
  (∀ (s : State), exec .entropyHealthFail s = .next ((s.onSen fun x => { x with entropy := true }).raiseEdge 40)) ∧
  (∀ (s : State), exec .entropyRecover s = .next ((s.onSen fun x => { x with entropy := false }).raiseEdge 40))

/-- The engine commands complete: a bundle whose code is in the store and that has no mover work issues whole, one whose code is still to be loaded
waits, an engine of a dispatch that is to stop stops at a checkpoint bundle, and fully once 40 us have passed, a BARRIER bundle waits, the waiting
bundles issue together once every engine of the dispatch waits, every one of which that fails counts as a fault, and the dispatch faults where one of
its engines has halted, and a mover operation that can end moves what is left and frees its tag (R149, R153, R155, R156, R158, R159, R162, R175 to R177). -/
def Obligations.EngineCommands : Prop :=
  (∀ (ref : DWord) (k : Nat) (s s1 : State) (d : Disp) (g : Program) (e e0 e1 : Engine), s.disp? ref = some d → s.dispProg d = some g →
    tget d.engs k = some e → d.issues e = true → e.pc < g.bundles →
    s.fetchCode g (d.clusterOf k) e = (s1, .ok e0) → e0.resident g = true →
    let b := e0.bundle g
    let hdr := bits b 0 16
    d.state = .running ∨ d.state = .stopping ∧ bits hdr 0 1 = 0 ∧ s1.now < d.preAt + 4000 → hdr &&& 0xE020 = 0 →
    e0.ready hdr (if bits hdr 1 1 = 1 then bits b 16 4 else 0) = true → ¬(bits hdr 4 1 = 1 ∧ bits b 192 6 = 0x13) →
    bundleWhole (s1.env d g k) s1 e0 b = .ok (e1, none) →
    let s2 := s1.drew (e0.underWay + 1)
    exec (.bundleIssue ref k) s =
      .next (((s2.setEng d.ref k { e1 with barrier := none }).account d.ctx fun a =>
        { a with progressHs := a.progressHs + 1 + BitVec.ofNat 64 s2.peek }).drew 1).finish) ∧
  (∀ (ref : DWord) (k : Nat) (s s1 : State) (d : Disp) (g : Program) (e e0 : Engine) (f : EFault), s.disp? ref = some d → s.dispProg d = some g →
    tget d.engs k = some e → d.issues e = true → e.pc < g.bundles →
    s.fetchCode g (d.clusterOf k) e = (s1, .ok e0) → e0.resident g = true →
    let b := e0.bundle g
    let hdr := bits b 0 16
    d.state = .running ∨ d.state = .stopping ∧ bits hdr 0 1 = 0 ∧ s1.now < d.preAt + 4000 → hdr &&& 0xE020 = 0 →
    e0.ready hdr (if bits hdr 1 1 = 1 then bits b 16 4 else 0) = true → ¬(bits hdr 4 1 = 1 ∧ bits b 192 6 = 0x13) →
    bundleWhole (s1.env d g k) s1 e0 b = .error f →
    exec (.bundleIssue ref k) s = .next (s1.engFault d.ref k e0.pc f).finish) ∧
  (∀ (ref : DWord) (k : Nat) (s s1 : State) (d : Disp) (g : Program) (e e0 : Engine), s.disp? ref = some d → s.dispProg d = some g →
    tget d.engs k = some e → d.issues e = true → e.pc < g.bundles → s.fetchCode g (d.clusterOf k) e = (s1, .ok e0) → e0.resident g = false →
    exec (.bundleIssue ref k) s = .next (s1.setEng ref k e0)) ∧
  (∀ (ref : DWord) (k : Nat) (s s1 : State) (d : Disp) (g : Program) (e : Engine) (a : AccErr), s.disp? ref = some d → s.dispProg d = some g →
    tget d.engs k = some e → d.issues e = true → e.pc < g.bundles → s.fetchCode g (d.clusterOf k) e = (s1, .error a) →
    exec (.bundleIssue ref k) s = .next (s1.engFault ref k e.pc { cause := 0, acc := some a }).finish) ∧
  (∀ (ref : DWord) (k : Nat) (s : State) (d : Disp) (g : Program) (e : Engine), s.disp? ref = some d → s.dispProg d = some g →
    tget d.engs k = some e → d.issues e = true → g.bundles ≤ e.pc →
    exec (.bundleIssue ref k) s = .next (s.engFault ref k e.pc { cause := 3 }).finish) ∧
  (∀ (ref : DWord) (k : Nat) (s s1 : State) (d : Disp) (g : Program) (e e0 : Engine), s.disp? ref = some d → s.dispProg d = some g →
    tget d.engs k = some e → d.issues e = true → d.state = .running → e.pc < g.bundles →
    s.fetchCode g (d.clusterOf k) e = (s1, .ok e0) → e0.resident g = true →
    let b := e0.bundle g
    let hdr := bits b 0 16
    hdr &&& 0xE020 = 0 → e0.ready hdr (if bits hdr 1 1 = 1 then bits b 16 4 else 0) = true → bits hdr 4 1 = 1 → bits b 192 6 = 0x13 →
    ctlCheck (s1.env d g k) e0 (bits b 192 32) (bits b 224 32) e0.pc = .ok () →
    exec (.bundleIssue ref k) s = .next (s1.setEng d.ref k { e0 with barrier := some (bits b 224 4) })) ∧
  (∀ (ref : DWord) (k : Nat) (s s1 : State) (d : Disp) (g : Program) (e e0 : Engine), s.disp? ref = some d → s.dispProg d = some g →
    tget d.engs k = some e → d.issues e = true → e.pc < g.bundles →
    s.fetchCode g (d.clusterOf k) e = (s1, .ok e0) → e0.resident g = true → bits (e0.bundle g) 0 16 &&& 0xE020 ≠ 0 →
    d.state = .running ∨ d.state = .stopping ∧ bits (e0.bundle g) 0 1 = 0 ∧ s1.now < d.preAt + 4000 →
    exec (.bundleIssue ref k) s = .next (s1.engFault d.ref k e0.pc { cause := 3 }).finish) ∧
  (∀ (ref : DWord) (k : Nat) (s s1 : State) (d : Disp) (g : Program) (e e0 : Engine), s.disp? ref = some d → s.dispProg d = some g →
    tget d.engs k = some e → d.issues e = true → d.state = .stopping → e.pc < g.bundles →
    s.fetchCode g (d.clusterOf k) e = (s1, .ok e0) → e0.resident g = true →
    let hdr := bits (e0.bundle g) 0 16
    (bits hdr 0 1 = 1 → s1.now ≤ d.preAt + 4000 → exec (.bundleIssue ref k) s =
      .next (s1.setEng d.ref k { e0 with stop := match g.cpAt e0.pc with | some i => .cheap i | none => .full })) ∧
    (d.preAt + 4000 ≤ s1.now → bits hdr 0 1 = 0 ∨ d.preAt + 4000 < s1.now → exec (.bundleIssue ref k) s =
      .next (s1.setEng d.ref k { e0 with stop := .full }))) ∧
  (∀ (ref : DWord) (id : Nat) (s : State) (d : Disp) (g : Program), s.disp? ref = some d → s.dispProg d = some g → d.waitingAt id ≠ [] →
    (∀ e ∈ d.engs, e.2.halted = false) → d.state = .running → (d.waitingAt id).length = d.count →
    exec (.barrierRelease ref id) s = .next ((s.issueHeld ref g (d.waitingAt id)).1.faultAll d (s.issueHeld ref g (d.waitingAt id)).2).finish) ∧
  (∀ (ref : DWord) (id k : Nat) (s : State) (d : Disp) (g : Program) (e : Engine), s.disp? ref = some d → s.dispProg d = some g →
    (d.waitingAt id).head? = some k → tget d.engs k = some e → (∃ x ∈ d.engs, x.2.halted = true) →
    exec (.barrierRelease ref id) s = .next (s.engFault ref k e.pc { cause := 0x0F }).finish) ∧
  (∀ (ref : DWord) (k tag i : Nat) (s s1 : State) (d : Disp) (e : Engine) (m : MvOp), s.disp? ref = some d → tget d.engs k = some e →
    let l := e.mv.zipIdx.filter (fun m => m.1.tag == tag && s.mvCanEnd d k e m.1)
    l[s.peek % l.length]? = some (m, i) → (s.drew 1).mvFinish d k i e m = (s1, none) →
    exec (.moverOpComplete ref k tag) s = .next s1.finish)

/-- The dispatch events complete: a start on the engines that fit, or the claimant where none fits; the end of a dispatch; a faulted context's event; a
pre-emption's full stop, its saves' start (a sealed save area faults the context) and their end (R53, R75, R158, R177, R178, R246, R256, R496). -/
def Obligations.DispatchEvents : Prop :=
  (∀ (k : Nat) (s : State) (p : Polder) (d : Disp) (es : List Nat), thas s.sched.resets k = false → s.polder? k = some p →
    s.nextStart k p = some (d, some es) → (∀ e ∈ es, s.clusterUp (e / 16) = true) →
    exec (.dispatchStart k) s =
      .next ((s.modPolder k fun q => { q with claimant := if q.claimant = some d.ref then none else q.claimant }).startOn d es).finish) ∧
  (∀ (k : Nat) (s : State) (p : Polder) (d : Disp), thas s.sched.resets k = false → s.polder? k = some p → s.nextStart k p = some (d, none) →
    exec (.dispatchStart k) s = .next (s.modPolder k fun q => { q with claimant := some d.ref })) ∧
  (∀ (ref : DWord) (s : State) (d : Disp) (m : Nat), s.disp? ref = some d → (d.state = .running ∨ d.state = .stopping) → d.saveObj = some m →
    (∀ e ∈ d.engs, e.2.halted = true ∧ e.2.mv = []) → d.engs.length = d.count →
    exec (.dispatchComplete ref) s = .next ((s.endDisp d none).csqEvent d 1).finish) ∧
  (∀ (c : Nat) (s : State) (x : Ctx), s.ctx? c = some x → x.owesFault = true →
    exec (.contextFaulted c) s =
      .next ((s.modCtx c fun y => { y with owesFault := false }).postEvent c (mkEv 3 x.fault.status (s.ctxHandle c) 0 0 x.fault.disp)).finish) ∧
  (∀ (ref : DWord) (k : Nat) (s : State) (d : Disp) (e : Engine), s.disp? ref = some d → tget d.engs k = some e → d.state = .stopping →
    d.preAt + 4000 ≤ s.now → e.halted = false → e.stop = .run →
    exec (.preemptFullStop ref k) s = .next (s.setEng ref k { e with stop := .full })) ∧
  (∀ (ref : DWord) (s s1 : State) (d : Disp) (m : Nat), s.disp? ref = some d → d.state = .stopping → (∀ e ∈ d.engs, e.2.stopped = true) →
    d.saveObj = some m → (∃ e ∈ d.engs, e.2.halted = false) → (s.mo? m).any (·.isSealed) = false → s.restAll d = (s1, none) →
    exec (.preemptSaveStart ref) s =
      .next (((s1.charge d).modDisp ref fun y => { y with state := .saving }).modMo m fun y => { y with saving := true })) ∧
  (∀ (ref : DWord) (s : State) (d : Disp) (m : Nat) (x : Mo), s.disp? ref = some d → d.state = .stopping → (∀ e ∈ d.engs, e.2.stopped = true) →
    d.saveObj = some m → (∃ e ∈ d.engs, e.2.halted = false) → s.mo? m = some x → x.isSealed = true →
    exec (.preemptSaveStart ref) s =
      .next (s.faultCtx d.ctx { FaultRegs.zero with status := .faulted, cls := 1, cause := 2, disp := d.ref, valid := 1 }).finish) ∧
  (∀ (ref : DWord) (s : State) (d : Disp), s.disp? ref = some d → d.state = .stopping → (∀ e ∈ d.engs, e.2.stopped = true) → d.saveObj = none →
    exec (.preemptSaveStart ref) s = .next ((s.charge d).modDisp ref fun y => { y with state := .saving })) ∧
  (∀ (ref : DWord) (s s1 : State) (d : Disp) (g : Program) (m : Nat) (x : Mo), s.disp? ref = some d → d.state = .saving → s.dispProg d = some g →
    d.saveObj = some m → s.mo? m = some x →
    s.saveAll d g x = (s1, none) →
    exec (.preemptSaveDone ref) s =
      .next (((((((s1.charge d).account d.ctx fun a => { a with preemptions := a.preemptions + 1 }).soil d).modDisp ref fun y =>
        { y with state := .preempted, engines := [], saved := y.engs.map (fun (e : Nat × Engine) => (e.1, e.2.save)), engs := [], staged := [] }).csqEvent
          d 2).idleFrom d.clusters).finish))

/-- KV_OP_COMPLETE completes: the work of a KV packet takes effect, counts the progress of its engines (R266; how much is a free value) and the packet
ends; results go into their object, or out on a link, where the acknowledgements of their stores end the packet (R195, R203, R376, R519). -/
def Obligations.KvCompletion : Prop :=
  (∀ (ref : DWord) (s t : State) (d : Disp) (m : Nat) (k : KvEnv) (r : List Byte), s.disp? ref = some d → d.work.kvObj = some m → s.kvEnv d m = some k →
    (d.state = .running ∨ d.state = .stopping) → s.kvBlocked d = false → d.sent = false → (∀ a qs, d.work ≠ .attend a qs) →
    k.work d.work s = .ok r t →
    let u := if d.work.onEngines = true then (t.account d.ctx fun y => { y with progressHs := y.progressHs + BitVec.ofNat 64 t.peek }).drew 1 else t
    exec (.kvOpComplete ref) s = .next (u.completeDisp d).finish) ∧
  (∀ (ref : DWord) (s t u : State) (d : Disp) (a : AttendArgs) (qs : List (Nat × Nat)) (m : Nat) (k : KvEnv) (r : List Byte), s.disp? ref = some d →
    d.work = .attend a qs → d.work.kvObj = some m → s.kvEnv d m = some k → (d.state = .running ∨ d.state = .stopping) → s.kvBlocked d = false →
    d.sent = false → a.ret = 0 → k.work d.work s = .ok r t → kvStoreResults k a r t = .ok () u →
    exec (.kvOpComplete ref) s =
      .next (((u.account d.ctx fun y => { y with progressHs := y.progressHs + BitVec.ofNat 64 u.peek }).drew 1).completeDisp d).finish) ∧
  (∀ (ref : DWord) (s t : State) (d : Disp) (a : AttendArgs) (qs : List (Nat × Nat)) (m : Nat) (k : KvEnv) (r : List Byte), s.disp? ref = some d →
    d.work = .attend a qs → d.work.kvObj = some m → s.kvEnv d m = some k → (d.state = .running ∨ d.state = .stopping) → s.kvBlocked d = false →
    d.sent = false → a.ret = 1 → k.work d.work s = .ok r t →
    let u := (t.account d.ctx fun y => { y with progressHs := y.progressHs + BitVec.ofNat 64 t.peek }).drew 1
    u.confSlice (u.sliceOf d.ctx) = false ∨ (u.ensureSeal d.ctx (u.address a.port)).isSome = true →
    exec (.kvOpComplete ref) s =
      .next ((pieces4k r.length a.rOff r).foldl (fun b p => b.sendStore d a.port p) (u.modDisp ref fun y => { y with sent := true })).finish) ∧
  (∀ (ref : DWord) (s : State) (d : Disp) (m : Nat) (k : KvEnv), s.disp? ref = some d → d.work.kvObj = some m → s.kvEnv d m = some k →
    (d.state = .running ∨ d.state = .stopping) → s.kvBlocked d = false → d.sent = true → d.stores = 0 →
    exec (.kvOpComplete ref) s = .next (s.completeDisp d).finish)

/-- The scheduler's timers complete: a day boundary charges, opens the new day, ends and begins runs, gives ownership, credits and looks for overdraft, in
this order; an eve holds engines; a charge; the slowdown epoch of every context (R244, R253 to R259, R268). -/
def Obligations.SchedulerTimers : Prop :=
  (∀ (k : Nat) (s : State) (p : Polder), s.polder? k = some p → p.dayStart + p.dayTicks ≤ s.now →
    let s1 := (s.chargeAll k).newDay k p
    let s2 := s1.withPolder k fun a q => a.endRunsDay k q
    let s3 := s2.withPolder k fun a q => a.beginRuns k q.day
    let s4 := s3.withPolder k fun a q => a.takeOwner k q
    let s5 := s4.withPolder k fun a q => a.credit k q (if q.owner.isSome then 0 else q.eCount - ((q.resv.filter (·.inRun)).flatMap (·.engines)).dedup.length)
    exec (.dayBoundary k) s = .next ((s5.withPolder k fun a q => a.overdraft k q).raiseEdge 47).finish) ∧
  (∀ (k c : Nat) (s : State) (p : Polder) (a : Adm) (d n : Nat), s.polder? k = some p → s.feastAdm k c = some a →
    let start (m : Nat) : Nat := p.dayStart + m * p.dayTicks
    (d, n) ∈ laterRuns (a.days &&& p.nFeast) p.day → s.now < start n → start n ≤ s.now + p.eve (s.admEngines p a) →
    (∀ r ∈ p.resv, r.ctx = c → r.at_ ≠ start n) →
    (∀ e ∈ laterRuns (a.days &&& p.nFeast) p.day, e.2 < n → start e.2 ≤ s.now ∨ ∃ r ∈ p.resv, r.ctx = c ∧ r.at_ = start e.2) →
    exec (.eveStart k c) s = .next (s.hold k p a (runDays a.days d) (start n)).finish) ∧
  (∀ (k : Nat) (s : State),
    exec (.shareDeficitCharge k) s =
      .next ((s.sched.disps.filter (fun d => d.polder == k && d.holds)).foldl (fun a d => a.charge d) s)) ∧
  (∀ (l : List (Nat × Nat)) (s : State),
    let s1 := (s.sched.disps.filter (·.holds)).foldl (fun a d => a.charge d) s
    exec (.slowdownEpoch l) s =
      .next ((s1.objs.ctxs.map (·.1)).foldl (fun a c => a.slowCtx c ((l.find? (fun e => e.1 == c)).elim 0 (·.2))) s1).finish)

/-- The key timers complete: a rotation where the policy's interval has passed and no sweep runs, which installs the next season's key
set, and the end of a sweep, which puts every sector of the context under its current season and destroys the old key set (R229, R295, R304 to R306). -/
def Obligations.KeyTimers : Prop :=
  (∀ (c : Nat) (s : State) (x : Ctx), s.ctx? c = some x → x.state = .active → x.sweep = .none → x.keyIval ≠ 0 →
    (∀ l, s.slice? x.slice = some l → l.state = .active) → x.lastRot + x.keyIval ≤ s.now → x.season < 2 ^ 32 - 1 →
    exec (.autoKeyRotate c) s =
      .next (((s.installKey (.ctx c (x.season + 1))).modCtx c fun y =>
        { y with season := x.season + 1, prevLive := true, sweep := .running, lastRot := s.now }).raiseEdge 41)) ∧
  (∀ (c : Nat) (s : State) (x : Ctx), s.ctx? c = some x → x.sweep = .running → s.sweepHeld c = false → (∀ i ∈ s.oldSectors c x, i ∉ s.pool.bad) →
    let s1 := s.onPool fun p => { p with tags := (s.oldSectors c x).foldl (fun t i => tmod t i fun y => { y with season := x.season }) p.tags }
    let s2 := (s1.modCtx c fun y => { y with sweep := .none, prevLive := false }).destroyKeys (· == .ctx c (x.season - 1))
    exec (.sweepComplete c) s =
      .next (((tkeys s2.pool.stks (·.inSvc)).foldl (fun a k => a.raiseEdge (768 + 8 * k + 3)) s2).raiseEdge 41).finish)

/-- The placement engine's events complete: an epoch queues moves, halves and ages the statistics; a queued move begins and ends; an invalidation drops the
cached translations; a stack's losses and unreadable sectors are counted (R216, R224 to R228, R232, R234). -/
def Obligations.PlacementEvents : Prop :=
  (∀ (s : State),
    let s0 := s.pool.waitQ.foldl (fun a e => a.queueMove e.1 e.2 true) (s.onPool fun p => { p with waitQ := [] })
    let rem (k : Nat) : Nat := (tgetD s0.pool.stats k Stat.zero).rem
    let s1 := (sortBy (fun a b => decide (rem b.1 < rem a.1)) s0.pool.frames).foldl (fun a e => match s0.wantsMove e.1 e.2 with
      | some d => a.queueMove e.1 d false
      | none => a) s0
    exec .pleEpoch s =
      .next ((s1.onPool fun p =>
        { p with stats := (s.pool.frames.filter (fun e => e.2.st.home.isSome)).foldl (fun t e => tset t e.1 (tgetD t e.1 Stat.zero).epoch) p.stats
          }).raiseEdge 45).finish) ∧
  (∀ (k : Nat) (s : State) (q m : Move),
    let s0 := s.evacRoom
    s0.nextMove k = some (q, m) →
    exec (.moveStart k) s =
      .next (((s0.modFrame m.lpf fun f => match f.st with | .bound a => { f with st := .moving a m.dst } | _ => f).onPool fun p =>
        { p with moveQ := p.moveQ.erase q, moves := p.moves ++ [m], evPtr := if m.evac then m.dst + 1 else p.evPtr }).evacRoom).finish) ∧
  (∀ (lpf : Nat) (s : State) (m : Move), s.pool.moves.find? (fun m => m.lpf == lpf) = some m → m.evac = false → s.anyBad lpf = false →
    s.copyHeld m = false →
    let c := stepCount (s.sen.sec != 0) 1000000 s.now s.pool.moved s.pool.movedHid s.pool.movedAt
    exec (.moveCopyDone lpf) s =
      .next (((s.modFrame lpf fun f => match f.st with | .moving _ b => { f with st := .bound b } | _ => f).remapped lpf).onPool fun p =>
        { p with stats := tset p.stats lpf { tgetD p.stats lpf Stat.zero with age := 0 }
                 moved := c.1, movedHid := c.2.1, movedAt := c.2.2 }).finish) ∧
  (∀ (s : State) (c b n : Nat), s.pool.invJob = some (c, b, n) →
    exec .invalidationDone s =
      .next (s.onPool fun q =>
        { q with invJob := none, tlb := q.tlb.filter fun e => !(e.ctx == c && (n == 0 || (decide (b ≤ e.page) && decide (e.page < b + n)))) })) ∧
  (∀ (k : Nat) (s : State) (x : Stack), s.stack? k = some x →
    exec (.stackPhyTrainingLoss k true) s = .next ((s.modStack k fun y => { y with fails := 0 }).raiseEdge (768 + 8 * k + 1)).finish) ∧
  (∀ (k : Nat) (s : State) (x : Stack), s.stack? k = some x → 2 ≤ x.fails →
    exec (.stackPhyTrainingLoss k false) s =
      .next (((s.modStack k fun y => { y with fails := x.fails + 1 }).raiseEdge (768 + 8 * k + 1)).retire k).finish) ∧
  (∀ (k lpf i : Nat) (s : State) (x : Stack) (f : Frame), i < 256 → s.stack? k = some x → s.frame? lpf = some f → f.st = .bound k →
    s.pool.bad.contains (256 * lpf + i) = false → s.pool.moves.find? (fun m => m.lpf == lpf) = none →
    let times := s.now :: x.uncorr.filter (fun t => decide (s.now < t + 100000000))
    let t := ((s.onPool fun p => { p with bad := (256 * lpf + i) :: p.bad }).modStack k fun y => { y with uncorr := times }).raiseEdge (768 + 8 * k)
    exec (.uncorrectableRead k lpf i) s = .next (if 64 < times.length then t.retire k else t).finish)

/-- The link events complete on a link that is up, and a training on one that is down: training with what it sends, flits in order and damaged,
acknowledgements with the flits and credits that they release, what is due to the far end, replay, rekey, retrain, width and the fall of the link
(R311, R346, R351 to R358, R361 to R366). -/
def Obligations.LinkEvents : Prop :=
  (∀ (l n : Nat) (far : FarEnd) (s : State) (x : Link), s.link? l = some x → x.up = false → s.mayTrain l x = true →
    (∀ t, x.retry = some t → t ≤ s.now) → s.trainCheck l x far = .ok n →
    exec (.linkTrainingStart l far) s =
      .next ((((((s.emit (.hello l (s.hello l x))).shake l).drew 3).asked 2).modLink l fun _ => s.trained l n x far).linkChanged l).finish) ∧
  (∀ (l r : Nat) (far : FarEnd) (s : State) (x : Link), s.link? l = some x → x.up = false → s.mayTrain l x = true →
    (∀ t, x.retry = some t → t ≤ s.now) → s.trainCheck l x far = .error r →
    let s1 := s.emit (.hello l (s.hello l x))
    exec (.linkTrainingStart l far) s =
      .next ((if r ≤ 3 then s else if r = 7 then s1 else ((s1.shake l).drew 3).asked 2).modLink l fun y =>
        { y with state := 1, reason := r, retry := some (s.now + 10000000) }).finish) ∧
  (∀ (l : Nat) (f : Flit) (s : State) (x : Link), s.link? l = some x → x.up = true → f.fecOk = true → x.tagGood f = true → f.seq = x.expSeq →
    x.unrep + 1 < 64 → (x.accept f).freedDue = false →
    let y := x.noteSyms (s.peek / 16 % max x.lanes 1) (s.peek % 16) s.now
    y.noisy = false →
    exec (.dataFlitReceived l f) s =
      .next (((s.drew 1).modLink l fun _ => y).modLink l fun z => { z.accept f with unrepT := some (z.unrepT.getD s.now) }).finish) ∧
  (∀ (l : Nat) (f : Flit) (s : State) (x : Link), s.link? l = some x → x.up = true → f.fecOk = false →
    let y := x.noteSyms (s.peek / 16 % max x.lanes 1) (s.peek % 16) s.now
    let lost := decide (s.peek / 128 % 2 = 1)
    let s0 := (s.drew 1).modLink l fun _ => y
    exec (.dataFlitReceived l f) s = .next ((if y.noisy = true ∨ lost = true then s0.narrow l lost else s0).sendNak l).finish) ∧
  (∀ (l d : Nat) (f : CtlFlit) (s : State) (x : Link), s.link? l = some x → x.up = true → f.tagOk = true → x.keyHeld f.kph = true → f.ackValid = true →
    f.nak = false → x.ackCount f.ack = some d → f.reqKind = 0 → f.reply = 0 → x.owed = [] →
    exec (.controlFlitReceived l f) s = .next ((s.modLink l fun y => (y.release d s.now).credits f.freed).pumpLink l).finish) ∧
  (∀ (l : Nat) (f : CtlFlit) (s : State) (x : Link), s.link? l = some x → x.up = true → f.tagOk = true → x.keyHeld f.kph = true →
    (f.ackValid = true ∨ f.nak = true) → x.ackCount f.ack = none → exec (.controlFlitReceived l f) s = .next (s.linkFall l 8).finish) ∧
  (∀ (l : Nat) (f : CtlFlit) (s : State) (x : Link), s.link? l = some x → x.up = true → f.tagOk = false ∨ x.keyHeld f.kph = false →
    exec (.controlFlitReceived l f) s = .next (s.tagFailure l x).finish) ∧
  (∀ (l : Nat) (s : State), exec (.idleFlitReceived l) s = .next s) ∧
  (∀ (l : Nat) (s : State) (x : Link), s.link? l = some x → x.up = true → x.reportDue s.now = true →
    let f : CtlFlit :=
      { kph := x.phaseTx, ack := x.expSeq - 1, ackValid := true, nak := false, freed := (List.range 8).map fun v => tgetD x.freed v 0 % 65536, reqKind := 0
        reqArg := 0, reqId := 0, reply := x.owed.head?.elim 0 (·.1), replyId := x.owed.head?.elim 0 (·.2), tagOk := true }
    exec (.controlFlitSend l) s =
      .next ((s.modLink l fun y =>
        { y with ctlTx := y.ctlTx + 1, unrep := 0, unrepT := none, dup := false, freedRep := y.freed, owed := y.owed.tail }).emit
          (.ctl l f x.ctlTx (ctlFlitBytes x.secTx f x.ctlTx)))) ∧
  (∀ (l : Nat) (s : State) (x : Link), s.link? l = some x → x.up = true → x.flits ≠ [] → x.lastAck + 800 ≤ s.now →
    exec (.replayTimeout l) s = .next (s.replay l).finish) ∧
  (∀ (l : Nat) (s : State) (x : Link), s.link? l = some x → x.up = true →
    exec (.rekey l true) s =
      .next ((s.modLink l fun y => if y.up then
        { y with phaseTx := !y.phaseTx, ctrTx := [], secTx := y.secTx.map nextSecret, req := y.req.filter (fun r => r.1 != 3) } else y).pumpLink l)) ∧
  (∀ (l : Nat) (s : State), exec (.rekey l false) s = .next (s.modLink l fun y => if y.up then { y with rekeyRx := true } else y)) ∧
  (∀ (l : Nat) (far : FarEnd) (s : State) (x : Link), s.link? l = some x → x.up = true → far.signal = true → far.phy = true →
    lanesFor x.full (min far.lanes (x.goal.getD 8)) ≠ 0 →
    exec (.retrain l far) s =
      .next (((((s.modLink l fun y =>
        { y with lanes := lanesFor x.full (min far.lanes (x.goal.getD 8)), retrainF := 0, waits := false, goal := none, req := none }).almanac).replay
          l).pumpLink l)).finish) ∧
  (∀ (l : Nat) (far : FarEnd) (s : State) (x : Link), s.link? l = some x → x.up = true → far.signal = false ∨ far.phy = false →
    exec (.retrain l far) s =
      .next (if 2 ≤ x.retrainF then s.linkFall l 10 else s.modLink l fun y => { y with retrainF := y.retrainF + 1, waits := true }).finish) ∧
  (∀ (l w : Nat) (s : State) (x : Link), s.link? l = some x → x.up = true → (w = 2 ∨ w = 4 ∨ w = 8) → w ≤ x.full →
    exec (.widthChange l w) s = .next (((s.modLink l fun y => { y with lanes := w }).almanac).pumpLink l)) ∧
  (∀ (l : Nat) (r : DownReason) (s : State), exec (.linkDown l r) s = .next (s.linkFall l (downCode r)).finish) ∧
  (∀ (l : Nat) (s : State), exec (.trainingFlitReceived l) s = .next (s.linkFall l 8).finish)

/-- The requests of a link complete: one of a bound ACTIVE context of an ACTIVE slice, inside the buckets of link and slice, unsealed or with a seal that
verifies, reads or writes the context's memory and is answered with OK; a write that may not land faults its context. The checks run in order, and the
first that fails sets the answer, of a RDISP_DONE too (R369, R371 to R373, R377, R386, R388). -/
def Obligations.LinkMemoryRequests : Prop :=
  (∀ (l : Nat) (m q2 : Msg) (s s0 s1 s2 s3 : State) (x : Link) (c : Nat) (y : Ctx) (b : Binding) (st : Bool) (d : List Byte), s.link? l = some x →
    x.up = true →
    let q := s.taken l 0x01 x m
    msgAgrees q = true → q.dst = s.address 0xFF → s.strictNow l x q = (s0, st) → s0.bindingOf q = .ok (c, y, b) →
    (∀ z, s0.slice? y.slice = some z → z.state = .active) → s0.police l y.slice q = some s1 → s1.sealCheck c q = .ok (s2, q2) →
    (s2.confSlice (s2.sliceOf c) = true → (s2.tdi (s2.sliceOf c)).state = 3) → s2.readCtx c (.edge (l % 16)) q2.addr.toNat q2.len = (s3, .ok d) →
    exec (.memRd l m) s = .next (s3.cplFor c q st .ok d).finish) ∧
  (∀ (l : Nat) (m q2 : Msg) (s s0 s1 s2 s3 : State) (x : Link) (c : Nat) (y : Ctx) (b : Binding) (st : Bool), s.link? l = some x → x.up = true →
    let q := s.taken l 0x02 x m
    msgAgrees q = true → q.dst = s.address 0xFF → s.strictNow l x q = (s0, st) → s0.bindingOf q = .ok (c, y, b) →
    (∀ z, s0.slice? y.slice = some z → z.state = .active) → s0.police l y.slice q = some s1 → s1.sealCheck c q = .ok (s2, q2) →
    (s2.confSlice (s2.sliceOf c) = true → (s2.tdi (s2.sliceOf c)).state = 3) → s2.writable c q2.addr.toNat q2.len = true →
    s2.writeCtx c (.edge (l % 16)) none q2.addr.toNat q2.data = (s3, .ok ()) →
    exec (.memWr l m) s = .next ((s3.linkBytes c q2.len).cplFor c q st .ok []).finish) ∧
  (∀ (l : Nat) (m q2 : Msg) (s s0 s1 s2 : State) (x : Link) (c : Nat) (y : Ctx) (b : Binding) (st : Bool), s.link? l = some x → x.up = true →
    let q := s.taken l 0x02 x m
    msgAgrees q = true → q.dst = s.address 0xFF → s.strictNow l x q = (s0, st) → s0.bindingOf q = .ok (c, y, b) →
    (∀ z, s0.slice? y.slice = some z → z.state = .active) → s0.police l y.slice q = some s1 → s1.sealCheck c q = .ok (s2, q2) →
    s2.confSlice (s2.sliceOf c) = false → s2.writable c q2.addr.toNat q2.len = false →
    exec (.memWr l m) s = .next ((s2.portFault c l (accDike q2.addr.toNat)).plainCpl (s2.sliceOf c) q st .denied).finish) ∧
  (∀ (l ty : Nat) (m : Msg) (cmd : Instr) (s s0 : State) (x : Link) (st : Bool),
    (ty = 0x01 ∧ cmd = .memRd l m ∨ ty = 0x02 ∧ cmd = .memWr l m ∨ ty = 0x19 ∧ cmd = .rdispDone l m) → s.link? l = some x → x.up = true →
    let q := s.taken l ty x m
    (msgAgrees q = false → exec cmd s = .next (s.linkFall l 8).finish) ∧
    (msgAgrees q = true → q.dst = s.address 0xFF → s.strictNow l x q = (s0, st) →
      (∀ e, s0.bindingOf q = .error e → exec cmd s = .next (s0.plainCpl 0 q st e).finish) ∧
      ∀ c y b, s0.bindingOf q = .ok (c, y, b) →
        ((∃ z, s0.slice? y.slice = some z ∧ z.state ≠ .active) → exec cmd s = .next (s0.plainCpl y.slice q st .busy).finish) ∧
        ((∀ z, s0.slice? y.slice = some z → z.state = .active) →
          (s0.police l y.slice q = none → exec cmd s = .next (s0.plainCpl y.slice q st .busy).finish) ∧
          ∀ s1, s0.police l y.slice q = some s1 → ∀ e missing, s1.sealCheck c q = .error (e, missing) →
            exec cmd s = .next ((if missing = true then s1.portFault c l (accDike q.addr.toNat) else s1).plainCpl y.slice q st e).finish)))

/-- The other messages of a link complete: a doorbell, the completion of a result store and its time limit, a lost path, a remote dispatch sent, ended and
timed out, a message of the seal session, an unassigned type, and a message that goes on (R366, R367, R370, R372, R374, R376, R379, R388, R389). -/
def Obligations.LinkMessages : Prop :=
  (∀ (l : Nat) (m q2 : Msg) (s s1 : State) (x : Link) (c k : Nat) (y : Ctx) (b : Binding) (z : Queue), s.link? l = some x → x.up = true →
    let q := s.taken l 0x10 x m
    msgAgrees q = true → q.dst = s.address 0xFF → s.bindingOf q = .ok (c, y, b) → s.sealCheck c q = .ok (s1, q2) →
    s1.findQueue (BitVec.ofNat 32 q.addr.toNat) = some (k, z) → z.ctx = c →
    exec (.doorbell l m) s = .next (s1.doorbell k (BitVec.ofNat 32 (q.addr.toNat / 2 ^ 32))).finish) ∧
  (∀ (l : Nat) (m : Msg) (s : State) (x : Link), s.link? l = some x → x.up = true →
    let q := s.taken l 0x10 x m
    let ignore (a : State) : State := a.modLink l fun y => { y with ignored := min 131071 (y.ignored + 1) }
    msgAgrees q = true → q.dst = s.address 0xFF →
    (∀ e, s.bindingOf q = .error e → exec (.doorbell l m) s = .next (ignore s).finish) ∧
    ∀ c y b e missing, s.bindingOf q = .ok (c, y, b) → s.sealCheck c q = .error (e, missing) →
      exec (.doorbell l m) s = .next (ignore (if missing = true then s.portFault c l (accDike q.addr.toNat) else s)).finish) ∧
  (∀ (l : Nat) (m : Msg) (s : State) (x : Link) (ref : DWord), s.link? l = some x → x.up = true →
    let q := s.taken l 0x08 x m
    msgAgrees q = true → q.dst = s.address 0xFF → s.storeOf l q.tag = some ref → Status.ofCode (q.addr.toNat % 65536) = .ok →
    exec (.cpl l m) s =
      .next ((s.modLink l fun y => { y with rstores := tdel y.rstores q.tag }).modDisp ref fun d => { d with stores := d.stores - 1 }).finish) ∧
  (∀ (ref : DWord) (s : State) (l tag : Nat),
    s.links.tab.findSome? (fun e =>
      (e.2.rstores.find? (fun r => r.2.1 == ref && decide (r.2.2 + 100000 * e.2.rdto ≤ s.now))).map fun r => (e.1, r.1)) = some (l, tag) →
    exec (.resultStoreTimeout ref) s =
      .next (((s.modLink l fun y => { y with rstores := tdel y.rstores tag }).modDisp ref fun d => { d with stores := d.stores - 1 }).linkFault ref l 5
        .timeout).finish) ∧
  (∀ (l : Nat) (m : Msg) (s : State) (x : Link) (ref : DWord), s.link? l = some x → x.up = true →
    let q := s.taken l 0x09 x m
    msgAgrees q = true → q.dst = s.address 0xFF → s.storeOf l (q.addr.toNat % 65536) = some ref →
    exec (.pathLost l m) s =
      .next (((s.modLink l fun y => { y with rstores := tdel y.rstores (q.addr.toNat % 65536) }).modDisp ref fun d =>
        { d with stores := d.stores - 1 }).linkFault ref l 5 .linkDown).finish) ∧
  (∀ (l k : Nat) (s : State) (x : Link) (d : Disp) (a : RemoteArgs), s.link? l = some x → x.up = true →
    s.heldRemote l = some d →
    (List.range 256).find? (fun k => !thas x.slots k) = some k → d.work = .remote a →
    exec (.rdispSend l) s = .next (s.sendRdisp l k d a).finish) ∧
  (∀ (l c : Nat) (m q2 : Msg) (s s0 s1 s2 : State) (x : Link) (y : Ctx) (b : Binding) (st : Bool) (e : DWord × Nat) (d : Disp), s.link? l = some x →
    x.up = true →
    let q := s.taken l 0x19 x m
    msgAgrees q = true → q.dst = s.address 0xFF → s.strictNow l x q = (s0, st) → s0.bindingOf q = .ok (c, y, b) →
    (∀ z, s0.slice? y.slice = some z → z.state = .active) → s0.police l y.slice q = some s1 → s1.sealCheck c q = .ok (s2, q2) →
    tget x.slots q.tag = some e → s2.disp? e.1 = some d → d.ctx = c →
    let t := ((s2.linkBytes c 32).modLink l fun z => { z with slots := tdel z.slots q.tag }).plainCpl (s2.sliceOf c) q st .ok
    exec (.rdispDone l m) s =
      .next (if leNat (q2.data.take 2) = 0 then t.endDisp d none else t.linkFault d.ref l 6 (Status.ofCode (leNat (q2.data.take 2)))).finish) ∧
  (∀ (l k t : Nat) (s : State) (x : Link) (ref : DWord), s.link? l = some x → tget x.slots k = some (ref, t) →
    (∀ d z, s.disp? ref = some d → s.slice? (s.sliceOf d.ctx) = some z → z.state = .active) → t + 100000 * x.rdto ≤ s.now →
    exec (.rdispTimeout l k) s = .next ((s.raiseEdge (576 + 4 * l + 3)).linkFault ref l 6 .timeout).finish) ∧
  (∀ (l : Nat) (m : Msg) (s : State) (x : Link), s.link? l = some x → x.up = true →
    let q := s.taken l 0x20 x m
    msgAgrees q = true → q.dst = s.address 0xFF →
    exec (.secured l m) s = .next (if s.sealSession q.src = true then s.raiseEdge 42 else s).finish) ∧
  (∀ (l : Nat) (m : Msg) (s s0 : State) (x : Link) (st : Bool), s.link? l = some x → x.up = true →
    let q := s.taken l m.mtype x m
    msgAgrees q = true → q.dst = s.address 0xFF → s.strictNow l x q = (s0, st) →
    exec (.reservedMtype l m) s = .next (s0.plainCpl 0 q st .badParam).finish) ∧
  (∀ (l : Nat) (m : Msg) (s s1 : State) (x : Link) (sent : Bool), s.link? l = some x → x.up = true →
    let q := s.taken l m.mtype x m
    msgAgrees q = true → q.dst ≠ s.address 0xFF → q.mtype ≠ 0x09 ∨ s.isHere q.dst = false →
    let b := if q.flags.getLsbD 0 = true ∧ isCpl q.mtype = false then s.strictBudget l x q else (s, true)
    b.1.sendMsg 0 q (!b.2) = (s1, sent) →
    exec (.messageForward l m) s = .next (if sent = true then s1 else s1.lostMsg q).finish) ∧
  (∀ (l : Nat) (m : Msg) (s : State) (x : Link), s.link? l = some x → x.up = true →
    let q := s.taken l 0x09 x m
    msgAgrees q = true → q.dst ≠ s.address 0xFF → s.isHere q.dst = true →
    exec (.pathLost l m) s =
      .next (s.plainCpl 0 { q with src := q.dst, tag := q.addr.toNat % 65536, binding := q.addr.toNat / 65536 % 65536 } false .linkDown).finish)

/-- CXL.mem accesses complete through the HDM decoder that maps their address, the lowest that does: a context window of a context that is not confidential,
and the administration port's table decoder: data returned, bytes written; a failing access reads as ones and is counted; before READY there is none
(R303, R404 to R406, R456). -/
def Obligations.CxlMemory : Prop :=
  (∀ (q hpa n k base size : Nat) (s : State), (s.port q).cxl = true → hpa % 256 + n ≤ 256 → k < 8 → (k, base, size) ∈ (s.port q).hdm →
    base * 2 ^ 28 ≤ hpa → hpa < (base + size) * 2 ^ 28 → (∀ e ∈ (s.port q).hdm, e.1 ≠ k → hpa < e.2.1 * 2 ^ 28 ∨ (e.2.1 + e.2.2) * 2 ^ 28 ≤ hpa) →
    (∀ e ∈ (s.port q).hdm, e.1 = k → e = (k, base, size)) → s.hdmHit q hpa n = some (k, hpa - base * 2 ^ 28)) ∧
  (∀ (q hpa n k off c base : Nat) (s s1 : State) (d : List Byte), q < 4 → s.brg.ready = true → s.hdmHit q hpa n = some (k, off) → k ≠ 0 →
    s.winCtx q k = some (c, base) → s.confSlice (s.sliceOf c) = false → s.readCtx c (.edge (16 + q)) (base + off) n = (s1, .ok d) →
    exec (.cxlMemRead q hpa n) s =
      .next ((s1.account c fun y => { y with host := y.host + BitVec.ofNat 64 n }).emit (.data q d)).finish) ∧
  (∀ (q hpa off n : Nat) (s : State) (d : List Byte), q < 4 → s.brg.ready = true → s.hdmHit q hpa n = some (0, off) → s.adminPort q = true →
    off < 2 ^ 42 → s.readTable (off / 65536) (off % 65536) n = some d →
    exec (.cxlMemRead q hpa n) s = .next ((s.sampleTable (off / 65536) (.edge (16 + q))).emit (.data q d)).finish) ∧
  (∀ (q hpa n : Nat) (s : State) (d : List Byte), q < 4 → s.brg.ready = true →
    let t := s.modPort q fun x =>
      { x with memErr := satInc x.memErr, memAdr := if x.memSet then x.memAdr else BitVec.ofNat 64 hpa, memSet := true }
    (s.hdmHit q hpa n = none → exec (.cxlMemRead q hpa n) s = .next (t.emit (.data q (List.replicate n 0xFF))).finish) ∧
    (s.hdmHit q hpa d.length = none → exec (.cxlMemWrite q hpa d) s = .next t.finish)) ∧
  (∀ (q hpa k off c base : Nat) (s s1 : State) (d : List Byte), q < 4 → s.brg.ready = true → s.hdmHit q hpa d.length = some (k, off) → k ≠ 0 →
    s.winCtx q k = some (c, base) → s.confSlice (s.sliceOf c) = false → s.writable c (base + off) d.length = true →
    s.writeCtx c (.edge (16 + q)) none (base + off) d = (s1, .ok ()) →
    exec (.cxlMemWrite q hpa d) s = .next (s1.account c fun y => { y with host := y.host + BitVec.ofNat 64 d.length }).finish) ∧
  (∀ (q hpa off : Nat) (s s1 : State) (d : List Byte) (g : Frame), q < 4 → s.brg.ready = true → s.hdmHit q hpa d.length = some (0, off) →
    s.adminPort q = true → off < 2 ^ 42 → s.frame? (off / 65536) = some g → g.owner = none →
    s.writeTable (.edge (16 + q)) (off / 65536) (off % 65536) d = (s1, true) → exec (.cxlMemWrite q hpa d) s = .next s1.finish) ∧
  (∀ (q hpa n : Nat) (s : State) (d : List Byte), q < 4 → s.brg.ready = false →
    exec (.cxlMemRead q hpa n) s = .next ((s.modPort q fun x => { x with ur := satInc x.ur }).emit (.ur q)) ∧
    exec (.cxlMemWrite q hpa d) s = .next ((s.modPort q fun x => { x with ur := satInc x.ur }).emit (.ur q)))

/-- The host-port commands complete: an unmasked vector whose message was pending sends it unless the function is masked, a port is lost and comes back,
translations are dropped and the completion is sent, page requests end, with the access made where they succeed (R393, R394, R397 to R399, R408). -/
def Obligations.HostPortCommands : Prop :=
  (∀ (q v : Nat) (s : State), q < 4 → v < 2048 → s.brg.ready = true → (s.port q).unmask.contains v = false → s.lockedVec q v = none →
    let t := s.modPort q fun x => { x with unmask := v :: x.unmask }
    ((s.port q).msixPnd.contains v = true → (s.port q).fmask = false →
      exec (.msixVectorUnmask q v) s = .next ((t.modPort q fun x => { x with msixPnd := x.msixPnd.filter (· != v) }).emit (.msix q v false)).finish) ∧
    ((s.port q).msixPnd.contains v = false ∨ (s.port q).fmask = true → exec (.msixVectorUnmask q v) s = .next t.finish)) ∧
  (∀ (q : Nat) (why : PortLoss) (s : State), q < 4 →
    let s1 := ((s.raiseEdge (928 + 8 * q + 4)).raiseEdge (928 + 8 * q)).modPort q fun x =>
      { x with up := false, rate := 0, width := 0, cxl := false, ats := [], pri := [], priBad := false, atsOn := false, priOn := false, msix := []
               unmask := [], msixPnd := [], cmd := 0, bars := [], pasidOn := false, fmask := false, hdm := [], ide := Ide.none }
    let s2 := ((s1.onPort q).foldl (fun a l => a.losePort q l) s1).endSessions (fun k => k.at_ == .hostPort q)
    (s.adminPort q = false ∨ s.brg.ready = false → exec (.hostPortLoss q why) s = .next s2.finish) ∧
    (s.adminPort q = true → s.brg.ready = true → exec (.hostPortLoss q why) s =
      .next ((((s2.ctxsOf 0).foldl State.teardown s2).resetPd).onSlices fun x => { x with s0Done := false }).finish)) ∧
  (∀ (q rate width : Nat) (cxl : Bool) (s : State), q < 4 → 1 ≤ rate → rate ≤ 6 → (width = 1 ∨ width = 2 ∨ width = 4 ∨ width = 8 ∨ width = 16) →
    exec (.hostPortLinkUp q rate width cxl) s =
      .next ((s.modPort q fun x => { x with up := true, rate := rate, width := width, cxl := cxl }).raiseEdge (928 + 8 * q))) ∧
  (∀ (q pasid base n : Nat) (s : State), q < 4 →
    exec (.atsInvalidation q pasid base n) s =
      .next (((s.modPort q fun x =>
        { x with ats := x.ats.filter fun e => !(e.1 == pasid && decide (base < e.2.1 + e.2.2) && decide (e.2.1 < base + n)) }).raiseEdge
          (928 + 8 * q + 2)).emit (.invDone q pasid base n))) ∧
  (∀ (q id : Nat) (r : Pri) (s : State), q < 4 → (s.port q).pri.find? (fun r => r.id == id) = some r →
    let t := s.modPort q fun x => { x with pri := x.pri.filter (fun y => y.id != id) }
    exec (.priResponse q id .success) s = .next (t.priDone q r).finish ∧ exec (.priResponse q id .invalid) s = .next (t.priFails q r).finish ∧
    exec (.priResponse q id .failure) s = .next ((t.modPort q fun x => { x with priBad := true }).priFails q r).finish) ∧
  (∀ (q id : Nat) (r : Pri) (s : State), q < 4 → (s.port q).pri.find? (fun r => r.id == id) = some r → r.since + 100000 * (s.port q).toMs ≤ s.now →
    exec (.priTimeout q id) s = .next ((s.modPort q fun x => { x with pri := x.pri.filter (fun y => y.id != id) }).priFails q r).finish)

/-- The interface commands complete in a session of the slice's port: locked from CONFIG_UNLOCKED with its keys in place, started with a fresh binding
value that the entropy source must give, stopped with a scrub, a claim recorded or refused, keys programmed and taken up for a direction; lost stream keys
take the interface to ERROR, and so does a session that is not the interface's (R293, R316 to R321, R400 to R402; the error codes: log entry 256). -/
def Obligations.InterfaceCommands : Prop :=
  (∀ (q k l : Nat) (id : IfaceId) (s : State), s.sessOn q k = true →
    let s1 := s.raiseEdge (928 + 8 * q + 3)
    s1.iface q id = some l → (s1.tdi l).state = 1 → (s1.tdi l).scrubbed = false → (s1.tdi l).ide.tx.isSome = true → (s1.tdi l).ide.rx.isSome = true →
    exec (.lockInterface q k id) s = .next ((s1.modTdi l fun x => { x with state := 2, sess := some k }).spdm (some k) (some [])).finish) ∧
  (∀ (q k l : Nat) (id : IfaceId) (s : State), s.sessOn q k = true → s.sen.entropy = false →
    let s1 := s.raiseEdge (928 + 8 * q + 3)
    s1.iface q id = some l → (s1.tdi l).state = 2 → (s1.tdi l).sess = some k →
    let s2 := ((s1.drew 1).asked 1).modTdi l fun x => { x with state := 3, binding := s1.peek % 2 ^ 256 }
    exec (.startInterface q k id) s = .next ((s2.postDue l).spdm (some k) (some [])).finish) ∧
  (∀ (q k : Nat) (id : IfaceId) (s : State), s.sessOn q k = true → s.sen.entropy = true →
    exec (.startInterface q k id) s = .next ((s.raiseEdge (928 + 8 * q + 3)).spdmBusy (some k))) ∧
  (∀ (q k l : Nat) (id : IfaceId) (s : State), s.sessOn q k = true →
    let s1 := s.raiseEdge (928 + 8 * q + 3)
    s1.iface q id = some l → (s1.tdi l).sess = some k → ((s1.tdi l).state = 2 ∨ (s1.tdi l).state = 3) →
    exec (.stopInterface q k id) s = .next (((s1.modTdi l fun x => { x with state := 1 }).scrub l).spdm (some k) (some [])).finish) ∧
  (∀ (q k : Nat) (id : IfaceId) (cmd : Instr) (s : State), s.sessOn q k = true →
    (cmd = .lockInterface q k id ∨ cmd = .startInterface q k id ∧ s.sen.entropy = false ∨ cmd = .stopInterface q k id) →
    let s1 := s.raiseEdge (928 + 8 * q + 3)
    s1.iface q id = none → exec cmd s = .next (s1.emit (.spdm (k + 1) false (leNats 4 0x101))).finish) ∧
  (∀ (q k l value : Nat) (id : IfaceId) (s : State) (x : Slice), s.sessOn q k = true →
    let s1 := s.raiseEdge (928 + 8 * q + 3)
    let t := s1.tdi l
    id.func = 0 → id.rest = 0 → s1.findSlice id.slice = some (l, x) → x.conf = true → x.port ≠ q →
    (x.state ≠ .quiesced → exec (.bindClaim q k (Config.vendorId % 65536) 1 id value) s = .next (s1.spdm (some k) (some [2])).finish) ∧
    (x.state = .quiesced → t.claimed = true →
      exec (.bindClaim q k (Config.vendorId % 65536) 1 id value) s = .next (s1.spdm (some k) (some [3])).finish) ∧
    (x.state = .quiesced → t.claimed = false → t.state ≠ 3 ∨ t.binding ≠ value →
      exec (.bindClaim q k (Config.vendorId % 65536) 1 id value) s = .next (s1.spdm (some k) (some [1])).finish) ∧
    (x.state = .quiesced → t.claimed = false → t.state = 3 → t.binding = value →
      exec (.bindClaim q k (Config.vendorId % 65536) 1 id value) s =
        .next ((s1.modTdi l fun y => { y with claimed := true, claimPort := q, claimSess := some k }).spdm (some k) (some [0])).finish)) ∧
  (∀ (q k l ks : Nat) (tx : Bool) (id : IfaceId) (s : State), s.sessOn q k = true →
    let s1 := s.raiseEdge (928 + 8 * q + 3)
    s1.iface q id = some l → ks < 2 → (s1.tdi l).state = 1 →
    exec (.ideKmKeyProg q k (.selective id) ks tx false) s =
      .next ((s1.modTdi l fun x =>
        { x with ide := { (s1.tdi l).ide with progd := (ks, tx) :: (s1.tdi l).ide.progd.filter (· != (ks, tx)) } }).spdm (some k) (some [])).finish ∧
    ((s1.tdi l).ide.progd.contains (ks, tx) = true → exec (.ideKmKeyProg q k (.selective id) ks tx true) s =
      .next ((s1.modTdi l fun x =>
        { x with ide := if tx = true then { (s1.tdi l).ide with tx := some ks } else { (s1.tdi l).ide with rx := some ks } }).spdm (some k)
          (some [])).finish)) ∧
  (∀ (q k l ks : Nat) (tx go : Bool) (id : IfaceId) (s : State), s.sessOn q k = true →
    let s1 := s.raiseEdge (928 + 8 * q + 3)
    s1.iface q id = some l → ks < 2 → ((s1.tdi l).state = 2 ∨ (s1.tdi l).state = 3) → (s1.tdi l).sess ≠ some k →
    exec (.ideKmKeyProg q k (.selective id) ks tx go) s = .next ((s1.toError l).emit (.spdm (k + 1) false (leNats 4 1))).finish) ∧
  (∀ (q k ks : Nat) (tx : Bool) (s : State), s.sessOn q k = true → ks < 2 →
    let s1 := s.raiseEdge (928 + 8 * q + 3)
    exec (.ideKmKeyProg q k .link ks tx false) s =
      .next ((s1.modPort q fun x =>
        { x with ide := { (s1.port q).ide with progd := (ks, tx) :: (s1.port q).ide.progd.filter (· != (ks, tx)) } }).spdm (some k) (some [])).finish) ∧
  (∀ (q l : Nat) (h : Handle) (s : State), s.iface q { func := 0, slice := h, rest := 0 } = some l →
    exec (.ideIntegrityFailure q h) s = .next ((s.modTdi l fun t => { t with ide := Ide.none }).toError l).finish)

/-- SPDM and the management port complete: measurements answered to the session that may see them, signed where that is asked, a session opened with the
shared secret of its key exchange, its heartbeat and key update, and its end, MCTP control answered, the PLDM types and sensors read, a component staged
where it verifies (by an MMC whose firmware failed, its own alone), slots burnt and revoked, the security version burnt (R294, R322, R323, R330, R331,
R338, R412 to R414, R441); before READY a host port answers Request Retry Status (R456). -/
def Obligations.SessionsAndManagement : Prop :=
  (∀ (q i : Nat) (k : Option Nat) (s : State), q < 4 → s.brg.ready = true → (∀ j, k = some j → ∃ x, s.inSess (.hostPort q) j = some x) →
    exec (.getMeasurements (.hostPort q) k (.measurements i false)) s =
      .next (s.spdm k ((s.measures (k.bind (s.inSess (.hostPort q))) i).map fun b => b.map (·.toNat)))) ∧
  (∀ (i j : Nat) (g : Bool) (x : Sess) (s : State), s.mmcFailed = false → s.brg.stage ≠ 0 → s.mmc.addr.isSome = true → s.inSess .mgmt j = some x →
    x.claim = true → exec (.getMeasurements .mgmt (some j) (.measurements i g)) s = .next (s.emit (.spdm (j + 1) false []))) ∧
  (∀ (i : Nat) (g : Bool) (s : State), s.mmcFailed = false → s.brg.stage ≠ 0 → s.mmc.addr.isSome = true →
    exec (.getMeasurements .mgmt none (.measurements i g)) s = .next (s.emit (.spdm 0 false []))) ∧
  (∀ (self chain : Bool) (share : Nat × Nat) (leaf root : Nat) (s : State), s.sessOk .mgmt none self leaf root chain = true → s.mmcFailed = false →
    s.brg.stage ≠ 0 → s.mmc.addr.isSome = true → s.sen.entropy = false →
    let own := publicKey s.ephemeral
    exec (.keyExchange .mgmt none share self leaf root chain) s =
      .next ((((s.drew 3).asked 2).onSen fun x =>
        { x with
          sessions := x.sessions ++ [{ id := s.sen.nextSess, at_ := .mgmt, slice := none, claim := s.sen.burnt == 0, root := root, leaf := leaf
                                       secret := spdmSecret (ecdh s.ephemeral share) s.transcript, updates := 0, beat := s.now }]
          nextSess := x.nextSess + 1 }).spdm (some s.sen.nextSess)
            (some ((beBytes 48 own.1 ++ beBytes 48 own.2 ++ (s.drew 2).signs s.transcript).map (·.toNat))))) ∧
  (∀ (k : Nat) (x : Sess) (s : State), s.sen.sessions.find? (fun x => x.id == k) = some x → (∀ l, x.at_ ≠ .link l) →
    exec (.sessionEnd k) s = .next (s.onSen fun y => { y with sessions := y.sessions.filter (fun z => !(z.id == k)) })) ∧
  (∀ (e a unit : Nat) (s : State), s.brg.stage ≠ 0 → unit ≤ 256 →
    (s.mmc.addr.isSome = true →
      exec (.mctpControl unit (.setEid e)) s =
        .next { (s.emit .inBand).emit (.mctp [1, e % 256]) with mmc := { s.mmc with eid := e % 256 } } ∧
      exec (.mctpControl unit .getEid) s = .next ((s.emit .inBand).emit (.mctp [2, s.mmc.eid]))) ∧
    (s.mmc.addr = none → exec (.mctpControl unit (.setEid e)) s = .next s ∧
      exec (.mctpControl unit (.setdasa a)) s = .next { s with mmc := { s.mmc with addr := some (a % 128) } })) ∧
  (∀ (k : Nat) (c : Component) (t : Store) (s : State), s.mmcFailed = false → s.mgmt k false = true →
    (s.sen.verified s.mmc.staged c = some t →
      exec (.pldmFirmwareUpdate k (.update c)) s = .next ({ s with mmc := { s.mmc with staged := t } }.emit (.spdm (k + 1) true []))) ∧
    (s.sen.verified s.mmc.staged c = none → exec (.pldmFirmwareUpdate k (.update c)) s = .next (s.emit (.spdm (k + 1) false [])))) ∧
  (∀ (k : Nat) (i : Image) (s : State), s.mmcFailed = true → s.sen.containerOk i 3 = true →
    exec (.pldmFirmwareUpdate k (.update (.image 3 i))) s = .next { s with mmc := { s.mmc with staged := { s.mmc.staged with mmcFw := some i } } }) ∧
  (∀ (k digest : Nat) (s : State), s.mgmt k true = true → s.sen.burnt = 0 → (∃ x ∈ s.sen.sessions, x.id = k ∧ x.root = digest) →
    exec (.claimSlot k digest) s =
      .next ((s.onSen fun x => { x with burnt := x.burnt ||| 1, digests := tset x.digests 0 digest }).emit (.spdm (k + 1) true []))) ∧
  (∀ (k slot digest signer : Nat) (s : State), s.mgmt k false = true → slot < 4 → s.liveSlot signer = true → s.sen.burnt.getLsbD slot = false →
    exec (.burnSlot k slot digest signer true) s =
      .next ((s.onSen fun x => { x with burnt := x.burnt ||| (1#4 <<< slot), digests := tset x.digests slot digest }).emit (.spdm (k + 1) true []))) ∧
  (∀ (k slot signer : Nat) (s : State), s.mgmt k false = true → slot < 4 → s.liveSlot signer = true → s.liveSlots ≠ [slot] →
    exec (.revokeSlot k slot signer true) s =
      .next ((s.onSen fun x => { x with revoked := x.revoked ||| (1#4 <<< slot) }).emit (.spdm (k + 1) true []))) ∧
  (∀ (k svn signer : Nat) (s : State), s.mgmt k false = true → svn ≤ s.brg.fwSvn → s.liveSlot signer = true →
    exec (.burnSvn k svn signer true) s = .next ((s.onSen fun x => { x with svn := max x.svn svn }).emit (.spdm (k + 1) true []))) ∧
  (∀ (q k : Nat) (x : Sess) (s : State), q < 4 → s.brg.ready = true → s.inSess (.hostPort q) k = some x →
    let each (f : Sess → Sess) : State := s.onSen fun y => { y with sessions := y.sessions.map fun z => if z.id == x.id then f z else z }
    exec (.getMeasurements (.hostPort q) (some k) .heartbeat) s = .next ((each fun z => { z with beat := s.now }).emit (.spdm (k + 1) true [])) ∧
    exec (.getMeasurements (.hostPort q) (some k) .keyUpdate) s =
      .next ((each fun z => { z with updates := z.updates + 1 }).emit (.spdm (k + 1) true []))) ∧
  (∀ (q : Nat) (k : Option Nat) (r : SpdmReq) (s : State), q < 4 → s.brg.ready = false →
    exec (.getMeasurements (.hostPort q) k r) s = .next (s.emit (.retryStatus q))) ∧
  (∀ (q i : Nat) (d : List Byte) (s : State), q < 4 → s.brg.ready = true → s.sen.certOk = true → s.measures none i = some d →
    let body := d ++ beBytes 32 (Config.free (s.free + 1) % 2 ^ 256)
    exec (.getMeasurements (.hostPort q) none (.measurements i true)) s =
      .next (if s.sen.entropy = true then s.emit (.spdm 0 false (leNats 2 Status.busy.code))
        else ((s.drew 2).asked 2).emit (.spdm 0 true ((body ++ s.signs body).map (·.toNat))))) ∧
  (∀ (k n v : Nat) (s : State), s.mmcFailed = false → s.mgmt k false = true →
    exec (.pldmFirmwareUpdate k .types) s = .next (s.emit (.spdm (k + 1) true [0, 2, 5])) ∧
    (s.sensor n = some v → exec (.pldmFirmwareUpdate k (.sensor n)) s = .next (s.emit (.spdm (k + 1) true (leNats 8 v)))))

/-- The whole resets complete: the failing block's last writes, where its cause leaves time for them, then bring-up; a core's watchdog resets the core alone
until its eighth reset in a second (R290, R438 to R441, R462, R463, R485, R488). -/
def Obligations.WholeResets : Prop :=
  (∀ (k : Nat) (b : Boot) (s : State), s.mgmt k false = true → exec (.resetBlock k b) s = .next (s.deviceLost.blockBoot 2 false b)) ∧
  (∀ (k : Nat) (b : Boot) (s : State), s.mgmt k false = true → exec (.resetCold k b) s = .next (s.deviceLost.coldBoot b)) ∧
  (∀ (s : State), exec .coldReset s = .next s.deviceLost.cold) ∧
  (∀ (b : Boot) (s : State), s.brg.stage = 0 → exec (.coldResetRelease b) s = .next (s.coldBoot b)) ∧
  (∀ (b : Boot) (s : State), exec (.blockReset 1 b) s = .next (s.blockBoot 1 false b)) ∧
  (∀ (n : Nat) (b : Boot) (s : State), n = 2 ∨ n = 3 → exec (.blockReset n b) s = .next (s.deviceLost.blockBoot n false b)) ∧
  (∀ (b : Boot) (s : State), exec (.fatalInternalError b) s = .next (s.deviceLost.blockBoot 3 false b)) ∧
  (∀ (mv ticks : Nat) (b : Boot) (s : State), s.brg.stage ≠ 0 →
    exec (.supplyReset mv ticks b) s = .next ((s.onPwr fun p => { p with dipMv := mv, dipDur := BitVec.ofNat 32 ticks }).blockBoot 1 false b)) ∧
  (∀ (die t : Nat) (b : Boot) (s : State), die < 5 → tget s.pwr.hot die = some t → t + 100000 ≤ s.now →
    exec (.thermalTrip die b) s = .next (s.deviceLost.blockBoot 2 true b)) ∧
  (∀ (n : Nat) (b : Boot) (s : State), n < 8 →
    let l := s.now :: s.brg.coreRst.filter (fun t => decide (s.now < t + 100000000))
    let t := ((s.drew 1).resetCore n).onBrg fun x => { x with coreRst := l }
    exec (.watchdogExpiry n b) s = .next (if 8 ≤ l.length then t.deviceLost.blockBoot 3 false b else (t.abortPackets s.peek).finish))

/-- The supply monitor, the measurements and the power states complete: a warning and its dip, the dip's end with the guarantees that it suspends, the clear
100 us later; the power and thermal ceilings; sleep and wake, a wake for a cause that stands; the control cluster's sleep, what it does when it is up again,
and the firmware packet that waits for it (R263, R428, R433, R472, R478 to R487). -/
def Obligations.PowerEvents : Prop :=
  (∀ (s : State), s.pwr.inDip = false → s.pwr.warn = false → exec .supplyWarn s = .next s.dipBegins.warnBegins) ∧
  (∀ (s : State), s.pwr.inDip = false → s.pwr.warn = true → exec .supplyWarn s = .next s.dipBegins) ∧
  (∀ (mv ticks : Nat) (s : State), s.pwr.inDip = true →
    let s1 := s.onPwr fun p =>
      { p with dipMv := mv, dipDur := BitVec.ofNat 32 ticks, inDip := false, hyst := s.now, dipCnt := min 65535 (p.dipCnt + 1)
               worst := if p.worst = 0 then mv else min p.worst mv }
    exec (.dipEnd mv ticks) s =
      .next (((s.suspended ticks).foldl (fun a c => a.suspendOne ticks c) s1).onSched fun x => { x with dipRuns := [] }).finish) ∧
  (∀ (s : State), s.pwr.warn = true → s.pwr.inDip = false → s.pwr.hyst + 10000 ≤ s.now →
    exec .supplyClear s =
      .next (((s.raiseEdge 34).onPwr fun p => { p with warn := false }).onSched fun x =>
        { x with warned := [], dipRuns := [], polders := tmap x.polders fun _ p => { p with susp := false } })) ∧
  (∀ (mv ma : Nat) (ok : Bool) (s : State), s.pwr.plim * 1000000 < mv * ma →
    ∃ t, exec (.powerMeasurement mv ma ok) s = .next t ∧ t.pwr.pceil = s.pwr.pceil - 10 ∧ t.pwr.meas = mv ∧ t.pwr.amps = ma ∧
      t.pwr.energy = s.pwr.energy + mv * ma) ∧
  (∀ (temps : List Nat) (s : State),
    ∃ t, exec (.thermalCeilingStep temps) s = .next t ∧
      ((∃ x ∈ temps, s.pwr.tthr < x) → t.pwr.tceil = max 600 (s.pwr.tceil - 5)) ∧
      ((∀ x ∈ temps, x + 2 ≤ s.pwr.tthr) → t.pwr.tceil = min 850 (s.pwr.tceil + 5)) ∧
      t.pwr.throt = (if temps.any (fun x => decide (105 < x)) then min 7 (s.pwr.throt + 1) else s.pwr.throt - 1)) ∧
  (∀ (mhz : List Nat) (m : Nat) (s : State), s.sen.sec = 0 →
    ((s.actives.filter (fun c => decide ((s.clu c).st ≤ 1))).map (fun c => mhz.getD c 0)).min? = some m →
    ∃ t, exec (.rateUpdate mhz) s = .next t ∧ t.alm.rate = m ∧ t.alm.gen = s.alm.gen) ∧
  (∀ (c : Nat) (s : State), (s.clu c).st ≤ 1 → s.mayNap c = true → s.pwr.napDly ≠ 0 → (s.clu c).since + 100 * s.pwr.napDly ≤ s.now →
    exec (.clusterNapEntry c) s = .next (s.onPwr fun p => { p with clus := tset p.clus c { st := 2, since := s.now }, mhz := tdel p.mhz c })) ∧
  (∀ (c : Nat) (s : State), (s.clu c).st = 2 → s.mayNap c = true → s.pwr.deepDly ≠ 0 → (s.clu c).since + 100000 * s.pwr.deepDly ≤ s.now →
    exec (.clusterDeepEntry c) s = .next ((s.onPwr fun p => { p with clus := tset p.clus c { st := 3, since := s.now } }).onBrg fun b =>
      { b with loaded := tdel b.loaded c })) ∧
  (∀ (c k : Nat) (d : Disp) (p : Polder) (es : List Nat) (s : State), s.active c = true → s.pwr.warn = false → s.brg.maint = false →
    (s.mbox (12 + c)).wake = true ∨
      (k, p) ∈ s.sched.polders ∧ thas s.sched.resets k = false ∧ s.nextStart k p = some (d, some es) ∧ (∃ e ∈ es, e / 16 = c) →
    exec (.clusterWake c) s = .next (s.wakeCluster c)) ∧
  (∀ (s : State), s.pwr.ccReq = true → s.pwr.ccUp = true → (∀ c ∈ s.actives, 2 ≤ (s.clu c).st) →
    (∀ e ∈ s.objs.queues, e.2.fwBusy = none ∨ ∃ w ∈ s.objs.fwQ, w.queue = e.1) →
    exec .controlClusterDown s =
      .next { s.onPwr (fun p => { p with ccUp := false, ccReq := false }) with evc := { s.evc with saved := true } }) ∧
  (∀ (s : State), s.pwr.ccUp = false → s.ccWakes = true → s.objs.fwQ = [] →
    let t1 := (s.dashed []).onPwr fun p => { p with ccUp := true }
    let t : State := { t1 with evc := { t1.evc with saved := false } }
    exec .controlClusterWake s =
      .next ((t.mbx.boxes.filter (fun e => e.2.wake && mbxReceiver e.1 == .control)).foldl (fun a e =>
        (a.modMbox e.1 fun x => { x with wake := false }).noteNonempty e.1) t)) ∧
  (∀ (s t : State) (e : FwWait), s.pwr.ccUp = false → s.ccWakes = true → s.objs.fwQ = [e] → s.ccUp.fwHead = some e →
    firmware e.cmd s.ccUp = .next t → exec .controlClusterWake s = .next t) ∧
  (∀ (h : Hdr) (init : DWord) (s s1 s2 : State) (x : Queue) (i : OpInfo) (op : State → Nat → Word → State × Ans),
    s.pwr.ccUp = false → isHw i.code = false → h.cont ≤ 15 → s.queue? h.q = some x → s.stands i h x = true → s.canIssue h.q x h = true →
    s.fetchMiss h.q x (h.cont + 1) = some (s1, false) → s1.pwr.ccUp = false →
    (s1.takeTurn h.q x).fetchRing h.q x (h.cont + 1) = (s2, true) →
    let e : FwWait := { queue := h.q, count := x.head, code := i.code, hdr := h, cmd := .fenceCreate h init }
    s.packet (.fenceCreate h init) i h op =
      .next (((s2.onObjs fun o => { o with fwQ := o.fwQ ++ [e] }).modQueue h.q fun y => { y with fwBusy := some x.head }).lineCond.finish))

/-- SRAM_UNCORRECTABLE_ERROR completes: the error counted and its place recorded, then the reset, the discarded staging or the aborts that its place calls
for (R497). -/
def Obligations.SramErrors : Prop :=
  (∀ (e st a : Nat) (b : Boot) (s : State), e < 320 →
    exec (.sramUncorrectableError (.engine e st) a b) s = .next ((s.noteEcc (e / 16) (e % 16) (st % 8) a).resetEngine e).finish) ∧
  (∀ (c a : Nat) (b : Boot) (s : State), c < 20 →
    exec (.sramUncorrectableError (.staging c) a b) s =
      .next ((s.noteEcc c 0 4 a).onSched fun x =>
        { x with disps := x.disps.map fun d => { d with staged := d.staged.filter (fun u => u.cluster != c) } })) ∧
  (∀ (c a : Nat) (ref : DWord) (b : Boot) (s : State), c < 20 →
    exec (.sramUncorrectableError (.kvPartial c ref) a b) s =
      .next ((s.noteEcc c 0 4 a).abortWhere fun d => d.ref == ref && d.kvStarted).finish) ∧
  (∀ (c a : Nat) (ref : DWord) (b : Boot) (s : State), c < 20 →
    exec (.sramUncorrectableError (.save c ref) a b) s =
      .next ((s.noteEcc c 0 4 a).abortWhere fun d => d.ref == ref && d.started).finish) ∧
  (∀ (c a : Nat) (b : Boot) (s : State), c < 20 →
    exec (.sramUncorrectableError (.csq c) a b) s = .next ((s.noteEcc c 0 5 a).resetCluster c).finish) ∧
  (∀ (w : EccWhere) (a : Nat) (b : Boot) (s : State), w = .hub ∨ w = .keyStore →
    exec (.sramUncorrectableError w a b) s = .next (s.deviceLost.blockBoot 3 false b))

/-- A command is taken from the front of the queue and has its effect on everything but the rest of the queue. -/
def Obligations.StepRunsCommand : Prop :=
  ∀ (c : Instr) (r : List Instr) (s : State), s.pending = c :: r → step s = exec c { s with pending := r }

/-- No command touches the commands that wait behind it. -/
def Obligations.QueueLeftAlone : Prop := ∀ (c : Instr) (s t : State), exec c s = .next t → t.pending = s.pending

/-- With nothing to settle the end of a command changes nothing, and with nothing waiting only 10 ns pass; at a boundary of 100 us the engines in use are
noted for SCH_PSTATE (R328; log entry 1: the model's choice). -/
def Obligations.QuietEnd : Prop :=
  (∀ (s : State), Quiet s → s.finish = s) ∧
  (∀ (s : State), Quiet s → s.pending = [] → (s.now + 1) % 10000 ≠ 0 → step s = .next { s with now := s.now + 1 }) ∧
  ∀ (s : State), Quiet s → s.pending = [] → (s.now + 1) % 10000 = 0 →
    step s = .next (({ s with now := s.now + 1 } : State).onSched fun x => { x with busyAt := x.polders.map fun e => (e.1, s.busyIn e.2) })

/-- The invariant holds at reset. -/
def Obligations.InvAtReset : Prop := Inv State.reset

/-- Every step keeps the invariant: the pool memory stays in its canonical form, no step leaves the almanac's GENERATION odd, no mailbox comes to hold more
than eight messages, and a core's claims stay nested by strictly rising priority, so that its stack never holds more than 15 entries (R424). -/
def Obligations.InvKept : Prop := ∀ (s t : State), Inv s → step s = .next t → Inv t

/-- What is fused stays fused, through every command and every reset: the security version never falls, and no burnt or revoked bit of a credential slot is
ever cleared (R330, R338). -/
def Obligations.FusesOneWay : Prop :=
  ∀ (s t : State), step s = .next t →
    s.sen.svn ≤ t.sen.svn ∧ (∀ i, s.sen.burnt.getLsbD i = true → t.sen.burnt.getLsbD i = true) ∧
      ∀ i, s.sen.revoked.getLsbD i = true → t.sen.revoked.getLsbD i = true

/-- The cold reset leaves the values that the registers' tables give: the block's and the clusters' states, voltages and limits, the naps' delays, the
embankment, the bootstrap sizes, the links' dimensions, a port's time limit, debug closed, READY not set, no object, no frame, no message (R218, R230,
R275, R391, R410, R437, R466, R491, R513). -/
def Obligations.ResetValues : Prop :=
  let s := State.reset
  s.rdPwr 0 = 1 ∧ s.rdPwr 0x40 = 0 ∧ s.rdPwr 0x44 = 0 ∧ s.pwr.vtgt = 750 ∧ s.pwr.vdeep = 650 ∧ s.pwr.plim = 1600 ∧ s.pwr.psus = 1600 ∧ s.pwr.tthr = 100 ∧ s.pwr.napDly = 1000 ∧ s.pwr.deepDly = 100 ∧
    s.pool.embank = 2 ∧ s.pool.fCount = 1 ∧ s.slices.s0Log2 = 6 ∧ s.slices.s0QLog2 = 4 ∧
    s.links.dimX = 1 ∧ s.links.dimY = 1 ∧ s.links.dimZ = 1 ∧ s.links.lock = false ∧ (s.port 0).toMs = 10 ∧ s.sen.dbg.unlocked = false ∧
    s.brg.ready = false ∧ s.objs.ctxs = [] ∧ s.slices.tab = [] ∧ s.pool.frames = [] ∧ s.evc.srcs = [] ∧ s.mbx.boxes = []

/-- The header checks of a packet that is fetched and served at once, in the order of R516: the first that fails sets the status, on the path of the opcode's
family (a CONT above 15 always halts the queue); FENCE is faulted only where it is not null and names a fence of the queue's context. -/
def Obligations.HeaderChecks : Prop :=
  ∀ (cmd : Instr) (i : OpInfo) (h : Hdr) (op : State → Nat → Word → State × Ans) (s s1 s2 : State) (x : Queue),
    s.queue? h.q = some x → (∀ e ∈ s.objs.fwQ, e.queue ≠ h.q) → s.stands i h x = true → s.canIssue h.q x h = true →
    let n := if h.cont ≤ 15 then h.cont + 1 else 1
    s.fetchMiss h.q x n = some (s1, false) → isHw i.code = true ∨ s1.pwr.ccUp = true ∨ 15 < h.cont →
    (s1.takeTurn h.q x).fetchRing h.q x n = (s2, true) →
    let fails (hw : Bool) (st : Status) : Prop := s.packet cmd i h op = .next (s2.failPacket hw i h x.head (s2.fenceOf h x.ctx) st []).finish
    let names := h.context = s2.ctxHandle x.ctx
    let conts := i.contMin ≤ h.cont ∧ h.cont ≤ i.contMax ∧ h.rsvd = false ∧ i.oddBit = false ∧ h.flags.toNat < 8
    let notify := h.flags.getLsbD 0 = true → i.notify = true ∧ h.fence ≠ 0
    let stage := h.flags.getLsbD 2 = true → i.stage = true ∧ h.fence = 0
    let plain := i.noFence = true → h.fence = 0
    let right := i.admin = true → s2.sliceOf x.ctx = 0
    (15 < h.cont → fails true .badParam) ∧
    (h.cont ≤ 15 → ¬names → fails (isHw i.code) .badHandle) ∧
    (h.cont ≤ 15 → names → i.assigned = false → fails (isHw i.code) .badParam) ∧
    (h.cont ≤ 15 → names → i.assigned = true → ¬conts → fails (isHw i.code) .badParam) ∧
    (h.cont ≤ 15 → names → i.assigned = true → conts → ¬(notify ∧ stage ∧ plain) → fails (isHw i.code) .badParam) ∧
    (h.cont ≤ 15 → names → i.assigned = true → conts → notify → stage → plain → ¬right → fails (isHw i.code) .denied) ∧
    (h.cont ≤ 15 → names → i.assigned = true → conts → notify → stage → plain → right → h.fence ≠ 0 → s2.findFence x.ctx h.fence = none →
      fails (isHw i.code) .badHandle) ∧
    (∀ (t : State) (st : Status), t.failPacket false i h x.head none st [] = t.reply h.q x.head h.tag i.code st 0 [])

/-- A reply on a ring in host memory, untranslated: 32 bytes with the fields of R78 at the slot of the packet's count, PHASE from that count (R79);
besides the record itself nothing changes but the context's host-byte count and the slice's dirty record. While the block makes no writes for the
slice, the reply waits (R286, R316). -/
def Obligations.ReplyRecord : Prop :=
  ∀ (s : State) (q : Nat) (n tag : Word) (op : Nat) (st : Status) (flags : Nat) (res : List Nat) (x : Queue) (l : Slice),
    s.queue? q = some x → x.rring.obj = 0 → s.slice? (s.sliceOf x.ctx) = some l → (s.port l.port).atsOn = false →
    s.ports.any (fun p => p.2.pri.any (fun r => r.who == .record x.ctx)) = false →
    (s.dmaOk (s.sliceOf x.ctx) = false → s.reply q n tag op st flags res =
      s.modQueue q fun y => { y with heldRep := y.heldRep ++ [{ count := n, tag := tag, op := op, st := st, flags := flags, res := res }] }) ∧
    let a := x.rring.addr + 32 * (n.toNat % 2 ^ x.ring.log2)
    let d := leBytes 4 tag.toNat ++ leBytes 2 st.code ++ leBytes 1 op ++ leBytes 1 (flags + 128 * b1 (n.toNat.testBit x.ring.log2)) ++
      ((res.map (BitVec.ofNat 8)) ++ List.replicate 24 0).take 24
    d.length = 32 ∧
    (s.dmaOk (s.sliceOf x.ctx) = true → s.reply q n tag op st flags res =
      (((s.emit (.host l.port l.pasid a d (s.tee (s.sliceOf x.ctx)))).dirtyHost (s.sliceOf x.ctx) a 32).account x.ctx
        (fun y => { y with host := y.host + 32 })).emit (.reply q n tag op st flags res))

/-- An event for a context whose ring lies in host memory and has room, with none held: the record at the slot of PROD mod 2^m with PHASE bit m of PROD, then
PROD advanced; an armed interrupt raises the vector and is disarmed (R64, R66). -/
def Obligations.EventRecord : Prop :=
  ∀ (s : State) (c : Nat) (r : EvRec) (x : Ctx) (l : Slice),
    s.ctx? c = some x → x.state ≠ .destroying → x.held = [] → (x.prod - x.cons).toNat ≠ 2 ^ x.ring.log2 → x.ring.obj = 0 →
    s.slice? x.slice = some l → (s.port l.port).atsOn = false → s.dmaOk x.slice = true →
    s.ports.any (fun p => p.2.pri.any (fun r => r.who == .record c)) = false → s.ringBad.any (fun e => e.1 == c) = false →
    let slot := x.prod.toNat % 2 ^ x.ring.log2
    let phase := x.prod.toNat.testBit x.ring.log2
    let t := s.postEvent c r
    (t.ctx? c).map (fun y => (y.prod, y.armed, y.held, y.state)) = some (x.prod + 1, false, [], x.state) ∧
    (x.armed = false → t.out = .event c slot phase r :: .host l.port l.pasid (x.ring.addr + 32 * slot) (evBytes r phase) (s.tee x.slice) :: s.out) ∧
    (x.armed = true → (s.port l.port).unmask.contains (l.vecBase + x.vector) = true → (s.port l.port).fmask = false →
      (.msix l.port (l.vecBase + x.vector) (s.lockedVec l.port (l.vecBase + x.vector)).isSome :: .event c slot phase r ::
        .host l.port l.pasid (x.ring.addr + 32 * slot) (evBytes r phase) (s.tee x.slice) :: s.out) <:+ t.out) ∧
    (x.armed = true → (s.port l.port).unmask.contains (l.vecBase + x.vector) = false ∨ (s.port l.port).fmask = true →
      (t.port l.port).msixPnd.contains (l.vecBase + x.vector) = true)

/-- A signal of value v against current value c, by the four cases of R57: it releases the waiters that v reaches, but for those of a slice that is
QUIESCING or QUIESCED, whose queues stand still (R285, R286); no case changes the state of any context. -/
def Obligations.FenceSignal : Prop :=
  ∀ (s : State) (f : Nat) (v : DWord) (x : Fence), s.fence? f = some x →
    let t := (s.signal f v).1
    let bound := min (x.value.toNat + 2 ^ 48) (2 ^ 64 - 1)
    let alone := s.objs.queues.all (fun e => e.2.wait.all (fun w => w.fence != f)) = true ∧ s.objs.notes.all (fun n => n.fence != f) = true
    (x.faulted = true → s.signal f v = (s, .faulted)) ∧
    (x.faulted = false → v ≤ x.value → s.signal f v = (s.modFence f fun y => { y with stale := y.stale + 1 }, .stale)) ∧
    (x.faulted = false → x.value < v → v.toNat ≤ bound →
      (s.signal f v).2 = .ok ∧ (∀ y, t.fence? f = some y → y.value = v ∧ y.faulted = false) ∧
      (alone → t = s.modFence f fun y => { y with value := v }) ∧
      ((t.fence? f).isSome = true → ∀ q z w, t.queue? q = some z → z.wait = some w → s.frozenSlice (s.sliceOf z.ctx) = false → w.fence = f → v < w.target) ∧
      ∀ n ∈ t.objs.notes, n.fence = f → v < n.target) ∧
    (x.faulted = false → bound < v.toNat →
      (s.signal f v).2 = .badParam ∧ (∀ y, t.fence? f = some y → y.value = x.value ∧ y.faulted = true ∧ y.status = .badParam) ∧
      (alone → t = s.modFence f fun y => { y with faulted := true, status := .badParam, disp := 0 }) ∧
      ((t.fence? f).isSome = true → ∀ q z w, t.queue? q = some z → z.wait = some w → s.frozenSlice (s.sliceOf z.ctx) = false → w.fence ≠ f) ∧
      ∀ n ∈ t.objs.notes, n.fence ≠ f) ∧
    ∀ c, (t.ctx? c).map (·.state) = (s.ctx? c).map (·.state)

/-- One sector access of a context through a leaf of its tables: to a frame that another owner holds it moves no byte and fails (R212); a FRESH frame reads as
zeros and touches no stack (R210); a write that succeeds is read back by the context, and every byte outside those written stays as it was. -/
def Obligations.SectorAccess : Prop :=
  (∀ (s : State) (c : Nat) (who : By) (pref : Option Nat) (lpf cva n : Nat) (w : Bool) (d : List Byte) (f : Frame) (x : Ctx), s.ctx? c = some x →
    s.frame? lpf = some f → f.owner ≠ some c →
    s.readPiece c who (.pool lpf w) cva n = (s, .error (accDike cva)) ∧ s.writePiece c who pref (.pool lpf w) cva d = (s, .error (accDike cva))) ∧
  (∀ (s : State) (c : Nat) (who : By) (lpf cva n : Nat) (w : Bool) (f : Frame) (x : Ctx), s.ctx? c = some x →
    s.frame? lpf = some f → f.owner = some c → f.st = .fresh → s.readPiece c who (.pool lpf w) cva n = (s, .ok (List.replicate n 0))) ∧
  (∀ (s t : State) (c : Nat) (who who' : By) (pref : Option Nat) (lpf cva : Nat) (w w' : Bool) (d : List Byte),
    s.pool.bad.contains (lpf * 256 + bits cva 8 8) = false → cva % 256 + d.length ≤ 256 →
    s.writePiece c who pref (.pool lpf w) cva d = (t, .ok ()) →
    (t.readPiece c who' (.pool lpf w') cva d.length).2 = .ok d ∧
    ∀ a, a < 65536 * lpf + cva % 65536 ∨ 65536 * lpf + cva % 65536 + d.length ≤ a → memGet t.pool.mem a = memGet s.pool.mem a)

/-- Contexts are kept apart: whatever a context writes, no byte of a frame that it does not own changes, no frame changes its owner, and reading
changes no byte at all (R21, R212). -/
def Obligations.PoolIsolation : Prop :=
  (∀ (s t : State) (c : Nat) (who : By) (pref : Option Nat) (cva : Nat) (d : List Byte) (r : Except AccErr Unit),
    s.writeCtx c who pref cva d = (t, r) →
    (∀ a, (∀ f, s.frame? (a / 65536) = some f → f.owner ≠ some c) → memGet t.pool.mem a = memGet s.pool.mem a) ∧
    ∀ k, (t.frame? k).map (·.owner) = (s.frame? k).map (·.owner)) ∧
  (∀ (s t : State) (c : Nat) (who : By) (cva n : Nat) (r : Except AccErr (List Byte)), s.readCtx c who cva n = (t, r) → t.pool.mem = s.pool.mem)

/-- A context's write reaches only the bytes its tables, or the translations an NI holds of them, map it to: a pool byte that changes is the image, through a
writable leaf, of an address written (R214 to R217). -/
def Obligations.WriteReach : Prop :=
  ∀ (s t : State) (c : Nat) (who : By) (pref : Option Nat) (cva : Nat) (d : List Byte) (r : Except AccErr Unit) (a : Nat),
    s.writeCtx c who pref cva d = (t, r) → memGet t.pool.mem a ≠ memGet s.pool.mem a →
    ∃ x lpf e, cva ≤ x ∧ x < cva + d.length ∧ a = 65536 * lpf + x % 65536 ∧ leafOf e = some (.pool lpf true) ∧
      (s.walk c (x / 65536) = .ok e ∨ ∃ y ∈ s.cached who.ni c (x / 65536), y.leaf.toNat = e)

/-- What the event concentrator's commands leave alone: all but its own sources, cores and wires and the answer of a claim; a claim and its end change the
claimed source's bits and the core's stack only. -/
def Obligations.EventFrame : Prop :=
  ∀ (n i : Nat) (b : Bool) (s t : State),
    (exec (.evcClaimRead n) s = .next t → t = { s with evc := t.evc, out := t.out } ∧ t.evc.wires = s.evc.wires ∧
      (∀ m, m ≠ n → t.core m = s.core m) ∧ ∀ j, s.claimable n ≠ some j → t.src j = s.src j) ∧
    (exec (.evcEoiWrite n i) s = .next t → t = { s with evc := t.evc } ∧ t.evc.wires = s.evc.wires ∧
      (∀ m, m ≠ n → t.core m = s.core m) ∧ ∀ j, j ≠ i % 2048 → t.src j = s.src j) ∧
    (exec (.wiredInputChange n b i) s = .next t → t = { s with evc := t.evc } ∧ t.evc.cores = s.evc.cores ∧
      (∀ m, m ≠ n → t.wire m = s.wire m) ∧ ∀ j, j ≠ n + 1 → t.src j = s.src j)

/-- What the security and management commands leave alone: all but the security engine, the management controller, the event sources, the free values
drawn and the answers; no byte of the pool, no object, no register of another unit. Within the security engine a request opens a session, updates or
keeps alive the one that it names, and counts what it draws. -/
def Obligations.SecurityFrame : Prop :=
  ∀ (c : Instr) (s t : State), exec c s = .next t →
    ((∃ k, c = .debugTokenLoad k) ∨ c = .dbgCtrlClose ∨ c = .debugLifetimeExpiry → t = { s with sen := t.sen, free := t.free } ∧
      t.sen = { s.sen with dbg := t.sen.dbg, drbg := t.sen.drbg }) ∧
    (c = .entropyHealthFail ∨ c = .entropyRecover → t = { s with sen := t.sen, evc := t.evc } ∧ t.sen = { s.sen with entropy := t.sen.entropy }) ∧
    (∀ w k r, c = .getMeasurements w k r → t = { s with sen := t.sen, free := t.free, out := t.out } ∧
      t.sen = { s.sen with sessions := t.sen.sessions, drbg := t.sen.drbg } ∧ t.sen.sessions.map (·.id) = s.sen.sessions.map (·.id) ∧
      (r ≠ .keyUpdate → r ≠ .heartbeat → t.sen.sessions = s.sen.sessions) ∧ (k = none → t.sen.sessions = s.sen.sessions) ∧
      (needsDraw r = false → t.free = s.free ∧ t.sen.drbg = s.sen.drbg)) ∧
    ((∃ w l p b f r o, c = .keyExchange w l p b f r o) → t = { s with sen := t.sen, free := t.free, out := t.out } ∧
      t.sen = { s.sen with sessions := t.sen.sessions, nextSess := t.sen.nextSess, drbg := t.sen.drbg } ∧ s.sen.sessions <+: t.sen.sessions) ∧
    (∀ u r, c = .mctpControl u r → t = { s with mmc := t.mmc, free := t.free, out := t.out } ∧
      t.mmc = { s.mmc with eid := t.mmc.eid, addr := t.mmc.addr } ∧ (s.mmc.addr.isSome = true → t.mmc.addr = s.mmc.addr)) ∧
    (∀ k r, c = .pldmFirmwareUpdate k r → t = { s with mmc := t.mmc, out := t.out } ∧ t.mmc = { s.mmc with staged := t.mmc.staged } ∧
      ((∀ x, r ≠ .update x) → t.mmc = s.mmc)) ∧
    ((∃ k d, c = .claimSlot k d) ∨ (∃ k l d g o, c = .burnSlot k l d g o) ∨ (∃ k l g o, c = .revokeSlot k l g o) ∨
        (∃ k n g o, c = .burnSvn k n g o) →
      t = { s with sen := t.sen, out := t.out } ∧
      t.sen = { s.sen with svn := t.sen.svn, burnt := t.sen.burnt, revoked := t.sen.revoked, digests := t.sen.digests })

/-- What the supply, power and temperature commands leave alone: no byte of the pool, no frame, no slice, no port, no link, no key. -/
def Obligations.PowerFrame : Prop :=
  ∀ (c : Instr) (s t : State), exec c s = .next t →
    ((∃ l, c = .thermalCeilingStep l) → t = { s with pwr := t.pwr, evc := t.evc, free := t.free, out := t.out }) ∧
    ((∃ l, c = .rateUpdate l) → t = { s with pwr := t.pwr, evc := t.evc, alm := t.alm, free := t.free } ∧ t.alm.gen = s.alm.gen) ∧
    ((∃ v a o, c = .powerMeasurement v a o) → t = { s with pwr := t.pwr, objs := t.objs, free := t.free, out := t.out } ∧
      t.objs = { s.objs with ctxs := t.objs.ctxs }) ∧
    (c = .supplyWarn ∨ c = .supplyClear → t = { s with pwr := t.pwr, evc := t.evc, sched := t.sched }) ∧
    ((∃ n, c = .clusterNapEntry n) → t = { s with pwr := t.pwr }) ∧
    ((∃ n, c = .clusterDeepEntry n) → t = { s with pwr := t.pwr, brg := t.brg } ∧ t.brg = { s.brg with loaded := t.brg.loaded }) ∧
    (∀ n, c = .clusterWake n → t = { s with pwr := t.pwr, mbx := t.mbx, evc := t.evc, brg := t.brg, ports := t.ports, out := t.out } ∧
      t.brg = { s.brg with loaded := t.brg.loaded } ∧ (s.wakeDue n = false → t = s)) ∧
    (c = .controlClusterDown → t = { s with pwr := t.pwr, evc := t.evc })

/-- A slot's generation is 1 when it is first issued, rises when its object ends, and at 255 the slot is parked, no longer to be issued, until its owner's end
returns it with generation 1 (R38). -/
def Obligations.SlotGenerations : Prop :=
  (∀ (k : Nat), SlotMgr.empty.gen k = 1) ∧
  (∀ (m : SlotMgr) (k o j : Nat), m.gen k ≠ 255 →
    (m.retire k o).gen k = m.gen k + 1 ∧ (j ≠ k → (m.retire k o).gen j = m.gen j) ∧ (m.retire k o).parked = m.parked) ∧
  (∀ (m : SlotMgr) (t : Tab Ctx) (k o : Nat), m.gen k = 255 → (m.retire k o).freeAt t k = false ∧ (m.retire k o).gens = m.gens) ∧
  (∀ (m : SlotMgr) (k o : Nat), (k, o) ∈ m.parked → (m.release o).gen k = 1) ∧
  (∀ (m : SlotMgr) (t : Tab Ctx) (k o : Nat), thas t k = false → (∀ e ∈ m.parked, e.1 = k → e.2 = o) → (m.release o).freeAt t k = true)
end

