-- ==== Sys2Proof/Laws/Exec.lean ====
section
/-!
SUPPORT. The arm of each command: `exec` of a constructor is its meaning.
-/

namespace Sys2Proof.Machine

open Sys2Proof

@[simp] theorem exec_ctxCreate {s : State} {h ring log2 vec} : exec (.ctxCreate h ring log2 vec) s = execCtxCreate h ring log2 vec s := rfl
@[simp] theorem exec_ctxDestroy {s : State} {h target} : exec (.ctxDestroy h target) s = execCtxDestroy h target s := rfl
@[simp] theorem exec_queueCreate {s : State} {h a} : exec (.queueCreate h a) s = execQueueCreate h a s := rfl
@[simp] theorem exec_ctxSetRing {s : State} {h addr obj log2 vec} : exec (.ctxSetRing h addr obj log2 vec) s = execCtxSetRing h addr obj log2 vec s := rfl
@[simp] theorem exec_queueDestroy {s : State} {h queue} : exec (.queueDestroy h queue) s = execQueueDestroy h queue s := rfl
@[simp] theorem exec_queueStart {s : State} {h queue} : exec (.queueStart h queue) s = execQueueStart h queue s := rfl
@[simp] theorem exec_queueStop {s : State} {h queue} : exec (.queueStop h queue) s = execQueueStop h queue s := rfl
@[simp] theorem exec_moCreate {s : State} {h base len ty mflags} : exec (.moCreate h base len ty mflags) s = execMoCreate h base len ty mflags s := rfl
@[simp] theorem exec_moFree {s : State} {h obj} : exec (.moFree h obj) s = execMoFree h obj s := rfl
@[simp] theorem exec_moSeal {s : State} {h obj} : exec (.moSeal h obj) s = execMoSeal h obj s := rfl
@[simp] theorem exec_fenceCreate {s : State} {h init} : exec (.fenceCreate h init) s = execFenceCreate h init s := rfl
@[simp] theorem exec_fenceFree {s : State} {h f} : exec (.fenceFree h f) s = execFenceFree h f s := rfl
@[simp] theorem exec_programLoad {s : State} {h obj off} : exec (.programLoad h obj off) s = execProgramLoad h obj off s := rfl
@[simp] theorem exec_programFree {s : State} {h prog} : exec (.programFree h prog) s = execProgramFree h prog s := rfl
@[simp] theorem exec_queueSetWeight {s : State} {h queue weight} : exec (.queueSetWeight h queue weight) s = execQueueSetWeight h queue weight s := rfl
@[simp] theorem exec_moFill {s : State} {h obj val off len} : exec (.moFill h obj val off len) s = execMoFill h obj val off len s := rfl
@[simp] theorem exec_moCopy {s : State} {h src dst srcOff dstOff len} : exec (.moCopy h src dst srcOff dstOff len) s = execMoCopy h src dst srcOff dstOff len s := rfl
@[simp] theorem exec_moPlaceHint {s : State} {h obj policy} : exec (.moPlaceHint h obj policy) s = execMoPlaceHint h obj policy s := rfl
@[simp] theorem exec_dispatch {s : State} {h a} : exec (.dispatch h a) s = execDispatch h a s := rfl
@[simp] theorem exec_dispatchRemote {s : State} {h a} : exec (.dispatchRemote h a) s = execDispatchRemote h a s := rfl
@[simp] theorem exec_kvAppend {s : State} {h a} : exec (.kvAppend h a) s = execKvAppend h a s := rfl
@[simp] theorem exec_kvAttend {s : State} {h a} : exec (.kvAttend h a) s = execKvAttend h a s := rfl
@[simp] theorem exec_kvFork {s : State} {h obj parent child pfx cookie} : exec (.kvFork h obj parent child pfx cookie) s = execKvFork h obj parent child pfx cookie s := rfl
@[simp] theorem exec_kvEvictRelease {s : State} {h obj seq cookie} : exec (.kvEvictRelease h obj seq cookie) s = execKvEvictRelease h obj seq cookie s := rfl
@[simp] theorem exec_kvEvictTruncate {s : State} {h obj seq newLen cookie} : exec (.kvEvictTruncate h obj seq newLen cookie) s = execKvEvictTruncate h obj seq newLen cookie s := rfl
@[simp] theorem exec_kvEvictFormat {s : State} {h obj seq cookie} : exec (.kvEvictFormat h obj seq cookie) s = execKvEvictFormat h obj seq cookie s := rfl
@[simp] theorem exec_fenceSignal {s : State} {h} : exec (.fenceSignal h) s = execFenceSignal h s := rfl
@[simp] theorem exec_fenceWait {s : State} {h f target} : exec (.fenceWait h f target) s = execFenceWait h f target s := rfl
@[simp] theorem exec_fenceNotify {s : State} {h f target cookie} : exec (.fenceNotify h f target cookie) s = execFenceNotify h f target cookie s := rfl
@[simp] theorem exec_fenceReset {s : State} {h f val} : exec (.fenceReset h f val) s = execFenceReset h f val s := rfl
@[simp] theorem exec_ctxSetSlowdown {s : State} {h thr} : exec (.ctxSetSlowdown h thr) s = execCtxSetSlowdown h thr s := rfl
@[simp] theorem exec_txnBegin {s : State} {h} : exec (.txnBegin h) s = execTxnBegin h s := rfl
@[simp] theorem exec_txnCommit {s : State} {h t} : exec (.txnCommit h t) s = execTxnCommit h t s := rfl
@[simp] theorem exec_txnAbort {s : State} {h t} : exec (.txnAbort h t) s = execTxnAbort h t s := rfl
@[simp] theorem exec_queryAlmanac {s : State} {h obj off} : exec (.queryAlmanac h obj off) s = execQueryAlmanac h obj off s := rfl
@[simp] theorem exec_queryFence {s : State} {h f} : exec (.queryFence h f) s = execQueryFence h f s := rfl
@[simp] theorem exec_queryContext {s : State} {h target obj off} : exec (.queryContext h target obj off) s = execQueryContext h target obj off s := rfl
@[simp] theorem exec_queryMo {s : State} {h obj} : exec (.queryMo h obj) s = execQueryMo h obj s := rfl
@[simp] theorem exec_queryQueue {s : State} {h queue} : exec (.queryQueue h queue) s = execQueryQueue h queue s := rfl
@[simp] theorem exec_queryDigest {s : State} {h src dst off} : exec (.queryDigest h src dst off) s = execQueryDigest h src dst off s := rfl
@[simp] theorem exec_sliceCreate {s : State} {h a} : exec (.sliceCreate h a) s = execSliceCreate h a s := rfl
@[simp] theorem exec_sliceDestroy {s : State} {h slice} : exec (.sliceDestroy h slice) s = execSliceDestroy h slice s := rfl
@[simp] theorem exec_sliceSetQuota {s : State} {h slice field val} : exec (.sliceSetQuota h slice field val) s = execSliceSetQuota h slice field val s := rfl
@[simp] theorem exec_sliceSetShare {s : State} {h slice polder weight} : exec (.sliceSetShare h slice polder weight) s = execSliceSetShare h slice polder weight s := rfl
@[simp] theorem exec_polderShape {s : State} {h polder units dayUs} : exec (.polderShape h polder units dayUs) s = execPolderShape h polder units dayUs s := rfl
@[simp] theorem exec_polderCalendar {s : State} {h polder feast excl} : exec (.polderCalendar h polder feast excl) s = execPolderCalendar h polder feast excl s := rfl
@[simp] theorem exec_polderAdmit {s : State} {h target polder kind days prog} : exec (.polderAdmit h target polder kind days prog) s = execPolderAdmit h target polder kind days prog s := rfl
@[simp] theorem exec_linkShape {s : State} {h a} : exec (.linkShape h a) s = execLinkShape h a s := rfl
@[simp] theorem exec_pdFramesBacked {s : State} {h req status} : exec (.pdFramesBacked h req status) s = execPdFramesBacked h req status s := rfl
@[simp] theorem exec_sliceDirtyLog {s : State} {h slice on hostMap poolMap ranges} : exec (.sliceDirtyLog h slice on hostMap poolMap ranges) s = execSliceDirtyLog h slice on hostMap poolMap ranges s := rfl
@[simp] theorem exec_sliceQuiesce {s : State} {h slice} : exec (.sliceQuiesce h slice) s = execSliceQuiesce h slice s := rfl
@[simp] theorem exec_sliceResume {s : State} {h slice} : exec (.sliceResume h slice) s = execSliceResume h slice s := rfl
@[simp] theorem exec_sluiceSet {s : State} {h stack cap} : exec (.sluiceSet h stack cap) s = execSluiceSet h stack cap s := rfl
@[simp] theorem exec_embankmentSet {s : State} {h pct} : exec (.embankmentSet h pct) s = execEmbankmentSet h pct s := rfl
@[simp] theorem exec_placementMode {s : State} {h mode} : exec (.placementMode h mode) s = execPlacementMode h mode s := rfl
@[simp] theorem exec_keyRotate {s : State} {h target} : exec (.keyRotate h target) s = execKeyRotate h target s := rfl
@[simp] theorem exec_keyPolicy {s : State} {h target ival cap} : exec (.keyPolicy h target ival cap) s = execKeyPolicy h target ival cap s := rfl
@[simp] theorem exec_attestReport {s : State} {h obj nonce} : exec (.attestReport h obj nonce) s = execAttestReport h obj nonce s := rfl
@[simp] theorem exec_resetRequestEngine {s : State} {h n} : exec (.resetRequestEngine h n) s = execResetRequestEngine h n s := rfl
@[simp] theorem exec_resetRequestCluster {s : State} {h n} : exec (.resetRequestCluster h n) s = execResetRequestCluster h n s := rfl
@[simp] theorem exec_resetRequestPolder {s : State} {h n} : exec (.resetRequestPolder h n) s = execResetRequestPolder h n s := rfl
@[simp] theorem exec_innerReset {s : State} {h n kat} : exec (.innerReset h n kat) s = execInnerReset h n kat s := rfl
@[simp] theorem exec_katRun {s : State} {h cluster r} : exec (.katRun h cluster r) s = execKatRun h cluster r s := rfl
@[simp] theorem exec_stackRetire {s : State} {h stack} : exec (.stackRetire h stack) s = execStackRetire h stack s := rfl
@[simp] theorem exec_unassignedOpcode {s : State} {h a} : exec (.unassignedOpcode h a) s = execUnassignedOpcode h a s := rfl
@[simp] theorem exec_qeDbTailWrite {s : State} {p queue val} : exec (.qeDbTailWrite p queue val) s = execQeDbTailWrite p queue val s := rfl
@[simp] theorem exec_qeDbEvtConsWrite {s : State} {p ctx val} : exec (.qeDbEvtConsWrite p ctx val) s = execQeDbEvtConsWrite p ctx val s := rfl
@[simp] theorem exec_back {s : State} {p} : exec (.back p) s = execBack p s := rfl
@[simp] theorem exec_table {s : State} {p} : exec (.table p) s = execTable p s := rfl
@[simp] theorem exec_untable {s : State} {p} : exec (.untable p) s = execUntable p s := rfl
@[simp] theorem exec_query {s : State} {p} : exec (.query p) s = execQuery p s := rfl
@[simp] theorem exec_pleInvGo {s : State} {p} : exec (.pleInvGo p) s = execPleInvGo p s := rfl
@[simp] theorem exec_invalidationDone {s : State} : exec (.invalidationDone) s = execInvalidationDone s := rfl
@[simp] theorem exec_pleReqDoneWrite {s : State} {p width val} : exec (.pleReqDoneWrite p width val) s = execPleReqDoneWrite p width val s := rfl
@[simp] theorem exec_hubS0Go {s : State} {p lost} : exec (.hubS0Go p lost) s = execHubS0Go p lost s := rfl
@[simp] theorem exec_sliceRebind {s : State} {p slice reg val} : exec (.sliceRebind p slice reg val) s = execSliceRebind p slice reg val s := rfl
@[simp] theorem exec_hubHpwinWrite {s : State} {p port k word val} : exec (.hubHpwinWrite p port k word val) s = execHubHpwinWrite p port k word val s := rfl
@[simp] theorem exec_msixVectorUnmask {s : State} {port vec} : exec (.msixVectorUnmask port vec) s = execMsixVectorUnmask port vec s := rfl
@[simp] theorem exec_evcClaimRead {s : State} {core} : exec (.evcClaimRead core) s = execEvcClaimRead core s := rfl
@[simp] theorem exec_evcEoiWrite {s : State} {core id} : exec (.evcEoiWrite core id) s = execEvcEoiWrite core id s := rfl
@[simp] theorem exec_evcPendSetWrite {s : State} {p w bits} : exec (.evcPendSetWrite p w bits) s = execEvcPendSetWrite p w bits s := rfl
@[simp] theorem exec_evcPendClrWrite {s : State} {p w bits} : exec (.evcPendClrWrite p w bits) s = execEvcPendClrWrite p w bits s := rfl
@[simp] theorem exec_evcMaskSetWrite {s : State} {p w bits} : exec (.evcMaskSetWrite p w bits) s = execEvcMaskSetWrite p w bits s := rfl
@[simp] theorem exec_evcMaskClrWrite {s : State} {p w bits} : exec (.evcMaskClrWrite p w bits) s = execEvcMaskClrWrite p w bits s := rfl
@[simp] theorem exec_mbxSend {s : State} {who m width msg} : exec (.mbxSend who m width msg) s = execMbxSend who m width msg s := rfl
@[simp] theorem exec_mbxRecv {s : State} {who m width} : exec (.mbxRecv who m width) s = execMbxRecv who m width s := rfl
@[simp] theorem exec_pdAttach {s : State} : exec (.pdAttach) s = execPdAttach s := rfl
@[simp] theorem exec_pdDetach {s : State} : exec (.pdDetach) s = execPdDetach s := rfl
@[simp] theorem exec_lnkCtrlRetrain {s : State} {p l} : exec (.lnkCtrlRetrain p l) s = execLnkCtrlRetrain p l s := rfl
@[simp] theorem exec_lnkCtrlWidthGo {s : State} {p l} : exec (.lnkCtrlWidthGo p l) s = execLnkCtrlWidthGo p l s := rfl
@[simp] theorem exec_lnkCtrlRekey {s : State} {p l} : exec (.lnkCtrlRekey p l) s = execLnkCtrlRekey p l s := rfl
@[simp] theorem exec_lnkCtrlDown {s : State} {p l} : exec (.lnkCtrlDown p l) s = execLnkCtrlDown p l s := rfl
@[simp] theorem exec_lnkCfgEnableWrite {s : State} {p l on} : exec (.lnkCfgEnableWrite p l on) s = execLnkCfgEnableWrite p l on s := rfl
@[simp] theorem exec_lnkTopoLock {s : State} {p} : exec (.lnkTopoLock p) s = execLnkTopoLock p s := rfl
@[simp] theorem exec_pwrCcsleepReq {s : State} {p} : exec (.pwrCcsleepReq p) s = execPwrCcsleepReq p s := rfl
@[simp] theorem exec_registerReadClear {s : State} {p bar off} : exec (.registerReadClear p bar off) s = execRegisterReadClear p bar off s := rfl
@[simp] theorem exec_registerWrite {s : State} {p bar off width val} : exec (.registerWrite p bar off width val) s = execRegisterWrite p bar off width val s := rfl
@[simp] theorem exec_debugTokenLoad {s : State} {t} : exec (.debugTokenLoad t) s = execDebugTokenLoad t s := rfl
@[simp] theorem exec_dbgCtrlClose {s : State} : exec (.dbgCtrlClose) s = execDbgCtrlClose s := rfl
@[simp] theorem exec_debugLifetimeExpiry {s : State} : exec (.debugLifetimeExpiry) s = execDebugLifetimeExpiry s := rfl
@[simp] theorem exec_bundleIssue {s : State} {disp k} : exec (.bundleIssue disp k) s = execBundleIssue disp k s := rfl
@[simp] theorem exec_barrierRelease {s : State} {disp id} : exec (.barrierRelease disp id) s = execBarrierRelease disp id s := rfl
@[simp] theorem exec_moverOpComplete {s : State} {disp k tag} : exec (.moverOpComplete disp k tag) s = execMoverOpComplete disp k tag s := rfl
@[simp] theorem exec_dispatchStart {s : State} {polder} : exec (.dispatchStart polder) s = execDispatchStart polder s := rfl
@[simp] theorem exec_dispatchComplete {s : State} {disp} : exec (.dispatchComplete disp) s = execDispatchComplete disp s := rfl
@[simp] theorem exec_kvOpComplete {s : State} {disp} : exec (.kvOpComplete disp) s = execKvOpComplete disp s := rfl
@[simp] theorem exec_contextFaulted {s : State} {ctx} : exec (.contextFaulted ctx) s = execContextFaulted ctx s := rfl
@[simp] theorem exec_preemptFullStop {s : State} {disp k} : exec (.preemptFullStop disp k) s = execPreemptFullStop disp k s := rfl
@[simp] theorem exec_preemptSaveStart {s : State} {disp} : exec (.preemptSaveStart disp) s = execPreemptSaveStart disp s := rfl
@[simp] theorem exec_preemptSaveDone {s : State} {disp} : exec (.preemptSaveDone disp) s = execPreemptSaveDone disp s := rfl
@[simp] theorem exec_dayBoundary {s : State} {polder} : exec (.dayBoundary polder) s = execDayBoundary polder s := rfl
@[simp] theorem exec_eveStart {s : State} {polder ctx} : exec (.eveStart polder ctx) s = execEveStart polder ctx s := rfl
@[simp] theorem exec_shareDeficitCharge {s : State} {polder} : exec (.shareDeficitCharge polder) s = execShareDeficitCharge polder s := rfl
@[simp] theorem exec_slowdownEpoch {s : State} {interference} : exec (.slowdownEpoch interference) s = execSlowdownEpoch interference s := rfl
@[simp] theorem exec_pleEpoch {s : State} : exec (.pleEpoch) s = execPleEpoch s := rfl
@[simp] theorem exec_moveStart {s : State} {stack} : exec (.moveStart stack) s = execMoveStart stack s := rfl
@[simp] theorem exec_moveCopyDone {s : State} {lpf} : exec (.moveCopyDone lpf) s = execMoveCopyDone lpf s := rfl
@[simp] theorem exec_rateUpdate {s : State} {mhz} : exec (.rateUpdate mhz) s = execRateUpdate mhz s := rfl
@[simp] theorem exec_txnTimeout {s : State} {txn} : exec (.txnTimeout txn) s = execTxnTimeout txn s := rfl
@[simp] theorem exec_backRequestTimeout {s : State} {req} : exec (.backRequestTimeout req) s = execBackRequestTimeout req s := rfl
@[simp] theorem exec_sweepComplete {s : State} {ctx} : exec (.sweepComplete ctx) s = execSweepComplete ctx s := rfl
@[simp] theorem exec_autoKeyRotate {s : State} {ctx} : exec (.autoKeyRotate ctx) s = execAutoKeyRotate ctx s := rfl
@[simp] theorem exec_stackPhyTrainingLoss {s : State} {stack retrained} : exec (.stackPhyTrainingLoss stack retrained) s = execStackPhyTrainingLoss stack retrained s := rfl
@[simp] theorem exec_uncorrectableRead {s : State} {stack lpf sector} : exec (.uncorrectableRead stack lpf sector) s = execUncorrectableRead stack lpf sector s := rfl
@[simp] theorem exec_sramUncorrectableError {s : State} {w addr b} : exec (.sramUncorrectableError w addr b) s = execSramUncorrectableError w addr b s := rfl
@[simp] theorem exec_entropyHealthFail {s : State} : exec (.entropyHealthFail) s = execEntropyHealthFail s := rfl
@[simp] theorem exec_entropyRecover {s : State} : exec (.entropyRecover) s = execEntropyRecover s := rfl
@[simp] theorem exec_linkTrainingStart {s : State} {l far} : exec (.linkTrainingStart l far) s = execLinkTrainingStart l far s := rfl
@[simp] theorem exec_dataFlitReceived {s : State} {l f} : exec (.dataFlitReceived l f) s = execDataFlitReceived l f s := rfl
@[simp] theorem exec_controlFlitReceived {s : State} {l f} : exec (.controlFlitReceived l f) s = execControlFlitReceived l f s := rfl
@[simp] theorem exec_idleFlitReceived {s : State} {l} : exec (.idleFlitReceived l) s = execIdleFlitReceived l s := rfl
@[simp] theorem exec_controlFlitSend {s : State} {l} : exec (.controlFlitSend l) s = execControlFlitSend l s := rfl
@[simp] theorem exec_replayTimeout {s : State} {l} : exec (.replayTimeout l) s = execReplayTimeout l s := rfl
@[simp] theorem exec_rekey {s : State} {l tx} : exec (.rekey l tx) s = execRekey l tx s := rfl
@[simp] theorem exec_retrain {s : State} {l far} : exec (.retrain l far) s = execRetrain l far s := rfl
@[simp] theorem exec_widthChange {s : State} {l lanes} : exec (.widthChange l lanes) s = execWidthChange l lanes s := rfl
@[simp] theorem exec_linkDown {s : State} {l r} : exec (.linkDown l r) s = execLinkDown l r s := rfl
@[simp] theorem exec_memRd {s : State} {l m} : exec (.memRd l m) s = execMemRd l m s := rfl
@[simp] theorem exec_memWr {s : State} {l m} : exec (.memWr l m) s = execMemWr l m s := rfl
@[simp] theorem exec_cpl {s : State} {l m} : exec (.cpl l m) s = execCpl l m s := rfl
@[simp] theorem exec_resultStoreTimeout {s : State} {disp} : exec (.resultStoreTimeout disp) s = execResultStoreTimeout disp s := rfl
@[simp] theorem exec_pathLost {s : State} {l m} : exec (.pathLost l m) s = execPathLost l m s := rfl
@[simp] theorem exec_doorbell {s : State} {l m} : exec (.doorbell l m) s = execDoorbell l m s := rfl
@[simp] theorem exec_rdispSend {s : State} {l} : exec (.rdispSend l) s = execRdispSend l s := rfl
@[simp] theorem exec_rdispDone {s : State} {l m} : exec (.rdispDone l m) s = execRdispDone l m s := rfl
@[simp] theorem exec_rdispTimeout {s : State} {l slot} : exec (.rdispTimeout l slot) s = execRdispTimeout l slot s := rfl
@[simp] theorem exec_secured {s : State} {l m} : exec (.secured l m) s = execSecured l m s := rfl
@[simp] theorem exec_reservedMtype {s : State} {l m} : exec (.reservedMtype l m) s = execReservedMtype l m s := rfl
@[simp] theorem exec_messageForward {s : State} {l m} : exec (.messageForward l m) s = execMessageForward l m s := rfl
@[simp] theorem exec_cxlMemRead {s : State} {port hpa len} : exec (.cxlMemRead port hpa len) s = execCxlMemRead port hpa len s := rfl
@[simp] theorem exec_cxlMemWrite {s : State} {port hpa data} : exec (.cxlMemWrite port hpa data) s = execCxlMemWrite port hpa data s := rfl
@[simp] theorem exec_hostPortLoss {s : State} {port why} : exec (.hostPortLoss port why) s = execHostPortLoss port why s := rfl
@[simp] theorem exec_atsInvalidation {s : State} {port pasid base len} : exec (.atsInvalidation port pasid base len) s = execAtsInvalidation port pasid base len s := rfl
@[simp] theorem exec_priResponse {s : State} {port id code} : exec (.priResponse port id code) s = execPriResponse port id code s := rfl
@[simp] theorem exec_priTimeout {s : State} {port id} : exec (.priTimeout port id) s = execPriTimeout port id s := rfl
@[simp] theorem exec_startInterface {s : State} {port sess id} : exec (.startInterface port sess id) s = execStartInterface port sess id s := rfl
@[simp] theorem exec_lockInterface {s : State} {port sess id} : exec (.lockInterface port sess id) s = execLockInterface port sess id s := rfl
@[simp] theorem exec_stopInterface {s : State} {port sess id} : exec (.stopInterface port sess id) s = execStopInterface port sess id s := rfl
@[simp] theorem exec_bindClaim {s : State} {port sess vendor cmd id value} : exec (.bindClaim port sess vendor cmd id value) s = execBindClaim port sess vendor cmd id value s := rfl
@[simp] theorem exec_ideKmKeyProg {s : State} {port sess stream keySet tx go} : exec (.ideKmKeyProg port sess stream keySet tx go) s = execIdeKmKeyProg port sess stream keySet tx go s := rfl
@[simp] theorem exec_ideIntegrityFailure {s : State} {port slice} : exec (.ideIntegrityFailure port slice) s = execIdeIntegrityFailure port slice s := rfl
@[simp] theorem exec_getMeasurements {s : State} {w sess r} : exec (.getMeasurements w sess r) s = execGetMeasurements w sess r s := rfl
@[simp] theorem exec_keyExchange {s : State} {w slice share selfRooted leaf rootDigest chainOk} : exec (.keyExchange w slice share selfRooted leaf rootDigest chainOk) s = execKeyExchange w slice share selfRooted leaf rootDigest chainOk s := rfl
@[simp] theorem exec_mctpControl {s : State} {unit r} : exec (.mctpControl unit r) s = execMctpControl unit r s := rfl
@[simp] theorem exec_pldmFirmwareUpdate {s : State} {sess r} : exec (.pldmFirmwareUpdate sess r) s = execPldmFirmwareUpdate sess r s := rfl
@[simp] theorem exec_claimSlot {s : State} {sess digest} : exec (.claimSlot sess digest) s = execClaimSlot sess digest s := rfl
@[simp] theorem exec_burnSlot {s : State} {sess slot digest signer sigOk} : exec (.burnSlot sess slot digest signer sigOk) s = execBurnSlot sess slot digest signer sigOk s := rfl
@[simp] theorem exec_revokeSlot {s : State} {sess slot signer sigOk} : exec (.revokeSlot sess slot signer sigOk) s = execRevokeSlot sess slot signer sigOk s := rfl
@[simp] theorem exec_burnSvn {s : State} {sess svn signer sigOk} : exec (.burnSvn sess svn signer sigOk) s = execBurnSvn sess svn signer sigOk s := rfl
@[simp] theorem exec_resetBlock {s : State} {sess b} : exec (.resetBlock sess b) s = execResetBlock sess b s := rfl
@[simp] theorem exec_resetCold {s : State} {sess b} : exec (.resetCold sess b) s = execResetCold sess b s := rfl
@[simp] theorem exec_coldReset {s : State} : exec (.coldReset) s = execColdReset s := rfl
@[simp] theorem exec_coldResetRelease {s : State} {b} : exec (.coldResetRelease b) s = execColdResetRelease b s := rfl
@[simp] theorem exec_blockReset {s : State} {cause b} : exec (.blockReset cause b) s = execBlockReset cause b s := rfl
@[simp] theorem exec_watchdogExpiry {s : State} {core b} : exec (.watchdogExpiry core b) s = execWatchdogExpiry core b s := rfl
@[simp] theorem exec_fatalInternalError {s : State} {b} : exec (.fatalInternalError b) s = execFatalInternalError b s := rfl
@[simp] theorem exec_supplyWarn {s : State} : exec (.supplyWarn) s = execSupplyWarn s := rfl
@[simp] theorem exec_dipEnd {s : State} {minMv ticks} : exec (.dipEnd minMv ticks) s = execDipEnd minMv ticks s := rfl
@[simp] theorem exec_supplyClear {s : State} : exec (.supplyClear) s = execSupplyClear s := rfl
@[simp] theorem exec_supplyReset {s : State} {minMv ticks b} : exec (.supplyReset minMv ticks b) s = execSupplyReset minMv ticks b s := rfl
@[simp] theorem exec_powerMeasurement {s : State} {mv ma avsOk} : exec (.powerMeasurement mv ma avsOk) s = execPowerMeasurement mv ma avsOk s := rfl
@[simp] theorem exec_thermalCeilingStep {s : State} {temps} : exec (.thermalCeilingStep temps) s = execThermalCeilingStep temps s := rfl
@[simp] theorem exec_thermalTrip {s : State} {die b} : exec (.thermalTrip die b) s = execThermalTrip die b s := rfl
@[simp] theorem exec_wiredInputChange {s : State} {ix level samples} : exec (.wiredInputChange ix level samples) s = execWiredInputChange ix level samples s := rfl
@[simp] theorem exec_clusterNapEntry {s : State} {c} : exec (.clusterNapEntry c) s = execClusterNapEntry c s := rfl
@[simp] theorem exec_clusterDeepEntry {s : State} {c} : exec (.clusterDeepEntry c) s = execClusterDeepEntry c s := rfl
@[simp] theorem exec_clusterWake {s : State} {c} : exec (.clusterWake c) s = execClusterWake c s := rfl
@[simp] theorem exec_controlClusterDown {s : State} : exec (.controlClusterDown) s = execControlClusterDown s := rfl
@[simp] theorem exec_controlClusterWake {s : State} : exec (.controlClusterWake) s = execControlClusterWake s := rfl
@[simp] theorem exec_moFillCopyWorkEnd {s : State} {disp} : exec (.moFillCopyWorkEnd disp) s = execMoFillCopyWorkEnd disp s := rfl
@[simp] theorem exec_hostPortLinkUp {s : State} {port rate width cxl} : exec (.hostPortLinkUp port rate width cxl) s = execHostPortLinkUp port rate width cxl s := rfl
@[simp] theorem exec_sessionEnd {s : State} {sess} : exec (.sessionEnd sess) s = execSessionEnd sess s := rfl
@[simp] theorem exec_trainingFlitReceived {s : State} {l} : exec (.trainingFlitReceived l) s = execTrainingFlitReceived l s := rfl

end Sys2Proof.Machine
end

