-- ==== Sys2Proof/Laws/Memory.lean ====
section
/-!
SUPPORT. Lemmas about tables, little-endian bytes and the canonical memory: reading after writing, and that every memory operation keeps the
canonical form.
-/

namespace Sys2Proof.Machine

/-! ## Canonical memory -/

theorem Memory.wf_cons {c : Host.Cell} {m : List Host.Cell} :
    Memory.wf (c :: m) = true ↔ (c.2 ≠ memDefault ∧ (∀ d ∈ m.head?, c.1 < d.1) ∧ Memory.wf m = true) := by
  cases m with
  | nil => simp [Memory.wf]
  | cons d m => simp [Memory.wf, and_assoc]

theorem Memory.wf_lt {c : Host.Cell} {m : List Host.Cell} (h : Memory.wf (c :: m) = true) : ∀ d ∈ m, c.1 < d.1 := by
  induction m generalizing c with
  | nil => simp
  | cons e m ih =>
    intro d hd
    obtain ⟨_, h2, h3⟩ := Memory.wf_cons.1 h
    have h4 := h2 e (by simp)
    rcases List.mem_cons.1 hd with rfl | hd
    · exact h4
    · exact h4.trans (ih h3 d hd)

theorem Memory.wf_iff {m : List Host.Cell} :
    Memory.wf m = true ↔ m.Pairwise (fun a b => a.1 < b.1) ∧ ∀ c ∈ m, c.2 ≠ memDefault := by
  induction m with
  | nil => simp [Memory.wf]
  | cons c m ih =>
    rw [List.pairwise_cons]
    constructor
    · intro h
      have hw := (Memory.wf_cons.1 h)
      refine ⟨⟨Memory.wf_lt h, (ih.1 hw.2.2).1⟩, ?_⟩
      intro d hd
      rcases List.mem_cons.1 hd with rfl | hd
      · exact hw.1
      · exact (ih.1 hw.2.2).2 d hd
    · rintro ⟨⟨h1, h2⟩, h3⟩
      refine Memory.wf_cons.2 ⟨h3 c (by simp), ?_, ih.2 ⟨h2, fun d hd => h3 d (by simp [hd])⟩⟩
      intro d hd
      exact h1 d (List.mem_of_mem_head? hd)

theorem Memory.wf_filter {m : List Host.Cell} (p : Host.Cell → Bool) (h : Memory.wf m = true) : Memory.wf (m.filter p) = true := by
  rw [Memory.wf_iff] at h ⊢
  exact ⟨h.1.filter p, fun c hc => h.2 c (List.mem_of_mem_filter hc)⟩

theorem memCells_mem {a : Nat} {l : List Byte} {c : Host.Cell} (h : c ∈ memCells a l) :
    a ≤ c.1 ∧ c.1 < a + l.length ∧ c.2 ≠ memDefault := by
  induction l generalizing a with
  | nil => simp [memCells] at h
  | cons b l ih =>
    simp only [memCells] at h
    simp only [List.length_cons]
    split at h
    · have := ih h
      exact ⟨by omega, by omega, this.2.2⟩
    · rcases List.mem_cons.1 h with rfl | h
      · exact ⟨le_refl _, by simp, by assumption⟩
      · have := ih h
        exact ⟨by omega, by omega, this.2.2⟩

theorem memCells_sorted (a : Nat) (l : List Byte) : (memCells a l).Pairwise (fun c d => c.1 < d.1) := by
  induction l generalizing a with
  | nil => simp [memCells]
  | cons b l ih =>
    simp only [memCells]
    split
    · exact ih _
    · refine List.pairwise_cons.2 ⟨fun d hd => ?_, ih _⟩
      have := memCells_mem hd
      show a < d.1
      omega

theorem Memory.wf_memPut {m : List Host.Cell} (a : Nat) (l : List Byte) (h : Memory.wf m = true) : Memory.wf (memPut m a l) = true := by
  rw [Memory.wf_iff] at h ⊢
  refine ⟨List.pairwise_append.2 ⟨h.1.filter _, List.pairwise_append.2 ⟨memCells_sorted a l, h.1.filter _, ?_⟩, ?_⟩, ?_⟩
  · intro c hc d hd
    have := memCells_mem hc
    simp only [List.mem_filter, decide_eq_true_eq] at hd
    omega
  · intro c hc d hd
    simp only [List.mem_filter, decide_eq_true_eq] at hc
    rcases List.mem_append.1 hd with hd | hd
    · have := memCells_mem hd
      omega
    · simp only [List.mem_filter, decide_eq_true_eq] at hd
      omega
  · intro c hc
    rcases List.mem_append.1 hc with hc | hc
    · exact h.2 c (List.mem_of_mem_filter hc)
    · rcases List.mem_append.1 hc with hc | hc
      · exact (memCells_mem hc).2.2
      · exact h.2 c (List.mem_of_mem_filter hc)

theorem Memory.wf_memClear {m : List Host.Cell} (a n : Nat) (h : Memory.wf m = true) : Memory.wf (memClear m a n) = true :=
  Memory.wf_filter _ h

theorem memGet_none {m : List Host.Cell} {a : Nat} (h : ∀ c ∈ m, c.1 ≠ a) : memGet m a = memDefault := by
  induction m with
  | nil => rfl
  | cons c m ih =>
    simp only [memGet]
    rw [if_neg (h c (by simp)), ih fun d hd => h d (by simp [hd])]

/-- Reading through a filter that keeps the address is reading. -/
theorem memGet_filter {m : List Host.Cell} {a : Nat} {p : Host.Cell → Bool} (h : ∀ b, p (a, b) = true) :
    memGet (m.filter p) a = memGet m a := by
  induction m with
  | nil => rfl
  | cons c m ih =>
    obtain ⟨k, b⟩ := c
    by_cases hk : k = a
    · subst hk
      simp [h, memGet]
    · simp only [List.filter_cons]
      split <;> simp [memGet, hk, ih]

theorem memGet_append {m n : List Host.Cell} {a : Nat} (h : ∀ c ∈ m, c.1 ≠ a) : memGet (m ++ n) a = memGet n a := by
  induction m with
  | nil => rfl
  | cons c m ih =>
    simp only [List.cons_append, memGet]
    rw [if_neg (h c (by simp)), ih fun d hd => h d (by simp [hd])]

theorem memGet_append_left {m n : List Host.Cell} {a : Nat} (h : ∀ c ∈ n, c.1 ≠ a) : memGet (m ++ n) a = memGet m a := by
  induction m with
  | nil => exact memGet_none h
  | cons c m ih => simp only [List.cons_append, memGet, ih]

theorem memGet_memCells {l : List Byte} (a i : Nat) (h : i < l.length) : memGet (memCells a l) (a + i) = l[i] := by
  induction l generalizing a i with
  | nil => simp at h
  | cons b l ih =>
    have hlow : ∀ c ∈ memCells (a + 1) l, c.1 ≠ a := fun c hc => by have := memCells_mem hc; omega
    cases i with
    | zero =>
      simp only [memCells]
      split
      · simp_all [memGet_none hlow]
      · simp [memGet]
    | succ i =>
      have hi := ih (a + 1) i (by simpa using h)
      rw [show a + 1 + i = a + (i + 1) by omega] at hi
      simp only [memCells]
      split
      · rw [hi]; simp
      · simp only [memGet]
        rw [if_neg (by omega), hi]; simp

/-- A byte that a write stores reads back. -/
theorem memGet_memPut_in (m : List Host.Cell) {l : List Byte} (a i : Nat) (h : i < l.length) : memGet (memPut m a l) (a + i) = l[i] := by
  rw [memPut, memGet_append, memGet_append_left, memGet_memCells a i h]
  · intro c hc
    simp only [List.mem_filter, decide_eq_true_eq] at hc
    omega
  · intro c hc
    simp only [List.mem_filter, decide_eq_true_eq] at hc
    omega

/-- A byte outside those a write stores reads as before. -/
theorem memGet_memPut_out (m : List Host.Cell) {l : List Byte} {a x : Nat} (h : x < a ∨ a + l.length ≤ x) :
    memGet (memPut m a l) x = memGet m x := by
  have hc : ∀ c ∈ memCells a l, c.1 ≠ x := fun c hc => by have := memCells_mem hc; omega
  rcases h with h | h
  · rw [memPut, memGet_append_left, memGet_filter (by simpa using h)]
    intro c hd
    rcases List.mem_append.1 hd with hd | hd
    · exact hc c hd
    · simp only [List.mem_filter, decide_eq_true_eq] at hd
      omega
  · rw [memPut, memGet_append, memGet_append hc, memGet_filter (by simpa using h)]
    intro c hd
    simp only [List.mem_filter, decide_eq_true_eq] at hd
    omega

/-- A read is the bytes at its addresses. -/
theorem memRead_eq (m : List Host.Cell) (a n : Nat) : memRead m a n = (List.range n).map fun i => memGet m (a + i) := by
  simp only [memRead]
  refine List.map_congr_left fun i hi => memGet_filter fun b => ?_
  have := List.mem_range.1 hi
  simp only [Bool.and_eq_true, decide_eq_true_eq]
  omega

/-- Clearing reads zero inside and as before outside. -/
theorem memGet_memClear (m : List Host.Cell) (a n x : Nat) :
    memGet (memClear m a n) x = if a ≤ x ∧ x < a + n then memDefault else memGet m x := by
  split
  · refine memGet_none fun c hc => ?_
    simp only [memClear, List.mem_filter, Bool.or_eq_true, decide_eq_true_eq] at hc
    omega
  · refine memGet_filter fun b => ?_
    simp only [Bool.or_eq_true, decide_eq_true_eq]
    omega

/-! ## Tables -/

@[simp] theorem tget_tset {α : Type} (t : Tab α) (j i : Nat) (v : α) : tget (tset t j v) i = if i = j then some v else tget t i := by
  induction t with
  | nil => simp only [tset, tget, eq_comm]
  | cons e t ih =>
    obtain ⟨k, w⟩ := e
    simp only [tset]
    split
    · simp only [tget, eq_comm]
    · split
      · simp only [tget]
        by_cases hi : i = j
        · subst hi; simp
        · rw [if_neg (Ne.symm hi), if_neg hi, if_neg (by omega)]
      · simp only [tget]
        by_cases hi : i = j
        · subst hi; rw [if_neg (by assumption), ih]; simp
        · rw [ih, if_neg hi, if_neg hi]

@[simp] theorem tget_tdel {α : Type} (t : Tab α) (j i : Nat) : tget (tdel t j) i = if i = j then none else tget t i := by
  induction t with
  | nil => simp [tdel, tget]
  | cons e t ih =>
    obtain ⟨k, w⟩ := e
    simp only [tdel, List.filter_cons]
    by_cases hk : k = j
    · subst hk
      simp only [bne_self_eq_false, Bool.false_eq_true, if_false]
      rw [show List.filter (fun e => e.1 != k) t = tdel t k from rfl, ih]
      by_cases hi : i = k
      · simp [hi]
      · simp [hi, tget, Ne.symm hi]
    · simp only [bne_iff_ne, ne_eq, hk, not_false_eq_true, if_true, tget]
      rw [show List.filter (fun e => e.1 != j) t = tdel t j from rfl, ih]
      by_cases hi : i = j
      · subst hi; simp [hk]
      · simp [hi]

@[simp] theorem tget_tmod {α : Type} (t : Tab α) (j i : Nat) (f : α → α) :
    tget (tmod t j f) i = if i = j then (tget t j).map f else tget t i := by
  unfold tmod
  split
  · rename_i v hv
    rw [tget_tset, hv]; rfl
  · rename_i hv
    by_cases hi : i = j
    · rw [if_pos hi, hi, hv]; rfl
    · rw [if_neg hi]

end Sys2Proof.Machine
end

