-- ==== Sys2Proof/Laws/Keeps.lean ====
section
/-!
SUPPORT. `Keeps s t`: what every operation of the block keeps from `s` to `t` (the pool memory's canonical form, the even GENERATION, mailboxes
of at most eight messages, the waiting commands, the fuses, the nesting of a core's claims). One lemma per operation says so; this file holds the relation and the shared
combinators.
-/

set_option linter.unreachableTactic false
set_option linter.unusedTactic false

namespace Sys2Proof.Machine

/-- Every mailbox holds at most eight messages. -/
def Boxes8 (s : State) : Prop := ∀ e ∈ s.mbx.boxes, e.2.msgs.length ≤ 8

/-- What every operation keeps. -/
def Keeps (s t : State) : Prop :=
  (Memory.wf s.pool.mem = true → Memory.wf t.pool.mem = true) ∧ (s.alm.gen.toNat % 2 = 0 → t.alm.gen.toNat % 2 = 0) ∧
    (Boxes8 s → Boxes8 t) ∧ t.pending = s.pending ∧
    s.sen.svn ≤ t.sen.svn ∧ (∀ i, s.sen.burnt.getLsbD i = true → t.sen.burnt.getLsbD i = true) ∧
    (∀ i, s.sen.revoked.getLsbD i = true → t.sen.revoked.getLsbD i = true) ∧ (EvcOk s → EvcOk t)

theorem Keeps.refl (s : State) : Keeps s s :=
  ⟨id, id, id, rfl, le_refl _, fun _ h => h, fun _ h => h, id⟩

theorem Keeps.trans {a b c : State} (h : Keeps a b) (k : Keeps b c) : Keeps a c :=
  ⟨fun x => k.1 (h.1 x), fun x => k.2.1 (h.2.1 x), fun x => k.2.2.1 (h.2.2.1 x), k.2.2.2.1.trans h.2.2.2.1,
    h.2.2.2.2.1.trans k.2.2.2.2.1, fun i x => k.2.2.2.2.2.1 i (h.2.2.2.2.2.1 i x), fun i x => k.2.2.2.2.2.2.1 i (h.2.2.2.2.2.2.1 i x),
    fun x => k.2.2.2.2.2.2.2 (h.2.2.2.2.2.2.2 x)⟩

/-- An outcome keeps: its next state, where it has one, does. -/
structure KeepsR (s0 : State) (r : Result) : Prop where
  out : ∀ t, r = .next t → Keeps s0 t
/-- An opcode's answer keeps: its state does, where it succeeds. -/
structure KeepsE {ε α : Type} (st : α → State) (s0 : State) (r : Except ε α) : Prop where
  out : ∀ a, r = .ok a → Keeps s0 (st a)
/-- The same for an optional state. -/
structure KeepsO {α : Type} (st : α → State) (s0 : State) (r : Option α) : Prop where
  out : ∀ a, r = some a → Keeps s0 (st a)
/-- A step of a KV operation keeps. -/
structure KeepsM {ε α : Type} (m : EStateM ε State α) : Prop where
  ok : ∀ s0 s a t, Keeps s0 s → m s = .ok a t → Keeps s0 t
  error : ∀ s0 s e t, Keeps s0 s → m s = .error e t → Keeps s0 t

theorem keepsR_next {s0 t : State} (h : Keeps s0 t) : KeepsR s0 (.next t) := ⟨by intro u hu; cases hu; exact h⟩
theorem keepsR_fault {s0 : State} {f : Fault} : KeepsR s0 (.fault f) := ⟨by intro u hu; cases hu⟩
theorem keepsR_refused {s0 : State} {f : Refusal} : KeepsR s0 (.refused f) := ⟨by intro u hu; cases hu⟩
theorem keepsE_ok {ε α : Type} {st : α → State} {s0 : State} {a : α} (h : Keeps s0 (st a)) : KeepsE (ε := ε) st s0 (.ok a) :=
  ⟨by intro u hu; cases hu; exact h⟩
theorem keepsE_pure {ε α : Type} {st : α → State} {s0 : State} {a : α} (h : Keeps s0 (st a)) : KeepsE (ε := ε) st s0 (pure a) := keepsE_ok h
theorem keepsE_error {ε α : Type} {st : α → State} {s0 : State} {e : ε} : KeepsE st s0 (.error e) := ⟨by intro u hu; cases hu⟩
theorem keepsE_throw {ε α : Type} {st : α → State} {s0 : State} {e : ε} : KeepsE st s0 (throw e : Except ε α) := keepsE_error
theorem keepsE_bind {ε α β : Type} {st : β → State} {s0 : State} {m : Except ε α} {k : α → Except ε β}
    (h : ∀ a, m = .ok a → KeepsE st s0 (k a)) : KeepsE st s0 (m >>= k) := by
  cases m with
  | error e => exact keepsE_error
  | ok a => exact h a rfl
theorem keepsO_some {α : Type} {st : α → State} {s0 : State} {a : α} (h : Keeps s0 (st a)) : KeepsO st s0 (some a) :=
  ⟨by intro u hu; cases hu; exact h⟩
theorem keepsO_none {α : Type} {st : α → State} {s0 : State} : KeepsO st s0 none := ⟨by intro u hu; cases hu⟩
theorem keepsO_map {α β : Type} {st : β → State} {s0 : State} {m : Option α} {f : α → β} (h : ∀ a, m = some a → Keeps s0 (st (f a))) :
    KeepsO st s0 (m.map f) := by
  cases m with
  | none => exact keepsO_none
  | some a => exact keepsO_some (h a rfl)
theorem keepsO_bind {α β : Type} {st : β → State} {s0 : State} {m : Option α} {f : α → Option β} (h : ∀ a, m = some a → KeepsO st s0 (f a)) :
    KeepsO st s0 (m.bind f) := by
  cases m with
  | none => exact keepsO_none
  | some a => exact h a rfl

theorem keepsM_bind {ε α β : Type} {m : EStateM ε State α} {k : α → EStateM ε State β} (hm : KeepsM m) (hk : ∀ a, KeepsM (k a)) : KeepsM (m >>= k) := by
  constructor
  · intro s0 s b t h e
    simp only [bind, EStateM.bind] at e
    split at e
    · exact (hk _).ok s0 _ b t (hm.ok s0 s _ _ h (by assumption)) e
    · cases e
  · intro s0 s b t h e
    simp only [bind, EStateM.bind] at e
    split at e
    · exact (hk _).error s0 _ b t (hm.ok s0 s _ _ h (by assumption)) e
    · cases e
      exact hm.error s0 s _ _ h (by assumption)
/-- A step of a KV operation, run in state `s`, keeps. -/
structure KeepsAt {ε α : Type} (s0 s : State) (m : EStateM ε State α) : Prop where
  ok : ∀ a t, m s = .ok a t → Keeps s0 t
  error : ∀ e t, m s = .error e t → Keeps s0 t
theorem keepsM_get_bind {ε β : Type} {k : State → EStateM ε State β} (hk : ∀ s0 s, Keeps s0 s → KeepsAt s0 s (k s)) : KeepsM (get >>= k) :=
  ⟨fun s0 s b t h e => (hk s0 s h).ok b t e, fun s0 s b t h e => (hk s0 s h).error b t e⟩
theorem keepsAt_of {ε α : Type} {s0 s : State} {m : EStateM ε State α} (hm : KeepsM m) (h : Keeps s0 s) : KeepsAt s0 s m :=
  ⟨fun a t e => hm.ok s0 s a t h e, fun a t e => hm.error s0 s a t h e⟩
theorem keepsAt_set_bind {ε β : Type} {s0 s x : State} {k : PUnit → EStateM ε State β} (h : Keeps s0 x) (hk : KeepsM (k ⟨⟩)) :
    KeepsAt s0 s (set x >>= k) :=
  ⟨fun b t e => hk.ok s0 x b t h e, fun b t e => hk.error s0 x b t h e⟩
theorem keepsM_pure {ε α : Type} {a : α} : KeepsM (pure a : EStateM ε State α) :=
  ⟨by intro s0 s b t h e; cases e; exact h, by intro s0 s b t h e; cases e⟩
theorem keepsM_throw {ε α : Type} {e : ε} : KeepsM (throw e : EStateM ε State α) := by
  constructor
  · intro s0 s b t h w
    simp [throw, throwThe, MonadExceptOf.throw, EStateM.throw] at w
  · intro s0 s b t h w
    simp only [throw, throwThe, MonadExceptOf.throw, EStateM.throw, EStateM.Result.error.injEq] at w
    rw [← w.2]
    exact h
theorem keepsM_get {ε : Type} : KeepsM (get : EStateM ε State State) :=
  ⟨by intro s0 s b t h e; cases e; exact h, by intro s0 s b t h e; cases e⟩
theorem keepsM_modify {ε : Type} {f : State → State} (hf : ∀ s0 s, Keeps s0 s → Keeps s0 (f s)) : KeepsM (modify f : EStateM ε State PUnit) :=
  ⟨by intro s0 s b t h e; cases e; exact hf s0 s h, by intro s0 s b t h e; cases e⟩
theorem keepsM_io {α : Type} {f : State → State × Except AccErr α} (hf : ∀ s0 s, Keeps s0 s → Keeps s0 (f s).1) : KeepsM (kvIo f) := by
  constructor
  · intro s0 s b t h e
    have k := hf s0 s h
    simp only [kvIo] at e
    split at e <;> cases e
    rename_i heq
    rw [heq] at k
    exact k
  · intro s0 s b t h e
    have k := hf s0 s h
    simp only [kvIo] at e
    split at e <;> cases e
    rename_i heq
    rw [heq] at k
    exact k
theorem keepsM_mapM {ε α β : Type} {f : α → EStateM ε State β} {l : List α} (hf : ∀ a, KeepsM (f a)) : KeepsM (l.mapM f) := by
  induction l with
  | nil => rw [List.mapM_nil]; exact keepsM_pure
  | cons a l ih =>
    rw [List.mapM_cons]
    exact keepsM_bind (hf a) fun _ => keepsM_bind ih fun _ => keepsM_pure
theorem keepsM_forIn {ε α β : Type} {f : α → β → EStateM ε State (ForInStep β)} {l : List α} {b : β} (hf : ∀ a b, KeepsM (f a b)) :
    KeepsM (forIn l b f) := by
  induction l generalizing b with
  | nil => rw [List.forIn_nil]; exact keepsM_pure
  | cons a l ih =>
    rw [List.forIn_cons]
    refine keepsM_bind (hf a b) fun x => ?_
    cases x with
    | done b => exact keepsM_pure
    | yield b => exact ih
theorem keepsM_forM {ε α : Type} {f : α → EStateM ε State PUnit} {l : List α} (hf : ∀ a, KeepsM (f a)) : KeepsM (l.forM f) := by
  induction l with
  | nil => exact keepsM_pure
  | cons a l ih => exact keepsM_bind (hf a) fun _ => ih

theorem keeps_fst {α : Type} {s0 a : State} {b : α} {p : State × α} (e : p = (a, b)) (h : Keeps s0 p.1) : Keeps s0 a := by rw [e] at h; exact h
theorem keeps_fst' {α : Type} {s0 a : State} {b : α} {p : State × α} (e : (a, b) = p) (h : Keeps s0 p.1) : Keeps s0 a := keeps_fst e.symm h
theorem keeps_okE {ε α : Type} {st : α → State} {s0 : State} {a : α} {r : Except ε α} (e : r = .ok a) (h : KeepsE st s0 r) : Keeps s0 (st a) := h.out a e
theorem keeps_someO {α : Type} {st : α → State} {s0 : State} {a : α} {r : Option α} (e : r = some a) (h : KeepsO st s0 r) : Keeps s0 (st a) := h.out a e

theorem keeps_okP {ε α : Type} {s0 a : State} {b : α} {r : Except ε (State × α)} (e : r = .ok (a, b)) (h : KeepsE Prod.fst s0 r) : Keeps s0 a :=
  h.out _ e
theorem keeps_someP {α : Type} {s0 a : State} {b : α} {r : Option (State × α)} (e : r = some (a, b)) (h : KeepsO Prod.fst s0 r) : Keeps s0 a :=
  h.out _ e
theorem keeps_okH {ε α : Type} {s0 a : State} {b : α} (h : KeepsE (ε := ε) Prod.fst s0 (.ok (a, b))) : Keeps s0 a := h.out _ rfl
theorem keeps_okH1 {ε : Type} {s0 a : State} (h : KeepsE (ε := ε) (fun a => a) s0 (.ok a)) : Keeps s0 a := h.out _ rfl
theorem keeps_okM {ε α : Type} {s0 s t : State} {a : α} {m : EStateM ε State α} (e : m s = .ok a t) (hm : KeepsM m) (h : Keeps s0 s) : Keeps s0 t :=
  hm.ok s0 s a t h e
theorem keeps_errM {ε α : Type} {s0 s t : State} {a : ε} {m : EStateM ε State α} (e : m s = .error a t) (hm : KeepsM m) (h : Keeps s0 s) : Keeps s0 t :=
  hm.error s0 s a t h e
theorem keeps_nextR {s0 a : State} {r : Result} (e : r = .next a) (h : KeepsR s0 r) : Keeps s0 a := h.out _ e

theorem keeps_foldl {α : Type} {s0 : State} {f : State → α → State} {l : List α} {s : State} (h : Keeps s0 s)
    (hf : ∀ a x, Keeps s0 a → Keeps s0 (f a x)) : Keeps s0 (l.foldl f s) := by
  induction l generalizing s with
  | nil => exact h
  | cons x l ih => exact ih (hf s x h)

theorem keeps_foldl_fst {α β : Type} {s0 : State} {f : State × β → α → State × β} {l : List α} {p : State × β} (h : Keeps s0 p.1)
    (hf : ∀ a x, Keeps s0 a.1 → Keeps s0 (f a x).1) : Keeps s0 (l.foldl f p).1 := by
  induction l generalizing p with
  | nil => exact h
  | cons x l ih => exact ih (hf p x h)

theorem keeps_foldl_any {α β : Type} {s0 : State} {st : β → State} {f : β → α → β} {l : List α} {p : β} (h : Keeps s0 (st p))
    (hf : ∀ a x, Keeps s0 (st a) → Keeps s0 (st (f a x))) : Keeps s0 (st (l.foldl f p)) := by
  induction l generalizing p with
  | nil => exact h
  | cons x l ih => exact ih (hf p x h)

theorem keeps_elim {α : Type} {s0 a : State} {o : Option α} {f : α → State} (h : Keeps s0 a) (hf : ∀ x, Keeps s0 (f x)) : Keeps s0 (o.elim a f) := by
  cases o with
  | none => exact h
  | some x => exact hf x

/-! ## Primitive updates -/

theorem keeps_mem {s0 s t : State} (h : Keeps s0 s) (hm : Memory.wf s.pool.mem = true → Memory.wf t.pool.mem = true)
    (ha : t.alm = s.alm) (hb : t.mbx = s.mbx) (hp : t.pending = s.pending) (hs : t.sen = s.sen) (he : t.evc = s.evc) : Keeps s0 t :=
  ⟨fun x => hm (h.1 x), by rw [ha]; exact h.2.1, by unfold Boxes8; rw [hb]; exact h.2.2.1, by rw [hp]; exact h.2.2.2.1,
    by rw [hs]; exact h.2.2.2.2.1, by rw [hs]; exact h.2.2.2.2.2.1, by rw [hs]; exact h.2.2.2.2.2.2.1,
    by unfold EvcOk; rw [he]; exact h.2.2.2.2.2.2.2⟩

/-- A record update of State that leaves the parts concerned alone. -/
theorem keeps_mk {s0 X : State} {n : Nat} {o : Objs} {sl : Slices} {sc : Sched} {P : Pool} {S : Sen} {li : Links} {po : Tab Port} {br : Brg}
    {ec : Ecc} {pw : Pwr} {mm : Mmc} {fr : Nat} {rb : List (Nat × AccErr)} {ou : List Out} (hm : P.mem = X.pool.mem)
    (h1 : S.svn = X.sen.svn) (h2 : S.burnt = X.sen.burnt) (h3 : S.revoked = X.sen.revoked) (h : Keeps s0 X) :
    Keeps s0 (State.mk n o sl sc P S li po X.evc X.mbx br ec pw mm X.alm X.pending fr rb ou) :=
  ⟨fun x => by rw [hm]; exact h.1 x, h.2.1, h.2.2.1, h.2.2.2.1, by rw [h1]; exact h.2.2.2.2.1, by rw [h2]; exact h.2.2.2.2.2.1,
    by rw [h3]; exact h.2.2.2.2.2.2.1, h.2.2.2.2.2.2.2⟩

/-- An update of the event concentrator. -/
theorem keeps_mkE {s0 X : State} {E : Evc} (he : EvcOk X → EvcOk { X with evc := E }) (h : Keeps s0 X) : Keeps s0 { X with evc := E } :=
  ⟨h.1, h.2.1, h.2.2.1, h.2.2.2.1, h.2.2.2.2.1, h.2.2.2.2.2.1, h.2.2.2.2.2.2.1, fun x => he (h.2.2.2.2.2.2.2 x)⟩

/-- An update of the mailbox registers that leaves the mailboxes alone. -/
theorem keeps_mkM {s0 X : State} {M : Mbx} (hb : M.boxes = X.mbx.boxes) (h : Keeps s0 X) :
    Keeps s0 (State.mk X.now X.objs X.slices X.sched X.pool X.sen X.links X.ports X.evc M X.brg X.ecc X.pwr X.mmc X.alm X.pending X.free X.ringBad X.out) :=
  ⟨h.1, h.2.1, by unfold Boxes8; rw [hb]; exact h.2.2.1, h.2.2.2⟩

/-- An update of the almanac's RATE entry. -/
theorem keeps_mkA {s0 X : State} {A : Alm} (ha : A.gen = X.alm.gen) (h : Keeps s0 X) :
    Keeps s0 (State.mk X.now X.objs X.slices X.sched X.pool X.sen X.links X.ports X.evc X.mbx X.brg X.ecc X.pwr X.mmc A X.pending X.free X.ringBad X.out) :=
  ⟨h.1, by intro e; show A.gen.toNat % 2 = 0; rw [ha]; exact h.2.1 e, h.2.2⟩

theorem keeps_eq {s0 x v : State} (e : x = v) (h : Keeps s0 v) : Keeps s0 x := by rw [e]; exact h

theorem State.onSen_keeps {s0 s : State} {f : Sen → Sen} (h1 : (f s.sen).svn = s.sen.svn) (h2 : (f s.sen).burnt = s.sen.burnt)
    (h3 : (f s.sen).revoked = s.sen.revoked) (h : Keeps s0 s) : Keeps s0 (s.onSen f) := keeps_mk rfl h1 h2 h3 h
theorem State.onObjs_keeps {s0 s : State} {f : Objs → Objs} (h : Keeps s0 s) : Keeps s0 (s.onObjs f) := keeps_mk rfl rfl rfl rfl h
theorem State.onSched_keeps {s0 s : State} {f : Sched → Sched} (h : Keeps s0 s) : Keeps s0 (s.onSched f) := keeps_mk rfl rfl rfl rfl h
theorem State.onSlices_keeps {s0 s : State} {f : Slices → Slices} (h : Keeps s0 s) : Keeps s0 (s.onSlices f) := keeps_mk rfl rfl rfl rfl h
theorem State.onLinks_keeps {s0 s : State} {f : Links → Links} (h : Keeps s0 s) : Keeps s0 (s.onLinks f) := keeps_mk rfl rfl rfl rfl h
theorem State.onBrg_keeps {s0 s : State} {f : Brg → Brg} (h : Keeps s0 s) : Keeps s0 (s.onBrg f) := keeps_mk rfl rfl rfl rfl h
theorem State.onPwr_keeps {s0 s : State} {f : Pwr → Pwr} (h : Keeps s0 s) : Keeps s0 (s.onPwr f) := keeps_mk rfl rfl rfl rfl h
theorem State.onPool_keeps {s0 s : State} {f : Pool → Pool} (h1 : (f s.pool).mem = s.pool.mem) (h : Keeps s0 s) : Keeps s0 (s.onPool f) :=
  keeps_mk h1 rfl rfl rfl h
theorem State.onPool_keepsW {s0 s : State} {f : Pool → Pool} (h1 : Memory.wf s.pool.mem = true → Memory.wf (f s.pool).mem = true) (h : Keeps s0 s) :
    Keeps s0 (s.onPool f) := keeps_mem h h1 rfl rfl rfl rfl rfl

theorem tset_mem {α : Type} {t : Tab α} {j : Nat} {v : α} {e : Nat × α} (h : e ∈ tset t j v) : e = (j, v) ∨ e ∈ t := by
  induction t with
  | nil => simpa [tset] using h
  | cons c t ih =>
    obtain ⟨k, w⟩ := c
    simp only [tset] at h
    split at h
    · simpa using h
    · split at h
      · rcases List.mem_cons.1 h with h | h
        · exact .inl h
        · exact .inr (by simp [h])
      · rcases List.mem_cons.1 h with h | h
        · exact .inr (by simp [h])
        · rcases ih h with h | h
          · exact .inl h
          · exact .inr (by simp [h])

theorem tget_mem {α : Type} {t : Tab α} {j : Nat} {v : α} (h : tget t j = some v) : (j, v) ∈ t := by
  induction t with
  | nil => simp [tget] at h
  | cons c t ih =>
    obtain ⟨k, w⟩ := c
    simp only [tget] at h
    split at h
    · cases h; rename_i e; simp [e]
    · simp [ih h]

theorem Boxes8.mbox {s : State} (h : Boxes8 s) (m : Nat) : (s.mbox m).msgs.length ≤ 8 := by
  unfold State.mbox tgetD
  cases e : tget s.mbx.boxes m with
  | none => simp [Mbox.reset]
  | some b => exact h _ (tget_mem e)

theorem State.modMbox_keeps {s0 s : State} {m : Nat} {f : Mbox → Mbox} (hf : (f (s.mbox m)).msgs.length ≤ (s.mbox m).msgs.length ∨
    (f (s.mbox m)).msgs.length ≤ 8) (h : Keeps s0 s) : Keeps s0 (s.modMbox m f) := by
  refine ⟨h.1, h.2.1, fun b => ?_, h.2.2.2⟩
  have b := h.2.2.1 b
  intro e he
  rcases tset_mem he with rfl | he
  · have := b.mbox m
    rcases hf with hf | hf
    · exact hf.trans this
    · exact hf
  · exact b e he

theorem keeps_pool {s0 s : State} (p : Pool) (hm : Memory.wf s.pool.mem = true → Memory.wf p.mem = true) (h : Keeps s0 s) :
    Keeps s0 { s with pool := p } := keeps_mem h hm rfl rfl rfl rfl rfl

end Sys2Proof.Machine
end

