-- ==== Sys2Proof/Laws/KeepsOps.lean ====
section
/-!
SUPPORT. Every operation of Machine/Ops.lean keeps (`Keeps`).
-/

set_option linter.unreachableTactic false
set_option linter.unusedTactic false

namespace Sys2Proof.Machine

theorem State.drew_keeps {s0 : State} {s : State} {n : Nat} (h_s : Keeps s0 s) :
    Keeps s0 (State.drew s n) := by
  unfold State.drew
  repeat' (first
    | assumption
  )

theorem State.emit_keeps {s0 : State} {s : State} {o : Out} (h_s : Keeps s0 s) :
    Keeps s0 (State.emit s o) := by
  unfold State.emit
  repeat' (first
    | assumption
  )

theorem State.setCtx_keeps {s0 : State} {s : State} {c : Nat} {x : Ctx} (h_s : Keeps s0 s) :
    Keeps s0 (State.setCtx s c x) := by
  unfold State.setCtx
  repeat' (first
    | with_reducible assumption
    | with_reducible apply State.onObjs_keeps
  )

theorem State.modCtx_keeps {s0 : State} {s : State} {c : Nat} {f : Ctx → Ctx} (h_s : Keeps s0 s) :
    Keeps s0 (State.modCtx s c f) := by
  unfold State.modCtx
  repeat' (first
    | with_reducible assumption
    | with_reducible apply State.onObjs_keeps
  )

theorem State.modQueue_keeps {s0 : State} {s : State} {q : Nat} {f : Queue → Queue} (h_s : Keeps s0 s) :
    Keeps s0 (State.modQueue s q f) := by
  unfold State.modQueue
  repeat' (first
    | with_reducible assumption
    | with_reducible apply State.onObjs_keeps
  )

theorem State.modMo_keeps {s0 : State} {s : State} {m : Nat} {f : Mo → Mo} (h_s : Keeps s0 s) :
    Keeps s0 (State.modMo s m f) := by
  unfold State.modMo
  repeat' (first
    | with_reducible assumption
    | with_reducible apply State.onObjs_keeps
  )

theorem State.modFence_keeps {s0 : State} {s : State} {k : Nat} {f : Fence → Fence} (h_s : Keeps s0 s) :
    Keeps s0 (State.modFence s k f) := by
  unfold State.modFence
  repeat' (first
    | with_reducible assumption
    | with_reducible apply State.onObjs_keeps
  )

theorem State.modProg_keeps {s0 : State} {s : State} {p : Nat} {f : Program → Program} (h_s : Keeps s0 s) :
    Keeps s0 (State.modProg s p f) := by
  unfold State.modProg
  repeat' (first
    | with_reducible assumption
    | with_reducible apply State.onObjs_keeps
  )

theorem State.modSlice_keeps {s0 : State} {s : State} {l : Nat} {f : Slice → Slice} (h_s : Keeps s0 s) :
    Keeps s0 (State.modSlice s l f) := by
  unfold State.modSlice
  repeat' (first
    | with_reducible assumption
    | with_reducible apply State.onSlices_keeps
  )

theorem State.modFrame_keeps {s0 : State} {s : State} {k : Nat} {f : Frame → Frame} (h_s : Keeps s0 s) :
    Keeps s0 (State.modFrame s k f) := by
  unfold State.modFrame
  repeat' (first
    | with_reducible assumption
    | (with_reducible refine State.onPool_keeps ?_ ?_ <;> [rfl; skip])
  )

theorem State.modStack_keeps {s0 : State} {s : State} {k : Nat} {f : Stack → Stack} (h_s : Keeps s0 s) :
    Keeps s0 (State.modStack s k f) := by
  unfold State.modStack
  repeat' (first
    | with_reducible assumption
    | (with_reducible refine State.onPool_keeps ?_ ?_ <;> [rfl; skip])
  )

theorem State.modDisp_keeps {s0 : State} {s : State} {d : DWord} {f : Disp → Disp} (h_s : Keeps s0 s) :
    Keeps s0 (State.modDisp s d f) := by
  unfold State.modDisp
  repeat' (first
    | with_reducible assumption
    | with_reducible apply State.onSched_keeps
  )

theorem State.modPolder_keeps {s0 : State} {s : State} {p : Nat} {f : Polder → Polder} (h_s : Keeps s0 s) :
    Keeps s0 (State.modPolder s p f) := by
  unfold State.modPolder
  repeat' (first
    | with_reducible assumption
    | with_reducible apply State.onSched_keeps
  )

theorem State.account_keeps {s0 : State} {s : State} {c : Nat} {f : Acct → Acct} (h_s : Keeps s0 s) :
    Keeps s0 (State.account s c f) := by
  unfold State.account
  repeat' (first
    | with_reducible assumption
    | with_reducible apply State.modCtx_keeps
  )

theorem State.modTdi_keeps {s0 : State} {s : State} {l : Nat} {f : Tdi → Tdi} (h_s : Keeps s0 s) :
    Keeps s0 (State.modTdi s l f) := by
  unfold State.modTdi
  repeat' (first
    | with_reducible assumption
    | (with_reducible refine State.onSen_keeps ?_ ?_ ?_ ?_ <;> [rfl; rfl; rfl; skip])
  )

theorem State.modPort_keeps {s0 : State} {s : State} {p : Nat} {f : Port → Port} (h_s : Keeps s0 s) :
    Keeps s0 (State.modPort s p f) := by
  unfold State.modPort
  repeat' (first
    | assumption
  )

theorem State.almanac_keeps {s0 : State} {s : State} (h_s : Keeps s0 s) : Keeps s0 (s.almanac) := by
  refine ⟨h_s.1, fun x => ?_, h_s.2.2⟩
  have h := h_s.2.1 x
  show (s.alm.gen + 2).toNat % 2 = 0
  rw [BitVec.toNat_add]
  have : (2 : DWord).toNat = 2 := rfl
  omega

end Sys2Proof.Machine
end

