-- ==== Sys2Proof/Laws/KeepsFlags.lean ====
section
/-!
SUPPORT. Every operation of Machine/Flags.lean keeps (`Keeps`).
-/

set_option linter.unreachableTactic false
set_option linter.unusedTactic false

namespace Sys2Proof.Machine

theorem EvcOk.src {s : State} (h : EvcOk s) (i : Nat) : (s.src i).prio ≤ 15 := by
  unfold State.src tgetD
  cases e : tget s.evc.srcs i with
  | none => simp [Src.reset]
  | some x => exact h.1 _ (tget_mem e)

theorem EvcOk.core {s : State} (h : EvcOk s) (n : Nat) : (s.core n).run ≤ 15 ∧ nested (s.core n).stack (s.core n).run = true := by
  unfold State.core tgetD
  cases e : tget s.evc.cores n with
  | none => simp [Core.reset, nested]
  | some x => exact h.2 _ (tget_mem e)

theorem State.modSrc_keeps {s0 s : State} {i : Nat} {f : Src → Src} (hf : (s.src i).prio ≤ 15 → (f (s.src i)).prio ≤ 15) (h : Keeps s0 s) :
    Keeps s0 (s.modSrc i f) := by
  refine keeps_mkE (fun x => ⟨fun e he => ?_, x.2⟩) h
  rcases tset_mem he with rfl | he
  · exact hf (x.src i)
  · exact x.1 e he

theorem State.raiseEdge_keeps {s0 s : State} {i : Nat} (h : Keeps s0 s) : Keeps s0 (s.raiseEdge i) := State.modSrc_keeps id h

theorem State.setCond_keeps {s0 s : State} {i : Nat} {b : Bool} (h : Keeps s0 s) : Keeps s0 (s.setCond i b) := State.modSrc_keeps id h

theorem State.modCore_keeps {s0 s : State} {n : Nat} {f : Core → Core}
    (hf : EvcOk s → (f (s.core n)).run ≤ 15 ∧ nested (f (s.core n)).stack (f (s.core n)).run = true) (h : Keeps s0 s) : Keeps s0 (s.modCore n f) := by
  refine keeps_mkE (fun x => ⟨x.1, fun e he => ?_⟩) h
  rcases tset_mem he with rfl | he
  · exact hf x
  · exact x.2 e he

theorem State.sendVec_keeps {s0 : State} {s : State} {p : Nat} {v : Nat} (h_s : Keeps s0 s) :
    Keeps s0 (State.sendVec s p v) := by
  unfold State.sendVec
  repeat' (first
    | with_reducible assumption
    | extract_lets
    | with_reducible apply State.emit_keeps
    | with_reducible refine keeps_fst (by assumption) ?_
    | with_reducible refine keeps_okE (st := fun a => a) (by assumption) ?_
    | with_reducible refine keeps_okP (by assumption) ?_
    | with_reducible refine keeps_someO (st := fun a => a) (by assumption) ?_
    | with_reducible refine keeps_someP (by assumption) ?_
    | with_reducible refine keeps_nextR (by assumption) ?_
    | with_reducible refine keeps_okM (by assumption) ?_ ?_
    | with_reducible refine keeps_errM (by assumption) ?_ ?_
    | dsimp only
    | split
    | intro _
    | assumption
  )

theorem State.raisePort_keeps {s0 : State} {s : State} {p : Nat} {v : Nat} (h_s : Keeps s0 s) :
    Keeps s0 (State.raisePort s p v) := by
  unfold State.raisePort
  repeat' (first
    | with_reducible assumption
    | with_reducible apply State.sendVec_keeps
    | with_reducible apply State.unmask_keeps
    | with_reducible apply State.emit_keeps
    | with_reducible apply State.modPort_keeps
    | split
  )

theorem State.raiseVec_keeps {s0 : State} {s : State} {l : Nat} {v : Nat} (h_s : Keeps s0 s) :
    Keeps s0 (State.raiseVec s l v) := by
  unfold State.raiseVec
  repeat' (first
    | with_reducible assumption
    | with_reducible apply State.raisePort_keeps
    | split
  )

theorem State.noteNonempty_keeps {s0 : State} {s : State} {m : Nat} (h_s : Keeps s0 s) :
    Keeps s0 (State.noteNonempty s m) := by
  unfold State.noteNonempty
  repeat' (first
    | with_reducible assumption
    | with_reducible apply State.emit_keeps
    | with_reducible apply State.raiseVec_keeps
    | with_reducible apply State.setCond_keeps
    | split
  )

theorem State.noteSender_keeps {s0 : State} {s : State} {m : Nat} {what : Nat} (h_s : Keeps s0 s) :
    Keeps s0 (State.noteSender s m what) := by
  unfold State.noteSender
  repeat' (first
    | with_reducible assumption
    | with_reducible apply State.emit_keeps
    | with_reducible apply State.raiseEdge_keeps
    | with_reducible apply State.raiseVec_keeps
    | split
  )

theorem State.mbxPush_keeps {s0 : State} {s : State} {m : Nat} {w : DWord} (hl : (s.mbox m).msgs.length < 8) (h_s : Keeps s0 s) :
    Keeps s0 (s.mbxPush m w) := by
  have h1 : Keeps s0 (s.modMbox m fun x => { x with msgs := x.msgs ++ [w] }) :=
    State.modMbox_keeps (Or.inr (by simp only [List.length_append, List.length_singleton]; omega)) h_s
  unfold State.mbxPush
  extract_lets
  split
  · split
    · exact State.noteNonempty_keeps h1
    · exact h1
  · exact State.modMbox_keeps (Or.inl le_rfl) h1

theorem State.mbxClear_keeps {s0 : State} {s : State} {m : Nat} (h_s : Keeps s0 s) :
    Keeps s0 (State.mbxClear s m) := by
  unfold State.mbxClear
  repeat' (first
    | with_reducible assumption
    | extract_lets
    | with_reducible apply State.noteSender_keeps
    | with_reducible apply State.setCond_keeps
    | (with_reducible refine State.modMbox_keeps ?_ ?_ <;> [(first | exact Or.inl (Nat.le_refl _) | exact Or.inr (Nat.zero_le _)); skip])
    | split
    | (with_reducible conv => arg 2; whnf); split
    | (with_reducible refine keeps_mkM ?_ ?_ <;> [rfl; (first | with_reducible assumption | with_reducible apply State.noteSender_keeps | with_reducible apply State.setCond_keeps | with_reducible apply State.onObjs_keeps | with_reducible apply State.onSched_keeps | with_reducible apply State.onSlices_keeps | with_reducible apply State.onLinks_keeps | with_reducible apply State.onBrg_keeps | with_reducible apply State.onPwr_keeps | with_reducible refine keeps_fst (by assumption) ?_ | with_reducible refine keeps_okP (by assumption) ?_ | with_reducible refine keeps_someP (by assumption) ?_ | with_reducible refine keeps_okE (st := fun a => a) (by assumption) ?_ | with_reducible refine keeps_someO (st := fun a => a) (by assumption) ?_)])
  )

theorem State.setClu_keeps {s0 : State} {s : State} {c : Nat} {st : Nat} (h_s : Keeps s0 s) :
    Keeps s0 (State.setClu s c st) := by
  unfold State.setClu
  repeat' (first
    | with_reducible assumption
    | with_reducible apply State.onPwr_keeps
  )

theorem State.idleFrom_keeps {s0 : State} {s : State} {cs : List Nat} (h_s : Keeps s0 s) :
    Keeps s0 (State.idleFrom s cs) := by
  unfold State.idleFrom
  repeat' (first
    | with_reducible assumption
    | extract_lets
    | with_reducible apply State.setClu_keeps
    | with_reducible apply keeps_foldl
    | split
    | intro _
  )

theorem State.dashed_keeps {s0 : State} {s : State} {cs : List Nat} (h_s : Keeps s0 s) :
    Keeps s0 (State.dashed s cs) := by
  unfold State.dashed
  repeat' (first
    | with_reducible assumption
    | extract_lets
    | with_reducible apply State.onPwr_keeps
  )

theorem State.loadUcode_keeps {s0 : State} {s : State} {c : Nat} (h_s : Keeps s0 s) :
    Keeps s0 (State.loadUcode s c) := by
  unfold State.loadUcode
  repeat' (first
    | with_reducible assumption
    | extract_lets
    | with_reducible apply State.onBrg_keeps
    | with_reducible refine keeps_fst (by assumption) ?_
    | with_reducible refine keeps_okE (st := fun a => a) (by assumption) ?_
    | with_reducible refine keeps_okP (by assumption) ?_
    | with_reducible refine keeps_someO (st := fun a => a) (by assumption) ?_
    | with_reducible refine keeps_someP (by assumption) ?_
    | with_reducible refine keeps_nextR (by assumption) ?_
    | with_reducible refine keeps_okM (by assumption) ?_ ?_
    | with_reducible refine keeps_errM (by assumption) ?_ ?_
    | dsimp only
    | split
    | intro _
    | assumption
  )

theorem State.dropUcode_keeps {s0 : State} {s : State} {c : Nat} (h_s : Keeps s0 s) :
    Keeps s0 (State.dropUcode s c) := by
  unfold State.dropUcode
  repeat' (first
    | with_reducible assumption
    | extract_lets
    | with_reducible apply State.onBrg_keeps
    | with_reducible refine keeps_fst (by assumption) ?_
    | with_reducible refine keeps_okE (st := fun a => a) (by assumption) ?_
    | with_reducible refine keeps_okP (by assumption) ?_
    | with_reducible refine keeps_someO (st := fun a => a) (by assumption) ?_
    | with_reducible refine keeps_someP (by assumption) ?_
    | with_reducible refine keeps_nextR (by assumption) ?_
    | with_reducible refine keeps_okM (by assumption) ?_ ?_
    | with_reducible refine keeps_errM (by assumption) ?_ ?_
    | dsimp only
    | split
    | intro _
    | assumption
  )

theorem State.wakeCluster_keeps {s0 : State} {s : State} {c : Nat} (h_s : Keeps s0 s) :
    Keeps s0 (State.wakeCluster s c) := by
  unfold State.wakeCluster
  repeat' (first
    | with_reducible assumption
    | with_reducible apply State.loadUcode_keeps
    | with_reducible apply State.wake_keeps
    | extract_lets
    | with_reducible apply State.dashed_keeps
    | with_reducible apply State.noteNonempty_keeps
    | with_reducible apply State.setClu_keeps
    | (with_reducible refine State.modMbox_keeps ?_ ?_ <;> [(first | exact Or.inl (Nat.le_refl _) | exact Or.inr (Nat.zero_le _)); skip])
    | split
  )

end Sys2Proof.Machine
end

