-- ==== Sys2Proof/Laws/KeepsCrypto.lean ====
section
/-!
SUPPORT. Every operation of Machine/Crypto.lean keeps (`Keeps`).
-/

set_option linter.unreachableTactic false
set_option linter.unusedTactic false

namespace Sys2Proof.Machine

theorem State.asked_keeps {s0 : State} {s : State} {n : Nat} (h_s : Keeps s0 s) :
    Keeps s0 (State.asked s n) := by
  unfold State.asked
  repeat' (first
    | with_reducible assumption
    | (with_reducible refine State.onSen_keeps ?_ ?_ ?_ ?_ <;> [rfl; rfl; rfl; skip])
  )

theorem State.installKey_keeps {s0 : State} {s : State} {k : KeySet} (h_s : Keeps s0 s) :
    Keeps s0 (State.installKey s k) := by
  unfold State.installKey
  repeat' (first
    | with_reducible assumption
    | (with_reducible refine State.onSen_keeps ?_ ?_ ?_ ?_ <;> [rfl; rfl; rfl; skip])
  )

theorem State.destroyKeys_keeps {s0 : State} {s : State} {p : KeySet → Bool} (h_s : Keeps s0 s) :
    Keeps s0 (State.destroyKeys s p) := by
  unfold State.destroyKeys
  repeat' (first
    | with_reducible assumption
    | (with_reducible refine State.onSen_keeps ?_ ?_ ?_ ?_ <;> [rfl; rfl; rfl; skip])
  )

end Sys2Proof.Machine
end

