-- ==== Sys2Proof/Laws/KeepsLinkBase.lean ====
section
/-!
SUPPORT. Every operation of Machine/LinkBase.lean keeps (`Keeps`).
-/

set_option linter.unreachableTactic false
set_option linter.unusedTactic false

namespace Sys2Proof.Machine

theorem State.modLink_keeps {s0 : State} {s : State} {l : Nat} {f : Link → Link} (h_s : Keeps s0 s) :
    Keeps s0 (State.modLink s l f) := by
  unfold State.modLink
  repeat' (first
    | with_reducible assumption
    | with_reducible apply State.onLinks_keeps
  )

theorem State.pumpLinkGo_keeps {s0 : State} {l n : Nat} {s : State} (h : Keeps s0 s) : Keeps s0 (State.pumpLinkGo l n s) := by
  induction n generalizing s with
  | zero => exact h
  | succ n ih =>
    unfold State.pumpLinkGo
    split
    · exact h
    · split
      · exact h
      · refine ih ?_
        split
        · exact State.emit_keeps (State.emit_keeps (State.modLink_keeps h))
        · exact State.emit_keeps (State.modLink_keeps h)

theorem State.sendCtl_keeps {s0 : State} {s : State} {l : Nat} {nak : Bool} {req : Nat} {arg : Nat} (h_s : Keeps s0 s) :
    Keeps s0 (State.sendCtl s l nak req arg) := by
  unfold State.sendCtl
  repeat' (first
    | with_reducible assumption
    | extract_lets
    | with_reducible apply State.emit_keeps
    | with_reducible apply State.modLink_keeps
    | dsimp only
    | split
  )

theorem State.requestLink_keeps {s0 : State} {s : State} {l : Nat} {kind : Nat} {arg : Nat} (h_s : Keeps s0 s) :
    Keeps s0 (State.requestLink s l kind arg) := by
  unfold State.requestLink
  repeat' (first
    | with_reducible assumption
    | extract_lets
    | with_reducible apply State.modLink_keeps
    | with_reducible apply State.sendCtl_keeps
    | split
  )

theorem State.rekeyDue_keeps {s0 : State} {s : State} {l : Nat} (h_s : Keeps s0 s) :
    Keeps s0 (State.rekeyDue s l) := by
  unfold State.rekeyDue
  repeat' (first
    | with_reducible assumption
    | with_reducible apply State.requestLink_keeps
    | split
  )

theorem State.pumpLink_keeps {s0 : State} {s : State} {l : Nat} (h_s : Keeps s0 s) :
    Keeps s0 (State.pumpLink s l) := by
  unfold State.pumpLink
  repeat' (first
    | with_reducible assumption
    | extract_lets
    | with_reducible apply State.pumpLinkGo_keeps
    | with_reducible apply State.rekeyDue_keeps
    | split
  )

theorem State.egress_keeps {s0 : State} {s : State} {l : Nat} {flow : Nat} {m : Msg} {dl : Bool} {bulk : Bool} (h_s : Keeps s0 s) :
    Keeps s0 (State.egress s l flow m dl bulk) := by
  unfold State.egress
  repeat' (first
    | with_reducible assumption
    | extract_lets
    | with_reducible apply State.modLink_keeps
    | with_reducible apply State.pumpLink_keeps
    | dsimp only
    | split
  )

theorem State.sendMsg_keeps {s0 : State} {s : State} {flow : Nat} {m : Msg} {bulk : Bool} (h_s : Keeps s0 s) :
    Keeps s0 (State.sendMsg s flow m bulk).1 := by
  unfold State.sendMsg
  repeat' (first
    | with_reducible assumption
    | with_reducible apply State.egress_keeps
    | split
  )

theorem State.notifyLinks_keeps {s0 : State} {s : State} {l : Nat} {h : Handle} {prod : Word} (h_s : Keeps s0 s) :
    Keeps s0 (State.notifyLinks s l h prod) := by
  unfold State.notifyLinks
  repeat' (first
    | with_reducible assumption
    | extract_lets
    | with_reducible apply State.sendMsg_keeps
    | with_reducible apply keeps_foldl
    | intro _
  )

theorem State.ensureSeal_keeps {s0 : State} {s : State} {c : Nat} {l : Nat} (h_s : Keeps s0 s) :
    KeepsO (fun a => a) s0 (State.ensureSeal s c l) := by
  unfold State.ensureSeal
  repeat' (first
    | with_reducible assumption
    | with_reducible apply keepsO_none
    | extract_lets
    | with_reducible apply State.asked_keeps
    | with_reducible apply State.drew_keeps
    | with_reducible apply State.emit_keeps
    | with_reducible apply keepsO_some
    | (with_reducible refine State.onSen_keeps ?_ ?_ ?_ ?_ <;> [rfl; rfl; rfl; skip])
    | dsimp only
    | split
  )

theorem State.takeSeal_keeps {s0 : State} {s : State} {c : Nat} {a : Nat} {m : Msg} (h_s : Keeps s0 s) :
    KeepsE Prod.fst s0 (State.takeSeal s c a m) := by
  unfold State.takeSeal
  repeat' (first
    | with_reducible assumption
    | with_reducible apply keepsE_error
    | with_reducible apply keepsO_none
    | extract_lets
    | with_reducible apply State.ensureSeal_keeps
    | (with_reducible refine State.onSen_keeps ?_ ?_ ?_ ?_ <;> [rfl; rfl; rfl; skip])
    | with_reducible apply keepsE_ok
    | with_reducible apply keepsE_pure
    | with_reducible apply keepsE_bind
    | with_reducible apply keepsE_throw
    | with_reducible refine keeps_fst (by assumption) ?_
    | with_reducible refine keeps_okE (st := fun a => a) (by assumption) ?_
    | with_reducible refine keeps_okP (by assumption) ?_
    | with_reducible refine keeps_someO (st := fun a => a) (by assumption) ?_
    | with_reducible refine keeps_someP (by assumption) ?_
    | with_reducible refine keeps_nextR (by assumption) ?_
    | with_reducible refine keeps_okM (by assumption) ?_ ?_
    | with_reducible refine keeps_errM (by assumption) ?_ ?_
    | dsimp only
    | split
    | intro _
    | assumption
  )

theorem State.absorbCtx_keeps {s0 : State} {s : State} {h : Handle} (h_s : Keeps s0 s) :
    Keeps s0 (State.absorbCtx s h) := by
  unfold State.absorbCtx
  repeat' (first
    | with_reducible assumption
    | with_reducible apply State.onLinks_keeps
  )

theorem State.dropRemote_keeps {s0 : State} {s : State} {ref : DWord} {flow : Nat} {h : Handle} (h_s : Keeps s0 s) :
    Keeps s0 (State.dropRemote s ref flow h) := by
  unfold State.dropRemote
  repeat' (first
    | with_reducible assumption
    | extract_lets
    | with_reducible apply State.modLink_keeps
    | with_reducible apply State.sendMsg_keeps
    | with_reducible apply keeps_foldl
    | dsimp only
    | intro _
  )

end Sys2Proof.Machine
end

