-- ==== Sys2Proof/Laws/KeepsPool.lean ====
section
/-!
SUPPORT. Every operation of Machine/Pool.lean keeps (`Keeps`).
-/

set_option linter.unreachableTactic false
set_option linter.unusedTactic false

namespace Sys2Proof.Machine

theorem State.sampleAccess_keeps {s0 : State} {s : State} {lpf : Nat} {k : Nat} {who : By} (h_s : Keeps s0 s) :
    Keeps s0 (State.sampleAccess s lpf k who) := by
  unfold State.sampleAccess
  repeat' (first
    | with_reducible assumption
    | extract_lets
    | with_reducible apply State.modStack_keeps
    | (with_reducible refine State.onPool_keeps ?_ ?_ <;> [rfl; skip])
    | split
  )

theorem State.sampleFrame_keeps {s0 : State} {s : State} {lpf : Nat} {who : By} (h_s : Keeps s0 s) :
    Keeps s0 (State.sampleFrame s lpf who) := by
  unfold State.sampleFrame
  repeat' (first
    | with_reducible assumption
    | with_reducible apply State.sampleAccess_keeps
    | split
  )

theorem State.sampleTable_keeps {s0 : State} {s : State} {lpf : Nat} {who : By} (h_s : Keeps s0 s) :
    Keeps s0 (State.sampleTable s lpf who) := by
  unfold State.sampleTable
  repeat' (first
    | with_reducible assumption
    | extract_lets
    | with_reducible apply State.sampleFrame_keeps
    | with_reducible refine keeps_fst (by assumption) ?_
    | with_reducible refine keeps_okE (st := fun a => a) (by assumption) ?_
    | with_reducible refine keeps_okP (by assumption) ?_
    | with_reducible refine keeps_someO (st := fun a => a) (by assumption) ?_
    | with_reducible refine keeps_someP (by assumption) ?_
    | with_reducible refine keeps_nextR (by assumption) ?_
    | with_reducible refine keeps_okM (by assumption) ?_ ?_
    | with_reducible refine keeps_errM (by assumption) ?_ ?_
    | dsimp only
    | split
    | intro _
    | assumption
  )

theorem State.dirtyHost_keeps {s0 : State} {s : State} {l : Nat} {addr : Nat} {len : Nat} (h_s : Keeps s0 s) :
    Keeps s0 (State.dirtyHost s l addr len) := by
  unfold State.dirtyHost
  repeat' (first
    | with_reducible assumption
    | with_reducible apply State.modSlice_keeps
  )

theorem State.dirtyFrame_keeps {s0 : State} {s : State} {l : Nat} {lpf : Nat} (h_s : Keeps s0 s) :
    Keeps s0 (State.dirtyFrame s l lpf) := by
  unfold State.dirtyFrame
  repeat' (first
    | with_reducible assumption
    | with_reducible apply State.modSlice_keeps
  )

theorem State.hostMiss_keeps {s0 : State} {s : State} {port : Nat} {pasid : Nat} {addr : Option Nat} {data : List Byte} {who : PriFor} (h_s : Keeps s0 s) :
    Keeps s0 (State.hostMiss s port pasid addr data who).1 := by
  unfold State.hostMiss
  repeat' (first
    | with_reducible assumption
    | with_reducible apply State.hold_keeps
    | extract_lets
    | with_reducible apply State.drew_keeps
    | with_reducible apply State.modPort_keeps
    | with_reducible apply State.emit_keeps
    | split
  )

theorem State.hostPut_keeps {s0 : State} {s : State} {c : Nat} {l : Nat} {port : Nat} {pasid : Nat} {addr : Nat} {data : List Byte} (h_s : Keeps s0 s) :
    Keeps s0 (State.hostPut s c l port pasid addr data) := by
  unfold State.hostPut
  repeat' (first
    | with_reducible assumption
    | extract_lets
    | with_reducible apply State.account_keeps
    | with_reducible apply State.dirtyHost_keeps
    | with_reducible apply State.emit_keeps
    | with_reducible apply keeps_foldl
    | with_reducible apply keeps_foldl_fst
    | with_reducible refine keeps_fst (by assumption) ?_
    | with_reducible refine keeps_okE (st := fun a => a) (by assumption) ?_
    | with_reducible refine keeps_okP (by assumption) ?_
    | with_reducible refine keeps_someO (st := fun a => a) (by assumption) ?_
    | with_reducible refine keeps_someP (by assumption) ?_
    | with_reducible refine keeps_nextR (by assumption) ?_
    | with_reducible refine keeps_okM (by assumption) ?_ ?_
    | with_reducible refine keeps_errM (by assumption) ?_ ?_
    | dsimp only
    | split
    | intro _
    | assumption
  )

theorem State.hostWrite_keeps {s0 : State} {s : State} {c : Nat} {addr : Nat} {data : List Byte} {who : PriFor} (h_s : Keeps s0 s) :
    Keeps s0 (State.hostWrite s c addr data who).1 := by
  unfold State.hostWrite
  repeat' (first
    | with_reducible assumption
    | with_reducible apply State.hostPut_keeps
    | extract_lets
    | with_reducible apply State.account_keeps
    | with_reducible apply State.dirtyHost_keeps
    | with_reducible apply State.emit_keeps
    | with_reducible apply State.hostMiss_keeps
    | with_reducible refine keeps_fst (by assumption) ?_
    | split
  )

theorem State.askHost_keeps {s0 : State} {s : State} {l : Nat} {addr : Nat} {n : Nat} (h_s : Keeps s0 s) :
    Keeps s0 (State.askHost s l addr n) := by
  unfold State.askHost
  repeat' (first
    | with_reducible assumption
    | extract_lets
    | with_reducible apply State.emit_keeps
    | with_reducible apply keeps_foldl
    | with_reducible apply keeps_foldl_fst
    | with_reducible refine keeps_fst (by assumption) ?_
    | with_reducible refine keeps_okE (st := fun a => a) (by assumption) ?_
    | with_reducible refine keeps_okP (by assumption) ?_
    | with_reducible refine keeps_someO (st := fun a => a) (by assumption) ?_
    | with_reducible refine keeps_someP (by assumption) ?_
    | with_reducible refine keeps_nextR (by assumption) ?_
    | with_reducible refine keeps_okM (by assumption) ?_ ?_
    | with_reducible refine keeps_errM (by assumption) ?_ ?_
    | dsimp only
    | split
    | intro _
    | assumption
  )

theorem State.hostRead_keeps {s0 : State} {s : State} {c : Nat} {addr : Nat} {n : Nat} (h_s : Keeps s0 s) :
    Keeps s0 (State.hostRead s c addr n).1 := by
  unfold State.hostRead
  repeat' (first
    | with_reducible assumption
    | with_reducible apply State.askHost_keeps
    | extract_lets
    | with_reducible apply State.account_keeps
    | with_reducible apply State.drew_keeps
  )

theorem State.cache_keeps {s0 : State} {s : State} {who : By} {ent : TlbEnt} {l : Leaf} (h_s : Keeps s0 s) :
    Keeps s0 (State.cache s who ent l) := by
  unfold State.cache
  repeat' (first
    | with_reducible assumption
    | extract_lets
    | (with_reducible refine State.onPool_keeps ?_ ?_ <;> [rfl; skip])
  )

theorem State.translate_keeps {s0 : State} {s : State} {who : By} {c : Nat} {page : Nat} (h_s : Keeps s0 s) :
    Keeps s0 (State.translate s who c page).1 := by
  unfold State.translate
  repeat' (first
    | with_reducible assumption
    | with_reducible apply State.sampleTable_keeps
    | extract_lets
    | with_reducible apply State.cache_keeps
    | with_reducible apply State.drew_keeps
    | with_reducible apply State.sampleFrame_keeps
    | with_reducible apply keeps_foldl
    | dsimp only
    | split
    | intro _
  )

theorem State.integFail_keeps {s0 : State} {s : State} {k : Nat} {i : Nat} (h_s : Keeps s0 s) :
    Keeps s0 (State.integFail s k i) := by
  unfold State.integFail
  repeat' (first
    | with_reducible assumption
    | extract_lets
    | with_reducible apply State.raiseEdge_keeps
    | (with_reducible refine State.onSen_keeps ?_ ?_ ?_ ?_ <;> [rfl; rfl; rfl; skip])
    | split
  )

theorem State.bindFrame_keeps {s0 : State} {s : State} {c : Nat} {x : Ctx} {lpf : Nat} {page : Nat} {f : Frame} {who : By} {pref : Option Nat} (h_s : Keeps s0 s) :
    KeepsO Prod.fst s0 (State.bindFrame s c x lpf page f who pref) := by
  unfold State.bindFrame
  repeat' (first
    | with_reducible assumption
    | with_reducible apply keepsO_none
    | extract_lets
    | with_reducible apply State.account_keeps
    | with_reducible apply State.modFrame_keeps
    | with_reducible apply keepsO_some
    | (with_reducible refine State.onPool_keeps ?_ ?_ <;> [rfl; skip])
    | split
  )

theorem State.readPiece_keeps {s0 : State} {s : State} {c : Nat} {who : By} {l : Leaf} {cva : Nat} {n : Nat} (h_s : Keeps s0 s) :
    Keeps s0 (State.readPiece s c who l cva n).1 := by
  unfold State.readPiece
  repeat' (first
    | with_reducible assumption
    | extract_lets
    | with_reducible apply State.account_keeps
    | with_reducible apply State.hostRead_keeps
    | with_reducible apply State.integFail_keeps
    | with_reducible apply State.sampleAccess_keeps
    | dsimp only
    | split
  )

theorem State.writePiece_keeps {s0 : State} {s : State} {c : Nat} {who : By} {pref : Option Nat} {l : Leaf} {cva : Nat} {d : List Byte} (h_s : Keeps s0 s) :
    Keeps s0 (State.writePiece s c who pref l cva d).1 := by
  unfold State.writePiece
  repeat' (first
    | with_reducible assumption
    | (with_reducible refine State.onPool_keeps ?_ ?_ <;> [rfl; skip])
    | extract_lets
    | with_reducible apply State.account_keeps
    | with_reducible apply State.bindFrame_keeps
    | with_reducible apply State.dirtyFrame_keeps
    | with_reducible apply State.hostWrite_keeps
    | with_reducible apply State.integFail_keeps
    | with_reducible apply State.modFrame_keeps
    | with_reducible apply State.sampleAccess_keeps
    | (with_reducible refine State.onPool_keepsW ?_ ?_ <;> [(first | exact fun w => Memory.wf_filter _ w | exact fun w => Memory.wf_memPut _ _ w | exact fun w => Memory.wf_memClear _ _ w); skip])
    | with_reducible refine keeps_fst (by assumption) ?_
    | with_reducible refine keeps_someP (by assumption) ?_
    | dsimp only
    | split
  )

theorem State.readGo_keeps {s0 : State} {c : Nat} {who : By} {n : Nat} {s : State} {cva len : Nat} (h : Keeps s0 s) :
    Keeps s0 (State.readGo c who n s cva len).1 := by
  induction n generalizing s cva len with
  | zero => exact h
  | succ n ih =>
    unfold State.readGo
    repeat' (first
      | with_reducible assumption
      | extract_lets
      | with_reducible apply State.translate_keeps
      | with_reducible apply State.readPiece_keeps
      | with_reducible apply ih
      | with_reducible refine keeps_fst (by assumption) ?_
      | dsimp only
      | split)

theorem State.writeGo_keeps {s0 : State} {c : Nat} {who : By} {pref : Option Nat} {n : Nat} {s : State} {cva : Nat} {d : List Byte} (h : Keeps s0 s) :
    Keeps s0 (State.writeGo c who pref n s cva d).1 := by
  induction n generalizing s cva d with
  | zero => exact h
  | succ n ih =>
    unfold State.writeGo
    repeat' (first
      | with_reducible assumption
      | extract_lets
      | with_reducible apply State.translate_keeps
      | with_reducible apply State.writePiece_keeps
      | with_reducible apply ih
      | with_reducible refine keeps_fst (by assumption) ?_
      | dsimp only
      | split)

theorem State.readCtx_keeps {s0 : State} {s : State} {c : Nat} {who : By} {cva : Nat} {len : Nat} (h_s : Keeps s0 s) :
    Keeps s0 (State.readCtx s c who cva len).1 := by
  unfold State.readCtx
  repeat' (first
    | with_reducible assumption
    | with_reducible apply State.readGo_keeps
  )

theorem State.writeCtx_keeps {s0 : State} {s : State} {c : Nat} {who : By} {pref : Option Nat} {cva : Nat} {d : List Byte} (h_s : Keeps s0 s) :
    Keeps s0 (State.writeCtx s c who pref cva d).1 := by
  unfold State.writeCtx
  repeat' (first
    | with_reducible assumption
    | with_reducible apply State.writeGo_keeps
  )

theorem State.pumpGo_keeps {s0 : State} {n : Nat} {s : State} (h : Keeps s0 s) : Keeps s0 (State.pumpGo n s) := by
  induction n generalizing s with
  | zero => exact h
  | succ n ih =>
    unfold State.pumpGo
    split
    · exact h
    · split
      · rename_i w r _ hc
        simp only [Bool.and_eq_true, decide_eq_true_eq] at hc
        exact ih (State.mbxPush_keeps hc.2 (State.onPool_keeps rfl h))
      · exact h

theorem State.pump_keeps {s0 : State} {s : State} (h_s : Keeps s0 s) :
    Keeps s0 (State.pump s) := by
  unfold State.pump
  repeat' (first
    | with_reducible assumption
    | with_reducible apply State.pumpGo_keeps
  )

theorem State.placeReq_keeps {s0 : State} {s : State} {r : Req} (h_s : Keeps s0 s) :
    Keeps s0 (State.placeReq s r) := by
  unfold State.placeReq
  repeat' (first
    | with_reducible assumption
    | extract_lets
    | with_reducible apply State.pump_keeps
    | (with_reducible refine State.onPool_keeps ?_ ?_ <;> [rfl; skip])
  )

theorem State.flushReqs_keeps {s0 : State} {l : List Req} {s : State} (h : Keeps s0 s) : Keeps s0 (State.flushReqs l s) := by
  induction l generalizing s with
  | nil => exact State.onPool_keeps rfl h
  | cons r l ih =>
    unfold State.flushReqs
    split
    · exact State.onPool_keeps rfl h
    · exact ih (State.placeReq_keeps h)

theorem State.sendPd_keeps {s0 : State} {s : State} {kind : Nat} {ctx : Handle} {obj : Handle} {base : Nat} {frames : Nat} (h_s : Keeps s0 s) :
    Keeps s0 (State.sendPd s kind ctx obj base frames) := by
  unfold State.sendPd
  repeat' (first
    | with_reducible assumption
    | extract_lets
    | with_reducible apply State.placeReq_keeps
    | (with_reducible refine State.onPool_keeps ?_ ?_ <;> [rfl; skip])
    | split
  )

theorem State.freeReq_keeps {s0 : State} {s : State} {r : Nat} (h_s : Keeps s0 s) :
    Keeps s0 (State.freeReq s r) := by
  unfold State.freeReq
  repeat' (first
    | with_reducible assumption
    | extract_lets
    | with_reducible apply State.flushReqs_keeps
    | with_reducible apply State.raiseEdge_keeps
    | (with_reducible refine State.onPool_keeps ?_ ?_ <;> [rfl; skip])
    | split
  )

theorem State.unback_keeps {s0 : State} {s : State} {fs : List Nat} (h_s : Keeps s0 s) :
    Keeps s0 (State.unback s fs) := by
  unfold State.unback
  repeat' (first
    | with_reducible assumption
    | (with_reducible refine State.onPool_keepsW ?_ ?_ <;> [(first | exact fun w => Memory.wf_filter _ w | exact fun w => Memory.wf_memPut _ _ w | exact fun w => Memory.wf_memClear _ _ w); skip])
  )

theorem State.capacityChanged_keeps {s0 : State} {s : State} (h_s : Keeps s0 s) :
    Keeps s0 (State.capacityChanged s) := by
  unfold State.capacityChanged
  repeat' (first
    | with_reducible assumption
    | with_reducible apply State.sendPd_keeps
  )

end Sys2Proof.Machine
end

