-- ==== Sys2Proof/Laws/KeepsContexts.lean ====
section
/-!
SUPPORT. Every operation of Machine/Contexts.lean keeps (`Keeps`).
-/

set_option linter.unreachableTactic false
set_option linter.unusedTactic false

namespace Sys2Proof.Machine

theorem State.writeRing_keeps {s0 : State} {s : State} {c : Nat} {r : Ring} {off : Nat} {d : List Byte} (h_s : Keeps s0 s) :
    Keeps s0 (State.writeRing s c r off d).1 := by
  unfold State.writeRing
  repeat' (first
    | with_reducible assumption
    | extract_lets
    | with_reducible apply State.hostWrite_keeps
    | with_reducible apply State.writeCtx_keeps
    | with_reducible refine keeps_fst (by assumption) ?_
    | split
  )

theorem State.postRaw_keeps {s0 : State} {s : State} {c : Nat} {x : Ctx} {r : EvRec} (h_s : Keeps s0 s) :
    Keeps s0 (State.postRaw s c x r).1 := by
  unfold State.postRaw
  repeat' (first
    | with_reducible assumption
    | extract_lets
    | with_reducible apply State.emit_keeps
    | with_reducible apply State.modCtx_keeps
    | with_reducible apply State.notifyLinks_keeps
    | with_reducible apply State.raiseVec_keeps
    | with_reducible apply State.writeRing_keeps
    | with_reducible refine keeps_fst (by assumption) ?_
    | dsimp only
    | split
    | (with_reducible refine keeps_mk ?_ ?_ ?_ ?_ ?_ <;> [rfl; rfl; rfl; rfl; (first | with_reducible assumption | with_reducible apply State.emit_keeps | with_reducible apply State.modCtx_keeps | with_reducible apply State.notifyLinks_keeps | with_reducible apply State.raiseVec_keeps | with_reducible apply State.writeRing_keeps | with_reducible apply State.onObjs_keeps | with_reducible apply State.onSched_keeps | with_reducible apply State.onSlices_keeps | with_reducible apply State.onLinks_keeps | with_reducible apply State.onBrg_keeps | with_reducible apply State.onPwr_keeps | with_reducible refine keeps_fst (by assumption) ?_ | with_reducible refine keeps_okP (by assumption) ?_ | with_reducible refine keeps_someP (by assumption) ?_ | with_reducible refine keeps_okE (st := fun a => a) (by assumption) ?_ | with_reducible refine keeps_someO (st := fun a => a) (by assumption) ?_)])
  )

theorem State.drainGo_keeps {s0 : State} {c n : Nat} {s : State} (h : Keeps s0 s) : Keeps s0 (State.drainGo c n s) := by
  induction n generalizing s with
  | zero => exact h
  | succ n ih =>
    unfold State.drainGo
    repeat' (first
      | with_reducible assumption
      | with_reducible apply ih
      | with_reducible apply State.modCtx_keeps
      | with_reducible apply State.postRaw_keeps
      | with_reducible refine keeps_fst (by assumption) ?_
      | split)

theorem State.drain_keeps {s0 : State} {s : State} {c : Nat} (h_s : Keeps s0 s) :
    Keeps s0 (State.drain s c) := by
  unfold State.drain
  repeat' (first
    | with_reducible assumption
    | with_reducible apply State.drainGo_keeps
    | split
  )

theorem State.postEvent_keeps {s0 : State} {s : State} {c : Nat} {r : EvRec} (h_s : Keeps s0 s) :
    Keeps s0 (State.postEvent s c r) := by
  unfold State.postEvent
  repeat' (first
    | with_reducible assumption
    | extract_lets
    | with_reducible apply State.drain_keeps
    | with_reducible apply State.modCtx_keeps
    | split
  )

theorem State.reply_keeps {s0 : State} {s : State} {q : Nat} {n : Word} {tag : Word} {op : Nat} {st : Status} {flags : Nat} {res : List Nat} (h_s : Keeps s0 s) :
    Keeps s0 (State.reply s q n tag op st flags res) := by
  unfold State.reply
  repeat' (first
    | with_reducible assumption
    | extract_lets
    | with_reducible apply State.emit_keeps
    | with_reducible apply State.modQueue_keeps
    | with_reducible apply State.writeRing_keeps
    | with_reducible refine keeps_fst (by assumption) ?_
    | dsimp only
    | split
    | (with_reducible refine keeps_mk ?_ ?_ ?_ ?_ ?_ <;> [rfl; rfl; rfl; rfl; (first | with_reducible assumption | with_reducible apply State.emit_keeps | with_reducible apply State.modQueue_keeps | with_reducible apply State.writeRing_keeps | with_reducible apply State.onObjs_keeps | with_reducible apply State.onSched_keeps | with_reducible apply State.onSlices_keeps | with_reducible apply State.onLinks_keeps | with_reducible apply State.onBrg_keeps | with_reducible apply State.onPwr_keeps | with_reducible refine keeps_fst (by assumption) ?_ | with_reducible refine keeps_okP (by assumption) ?_ | with_reducible refine keeps_someP (by assumption) ?_ | with_reducible refine keeps_okE (st := fun a => a) (by assumption) ?_ | with_reducible refine keeps_someO (st := fun a => a) (by assumption) ?_)])
  )

theorem State.flushReps_keeps {s0 : State} {s : State} {q : Nat} (h_s : Keeps s0 s) :
    Keeps s0 (State.flushReps s q) := by
  unfold State.flushReps
  repeat' (first
    | with_reducible assumption
    | extract_lets
    | with_reducible apply State.modQueue_keeps
    | with_reducible apply State.reply_keeps
    | with_reducible apply keeps_foldl
    | split
    | intro _
  )

theorem State.releaseMo_keeps {s0 : State} {s : State} {m : Nat} {x : Mo} (h_s : Keeps s0 s) :
    Keeps s0 (State.releaseMo s m x) := by
  unfold State.releaseMo
  repeat' (first
    | with_reducible assumption
    | extract_lets
    | with_reducible apply State.sendPd_keeps
    | with_reducible apply State.unback_keeps
    | with_reducible apply State.onObjs_keeps
    | split
  )

theorem State.decMo_keeps {s0 : State} {s : State} {m : Nat} (h_s : Keeps s0 s) :
    Keeps s0 (State.decMo s m) := by
  unfold State.decMo
  repeat' (first
    | with_reducible assumption
    | with_reducible apply State.modMo_keeps
    | with_reducible apply State.releaseMo_keeps
    | split
  )

theorem State.incMo_keeps {s0 : State} {s : State} {m : Nat} (h_s : Keeps s0 s) :
    Keeps s0 (State.incMo s m) := by
  unfold State.incMo
  repeat' (first
    | with_reducible assumption
    | with_reducible apply State.modMo_keeps
  )

theorem State.decFence_keeps {s0 : State} {s : State} {f : Nat} (h_s : Keeps s0 s) :
    Keeps s0 (State.decFence s f) := by
  unfold State.decFence
  repeat' (first
    | with_reducible assumption
    | with_reducible apply State.modFence_keeps
    | with_reducible apply State.onObjs_keeps
    | split
  )

theorem State.incFence_keeps {s0 : State} {s : State} {f : Nat} (h_s : Keeps s0 s) :
    Keeps s0 (State.incFence s f) := by
  unfold State.incFence
  repeat' (first
    | with_reducible assumption
    | with_reducible apply State.modFence_keeps
  )

theorem State.decProg_keeps {s0 : State} {s : State} {p : Nat} (h_s : Keeps s0 s) :
    Keeps s0 (State.decProg s p) := by
  unfold State.decProg
  repeat' (first
    | with_reducible assumption
    | extract_lets
    | with_reducible apply State.decMo_keeps
    | with_reducible apply State.modProg_keeps
    | with_reducible apply State.onObjs_keeps
    | split
  )

theorem State.incProg_keeps {s0 : State} {s : State} {p : Nat} (h_s : Keeps s0 s) :
    Keeps s0 (State.incProg s p) := by
  unfold State.incProg
  repeat' (first
    | with_reducible assumption
    | with_reducible apply State.modProg_keeps
  )

theorem State.endWait_keeps {s0 : State} {s : State} {q : Nat} {x : Queue} {w : Wait} {st : Status} {nxt : QState} {halt : Status} (h_s : Keeps s0 s) :
    Keeps s0 (State.endWait s q x w st nxt halt) := by
  unfold State.endWait
  repeat' (first
    | with_reducible assumption
    | extract_lets
    | with_reducible apply State.decFence_keeps
    | with_reducible apply State.modQueue_keeps
    | with_reducible apply State.reply_keeps
  )

theorem State.wake_keeps {s0 : State} {s : State} {q : Nat} (h_s : Keeps s0 s) :
    Keeps s0 (State.wake s q) := by
  unfold State.wake
  repeat' (first
    | with_reducible assumption
    | extract_lets
    | with_reducible apply State.endWait_keeps
    | with_reducible apply State.postEvent_keeps
    | split
  )

theorem State.releaseWaiters_keeps {s0 : State} {s : State} {f : Nat} (h_s : Keeps s0 s) :
    Keeps s0 (State.releaseWaiters s f) := by
  unfold State.releaseWaiters
  repeat' (first
    | with_reducible assumption
    | extract_lets
    | with_reducible apply State.decFence_keeps
    | with_reducible apply State.postEvent_keeps
    | with_reducible apply State.wake_keeps
    | with_reducible apply State.onObjs_keeps
    | with_reducible apply keeps_foldl
    | dsimp only
    | split
    | intro _
  )

theorem State.faultFence_keeps {s0 : State} {s : State} {f : Nat} {st : Status} {d : DWord} (h_s : Keeps s0 s) :
    Keeps s0 (State.faultFence s f st d) := by
  unfold State.faultFence
  repeat' (first
    | with_reducible assumption
    | extract_lets
    | with_reducible apply State.decFence_keeps
    | with_reducible apply State.modFence_keeps
    | with_reducible apply State.postEvent_keeps
    | with_reducible apply State.wake_keeps
    | with_reducible apply State.onObjs_keeps
    | with_reducible apply keeps_foldl
    | dsimp only
    | split
    | intro _
  )

theorem State.signal_keeps {s0 : State} {s : State} {f : Nat} {v : DWord} (h_s : Keeps s0 s) :
    Keeps s0 (State.signal s f v).1 := by
  unfold State.signal
  repeat' (first
    | with_reducible assumption
    | extract_lets
    | with_reducible apply State.faultFence_keeps
    | with_reducible apply State.modFence_keeps
    | with_reducible apply State.releaseWaiters_keeps
    | split
  )

theorem State.flushSignals_keeps {s0 : State} {s : State} {q : Nat} (h_s : Keeps s0 s) :
    Keeps s0 (State.flushSignals s q) := by
  unfold State.flushSignals
  repeat' (first
    | with_reducible assumption
    | extract_lets
    | with_reducible apply State.decFence_keeps
    | with_reducible apply State.modQueue_keeps
    | with_reducible apply State.reply_keeps
    | with_reducible apply State.signal_keeps
    | with_reducible apply keeps_foldl
    | dsimp only
    | split
    | intro _
  )

theorem State.flushGo_keeps {s0 : State} {n : Nat} {s : State} (h : Keeps s0 s) : Keeps s0 (State.flushGo n s) := by
  induction n generalizing s with
  | zero => exact h
  | succ n ih =>
    unfold State.flushGo
    split
    · exact ih (State.flushSignals_keeps h)
    · exact h

theorem State.flushAll_keeps {s0 : State} {s : State} (h_s : Keeps s0 s) :
    Keeps s0 (State.flushAll s) := by
  unfold State.flushAll
  repeat' (first
    | with_reducible assumption
    | with_reducible apply State.flushGo_keeps
  )

theorem State.charge_keeps {s0 : State} {s : State} {d : Disp} (h_s : Keeps s0 s) :
    Keeps s0 (State.charge s d) := by
  unfold State.charge
  repeat' (first
    | with_reducible assumption
    | extract_lets
    | with_reducible apply State.modCtx_keeps
    | with_reducible apply State.modDisp_keeps
    | with_reducible apply State.modQueue_keeps
    | with_reducible apply State.modSlice_keeps
    | split
  )

theorem State.soil_keeps {s0 : State} {s : State} {d : Disp} (h_s : Keeps s0 s) :
    Keeps s0 (State.soil s d) := by
  unfold State.soil
  repeat' (first
    | with_reducible assumption
    | extract_lets
    | with_reducible apply State.onSched_keeps
    | with_reducible apply keeps_foldl
    | with_reducible apply keeps_foldl_fst
    | with_reducible refine keeps_fst (by assumption) ?_
    | with_reducible refine keeps_okE (st := fun a => a) (by assumption) ?_
    | with_reducible refine keeps_okP (by assumption) ?_
    | with_reducible refine keeps_someO (st := fun a => a) (by assumption) ?_
    | with_reducible refine keeps_someP (by assumption) ?_
    | with_reducible refine keeps_nextR (by assumption) ?_
    | with_reducible refine keeps_okM (by assumption) ?_ ?_
    | with_reducible refine keeps_errM (by assumption) ?_ ?_
    | dsimp only
    | split
    | intro _
    | assumption
  )

theorem State.zeroed_keeps {s0 : State} {s : State} {p : Nat → Nat → Bool} (h_s : Keeps s0 s) :
    Keeps s0 (State.zeroed s p) := by
  unfold State.zeroed
  repeat' (first
    | with_reducible assumption
    | extract_lets
    | with_reducible apply State.onSched_keeps
    | with_reducible refine keeps_fst (by assumption) ?_
    | with_reducible refine keeps_okE (st := fun a => a) (by assumption) ?_
    | with_reducible refine keeps_okP (by assumption) ?_
    | with_reducible refine keeps_someO (st := fun a => a) (by assumption) ?_
    | with_reducible refine keeps_someP (by assumption) ?_
    | with_reducible refine keeps_nextR (by assumption) ?_
    | with_reducible refine keeps_okM (by assumption) ?_ ?_
    | with_reducible refine keeps_errM (by assumption) ?_ ?_
    | dsimp only
    | split
    | intro _
    | assumption
  )

theorem State.endDisp_keeps {s0 : State} {s : State} {d : Disp} {how : Option Status} (h_s : Keeps s0 s) :
    Keeps s0 (State.endDisp s d how) := by
  unfold State.endDisp
  repeat' (first
    | with_reducible assumption
    | with_reducible apply KvEnv.work_keeps
    | with_reducible apply State.soil_keeps
    | extract_lets
    | with_reducible apply State.account_keeps
    | with_reducible apply State.charge_keeps
    | with_reducible apply State.decFence_keeps
    | with_reducible apply State.decMo_keeps
    | with_reducible apply State.decProg_keeps
    | with_reducible apply State.dropRemote_keeps
    | with_reducible apply State.faultFence_keeps
    | with_reducible apply State.flushSignals_keeps
    | with_reducible apply State.idleFrom_keeps
    | with_reducible apply State.signal_keeps
    | with_reducible apply State.onObjs_keeps
    | with_reducible apply State.onSched_keeps
    | with_reducible apply keeps_foldl
    | (with_reducible conv => arg 2; whnf); split
  )

theorem State.haltQueue_keeps {s0 : State} {s : State} {q : Nat} {st : Status} (h_s : Keeps s0 s) :
    Keeps s0 (State.haltQueue s q st) := by
  unfold State.haltQueue
  repeat' (first
    | with_reducible assumption
    | with_reducible apply State.endWait_keeps
    | with_reducible apply State.modQueue_keeps
    | split
  )

theorem State.enterFaultBy_keeps {s0 : State} {s : State} {c : Nat} {f : FaultRegs} {ref : DWord} (h_s : Keeps s0 s) :
    Keeps s0 (State.enterFaultBy s c f ref) := by
  unfold State.enterFaultBy
  repeat' (first
    | with_reducible assumption
    | extract_lets
    | with_reducible apply State.absorbCtx_keeps
    | with_reducible apply State.endDisp_keeps
    | with_reducible apply State.haltQueue_keeps
    | with_reducible apply State.modCtx_keeps
    | with_reducible apply keeps_foldl
    | dsimp only
    | split
    | intro _
  )

theorem State.enterFault_keeps {s0 : State} {s : State} {c : Nat} {f : FaultRegs} (h_s : Keeps s0 s) :
    Keeps s0 (State.enterFault s c f) := by
  unfold State.enterFault
  repeat' (first
    | with_reducible assumption
    | with_reducible apply State.enterFaultBy_keeps
  )

theorem State.settleGo_keeps {s0 : State} {n : Nat} {s : State} (h : Keeps s0 s) : Keeps s0 (State.settleGo n s) := by
  induction n generalizing s with
  | zero => exact h
  | succ n ih =>
    unfold State.settleGo
    split
    · exact h
    · exact ih (State.enterFault_keeps h)

theorem State.settle_keeps {s0 : State} {s : State} (h_s : Keeps s0 s) :
    Keeps s0 (State.settle s) := by
  unfold State.settle
  repeat' (first
    | with_reducible assumption
    | with_reducible apply State.settleGo_keeps
  )

theorem State.faultCtx_keeps {s0 : State} {s : State} {c : Nat} {f : FaultRegs} (h_s : Keeps s0 s) :
    Keeps s0 (State.faultCtx s c f) := by
  unfold State.faultCtx
  repeat' (first
    | with_reducible assumption
    | extract_lets
    | with_reducible apply State.enterFault_keeps
    | with_reducible apply State.settle_keeps
  )

theorem State.lateAnswer_keeps {s0 : State} {s : State} {q : Nat} {n : Word} {tag : Word} {op : Nat} {f : Option Nat} {fval : DWord} {st : Status} {res : List Nat} (h_s : Keeps s0 s) :
    Keeps s0 (State.lateAnswer s q n tag op f fval st res) := by
  unfold State.lateAnswer
  repeat' (first
    | with_reducible assumption
    | extract_lets
    | with_reducible apply State.decFence_keeps
    | with_reducible apply State.faultFence_keeps
    | with_reducible apply State.modQueue_keeps
    | with_reducible apply State.reply_keeps
    | with_reducible apply State.signal_keeps
    | dsimp only
    | split
    | (with_reducible conv => arg 2; whnf); split
  )

theorem State.late_keeps {s0 : State} {s : State} {p : PendSig} {op : Nat} {st : Status} {res : List Nat} (h_s : Keeps s0 s) :
    Keeps s0 (State.late s p op st res) := by
  unfold State.late
  repeat' (first
    | with_reducible assumption
    | with_reducible apply State.lateAnswer_keeps
  )

theorem State.failBack_keeps {s0 : State} {s : State} {b : Back} {st : Status} (h_s : Keeps s0 s) :
    Keeps s0 (State.failBack s b st) := by
  unfold State.failBack
  repeat' (first
    | with_reducible assumption
    | extract_lets
    | with_reducible apply State.lateAnswer_keeps
    | with_reducible apply State.unback_keeps
    | with_reducible apply State.onObjs_keeps
    | (with_reducible refine State.onPool_keeps ?_ ?_ <;> [rfl; skip])
  )

theorem State.lineCond_keeps {s0 : State} {s : State} (h_s : Keeps s0 s) :
    Keeps s0 (State.lineCond s) := by
  unfold State.lineCond
  repeat' (first
    | with_reducible assumption
    | extract_lets
    | with_reducible apply State.setCond_keeps
    | with_reducible refine keeps_fst (by assumption) ?_
    | with_reducible refine keeps_okE (st := fun a => a) (by assumption) ?_
    | with_reducible refine keeps_okP (by assumption) ?_
    | with_reducible refine keeps_someO (st := fun a => a) (by assumption) ?_
    | with_reducible refine keeps_someP (by assumption) ?_
    | with_reducible refine keeps_nextR (by assumption) ?_
    | with_reducible refine keeps_okM (by assumption) ?_ ?_
    | with_reducible refine keeps_errM (by assumption) ?_ ?_
    | dsimp only
    | split
    | intro _
    | assumption
  )

theorem State.offLine_keeps {s0 : State} {s : State} {e : FwWait} (h_s : Keeps s0 s) :
    Keeps s0 (State.offLine s e) := by
  unfold State.offLine
  repeat' (first
    | with_reducible assumption
    | extract_lets
    | with_reducible apply State.lineCond_keeps
    | with_reducible apply State.onObjs_keeps
    | with_reducible refine keeps_fst (by assumption) ?_
    | with_reducible refine keeps_okE (st := fun a => a) (by assumption) ?_
    | with_reducible refine keeps_okP (by assumption) ?_
    | with_reducible refine keeps_someO (st := fun a => a) (by assumption) ?_
    | with_reducible refine keeps_someP (by assumption) ?_
    | with_reducible refine keeps_nextR (by assumption) ?_
    | with_reducible refine keeps_okM (by assumption) ?_ ?_
    | with_reducible refine keeps_errM (by assumption) ?_ ?_
    | dsimp only
    | split
    | intro _
    | assumption
  )

theorem State.abortWait_keeps {s0 : State} {s : State} {e : FwWait} (h_s : Keeps s0 s) :
    Keeps s0 (State.abortWait s e) := by
  unfold State.abortWait
  repeat' (first
    | with_reducible assumption
    | extract_lets
    | with_reducible apply State.incFence_keeps
    | with_reducible apply State.lateAnswer_keeps
    | with_reducible apply State.offLine_keeps
    | with_reducible refine keeps_fst (by assumption) ?_
    | with_reducible refine keeps_okE (st := fun a => a) (by assumption) ?_
    | with_reducible refine keeps_okP (by assumption) ?_
    | with_reducible refine keeps_someO (st := fun a => a) (by assumption) ?_
    | with_reducible refine keeps_someP (by assumption) ?_
    | with_reducible refine keeps_nextR (by assumption) ?_
    | with_reducible refine keeps_okM (by assumption) ?_ ?_
    | with_reducible refine keeps_errM (by assumption) ?_ ?_
    | dsimp only
    | split
    | intro _
    | assumption
  )

theorem State.dropPri_keeps {s0 : State} {s : State} {p : PriFor → Bool} (h_s : Keeps s0 s) :
    Keeps s0 (State.dropPri s p) := by
  unfold State.dropPri
  repeat' (first
    | with_reducible assumption
    | extract_lets
    | with_reducible refine keeps_fst (by assumption) ?_
    | with_reducible refine keeps_okE (st := fun a => a) (by assumption) ?_
    | with_reducible refine keeps_okP (by assumption) ?_
    | with_reducible refine keeps_someO (st := fun a => a) (by assumption) ?_
    | with_reducible refine keeps_someP (by assumption) ?_
    | with_reducible refine keeps_nextR (by assumption) ?_
    | with_reducible refine keeps_okM (by assumption) ?_ ?_
    | with_reducible refine keeps_errM (by assumption) ?_ ?_
    | dsimp only
    | split
    | intro _
    | assumption
  )

theorem State.dropLate_keeps {s0 : State} {s : State} {q : Nat} (h_s : Keeps s0 s) :
    Keeps s0 (State.dropLate s q) := by
  unfold State.dropLate
  repeat' (first
    | with_reducible assumption
    | with_reducible apply State.abortWait_keeps
    | with_reducible apply State.dropPri_keeps
    | (with_reducible refine State.onPool_keepsW ?_ ?_ <;> [(first | exact fun w => Memory.wf_filter _ w | exact fun w => Memory.wf_memPut _ _ w | exact fun w => Memory.wf_memClear _ _ w); skip])
    | with_reducible apply State.reply_keeps
    | extract_lets
    | with_reducible apply State.failBack_keeps
    | with_reducible apply State.late_keeps
    | with_reducible apply State.onSched_keeps
    | with_reducible apply State.onSlices_keeps
    | with_reducible apply keeps_foldl
    | (with_reducible refine State.onPool_keeps ?_ ?_ <;> [rfl; skip])
    | split
    | intro _
  )

theorem State.dropSignals_keeps {s0 : State} {s : State} {q : Nat} {l : List PendSig} (h_s : Keeps s0 s) :
    Keeps s0 (State.dropSignals s q l) := by
  unfold State.dropSignals
  repeat' (first
    | with_reducible assumption
    | extract_lets
    | with_reducible apply State.decFence_keeps
    | with_reducible apply State.modQueue_keeps
    | with_reducible apply State.reply_keeps
    | with_reducible apply keeps_foldl
    | intro _
  )

theorem State.tearStart_keeps {s0 : State} {s : State} {c : Nat} (h_s : Keeps s0 s) :
    Keeps s0 (State.tearStart s c) := by
  unfold State.tearStart
  repeat' (first
    | with_reducible assumption
    | extract_lets
    | with_reducible apply State.dropLate_keeps
    | with_reducible apply State.dropSignals_keeps
    | with_reducible apply State.endWait_keeps
    | with_reducible apply State.modCtx_keeps
    | with_reducible apply State.modQueue_keeps
    | with_reducible apply State.onObjs_keeps
    | with_reducible apply keeps_foldl
    | dsimp only
    | split
    | intro _
  )

theorem State.dropSeals_keeps {s0 : State} {s : State} {p : Seal → Bool} (h_s : Keeps s0 s) :
    Keeps s0 (State.dropSeals s p) := by
  unfold State.dropSeals
  repeat' (first
    | with_reducible assumption
    | extract_lets
    | with_reducible apply State.emit_keeps
    | with_reducible apply keeps_foldl
    | (with_reducible refine State.onSen_keeps ?_ ?_ ?_ ?_ <;> [rfl; rfl; rfl; skip])
    | intro _
  )

theorem State.tearKeys_keeps {s0 : State} {s : State} {c : Nat} (h_s : Keeps s0 s) :
    Keeps s0 (State.tearKeys s c) := by
  unfold State.tearKeys
  repeat' (first
    | with_reducible assumption
    | with_reducible apply keeps_elim
    | extract_lets
    | with_reducible apply State.absorbCtx_keeps
    | with_reducible apply State.destroyKeys_keeps
    | with_reducible apply State.dropSeals_keeps
    | with_reducible apply State.endDisp_keeps
    | with_reducible apply State.faultFence_keeps
    | with_reducible apply State.raiseEdge_keeps
    | with_reducible apply State.zeroed_keeps
    | with_reducible apply keeps_foldl
    | with_reducible apply keeps_foldl_fst
    | with_reducible refine keeps_fst (by assumption) ?_
    | with_reducible refine keeps_okE (st := fun a => a) (by assumption) ?_
    | with_reducible refine keeps_okP (by assumption) ?_
    | with_reducible refine keeps_someO (st := fun a => a) (by assumption) ?_
    | with_reducible refine keeps_someP (by assumption) ?_
    | with_reducible refine keeps_nextR (by assumption) ?_
    | with_reducible refine keeps_okM (by assumption) ?_ ?_
    | with_reducible refine keeps_errM (by assumption) ?_ ?_
    | dsimp only
    | split
    | intro _
    | (with_reducible conv => arg 2; whnf); split
    | assumption
  )

theorem State.tearFree_keeps {s0 : State} {s : State} {c : Nat} (h_s : Keeps s0 s) :
    Keeps s0 (State.tearFree s c) := by
  unfold State.tearFree
  repeat' (first
    | with_reducible assumption
    | with_reducible apply State.almanac_keeps
    | (with_reducible refine State.onPool_keepsW ?_ ?_ <;> [(first | exact fun w => Memory.wf_filter _ w | exact fun w => Memory.wf_memPut _ _ w | exact fun w => Memory.wf_memClear _ _ w); skip])
    | with_reducible apply State.reply_keeps
    | with_reducible apply State.retire_keeps
    | extract_lets
    | with_reducible apply State.decFence_keeps
    | with_reducible apply State.faultFence_keeps
    | with_reducible apply State.sendPd_keeps
    | with_reducible apply State.unback_keeps
    | with_reducible apply State.onObjs_keeps
    | with_reducible apply State.onSched_keeps
    | with_reducible apply State.onSlices_keeps
    | with_reducible apply State.onLinks_keeps
    | with_reducible apply keeps_foldl
    | (with_reducible refine State.onPool_keeps ?_ ?_ <;> [rfl; skip])
    | (with_reducible conv => arg 2; whnf); split
    | intro _
  )

theorem State.tearEnd_keeps {s0 : State} {s : State} {c : Nat} (h_s : Keeps s0 s) :
    Keeps s0 (State.tearEnd s c) := by
  unfold State.tearEnd
  repeat' (first
    | with_reducible assumption
    | extract_lets
    | dsimp only
    | split
    | assumption
  )

theorem State.teardown_keeps {s0 : State} {s : State} {c : Nat} (h_s : Keeps s0 s) :
    Keeps s0 (State.teardown s c) := by
  unfold State.teardown
  repeat' (first
    | with_reducible assumption
    | extract_lets
    | with_reducible apply State.settle_keeps
    | with_reducible apply State.tearEnd_keeps
    | with_reducible apply State.tearFree_keeps
    | with_reducible apply State.tearKeys_keeps
    | with_reducible apply State.tearStart_keeps
  )

end Sys2Proof.Machine
end

