-- ==== Sys2Proof/Laws/KeepsFrames.lean ====
section
/-!
SUPPORT. Every operation of Machine/Frames.lean keeps (`Keeps`).
-/

set_option linter.unreachableTactic false
set_option linter.unusedTactic false

namespace Sys2Proof.Machine

theorem State.bindTable_keeps {s0 : State} {s : State} {lpf : Nat} {f : Frame} (h_s : Keeps s0 s) :
    KeepsO Prod.fst s0 (State.bindTable s lpf f) := by
  unfold State.bindTable
  repeat' (first
    | with_reducible assumption
    | with_reducible apply keepsO_none
    | extract_lets
    | with_reducible apply State.modFrame_keeps
    | with_reducible apply keepsO_some
    | (with_reducible refine State.onPool_keeps ?_ ?_ <;> [rfl; skip])
    | split
  )

theorem State.writeTable_keeps {s0 : State} {s : State} {who : By} {lpf : Nat} {off : Nat} {d : List Byte} (h_s : Keeps s0 s) :
    Keeps s0 (State.writeTable s who lpf off d).1 := by
  unfold State.writeTable
  repeat' (first
    | with_reducible assumption
    | extract_lets
    | with_reducible apply State.bindTable_keeps
    | with_reducible apply State.integFail_keeps
    | with_reducible apply State.modFrame_keeps
    | with_reducible apply State.sampleFrame_keeps
    | (with_reducible refine State.onPool_keepsW ?_ ?_ <;> [(first | exact fun w => Memory.wf_filter _ w | exact fun w => Memory.wf_memPut _ _ w | exact fun w => Memory.wf_memClear _ _ w); skip])
    | with_reducible refine keeps_someP (by assumption) ?_
    | split
  )

theorem State.putFrame_keeps {s0 : State} {s : State} {k : Nat} {f : Frame} (h_s : Keeps s0 s) :
    Keeps s0 (State.putFrame s k f) := by
  unfold State.putFrame
  repeat' (first
    | with_reducible assumption
    | (with_reducible refine State.onPool_keeps ?_ ?_ <;> [rfl; skip])
  )

theorem State.takeTable_keeps {s0 : State} {s : State} {p : Nat} {c : Nat} (h_s : Keeps s0 s) :
    KeepsO Prod.fst s0 (State.takeTable s p c) := by
  unfold State.takeTable
  repeat' (first
    | with_reducible assumption
    | with_reducible apply keepsO_none
    | extract_lets
    | with_reducible apply State.putFrame_keeps
    | with_reducible apply keepsO_some
    | split
  )

theorem State.childTable_keeps {s0 : State} {s : State} {p : Nat} {c : Nat} {t : Nat} {i : Nat} (h_s : Keeps s0 s) :
    KeepsO Prod.fst s0 (State.childTable s p c t i) := by
  unfold State.childTable
  repeat' (first
    | with_reducible assumption
    | with_reducible apply keepsO_none
    | extract_lets
    | with_reducible apply State.takeTable_keeps
    | with_reducible apply State.writeTable_keeps
    | with_reducible apply keepsO_some
    | with_reducible apply keepsO_bind
    | with_reducible refine keeps_fst (by assumption) ?_
    | with_reducible refine keeps_someP (by assumption) ?_
    | split
    | intro _
  )

theorem State.mapPage_keeps {s0 : State} {s : State} {p : Nat} {c : Nat} {page : Nat} {lpf : Nat} (h_s : Keeps s0 s) :
    KeepsO (fun a => a) s0 (State.mapPage s p c page lpf) := by
  unfold State.mapPage
  repeat' (first
    | with_reducible assumption
    | with_reducible apply keepsO_none
    | extract_lets
    | with_reducible apply State.childTable_keeps
    | with_reducible apply State.takeTable_keeps
    | with_reducible apply State.writeTable_keeps
    | with_reducible apply keepsO_some
    | with_reducible apply keepsO_map
    | with_reducible apply keepsO_bind
    | (with_reducible refine State.onPool_keeps ?_ ?_ <;> [rfl; skip])
    | with_reducible refine keeps_fst (by assumption) ?_
    | with_reducible refine keeps_someP (by assumption) ?_
    | dsimp only
    | split
    | (with_reducible conv => arg 3; whnf); split
    | intro _
  )

theorem keepsO_foldl_bind {α : Type} {s0 : State} {f : State → α → Option State} {l : List α} {o : Option State} (h : KeepsO (fun a => a) s0 o)
    (hf : ∀ a x, Keeps s0 a → KeepsO (fun a => a) s0 (f a x)) : KeepsO (fun a => a) s0 (l.foldl (fun a e => a.bind fun b => f b e) o) := by
  induction l generalizing o with
  | nil => exact h
  | cons x l ih => exact ih (keepsO_bind fun a e => hf a x (h.out a e))

theorem State.carveBack_keeps {s0 s : State} {p c m base n : Nat} (h : Keeps s0 s) : KeepsO (fun a => a) s0 (s.carveBack p c m base n) := by
  unfold State.carveBack
  extract_lets
  split
  · exact keepsO_none
  · refine keepsO_foldl_bind (f := fun (b : State) (e : Nat × Nat) => b.mapPage p c (base / 65536 + e.2) e.1) (keepsO_some ?_) fun a x ha => State.mapPage_keeps ha
    exact keeps_foldl h fun a x ha => State.putFrame_keeps ha

theorem State.freeze_keeps {s0 : State} {s : State} (h_s : Keeps s0 s) :
    Keeps s0 (State.freeze s) := by
  unfold State.freeze
  repeat' (first
    | with_reducible assumption
    | extract_lets
    | (with_reducible refine State.onPool_keeps ?_ ?_ <;> [rfl; skip])
  )

theorem State.queueMove_keeps {s0 : State} {s : State} {k : Nat} {dst : Nat} {keep : Bool} (h_s : Keeps s0 s) :
    Keeps s0 (State.queueMove s k dst keep) := by
  unfold State.queueMove
  repeat' (first
    | with_reducible assumption
    | extract_lets
    | (with_reducible refine State.onPool_keeps ?_ ?_ <;> [rfl; skip])
    | split
  )

theorem State.abandon_keeps {s0 : State} {s : State} {p : Move → Bool} (h_s : Keeps s0 s) :
    Keeps s0 (State.abandon s p) := by
  unfold State.abandon
  repeat' (first
    | with_reducible assumption
    | (with_reducible refine State.onPool_keeps ?_ ?_ <;> [rfl; skip])
  )

theorem State.remapped_keeps {s0 : State} {s : State} {k : Nat} (h_s : Keeps s0 s) :
    Keeps s0 (State.remapped s k) := by
  unfold State.remapped
  repeat' (first
    | with_reducible assumption
    | (with_reducible refine State.onPool_keeps ?_ ?_ <;> [rfl; skip])
  )

theorem State.loseFrame_keeps {s0 : State} {s : State} {k : Nat} (h_s : Keeps s0 s) :
    Keeps s0 (State.loseFrame s k) := by
  unfold State.loseFrame
  repeat' (first
    | with_reducible assumption
    | extract_lets
    | with_reducible apply State.faultCtx_keeps
    | with_reducible apply State.modFrame_keeps
    | with_reducible apply State.remapped_keeps
    | split
  )

theorem State.evacRoom_keeps {s0 : State} {s : State} (h_s : Keeps s0 s) :
    Keeps s0 (State.evacRoom s) := by
  unfold State.evacRoom
  repeat' (first
    | with_reducible assumption
    | extract_lets
    | with_reducible apply State.loseFrame_keeps
    | with_reducible apply keeps_foldl
    | split
  )

theorem State.beginRetire_keeps {s0 : State} {s : State} {k : Nat} (h_s : Keeps s0 s) :
    Keeps s0 (State.beginRetire s k) := by
  unfold State.beginRetire
  repeat' (first
    | with_reducible assumption
    | extract_lets
    | with_reducible apply State.abandon_keeps
    | with_reducible apply State.evacRoom_keeps
    | with_reducible apply State.modStack_keeps
    | (with_reducible refine State.onPool_keeps ?_ ?_ <;> [rfl; skip])
  )

theorem State.rebuild_keeps {s0 : State} {s : State} {k : Nat} (h_s : Keeps s0 s) :
    Keeps s0 (State.rebuild s k) := by
  unfold State.rebuild
  repeat' (first
    | with_reducible assumption
    | extract_lets
    | (with_reducible refine State.onPool_keeps ?_ ?_ <;> [rfl; skip])
  )

theorem State.layInternal_keeps {s0 : State} {s : State} (h_s : Keeps s0 s) :
    Keeps s0 (State.layInternal s) := by
  unfold State.layInternal
  repeat' (first
    | with_reducible assumption
    | extract_lets
    | with_reducible apply State.rebuild_keeps
    | with_reducible apply keeps_foldl
    | (with_reducible refine State.onPool_keeps ?_ ?_ <;> [rfl; skip])
  )

theorem State.retire_keeps {s0 : State} {s : State} {k : Nat} (h_s : Keeps s0 s) :
    Keeps s0 (State.retire s k) := by
  unfold State.retire
  repeat' (first
    | with_reducible assumption
    | with_reducible apply State.beginRetire_keeps
    | with_reducible apply State.modStack_keeps
    | split
  )

end Sys2Proof.Machine
end

