-- ==== Sys2Proof/Laws/KeepsOperands.lean ====
section
/-!
SUPPORT. Every operation of Machine/Operands.lean keeps (`Keeps`).
-/

set_option linter.unreachableTactic false
set_option linter.unusedTactic false

namespace Sys2Proof.Machine

theorem State.takeTurn_keeps {s0 : State} {s : State} {q : Nat} {x : Queue} (h_s : Keeps s0 s) :
    Keeps s0 (State.takeTurn s q x) := by
  unfold State.takeTurn
  repeat' (first
    | with_reducible assumption
    | with_reducible apply State.onObjs_keeps
    | split
  )

theorem State.lookAt_keeps {s0 : State} {s : State} {q : Nat} {x : Queue} {h : Hdr} (h_s : Keeps s0 s) :
    Keeps s0 (State.lookAt s q x h) := by
  unfold State.lookAt
  repeat' (first
    | with_reducible assumption
    | extract_lets
    | with_reducible apply State.modQueue_keeps
    | with_reducible apply State.takeTurn_keeps
    | split
  )

theorem State.fwWait_keeps {s0 : State} {s : State} {e : FwWait} (h_s : Keeps s0 s) :
    Keeps s0 (State.fwWait s e) := by
  unfold State.fwWait
  repeat' (first
    | with_reducible assumption
    | with_reducible apply State.lineCond_keeps
    | with_reducible apply State.modQueue_keeps
    | extract_lets
    | with_reducible apply State.setCond_keeps
    | with_reducible apply State.onObjs_keeps
  )

theorem State.fwTake_keeps {s0 : State} {s : State} {e : FwWait} (h_s : Keeps s0 s) :
    Keeps s0 (State.fwTake s e) := by
  unfold State.fwTake
  repeat' (first
    | with_reducible assumption
    | with_reducible apply State.modQueue_keeps
    | with_reducible apply State.offLine_keeps
    | extract_lets
    | with_reducible apply State.setCond_keeps
    | with_reducible apply State.onObjs_keeps
    | split
  )

theorem State.failPacket_keeps {s0 : State} {s : State} {hw : Bool} {i : OpInfo} {h : Hdr} {n : Word} {f : Option Nat} {st : Status} {res : List Nat} (h_s : Keeps s0 s) :
    Keeps s0 (State.failPacket s hw i h n f st res) := by
  unfold State.failPacket
  repeat' (first
    | with_reducible assumption
    | extract_lets
    | with_reducible apply State.faultFence_keeps
    | with_reducible apply State.haltQueue_keeps
    | with_reducible apply State.postEvent_keeps
    | with_reducible apply State.reply_keeps
    | split
    | (with_reducible conv => arg 2; whnf); split
  )

theorem State.passPacket_keeps {s0 : State} {s : State} {i : OpInfo} {h : Hdr} {n : Word} {f : Option Nat} {flags : Nat} {res : List Nat} (h_s : Keeps s0 s) :
    Keeps s0 (State.passPacket s i h n f flags res) := by
  unfold State.passPacket
  repeat' (first
    | with_reducible assumption
    | extract_lets
    | with_reducible apply State.reply_keeps
    | with_reducible apply State.signal_keeps
    | dsimp only
    | split
  )

theorem State.readRing_keeps {s0 : State} {s : State} {x : Queue} {m : Mo} {n j : Nat} (h : Keeps s0 s) : Keeps s0 (s.readRing x m n j).1 := by
  induction n generalizing s j with
  | zero => exact h
  | succ n ih =>
    unfold State.readRing
    repeat' (first
      | with_reducible assumption
      | with_reducible apply State.readCtx_keeps
      | with_reducible apply ih
      | with_reducible refine keeps_fst (by assumption) ?_
      | dsimp only
      | split)

theorem State.fetchRing_keeps {s0 : State} {s : State} {q : Nat} {x : Queue} {need : Nat} (h_s : Keeps s0 s) :
    Keeps s0 (State.fetchRing s q x need).1 := by
  unfold State.fetchRing
  repeat' (first
    | with_reducible assumption
    | extract_lets
    | with_reducible apply State.account_keeps
    | with_reducible apply State.faultCtx_keeps
    | with_reducible apply State.modQueue_keeps
    | with_reducible apply State.readRing_keeps
    | with_reducible refine keeps_fst (by assumption) ?_
    | split
  )

theorem State.answer_keeps {s0 : State} {s : State} {i : OpInfo} {h : Hdr} {n : Word} {f : Option Nat} {a : Ans} (h_s : Keeps s0 s) :
    Keeps s0 (State.answer s i h n f a) := by
  unfold State.answer
  repeat' (first
    | with_reducible assumption
    | extract_lets
    | with_reducible apply State.decFence_keeps
    | with_reducible apply State.failPacket_keeps
    | with_reducible apply State.modQueue_keeps
    | with_reducible apply State.passPacket_keeps
    | split
    | (with_reducible conv => arg 2; whnf); split
  )

theorem State.serve_keeps {s0 : State} {s : State} {i : OpInfo} {h : Hdr} {c : Nat} {n : Word} {op : State → Nat → Word → State × Ans} (h_s : Keeps s0 s) (h_op : ∀ y0 y1 y2, Keeps s0 y0 → Keeps s0 (op y0 y1 y2).1) :
    Keeps s0 (State.serve s i h c n op) := by
  unfold State.serve
  dsimp only
  split
  · exact State.failPacket_keeps h_s
  · split
    · exact State.failPacket_keeps h_s
    · refine State.answer_keeps (h_op _ _ _ ?_)
      split
      · exact State.incFence_keeps h_s
      · exact h_s

theorem State.endQuiesce_keeps {s0 : State} {s : State} {l : Nat} {st : Status} {nxt : SliceState} (h_s : Keeps s0 s) :
    Keeps s0 (State.endQuiesce s l st nxt) := by
  unfold State.endQuiesce
  repeat' (first
    | with_reducible assumption
    | extract_lets
    | with_reducible apply State.lateAnswer_keeps
    | with_reducible apply State.modSlice_keeps
    | dsimp only
    | split
  )

theorem State.orHost_keeps {s0 : State} {s : State} {port : Nat} {addr : Nat} {v : Nat} (h_s : Keeps s0 s) :
    Keeps s0 (State.orHost s port addr v) := by
  unfold State.orHost
  repeat' (first
    | with_reducible assumption
    | with_reducible apply State.askHost_keeps
    | extract_lets
    | with_reducible apply State.drew_keeps
    | with_reducible apply State.emit_keeps
  )

theorem State.flushDirty_keeps {s0 : State} {s : State} {l : Nat} (h_s : Keeps s0 s) :
    Keeps s0 (State.flushDirty s l) := by
  unfold State.flushDirty
  repeat' (first
    | with_reducible assumption
    | extract_lets
    | with_reducible apply State.modSlice_keeps
    | with_reducible apply State.orHost_keeps
    | with_reducible apply keeps_foldl
    | split
    | intro _
  )

theorem State.quiesceEnds_keeps {s0 : State} {s : State} (h_s : Keeps s0 s) :
    Keeps s0 (State.quiesceEnds s) := by
  unfold State.quiesceEnds
  repeat' (first
    | with_reducible assumption
    | extract_lets
    | with_reducible apply State.endQuiesce_keeps
    | with_reducible apply State.flushDirty_keeps
    | with_reducible apply keeps_foldl
    | split
    | intro _
  )

theorem State.endRetire_keeps {s0 : State} {s : State} {k : Nat} (h_s : Keeps s0 s) :
    Keeps s0 (State.endRetire s k) := by
  unfold State.endRetire
  repeat' (first
    | with_reducible assumption
    | extract_lets
    | with_reducible apply State.almanac_keeps
    | with_reducible apply State.capacityChanged_keeps
    | with_reducible apply State.late_keeps
    | with_reducible apply State.modStack_keeps
    | with_reducible apply State.raiseEdge_keeps
    | with_reducible apply State.rebuild_keeps
    | split
  )

theorem State.retireGo_keeps {s0 : State} {n : Nat} {s : State} (h : Keeps s0 s) : Keeps s0 (State.retireGo n s) := by
  induction n generalizing s with
  | zero => exact h
  | succ n ih =>
    unfold State.retireGo
    split
    · split
      · exact ih (State.endRetire_keeps h)
      · exact h
    · split
      · exact ih (State.beginRetire_keeps h)
      · exact h

theorem State.retireEnds_keeps {s0 : State} {s : State} (h_s : Keeps s0 s) :
    Keeps s0 (State.retireEnds s) := by
  unfold State.retireEnds
  repeat' (first
    | with_reducible assumption
    | with_reducible apply State.retireGo_keeps
  )

theorem State.abortDisp_keeps {s0 : State} {s : State} {d : Disp} (h_s : Keeps s0 s) :
    Keeps s0 (State.abortDisp s d) := by
  unfold State.abortDisp
  repeat' (first
    | with_reducible assumption
    | with_reducible apply State.endDisp_keeps
  )

theorem State.abortWhere_keeps {s0 : State} {s : State} {p : Disp → Bool} (h_s : Keeps s0 s) :
    Keeps s0 (State.abortWhere s p) := by
  unfold State.abortWhere
  repeat' (first
    | with_reducible assumption
    | extract_lets
    | with_reducible apply State.abortDisp_keeps
    | with_reducible apply keeps_foldl
  )

theorem State.resetEnds_keeps {s0 : State} {s : State} (h_s : Keeps s0 s) :
    Keeps s0 (State.resetEnds s) := by
  unfold State.resetEnds
  repeat' (first
    | with_reducible assumption
    | with_reducible apply State.zeroed_keeps
    | with_reducible apply keeps_foldl_fst
    | with_reducible apply keeps_elim
    | extract_lets
    | with_reducible apply State.abortWhere_keeps
    | with_reducible apply State.dashed_keeps
    | with_reducible apply State.late_keeps
    | with_reducible apply State.onSched_keeps
    | with_reducible apply keeps_foldl
    | dsimp only
    | split
    | intro _
  )

theorem State.showParked_keeps {s0 : State} {s : State} (h_s : Keeps s0 s) :
    Keeps s0 (State.showParked s) := by
  unfold State.showParked
  repeat' (first
    | with_reducible assumption
    | extract_lets
    | with_reducible apply State.almanac_keeps
    | with_reducible refine keeps_fst (by assumption) ?_
    | with_reducible refine keeps_okE (st := fun a => a) (by assumption) ?_
    | with_reducible refine keeps_okP (by assumption) ?_
    | with_reducible refine keeps_someO (st := fun a => a) (by assumption) ?_
    | with_reducible refine keeps_someP (by assumption) ?_
    | with_reducible refine keeps_nextR (by assumption) ?_
    | with_reducible refine keeps_okM (by assumption) ?_ ?_
    | with_reducible refine keeps_errM (by assumption) ?_ ?_
    | dsimp only
    | split
    | intro _
    | assumption
  )

theorem State.finish_keeps {s0 : State} {s : State} (h_s : Keeps s0 s) :
    Keeps s0 (State.finish s) := by
  unfold State.finish
  repeat' (first
    | with_reducible assumption
    | with_reducible apply State.showParked_keeps
    | extract_lets
    | with_reducible apply State.flushAll_keeps
    | with_reducible apply State.quiesceEnds_keeps
    | with_reducible apply State.resetEnds_keeps
    | with_reducible apply State.retireEnds_keeps
    | with_reducible apply State.settle_keeps
  )

theorem State.tick_keeps {s0 : State} {s : State} (h_s : Keeps s0 s) :
    Keeps s0 (State.tick s) := by
  unfold State.tick
  repeat' (first
    | extract_lets
    | with_reducible apply State.finish_keeps
    | with_reducible apply State.onSched_keeps
    | split
    | assumption
  )

theorem State.fetchMiss_keeps {s0 : State} {s : State} {q : Nat} {x : Queue} {n : Nat} (h_s : Keeps s0 s) :
    KeepsO Prod.fst s0 (State.fetchMiss s q x n) := by
  unfold State.fetchMiss
  repeat' (first
    | with_reducible assumption
    | with_reducible apply keepsE_error
    | with_reducible apply keepsO_none
    | extract_lets
    | with_reducible apply State.askHost_keeps
    | with_reducible apply State.hostMiss_keeps
    | with_reducible apply keepsO_some
    | with_reducible apply keepsO_map
    | with_reducible apply keepsO_bind
    | with_reducible apply keeps_foldl
    | with_reducible apply keeps_foldl_fst
    | with_reducible refine keeps_fst (by assumption) ?_
    | with_reducible refine keeps_okE (st := fun a => a) (by assumption) ?_
    | with_reducible refine keeps_okP (by assumption) ?_
    | with_reducible refine keeps_someO (st := fun a => a) (by assumption) ?_
    | with_reducible refine keeps_someP (by assumption) ?_
    | with_reducible refine keeps_nextR (by assumption) ?_
    | with_reducible refine keeps_okM (by assumption) ?_ ?_
    | with_reducible refine keeps_errM (by assumption) ?_ ?_
    | dsimp only
    | split
    | intro _
    | assumption
  )

theorem State.fetchFails_keeps {s0 : State} {s : State} {q : Nat} (h_s : Keeps s0 s) :
    Keeps s0 (State.fetchFails s q) := by
  unfold State.fetchFails
  repeat' (first
    | with_reducible assumption
    | extract_lets
    | with_reducible apply State.haltQueue_keeps
    | with_reducible apply State.postEvent_keeps
    | split
  )

/-- The state that a packet command goes on from. -/
def Take.state : Take → State
  | .idle t => t
  | .wait t _ => t
  | .serve t _ _ => t

/-- What a packet command meets keeps. -/
structure KeepsT (s0 : State) (r : Take) : Prop where
  out : Keeps s0 r.state
theorem keepsT_idle {s0 t : State} (h : Keeps s0 t) : KeepsT s0 (.idle t) := ⟨h⟩
theorem keepsT_wait {s0 t : State} {n : Word} (h : Keeps s0 t) : KeepsT s0 (.wait t n) := ⟨h⟩
theorem keepsT_serve {s0 t : State} {c : Nat} {n : Word} (h : Keeps s0 t) : KeepsT s0 (.serve t c n) := ⟨h⟩

theorem State.take_keepsT {s0 : State} {s : State} {i : OpInfo} {h : Hdr} (h_s : Keeps s0 s) : KeepsT s0 (State.take s i h) := by
  unfold State.take
  repeat' (first
    | with_reducible assumption
    | with_reducible apply keepsT_idle
    | with_reducible apply keepsT_wait
    | with_reducible apply keepsT_serve
    | with_reducible apply State.fetchFails_keeps
    | with_reducible apply State.fetchMiss_keeps
    | with_reducible apply State.finish_keeps
    | with_reducible apply State.fwTake_keeps
    | with_reducible apply State.lookAt_keeps
    | with_reducible apply State.takeTurn_keeps
    | with_reducible refine keeps_fst (by assumption) (State.fetchRing_keeps ?_)
    | with_reducible refine keeps_someP (by assumption) ?_
    | split
  )

theorem State.packet_keeps {s0 : State} {s : State} {cmd : Instr} {i : OpInfo} {h : Hdr} {op : State → Nat → Word → State × Ans} (h_s : Keeps s0 s) (h_op : ∀ y0 y1 y2, Keeps s0 y0 → Keeps s0 (op y0 y1 y2).1) :
    KeepsR s0 (State.packet s cmd i h op) := by
  have k := (State.take_keepsT (i := i) (h := h) h_s).out
  unfold State.packet
  split
  · rename_i t e; rw [e] at k; exact keepsR_next k
  · rename_i t n e; rw [e] at k; exact keepsR_next (State.finish_keeps (State.fwWait_keeps k))
  · rename_i t c n e; rw [e] at k; exact keepsR_next (State.finish_keeps (State.serve_keeps k h_op))

theorem answerOf_keeps {s0 : State} {s : State} {r : Except Status (State × List Nat)} (h_s : Keeps s0 s) (h_r : KeepsE Prod.fst s0 (r)) :
    Keeps s0 (answerOf s r).1 := by
  unfold answerOf
  repeat' (first
    | with_reducible assumption
    | with_reducible refine keeps_okH (by assumption)
    | split
  )

end Sys2Proof.Machine
end

