-- ==== Sys2Proof/Laws/KeepsObjects.lean ====
section
/-!
SUPPORT. Every operation of Machine/Objects.lean keeps (`Keeps`).
-/

set_option linter.unreachableTactic false
set_option linter.unusedTactic false

namespace Sys2Proof.Machine

theorem State.postDue_keeps {s0 : State} {s : State} {l : Nat} (h_s : Keeps s0 s) :
    Keeps s0 (State.postDue s l) := by
  unfold State.postDue
  repeat' (first
    | with_reducible assumption
    | extract_lets
    | with_reducible apply State.drain_keeps
    | with_reducible apply State.flushReps_keeps
    | with_reducible apply keeps_foldl
  )

theorem State.makeCtx_keeps {s0 : State} {s : State} {l : Nat} {root : Bool} {quota : Nat} {ring : Ring} {vec : Nat} (h_s : Keeps s0 s) :
    KeepsE Prod.fst s0 (State.makeCtx s l root quota ring vec) := by
  unfold State.makeCtx
  repeat' (first
    | with_reducible assumption
    | with_reducible apply State.raiseEdge_keeps
    | extract_lets
    | with_reducible apply State.asked_keeps
    | with_reducible apply State.drew_keeps
    | with_reducible apply State.installKey_keeps
    | with_reducible apply State.onObjs_keeps
    | with_reducible apply keepsE_pure
    | with_reducible apply keepsE_bind
    | dsimp only
    | intro _
  )

theorem State.makeQueue_keeps {s0 : State} {s : State} {c : Nat} {cls : Nat} {weight : Nat} {ring : Ring} {rring : Ring} (h_s : Keeps s0 s) :
    KeepsE Prod.fst s0 (State.makeQueue s c cls weight ring rring) := by
  unfold State.makeQueue
  repeat' (first
    | with_reducible assumption
    | extract_lets
    | with_reducible apply State.drew_keeps
    | with_reducible apply State.onObjs_keeps
    | with_reducible apply keepsE_pure
    | with_reducible apply keepsE_bind
    | dsimp only
    | intro _
  )

theorem State.refRing_keeps {s0 : State} {s : State} {h : Handle} (h_s : Keeps s0 s) :
    Keeps s0 (State.refRing s h) := by
  unfold State.refRing
  repeat' (first
    | with_reducible assumption
    | with_reducible apply State.incMo_keeps
    | split
  )

theorem State.unrefRing_keeps {s0 : State} {s : State} {h : Handle} (h_s : Keeps s0 s) :
    Keeps s0 (State.unrefRing s h) := by
  unfold State.unrefRing
  repeat' (first
    | with_reducible assumption
    | with_reducible apply State.decMo_keeps
    | split
  )

theorem State.measure_keeps {s0 : State} {s : State} {l : Nat} {kind : Nat} {ty : Nat} {h : Handle} {ctx : Handle} {digest : Nat} (h_s : Keeps s0 s) :
    Keeps s0 (State.measure s l kind ty h ctx digest) := by
  unfold State.measure
  repeat' (first
    | with_reducible assumption
    | with_reducible apply State.modSlice_keeps
  )

theorem opCtxCreate_keeps {s0 : State} {ring : Nat} {log2 : Nat} {vec : Nat} {s : State} {c : Nat} (h_s : Keeps s0 s) :
    KeepsE Prod.fst s0 (opCtxCreate ring log2 vec s c) := by
  unfold opCtxCreate
  repeat' (first
    | with_reducible assumption
    | extract_lets
    | with_reducible apply State.makeCtx_keeps
    | with_reducible apply keepsE_pure
    | with_reducible apply keepsE_bind
    | with_reducible refine keeps_okP (by assumption) ?_
    | intro _
  )

theorem execCtxCreate_keeps {s0 : State} {h : Hdr} {ring : Nat} {log2 : Nat} {vec : Nat} {s : State} (h_s : Keeps s0 s) :
    KeepsR s0 (execCtxCreate h ring log2 vec s) := by
  unfold execCtxCreate
  repeat' (first
    | with_reducible assumption
    | extract_lets
    | with_reducible apply State.packet_keeps
    | with_reducible apply answerOf_keeps
    | with_reducible apply opCtxCreate_keeps
    | intro _
  )

theorem execCtxDestroy_keeps {s0 : State} {h : Hdr} {target : Handle} {s : State} (h_s : Keeps s0 s) :
    KeepsR s0 (execCtxDestroy h target s) := by
  unfold execCtxDestroy
  repeat' (first
    | with_reducible assumption
    | extract_lets
    | with_reducible apply State.packet_keeps
    | with_reducible apply State.teardown_keeps
    | with_reducible apply answerOf_keeps
    | with_reducible apply keepsE_pure
    | with_reducible apply keepsE_bind
    | intro _
  )

theorem opQueueCreate_keeps {s0 : State} {a : QueueArgs} {s : State} {c : Nat} (h_s : Keeps s0 s) :
    KeepsE Prod.fst s0 (opQueueCreate a s c) := by
  unfold opQueueCreate
  repeat' (first
    | with_reducible assumption
    | extract_lets
    | with_reducible apply State.makeQueue_keeps
    | with_reducible apply State.refRing_keeps
    | with_reducible apply keepsE_pure
    | with_reducible apply keepsE_bind
    | with_reducible refine keeps_okP (by assumption) ?_
    | dsimp only
    | split
    | intro _
  )

theorem execQueueCreate_keeps {s0 : State} {h : Hdr} {a : QueueArgs} {s : State} (h_s : Keeps s0 s) :
    KeepsR s0 (execQueueCreate h a s) := by
  unfold execQueueCreate
  repeat' (first
    | with_reducible assumption
    | extract_lets
    | with_reducible apply State.packet_keeps
    | with_reducible apply answerOf_keeps
    | with_reducible apply opQueueCreate_keeps
    | intro _
  )

theorem opCtxSetRing_keeps {s0 : State} {addr : Nat} {obj : Handle} {log2 : Nat} {vec : Nat} {s : State} {c : Nat} (h_s : Keeps s0 s) :
    KeepsE Prod.fst s0 (opCtxSetRing addr obj log2 vec s c) := by
  unfold opCtxSetRing
  repeat' (first
    | with_reducible assumption
    | extract_lets
    | with_reducible apply State.modCtx_keeps
    | with_reducible apply State.refRing_keeps
    | with_reducible apply State.unrefRing_keeps
    | with_reducible apply keepsE_pure
    | with_reducible apply keepsE_bind
    | dsimp only
    | intro _
  )

theorem execCtxSetRing_keeps {s0 : State} {h : Hdr} {addr : Nat} {obj : Handle} {log2 : Nat} {vec : Nat} {s : State} (h_s : Keeps s0 s) :
    KeepsR s0 (execCtxSetRing h addr obj log2 vec s) := by
  unfold execCtxSetRing
  repeat' (first
    | with_reducible assumption
    | extract_lets
    | with_reducible apply State.packet_keeps
    | with_reducible apply answerOf_keeps
    | with_reducible apply opCtxSetRing_keeps
    | intro _
  )

theorem State.disown_keeps {s0 : State} {s : State} {d : Disp} (h_s : Keeps s0 s) :
    Keeps s0 (State.disown s d) := by
  unfold State.disown
  repeat' (first
    | with_reducible assumption
    | extract_lets
    | with_reducible apply State.faultFence_keeps
    | with_reducible apply State.modDisp_keeps
    | with_reducible refine keeps_fst (by assumption) ?_
    | with_reducible refine keeps_okE (st := fun a => a) (by assumption) ?_
    | with_reducible refine keeps_okP (by assumption) ?_
    | with_reducible refine keeps_someO (st := fun a => a) (by assumption) ?_
    | with_reducible refine keeps_someP (by assumption) ?_
    | with_reducible refine keeps_nextR (by assumption) ?_
    | with_reducible refine keeps_okM (by assumption) ?_ ?_
    | with_reducible refine keeps_errM (by assumption) ?_ ?_
    | dsimp only
    | split
    | intro _
    | assumption
  )

theorem State.cutDisp_keeps {s0 : State} {s : State} {d : Disp} (h_s : Keeps s0 s) :
    Keeps s0 (State.cutDisp s d) := by
  unfold State.cutDisp
  repeat' (first
    | with_reducible assumption
    | extract_lets
    | with_reducible apply KvEnv.work_keeps
    | with_reducible apply State.disown_keeps
    | with_reducible apply State.endDisp_keeps
    | with_reducible apply State.zeroed_keeps
    | with_reducible refine keeps_fst (by assumption) ?_
    | with_reducible refine keeps_okE (st := fun a => a) (by assumption) ?_
    | with_reducible refine keeps_okP (by assumption) ?_
    | with_reducible refine keeps_someO (st := fun a => a) (by assumption) ?_
    | with_reducible refine keeps_someP (by assumption) ?_
    | with_reducible refine keeps_nextR (by assumption) ?_
    | with_reducible refine keeps_okM (by assumption) ?_ ?_
    | with_reducible refine keeps_errM (by assumption) ?_ ?_
    | dsimp only
    | split
    | intro _
    | assumption
  )

theorem State.destroyQueue_keeps {s0 : State} {s : State} {k : Nat} {x : Queue} (h_s : Keeps s0 s) :
    Keeps s0 (State.destroyQueue s k x) := by
  unfold State.destroyQueue
  repeat' (first
    | with_reducible assumption
    | with_reducible apply State.cutDisp_keeps
    | with_reducible apply State.retire_keeps
    | with_reducible apply keeps_foldl_fst
    | extract_lets
    | with_reducible apply State.dropLate_keeps
    | with_reducible apply State.endDisp_keeps
    | with_reducible apply State.endWait_keeps
    | with_reducible apply State.unrefRing_keeps
    | with_reducible apply State.onObjs_keeps
    | with_reducible apply keeps_foldl
    | (with_reducible conv => arg 2; whnf); split
    | intro _
  )

theorem execQueueDestroy_keeps {s0 : State} {h : Hdr} {queue : Handle} {s : State} (h_s : Keeps s0 s) :
    KeepsR s0 (execQueueDestroy h queue s) := by
  unfold execQueueDestroy
  repeat' (first
    | with_reducible assumption
    | extract_lets
    | with_reducible apply State.destroyQueue_keeps
    | with_reducible apply State.packet_keeps
    | with_reducible apply answerOf_keeps
    | with_reducible apply keepsE_pure
    | with_reducible apply keepsE_bind
    | intro _
  )

theorem opQueueStart_keeps {s0 : State} {queue : Handle} {s : State} {c : Nat} (h_s : Keeps s0 s) :
    KeepsE Prod.fst s0 (opQueueStart queue s c) := by
  unfold opQueueStart
  repeat' (first
    | with_reducible assumption
    | extract_lets
    | with_reducible apply State.modQueue_keeps
    | with_reducible apply keepsE_pure
    | with_reducible apply keepsE_bind
    | intro _
  )

theorem execQueueStart_keeps {s0 : State} {h : Hdr} {queue : Handle} {s : State} (h_s : Keeps s0 s) :
    KeepsR s0 (execQueueStart h queue s) := by
  unfold execQueueStart
  repeat' (first
    | with_reducible assumption
    | extract_lets
    | with_reducible apply State.packet_keeps
    | with_reducible apply answerOf_keeps
    | with_reducible apply opQueueStart_keeps
    | intro _
  )

theorem opQueueStop_keeps {s0 : State} {queue : Handle} {s : State} {c : Nat} (h_s : Keeps s0 s) :
    KeepsE Prod.fst s0 (opQueueStop queue s c) := by
  unfold opQueueStop
  repeat' (first
    | with_reducible assumption
    | extract_lets
    | with_reducible apply State.endWait_keeps
    | with_reducible apply State.modQueue_keeps
    | with_reducible apply keepsE_pure
    | with_reducible apply keepsE_bind
    | split
    | intro _
  )

theorem execQueueStop_keeps {s0 : State} {h : Hdr} {queue : Handle} {s : State} (h_s : Keeps s0 s) :
    KeepsR s0 (execQueueStop h queue s) := by
  unfold execQueueStop
  repeat' (first
    | with_reducible assumption
    | extract_lets
    | with_reducible apply State.packet_keeps
    | with_reducible apply answerOf_keeps
    | with_reducible apply opQueueStop_keeps
    | intro _
  )

theorem State.putMo_keeps {s0 : State} {s : State} {k : Nat} {x : Mo} (h_s : Keeps s0 s) :
    Keeps s0 (State.putMo s k x) := by
  unfold State.putMo
  repeat' (first
    | with_reducible assumption
    | with_reducible apply State.onObjs_keeps
  )

theorem opMoCreate_keeps {s0 : State} {h : Hdr} {base : Nat} {len : Nat} {ty : Nat} {flags : BitVec 8} {s : State} {c : Nat} {n : Word} (h_s : Keeps s0 s) :
    Keeps s0 (opMoCreate h base len ty flags s c n).1 := by
  unfold opMoCreate
  repeat' (first
    | with_reducible assumption
    | extract_lets
    | with_reducible apply State.carveBack_keeps
    | with_reducible apply State.drew_keeps
    | with_reducible apply State.putMo_keeps
    | with_reducible apply State.sendPd_keeps
    | with_reducible apply keepsO_bind
    | (with_reducible refine State.onPool_keeps ?_ ?_ <;> [rfl; skip])
    | with_reducible refine keeps_someO (st := fun a => a) (by assumption) ?_
    | dsimp only
    | split
    | intro _
  )

theorem execMoCreate_keeps {s0 : State} {h : Hdr} {base : Nat} {len : Nat} {ty : Nat} {mflags : BitVec 8} {s : State} (h_s : Keeps s0 s) :
    KeepsR s0 (execMoCreate h base len ty mflags s) := by
  unfold execMoCreate
  repeat' (first
    | with_reducible assumption
    | extract_lets
    | with_reducible apply State.packet_keeps
    | with_reducible apply opMoCreate_keeps
  )

theorem execMoFree_keeps {s0 : State} {h : Hdr} {obj : Handle} {s : State} (h_s : Keeps s0 s) :
    KeepsR s0 (execMoFree h obj s) := by
  unfold execMoFree
  repeat' (first
    | with_reducible assumption
    | extract_lets
    | with_reducible apply State.decMo_keeps
    | with_reducible apply State.modMo_keeps
    | with_reducible apply State.packet_keeps
    | with_reducible apply answerOf_keeps
    | with_reducible apply keepsE_pure
    | with_reducible apply keepsE_bind
    | intro _
  )

theorem State.readMo_keeps {s0 : State} {s : State} {m : Mo} {who : By} {off : Nat} {len : Nat} (h_s : Keeps s0 s) :
    Keeps s0 (State.readMo s m who off len).1 := by
  unfold State.readMo
  repeat' (first
    | with_reducible assumption
    | with_reducible apply State.readCtx_keeps
  )

theorem State.writeMo_keeps {s0 : State} {s : State} {m : Mo} {who : By} {off : Nat} {d : List Byte} (h_s : Keeps s0 s) :
    Keeps s0 (State.writeMo s m who off d).1 := by
  unfold State.writeMo
  repeat' (first
    | with_reducible assumption
    | with_reducible apply State.writeCtx_keeps
  )

theorem opMoSeal_keeps {s0 : State} {obj : Handle} {s : State} {c : Nat} (h_s : Keeps s0 s) :
    Keeps s0 (opMoSeal obj s c).1 := by
  unfold opMoSeal
  repeat' (first
    | with_reducible assumption
    | extract_lets
    | with_reducible apply State.faultCtx_keeps
    | with_reducible apply State.measure_keeps
    | with_reducible apply State.modMo_keeps
    | with_reducible apply State.readMo_keeps
    | with_reducible refine keeps_fst (by assumption) ?_
    | dsimp only
    | split
  )

theorem execMoSeal_keeps {s0 : State} {h : Hdr} {obj : Handle} {s : State} (h_s : Keeps s0 s) :
    KeepsR s0 (execMoSeal h obj s) := by
  unfold execMoSeal
  repeat' (first
    | with_reducible assumption
    | extract_lets
    | with_reducible apply State.packet_keeps
    | with_reducible apply opMoSeal_keeps
    | intro _
  )

theorem opFenceCreate_keeps {s0 : State} {init : DWord} {s : State} {c : Nat} (h_s : Keeps s0 s) :
    KeepsE Prod.fst s0 (opFenceCreate init s c) := by
  unfold opFenceCreate
  repeat' (first
    | with_reducible assumption
    | extract_lets
    | with_reducible apply State.drew_keeps
    | with_reducible apply State.onObjs_keeps
    | with_reducible apply keepsE_pure
    | with_reducible apply keepsE_bind
    | dsimp only
    | split
    | intro _
  )

theorem execFenceCreate_keeps {s0 : State} {h : Hdr} {init : DWord} {s : State} (h_s : Keeps s0 s) :
    KeepsR s0 (execFenceCreate h init s) := by
  unfold execFenceCreate
  repeat' (first
    | with_reducible assumption
    | extract_lets
    | with_reducible apply State.packet_keeps
    | with_reducible apply answerOf_keeps
    | with_reducible apply opFenceCreate_keeps
    | intro _
  )

theorem execFenceFree_keeps {s0 : State} {h : Hdr} {f : Handle} {s : State} (h_s : Keeps s0 s) :
    KeepsR s0 (execFenceFree h f s) := by
  unfold execFenceFree
  repeat' (first
    | with_reducible assumption
    | extract_lets
    | with_reducible apply State.decFence_keeps
    | with_reducible apply State.modFence_keeps
    | with_reducible apply State.packet_keeps
    | with_reducible apply answerOf_keeps
    | with_reducible apply keepsE_pure
    | with_reducible apply keepsE_bind
    | intro _
  )

theorem execProgramFree_keeps {s0 : State} {h : Hdr} {prog : Handle} {s : State} (h_s : Keeps s0 s) :
    KeepsR s0 (execProgramFree h prog s) := by
  unfold execProgramFree
  repeat' (first
    | with_reducible assumption
    | extract_lets
    | with_reducible apply State.decProg_keeps
    | with_reducible apply State.modProg_keeps
    | with_reducible apply State.packet_keeps
    | with_reducible apply answerOf_keeps
    | with_reducible apply keepsE_pure
    | with_reducible apply keepsE_bind
    | intro _
  )

end Sys2Proof.Machine
end

