-- ==== Sys2Proof/Laws/KeepsSchedBase.lean ====
section
/-!
SUPPORT. Every operation of Machine/SchedBase.lean keeps (`Keeps`).
-/

set_option linter.unreachableTactic false
set_option linter.unusedTactic false

namespace Sys2Proof.Machine

theorem State.preempt_keeps {s0 : State} {s : State} {ref : DWord} (h_s : Keeps s0 s) :
    Keeps s0 (State.preempt s ref) := by
  unfold State.preempt
  repeat' (first
    | with_reducible assumption
    | extract_lets
    | with_reducible apply State.modDisp_keeps
    | with_reducible apply State.onSched_keeps
    | dsimp only
    | split
  )

theorem State.preemptAll_keeps {s0 : State} {s : State} {p : Disp → Bool} (h_s : Keeps s0 s) :
    Keeps s0 (State.preemptAll s p) := by
  unfold State.preemptAll
  repeat' (first
    | with_reducible assumption
    | extract_lets
    | with_reducible apply State.preempt_keeps
    | with_reducible apply keeps_foldl
    | intro _
  )

theorem State.csqEvent_keeps {s0 : State} {s : State} {d : Disp} {k : Nat} (h_s : Keeps s0 s) :
    Keeps s0 (State.csqEvent s d k) := by
  unfold State.csqEvent
  repeat' (first
    | with_reducible assumption
    | extract_lets
    | with_reducible apply State.raiseEdge_keeps
    | with_reducible apply keeps_foldl
    | intro _
  )

theorem State.completeDisp_keeps {s0 : State} {s : State} {d : Disp} (h_s : Keeps s0 s) :
    Keeps s0 (State.completeDisp s d) := by
  unfold State.completeDisp
  repeat' (first
    | with_reducible assumption
    | extract_lets
    | with_reducible apply State.csqEvent_keeps
    | with_reducible apply State.endDisp_keeps
  )

theorem State.endRuns_keeps {s0 : State} {s : State} {k : Nat} {p : Polder} {which : Resv → Bool} (h_s : Keeps s0 s) :
    Keeps s0 (State.endRuns s k p which) := by
  unfold State.endRuns
  repeat' (first
    | with_reducible assumption
    | extract_lets
    | with_reducible apply State.modPolder_keeps
    | with_reducible apply State.preemptAll_keeps
    | with_reducible apply State.onSched_keeps
  )

theorem State.reshape_keeps {s0 : State} {s : State} {k : Nat} {units : BitVec 40} {dayUs : Nat} (h_s : Keeps s0 s) :
    Keeps s0 (State.reshape s k units dayUs) := by
  unfold State.reshape
  repeat' (first
    | with_reducible assumption
    | extract_lets
    | with_reducible apply State.endRuns_keeps
    | with_reducible apply State.modPolder_keeps
    | with_reducible apply State.preemptAll_keeps
    | with_reducible apply State.onSched_keeps
    | with_reducible apply State.onSlices_keeps
    | dsimp only
    | split
  )

end Sys2Proof.Machine
end

