-- ==== Sys2Proof/Laws/KeepsQuery.lean ====
section
/-!
SUPPORT. Every operation of Machine/Query.lean keeps (`Keeps`).
-/

set_option linter.unreachableTactic false
set_option linter.unusedTactic false

namespace Sys2Proof.Machine

theorem State.putResult_keeps {s0 : State} {s : State} {c : Nat} {m : Mo} {off : Nat} {d : List Byte} {res : List Nat} (h_s : Keeps s0 s) :
    Keeps s0 (State.putResult s c m off d res).1 := by
  unfold State.putResult
  repeat' (first
    | with_reducible assumption
    | extract_lets
    | with_reducible apply State.faultCtx_keeps
    | with_reducible apply State.writeMo_keeps
    | with_reducible refine keeps_fst (by assumption) ?_
    | split
  )

theorem opQueryAlmanac_keeps {s0 : State} {obj : Handle} {off : Nat} {s : State} {c : Nat} (h_s : Keeps s0 s) :
    Keeps s0 (opQueryAlmanac obj off s c).1 := by
  unfold opQueryAlmanac
  repeat' (first
    | with_reducible assumption
    | extract_lets
    | with_reducible apply State.drew_keeps
    | with_reducible apply State.putResult_keeps
    | split
  )

theorem execQueryAlmanac_keeps {s0 : State} {h : Hdr} {obj : Handle} {off : Nat} {s : State} (h_s : Keeps s0 s) :
    KeepsR s0 (execQueryAlmanac h obj off s) := by
  unfold execQueryAlmanac
  repeat' (first
    | with_reducible assumption
    | extract_lets
    | with_reducible apply State.packet_keeps
    | with_reducible apply opQueryAlmanac_keeps
    | intro _
  )

theorem execQueryFence_keeps {s0 : State} {h : Hdr} {f : Handle} {s : State} (h_s : Keeps s0 s) :
    KeepsR s0 (execQueryFence h f s) := by
  unfold execQueryFence
  repeat' (first
    | with_reducible assumption
    | extract_lets
    | with_reducible apply State.packet_keeps
    | with_reducible apply answerOf_keeps
    | with_reducible apply keepsE_pure
    | with_reducible apply keepsE_bind
    | intro _
  )

theorem opQueryContext_keeps {s0 : State} {target : Handle} {obj : Handle} {off : Nat} {s : State} {c : Nat} (h_s : Keeps s0 s) :
    Keeps s0 (opQueryContext target obj off s c).1 := by
  unfold opQueryContext
  repeat' (first
    | with_reducible assumption
    | with_reducible apply State.putResult_keeps
    | dsimp only
    | split
  )

theorem execQueryContext_keeps {s0 : State} {h : Hdr} {target : Handle} {obj : Handle} {off : Nat} {s : State} (h_s : Keeps s0 s) :
    KeepsR s0 (execQueryContext h target obj off s) := by
  unfold execQueryContext
  repeat' (first
    | with_reducible assumption
    | extract_lets
    | with_reducible apply State.packet_keeps
    | with_reducible apply opQueryContext_keeps
    | intro _
  )

theorem execQueryMo_keeps {s0 : State} {h : Hdr} {obj : Handle} {s : State} (h_s : Keeps s0 s) :
    KeepsR s0 (execQueryMo h obj s) := by
  unfold execQueryMo
  repeat' (first
    | with_reducible assumption
    | extract_lets
    | with_reducible apply State.packet_keeps
    | with_reducible apply answerOf_keeps
    | with_reducible apply keepsE_pure
    | with_reducible apply keepsE_bind
    | intro _
  )

theorem execQueryQueue_keeps {s0 : State} {h : Hdr} {queue : Handle} {s : State} (h_s : Keeps s0 s) :
    KeepsR s0 (execQueryQueue h queue s) := by
  unfold execQueryQueue
  repeat' (first
    | with_reducible assumption
    | extract_lets
    | with_reducible apply State.packet_keeps
    | with_reducible apply answerOf_keeps
    | with_reducible apply keepsE_pure
    | with_reducible apply keepsE_bind
    | intro _
  )

theorem opQueryDigest_keeps {s0 : State} {src : Handle} {dst : Handle} {off : Nat} {s : State} {c : Nat} (h_s : Keeps s0 s) :
    Keeps s0 (opQueryDigest src dst off s c).1 := by
  unfold opQueryDigest
  repeat' (first
    | with_reducible assumption
    | with_reducible apply State.putResult_keeps
    | split
  )

theorem execQueryDigest_keeps {s0 : State} {h : Hdr} {src : Handle} {dst : Handle} {off : Nat} {s : State} (h_s : Keeps s0 s) :
    KeepsR s0 (execQueryDigest h src dst off s) := by
  unfold execQueryDigest
  repeat' (first
    | with_reducible assumption
    | extract_lets
    | with_reducible apply State.packet_keeps
    | with_reducible apply opQueryDigest_keeps
    | intro _
  )

end Sys2Proof.Machine
end

