-- ==== Sys2Proof/Laws/KeepsBrient.lean ====
section
/-!
SUPPORT. Every operation of Machine/Brient.lean keeps (`Keeps`).
-/

set_option linter.unreachableTactic false
set_option linter.unusedTactic false

namespace Sys2Proof.Machine

theorem opProgramLoad_keeps {s0 : State} {obj : Handle} {off : Nat} {s : State} {c : Nat} (h_s : Keeps s0 s) :
    Keeps s0 (opProgramLoad obj off s c).1 := by
  unfold opProgramLoad
  repeat' (first
    | with_reducible assumption
    | extract_lets
    | with_reducible apply State.drew_keeps
    | with_reducible apply State.faultCtx_keeps
    | with_reducible apply State.incMo_keeps
    | with_reducible apply State.measure_keeps
    | with_reducible apply State.readMo_keeps
    | with_reducible apply State.onObjs_keeps
    | with_reducible refine keeps_fst (by assumption) ?_
    | dsimp only
    | split
  )

theorem execProgramLoad_keeps {s0 : State} {h : Hdr} {obj : Handle} {off : Nat} {s : State} (h_s : Keeps s0 s) :
    KeepsR s0 (execProgramLoad h obj off s) := by
  unfold execProgramLoad
  repeat' (first
    | with_reducible assumption
    | extract_lets
    | with_reducible apply State.packet_keeps
    | with_reducible apply opProgramLoad_keeps
    | intro _
  )

end Sys2Proof.Machine
end

