-- ==== Sys2Proof/Laws/KeepsFences.lean ====
section
/-!
SUPPORT. Every operation of Machine/Fences.lean keeps (`Keeps`).
-/

set_option linter.unreachableTactic false
set_option linter.unusedTactic false

namespace Sys2Proof.Machine

theorem State.arm_keeps {s0 : State} {s : State} {c : Nat} {f : Nat} {target : DWord} {cookie : DWord} (h_s : Keeps s0 s) :
    KeepsE (fun a => a) s0 (State.arm s c f target cookie) := by
  unfold State.arm
  repeat' (first
    | with_reducible assumption
    | extract_lets
    | with_reducible apply State.incFence_keeps
    | with_reducible apply State.postEvent_keeps
    | with_reducible apply State.onObjs_keeps
    | with_reducible apply keepsE_pure
    | with_reducible apply keepsE_bind
    | split
    | intro _
  )

theorem opFenceSignal_keeps {s0 : State} {h : Hdr} {s : State} {c : Nat} {n : Word} (h_s : Keeps s0 s) :
    Keeps s0 (opFenceSignal h s c n).1 := by
  unfold opFenceSignal
  repeat' (first
    | with_reducible assumption
    | extract_lets
    | with_reducible apply State.flushSignals_keeps
    | with_reducible apply State.modQueue_keeps
    | dsimp only
    | split
  )

theorem execFenceSignal_keeps {s0 : State} {h : Hdr} {s : State} (h_s : Keeps s0 s) :
    KeepsR s0 (execFenceSignal h s) := by
  unfold execFenceSignal
  repeat' (first
    | with_reducible assumption
    | extract_lets
    | with_reducible apply State.packet_keeps
    | with_reducible apply opFenceSignal_keeps
  )

theorem opFenceWait_keeps {s0 : State} {h : Hdr} {fh : Handle} {target : DWord} {s : State} {c : Nat} {n : Word} (h_s : Keeps s0 s) :
    Keeps s0 (opFenceWait h fh target s c n).1 := by
  unfold opFenceWait
  repeat' (first
    | with_reducible assumption
    | extract_lets
    | with_reducible apply State.incFence_keeps
    | with_reducible apply State.modQueue_keeps
    | with_reducible apply State.postEvent_keeps
    | with_reducible apply State.reply_keeps
    | dsimp only
    | split
  )

theorem execFenceWait_keeps {s0 : State} {h : Hdr} {f : Handle} {target : DWord} {s : State} (h_s : Keeps s0 s) :
    KeepsR s0 (execFenceWait h f target s) := by
  unfold execFenceWait
  repeat' (first
    | with_reducible assumption
    | extract_lets
    | with_reducible apply State.packet_keeps
    | with_reducible apply opFenceWait_keeps
  )

theorem execFenceNotify_keeps {s0 : State} {h : Hdr} {f : Handle} {target : DWord} {cookie : DWord} {s : State} (h_s : Keeps s0 s) :
    KeepsR s0 (execFenceNotify h f target cookie s) := by
  unfold execFenceNotify
  repeat' (first
    | with_reducible assumption
    | extract_lets
    | with_reducible apply State.arm_keeps
    | with_reducible apply State.packet_keeps
    | with_reducible apply answerOf_keeps
    | with_reducible apply keepsE_pure
    | with_reducible apply keepsE_bind
    | with_reducible refine keeps_okE (st := fun a => a) (by assumption) ?_
    | intro _
  )

theorem opFenceReset_keeps {s0 : State} {f : Handle} {val : DWord} {s : State} {c : Nat} (h_s : Keeps s0 s) :
    KeepsE Prod.fst s0 (opFenceReset f val s c) := by
  unfold opFenceReset
  repeat' (first
    | with_reducible assumption
    | extract_lets
    | with_reducible apply State.modFence_keeps
    | with_reducible apply keepsE_pure
    | with_reducible apply keepsE_bind
    | intro _
  )

theorem execFenceReset_keeps {s0 : State} {h : Hdr} {f : Handle} {val : DWord} {s : State} (h_s : Keeps s0 s) :
    KeepsR s0 (execFenceReset h f val s) := by
  unfold execFenceReset
  repeat' (first
    | with_reducible assumption
    | extract_lets
    | with_reducible apply State.packet_keeps
    | with_reducible apply answerOf_keeps
    | with_reducible apply opFenceReset_keeps
    | intro _
  )

end Sys2Proof.Machine
end

