-- ==== Sys2Proof/Laws/KeepsDispatches.lean ====
section
/-!
SUPPORT. Every operation of Machine/Dispatches.lean keeps (`Keeps`).
-/

set_option linter.unreachableTactic false
set_option linter.unusedTactic false

namespace Sys2Proof.Machine

theorem State.accept_keeps {s0 : State} {s : State} {d0 : Disp} (h_s : Keeps s0 s) :
    Keeps s0 (State.accept s d0) := by
  unfold State.accept
  repeat' (first
    | with_reducible assumption
    | with_reducible apply KvEnv.work_keeps
    | with_reducible apply State.drew_keeps
    | with_reducible apply State.idleFrom_keeps
    | with_reducible apply State.wakeCluster_keeps
    | with_reducible apply keeps_foldl_fst
    | extract_lets
    | with_reducible apply State.incFence_keeps
    | with_reducible apply State.incMo_keeps
    | with_reducible apply State.incProg_keeps
    | with_reducible apply State.onSched_keeps
    | with_reducible apply keeps_foldl
    | (with_reducible conv => arg 2; whnf); split
  )

theorem State.notify_keeps {s0 : State} {s : State} {h : Hdr} {c : Nat} {cookie : DWord} (h_s : Keeps s0 s) :
    KeepsE (fun a => a) s0 (State.notify s h c cookie) := by
  unfold State.notify
  repeat' (first
    | with_reducible assumption
    | with_reducible apply keepsE_error
    | with_reducible apply State.arm_keeps
    | with_reducible apply keepsE_ok
    | split
  )

theorem acceptOr_keeps {s0 : State} {s : State} {r : Except Status (State × Disp)} (h_s : Keeps s0 s) (h_r : KeepsE Prod.fst s0 (r)) :
    Keeps s0 (acceptOr s r).1 := by
  unfold acceptOr
  repeat' (first
    | with_reducible assumption
    | extract_lets
    | with_reducible apply State.accept_keeps
    | with_reducible refine keeps_okH (by assumption)
    | split
  )

theorem opDispatch_keeps {s0 : State} {h : Hdr} {a : DispArgs} {s : State} {c : Nat} {n : Word} (h_s : Keeps s0 s) :
    KeepsE Prod.fst s0 (opDispatch h a s c n) := by
  unfold opDispatch
  repeat' (first
    | with_reducible assumption
    | extract_lets
    | with_reducible apply State.notify_keeps
    | with_reducible apply keepsE_pure
    | with_reducible apply keepsE_bind
    | with_reducible refine keeps_okE (st := fun a => a) (by assumption) ?_
    | dsimp only
    | intro _
  )

theorem execDispatch_keeps {s0 : State} {h : Hdr} {a : DispArgs} {s : State} (h_s : Keeps s0 s) :
    KeepsR s0 (execDispatch h a s) := by
  unfold execDispatch
  repeat' (first
    | with_reducible assumption
    | extract_lets
    | with_reducible apply State.packet_keeps
    | with_reducible apply acceptOr_keeps
    | with_reducible apply opDispatch_keeps
    | intro _
  )

theorem opMoFill_keeps {s0 : State} {h : Hdr} {obj : Handle} {val : Byte} {off : Nat} {len : Nat} {s : State} {c : Nat} {n : Word} (h_s : Keeps s0 s) :
    KeepsE Prod.fst s0 (opMoFill h obj val off len s c n) := by
  unfold opMoFill
  repeat' (first
    | with_reducible assumption
    | extract_lets
    | with_reducible apply keepsE_pure
    | with_reducible apply keepsE_bind
    | dsimp only
    | intro _
  )

theorem execMoFill_keeps {s0 : State} {h : Hdr} {obj : Handle} {val : Byte} {off : Nat} {len : Nat} {s : State} (h_s : Keeps s0 s) :
    KeepsR s0 (execMoFill h obj val off len s) := by
  unfold execMoFill
  repeat' (first
    | with_reducible assumption
    | extract_lets
    | with_reducible apply State.packet_keeps
    | with_reducible apply acceptOr_keeps
    | with_reducible apply opMoFill_keeps
    | with_reducible refine keeps_fst (by assumption) ?_
    | dsimp only
    | split
    | intro _
  )

theorem opMoCopy_keeps {s0 : State} {h : Hdr} {src : Handle} {dst : Handle} {srcOff : Nat} {dstOff : Nat} {len : Nat} {s : State} {c : Nat} {n : Word} (h_s : Keeps s0 s) :
    KeepsE Prod.fst s0 (opMoCopy h src dst srcOff dstOff len s c n) := by
  unfold opMoCopy
  repeat' (first
    | with_reducible assumption
    | extract_lets
    | with_reducible apply keepsE_pure
    | with_reducible apply keepsE_bind
    | dsimp only
    | intro _
  )

theorem execMoCopy_keeps {s0 : State} {h : Hdr} {src : Handle} {dst : Handle} {srcOff : Nat} {dstOff : Nat} {len : Nat} {s : State} (h_s : Keeps s0 s) :
    KeepsR s0 (execMoCopy h src dst srcOff dstOff len s) := by
  unfold execMoCopy
  repeat' (first
    | with_reducible assumption
    | extract_lets
    | with_reducible apply State.packet_keeps
    | with_reducible apply acceptOr_keeps
    | with_reducible apply opMoCopy_keeps
    | with_reducible refine keeps_fst (by assumption) ?_
    | dsimp only
    | split
    | intro _
  )

theorem opMoPlaceHint_keeps {s0 : State} {obj : Handle} {policy : Nat} {s : State} {c : Nat} (h_s : Keeps s0 s) :
    KeepsE Prod.fst s0 (opMoPlaceHint obj policy s c) := by
  unfold opMoPlaceHint
  repeat' (first
    | with_reducible assumption
    | extract_lets
    | with_reducible apply State.modFrame_keeps
    | with_reducible apply State.modMo_keeps
    | with_reducible apply State.queueMove_keeps
    | with_reducible apply keepsE_pure
    | with_reducible apply keepsE_bind
    | with_reducible apply keeps_foldl
    | dsimp only
    | split
    | intro _
  )

theorem execMoPlaceHint_keeps {s0 : State} {h : Hdr} {obj : Handle} {policy : Nat} {s : State} (h_s : Keeps s0 s) :
    KeepsR s0 (execMoPlaceHint h obj policy s) := by
  unfold execMoPlaceHint
  repeat' (first
    | with_reducible assumption
    | extract_lets
    | with_reducible apply State.packet_keeps
    | with_reducible apply answerOf_keeps
    | with_reducible apply opMoPlaceHint_keeps
    | intro _
  )

theorem execMoFillCopyWorkEnd_keeps {s0 : State} {disp : DWord} {s : State} (h_s : Keeps s0 s) :
    KeepsR s0 (execMoFillCopyWorkEnd disp s) := by
  unfold execMoFillCopyWorkEnd
  repeat' (first
    | with_reducible assumption
    | with_reducible apply keepsO_none
    | extract_lets
    | with_reducible apply State.drew_keeps
    | with_reducible apply State.endDisp_keeps
    | with_reducible apply State.enterFaultBy_keeps
    | with_reducible apply State.finish_keeps
    | with_reducible apply State.readMo_keeps
    | with_reducible apply State.settle_keeps
    | with_reducible apply State.writeMo_keeps
    | with_reducible apply keepsR_next
    | with_reducible apply keepsO_map
    | with_reducible apply keepsO_bind
    | with_reducible refine keeps_fst (by assumption) ?_
    | with_reducible refine keeps_someP (by assumption) ?_
    | dsimp only
    | split
    | intro _
  )

end Sys2Proof.Machine
end

