-- ==== Sys2Proof/Laws/KeepsBundles.lean ====
section
/-!
SUPPORT. Every operation of Machine/Bundles.lean keeps (`Keeps`).
-/

set_option linter.unreachableTactic false
set_option linter.unusedTactic false

namespace Sys2Proof.Machine

theorem State.setEng_keeps {s0 : State} {s : State} {ref : DWord} {k : Nat} {e : Engine} (h_s : Keeps s0 s) :
    Keeps s0 (State.setEng s ref k e) := by
  unfold State.setEng
  repeat' (first
    | with_reducible assumption
    | with_reducible apply State.modDisp_keeps
  )

theorem State.engFault_keeps {s0 : State} {s : State} {ref : DWord} {k : Nat} {pc : Nat} {f : EFault} (h_s : Keeps s0 s) :
    Keeps s0 (State.engFault s ref k pc f) := by
  unfold State.engFault
  repeat' (first
    | with_reducible assumption
    | extract_lets
    | with_reducible apply State.faultCtx_keeps
    | with_reducible apply State.modDisp_keeps
    | with_reducible apply State.raiseEdge_keeps
    | split
  )

theorem State.readPieceBuf_keeps {s0 : State} {s : State} {d : Disp} {cl : Nat} {cva : Nat} {n : Nat} (h_s : Keeps s0 s) :
    Keeps s0 (State.readPieceBuf s d cl cva n).1 := by
  unfold State.readPieceBuf
  repeat' (first
    | with_reducible assumption
    | extract_lets
    | with_reducible apply State.readCtx_keeps
    | with_reducible refine keeps_fst (by assumption) ?_
    | split
  )

theorem State.readRow_keeps {s0 : State} {d : Disp} {cl f : Nat} {s : State} {cva n : Nat} (h : Keeps s0 s) :
    Keeps s0 (State.readRow d cl f s cva n).1 := by
  induction f generalizing s cva n with
  | zero => exact h
  | succ f ih =>
    unfold State.readRow
    split
    · exact h
    · extract_lets
      have h1 := State.readPieceBuf_keeps (d := d) (cl := cl) (cva := cva) h (n := min n (256 - cva % 256))
      split
      · rename_i heq; rw [heq] at h1; exact h1
      · rename_i heq
        rw [heq] at h1
        have h2 := ih (cva := cva + min n (256 - cva % 256)) (n := n - min n (256 - cva % 256)) h1
        split
        · rename_i heq2; rw [heq2] at h2; exact h2
        · exact h2

theorem State.mvSource_keeps {s0 : State} {s : State} {d : Disp} {k : Nat} {e : Engine} {m : MvOp} {l : List (Nat × Nat × Nat)} (h_s : Keeps s0 s) :
    Keeps s0 (State.mvSource s d k e m l).1 := by
  unfold State.mvSource
  repeat' (first
    | with_reducible assumption
    | extract_lets
    | with_reducible apply State.readCtx_keeps
    | with_reducible apply State.readRow_keeps
    | with_reducible apply keeps_foldl_fst
    | with_reducible refine keeps_fst (by assumption) ?_
    | dsimp only
    | split
    | intro _
  )

theorem State.landUnits_keeps {s0 : State} {s : State} {ref : DWord} {k : Nat} {l : List (Nat × List Byte)} (h_s : Keeps s0 s) :
    Keeps s0 (State.landUnits s ref k l) := by
  unfold State.landUnits
  repeat' (first
    | with_reducible assumption
    | with_reducible apply State.modDisp_keeps
  )

theorem State.storeWaits_keeps {s0 s b : State} {ref : DWord} {k buf off : Nat} (h_s : Keeps s0 s) : Keeps s0 (State.storeWaits s b ref k buf off) :=
  keeps_mk rfl rfl rfl rfl h_s

theorem State.mvStore_keeps {s0 : State} {s : State} {d : Disp} {k : Nat} {e : Engine} {m : MvOp} {l : List (Nat × Nat × Nat)} (h_s : Keeps s0 s) :
    Keeps s0 (State.mvStore s d k e m l).1 := by
  unfold State.mvStore
  repeat' (first
    | with_reducible assumption
    | extract_lets
    | with_reducible apply State.modDisp_keeps
    | with_reducible apply State.storeWaits_keeps
    | with_reducible apply State.writeCtx_keeps
    | with_reducible apply keeps_foldl
    | with_reducible apply keeps_foldl_fst
    | with_reducible refine keeps_fst (by assumption) ?_
    | with_reducible refine keeps_okE (st := fun a => a) (by assumption) ?_
    | with_reducible refine keeps_okP (by assumption) ?_
    | with_reducible refine keeps_someO (st := fun a => a) (by assumption) ?_
    | with_reducible refine keeps_someP (by assumption) ?_
    | with_reducible refine keeps_nextR (by assumption) ?_
    | with_reducible refine keeps_okM (by assumption) ?_ ?_
    | with_reducible refine keeps_errM (by assumption) ?_ ?_
    | dsimp only
    | split
    | intro _
    | (with_reducible conv => arg 2; whnf); split
    | assumption
    | (with_reducible refine keeps_mk ?_ ?_ ?_ ?_ ?_ <;> [rfl; rfl; rfl; rfl; (first | with_reducible assumption | with_reducible apply State.modDisp_keeps | with_reducible apply State.storeWaits_keeps | with_reducible apply State.writeCtx_keeps | with_reducible refine keeps_fst (by assumption) ?_ | split)])
  )

theorem State.mvStage_keeps {s0 : State} {s : State} {d : Disp} {k : Nat} {rows : List (Nat × List Byte)} (h_s : Keeps s0 s) :
    Keeps s0 (State.mvStage s d k rows) := by
  unfold State.mvStage
  repeat' (first
    | with_reducible assumption
    | extract_lets
    | with_reducible apply State.modDisp_keeps
  )

theorem State.mvMove_keeps {s0 : State} {s : State} {d : Disp} {k : Nat} {e : Engine} {m : MvOp} {l : List (Nat × Nat × Nat)} (h_s : Keeps s0 s) :
    Keeps s0 (State.mvMove s d k e m l).1 := by
  unfold State.mvMove
  repeat' (first
    | with_reducible assumption
    | extract_lets
    | with_reducible apply State.mvSource_keeps
    | with_reducible apply State.mvStage_keeps
    | with_reducible apply State.mvStore_keeps
    | with_reducible refine keeps_fst (by assumption) ?_
    | split
  )

theorem State.mvMiss_keeps {s0 : State} {s : State} {d : Disp} {k : Nat} {e : Engine} {m : MvOp} (h_s : Keeps s0 s) :
    KeepsO Prod.fst s0 (State.mvMiss s d k e m) := by
  unfold State.mvMiss
  repeat' (first
    | with_reducible assumption
    | with_reducible apply keepsO_none
    | extract_lets
    | with_reducible apply State.hostMiss_keeps
    | with_reducible apply keepsO_some
    | with_reducible refine keeps_fst (by assumption) ?_
    | dsimp only
    | split
  )

theorem State.mvStart_keeps {s0 : State} {s : State} {ref : DWord} {k : Nat} {m : MvOp} (h_s : Keeps s0 s) :
    Keeps s0 (State.mvStart s ref k m).1 := by
  unfold State.mvStart
  repeat' (first
    | with_reducible assumption
    | extract_lets
    | with_reducible apply State.drew_keeps
    | with_reducible apply State.landUnits_keeps
    | with_reducible apply State.modDisp_keeps
    | with_reducible apply State.mvMiss_keeps
    | with_reducible apply State.mvMove_keeps
    | with_reducible refine keeps_fst (by assumption) ?_
    | with_reducible refine keeps_someP (by assumption) ?_
    | dsimp only
    | split
  )

theorem State.tryBundle_keeps {s0 : State} {s : State} {d : Disp} {g : Program} {k : Nat} {e : Engine} (h_s : Keeps s0 s) :
    Keeps s0 (State.tryBundle s d g k e).1 := by
  unfold State.tryBundle
  repeat' (first
    | with_reducible assumption
    | extract_lets
    | with_reducible apply State.account_keeps
    | with_reducible apply State.drew_keeps
    | with_reducible apply State.mvStart_keeps
    | with_reducible apply State.setEng_keeps
    | with_reducible refine keeps_fst (by assumption) ?_
    | with_reducible refine keeps_okE (st := fun a => a) (by assumption) ?_
    | with_reducible refine keeps_okP (by assumption) ?_
    | with_reducible refine keeps_someO (st := fun a => a) (by assumption) ?_
    | with_reducible refine keeps_someP (by assumption) ?_
    | with_reducible refine keeps_nextR (by assumption) ?_
    | with_reducible refine keeps_okM (by assumption) ?_ ?_
    | with_reducible refine keeps_errM (by assumption) ?_ ?_
    | dsimp only
    | split
    | intro _
    | assumption
  )

theorem State.issueBundle_keeps {s0 : State} {s : State} {d : Disp} {g : Program} {k : Nat} {e : Engine} (h_s : Keeps s0 s) :
    Keeps s0 (State.issueBundle s d g k e) := by
  unfold State.issueBundle
  repeat' (first
    | with_reducible assumption
    | with_reducible apply State.tryBundle_keeps
    | extract_lets
    | with_reducible apply State.account_keeps
    | with_reducible apply State.drew_keeps
    | with_reducible apply State.engFault_keeps
    | with_reducible apply State.mvStart_keeps
    | with_reducible apply State.setEng_keeps
    | with_reducible refine keeps_fst (by assumption) ?_
    | dsimp only
    | split
  )

theorem State.readImage_keeps {s0 : State} {s : State} {g : Program} {cl : Nat} {off : Nat} {n : Nat} (h_s : Keeps s0 s) :
    Keeps s0 (State.readImage s g cl off n).1 := by
  unfold State.readImage
  repeat' (first
    | with_reducible assumption
    | with_reducible apply State.readMo_keeps
    | split
  )

theorem State.loadBlock_keeps {s0 : State} {s : State} {g : Program} {cl : Nat} {e : Engine} (h_s : Keeps s0 s) :
    Keeps s0 (State.loadBlock s g cl e).1 := by
  unfold State.loadBlock
  repeat' (first
    | with_reducible assumption
    | extract_lets
    | with_reducible apply State.readImage_keeps
    | with_reducible refine keeps_fst (by assumption) ?_
    | split
  )

theorem State.fetchCode_keeps {s0 : State} {s : State} {g : Program} {cl : Nat} {e : Engine} (h_s : Keeps s0 s) :
    Keeps s0 (State.fetchCode s g cl e).1 := by
  unfold State.fetchCode
  repeat' (first
    | with_reducible assumption
    | extract_lets
    | with_reducible apply State.drew_keeps
    | with_reducible apply State.loadBlock_keeps
    | split
  )

theorem State.issueAt_keeps {s0 : State} {s : State} {d : Disp} {g : Program} {k : Nat} {e : Engine} (h_s : Keeps s0 s) :
    KeepsR s0 (State.issueAt s d g k e) := by
  unfold State.issueAt
  repeat' (first
    | with_reducible assumption
    | extract_lets
    | with_reducible apply State.engFault_keeps
    | with_reducible apply State.finish_keeps
    | with_reducible apply State.issueBundle_keeps
    | with_reducible apply State.setEng_keeps
    | with_reducible apply keepsR_next
    | split
  )

theorem execBundleIssue_keeps {s0 : State} {disp : DWord} {k : Nat} {s : State} (h_s : Keeps s0 s) :
    KeepsR s0 (execBundleIssue disp k s) := by
  unfold execBundleIssue
  repeat' (first
    | with_reducible assumption
    | extract_lets
    | with_reducible apply State.engFault_keeps
    | with_reducible apply State.fetchCode_keeps
    | with_reducible apply State.finish_keeps
    | with_reducible apply State.issueAt_keeps
    | with_reducible apply State.setEng_keeps
    | with_reducible apply keepsR_next
    | with_reducible refine keeps_fst (by assumption) ?_
    | split
  )

theorem State.issueHeld_keeps {s0 : State} {s : State} {ref : DWord} {g : Program} {l : List Nat} (h_s : Keeps s0 s) :
    Keeps s0 (State.issueHeld s ref g l).1 := by
  unfold State.issueHeld
  repeat' (first
    | with_reducible assumption
    | extract_lets
    | with_reducible apply State.tryBundle_keeps
    | with_reducible apply keeps_foldl
    | with_reducible apply keeps_foldl_fst
    | with_reducible refine keeps_fst (by assumption) ?_
    | with_reducible refine keeps_okE (st := fun a => a) (by assumption) ?_
    | with_reducible refine keeps_okP (by assumption) ?_
    | with_reducible refine keeps_someO (st := fun a => a) (by assumption) ?_
    | with_reducible refine keeps_someP (by assumption) ?_
    | with_reducible refine keeps_nextR (by assumption) ?_
    | with_reducible refine keeps_okM (by assumption) ?_ ?_
    | with_reducible refine keeps_errM (by assumption) ?_ ?_
    | dsimp only
    | split
    | intro _
    | assumption
  )

theorem State.faultAll_keeps {s0 s : State} {d : Disp} {l : List (Nat × Nat × EFault)} (h_s : Keeps s0 s) : Keeps s0 (State.faultAll s d l) := by
  unfold State.faultAll
  split
  · exact h_s
  · exact keeps_foldl (State.engFault_keeps h_s) fun _ _ h => State.faultCtx_keeps h

theorem execBarrierRelease_keeps {s0 : State} {disp : DWord} {id : Nat} {s : State} (h_s : Keeps s0 s) :
    KeepsR s0 (execBarrierRelease disp id s) := by
  unfold execBarrierRelease
  repeat' (first
    | with_reducible assumption
    | with_reducible apply State.faultAll_keeps
    | extract_lets
    | with_reducible apply State.engFault_keeps
    | with_reducible apply State.finish_keeps
    | with_reducible apply State.issueHeld_keeps
    | with_reducible apply keepsR_next
    | with_reducible apply keepsR_fault
    | with_reducible apply keepsR_refused
    | with_reducible apply keeps_elim
    | with_reducible refine keeps_fst (by assumption) ?_
    | with_reducible refine keeps_okE (st := fun a => a) (by assumption) ?_
    | with_reducible refine keeps_okP (by assumption) ?_
    | with_reducible refine keeps_someO (st := fun a => a) (by assumption) ?_
    | with_reducible refine keeps_someP (by assumption) ?_
    | with_reducible refine keeps_nextR (by assumption) ?_
    | with_reducible refine keeps_okM (by assumption) ?_ ?_
    | with_reducible refine keeps_errM (by assumption) ?_ ?_
    | dsimp only
    | split
    | intro _
    | (with_reducible conv => arg 2; whnf); split
    | assumption
  )

theorem State.redLand_keeps {s0 : State} {s : State} {d : Disp} {m : MvOp} {k : Nat} (h_s : Keeps s0 s) :
    Keeps s0 (State.redLand s d m k) := by
  unfold State.redLand
  repeat' (first
    | with_reducible assumption
    | extract_lets
    | with_reducible apply State.drew_keeps
    | with_reducible apply State.modDisp_keeps
  )

theorem State.mvFinish_keeps {s0 : State} {s : State} {d : Disp} {k : Nat} {i : Nat} {e : Engine} {m : MvOp} (h_s : Keeps s0 s) :
    Keeps s0 (State.mvFinish s d k i e m).1 := by
  unfold State.mvFinish
  repeat' (first
    | with_reducible assumption
    | extract_lets
    | with_reducible apply State.landUnits_keeps
    | with_reducible apply State.modDisp_keeps
    | with_reducible apply State.mvMove_keeps
    | with_reducible apply State.redLand_keeps
    | with_reducible refine keeps_fst (by assumption) ?_
    | dsimp only
    | split
  )

theorem execMoverOpComplete_keeps {s0 : State} {disp : DWord} {k : Nat} {tag : Nat} {s : State} (h_s : Keeps s0 s) :
    KeepsR s0 (execMoverOpComplete disp k tag s) := by
  unfold execMoverOpComplete
  repeat' (first
    | with_reducible assumption
    | extract_lets
    | with_reducible apply State.drew_keeps
    | with_reducible apply State.engFault_keeps
    | with_reducible apply State.finish_keeps
    | with_reducible apply State.mvFinish_keeps
    | with_reducible apply keepsR_next
    | with_reducible refine keeps_fst (by assumption) ?_
    | dsimp only
    | split
  )

end Sys2Proof.Machine
end

