-- ==== Sys2Proof/Laws/KeepsKvBase.lean ====
section
/-!
SUPPORT. Every operation of Machine/KvBase.lean keeps (`Keeps`).
-/

set_option linter.unreachableTactic false
set_option linter.unusedTactic false

namespace Sys2Proof.Machine

theorem kvNeed_keeps {b : Bool}  :
    KeepsM (kvNeed b) := by
  unfold kvNeed
  repeat' (first
    | with_reducible apply keepsM_pure
    | with_reducible apply keepsM_throw
    | split
  )

theorem kvAtomic_keeps {α : Type} {m : KvM α} (h_m : KeepsM m) : KeepsM (kvAtomic m) := by
  constructor
  · intro s0 s a t h e
    simp only [kvAtomic] at e
    split at e <;> cases e
    exact h_m.ok s0 s _ _ h (by assumption)
  · intro s0 s x t h e
    simp only [kvAtomic] at e
    split at e <;> cases e
    rename_i u heq
    have k := h_m.error s0 s _ _ h heq
    have k2 : Keeps s0 { u with pool := s.pool } := ⟨h.1, k.2⟩
    split
    · split
      · exact State.modFrame_keeps k2
      · exact k2
    · exact k2

theorem kvDraw_keeps : KeepsM kvDraw :=
  ⟨by intro s0 s a t h e; cases e; exact State.drew_keeps h, by intro s0 s a t h e; cases e⟩

theorem KvEnv.rd_keeps {k : KvEnv} {off : Nat} {n : Nat}  :
    KeepsM (KvEnv.rd k off n) := by
  unfold KvEnv.rd
  repeat' (first
    | extract_lets
    | with_reducible apply State.readMo_keeps
    | with_reducible apply keepsM_io
    | intro _
  )

theorem KvEnv.rdN_keeps {k : KvEnv} {off : Nat} {n : Nat}  :
    KeepsM (KvEnv.rdN k off n) := by
  unfold KvEnv.rdN
  repeat' (first
    | extract_lets
    | with_reducible apply KvEnv.rd_keeps
    | with_reducible apply keepsM_pure
    | with_reducible apply keepsM_bind
    | intro _
  )

theorem KvEnv.wr_keeps {k : KvEnv} {off : Nat} {d : List Byte}  :
    KeepsM (KvEnv.wr k off d) := by
  unfold KvEnv.wr
  repeat' (first
    | extract_lets
    | with_reducible apply State.writeMo_keeps
    | with_reducible apply keepsM_io
    | intro _
  )

theorem KvEnv.wrN_keeps {k : KvEnv} {off : Nat} {n : Nat} {v : Nat}  :
    KeepsM (KvEnv.wrN k off n v) := by
  unfold KvEnv.wrN
  repeat' (first
    | with_reducible apply KvEnv.wr_keeps
  )

theorem KvEnv.mark_keeps {k : KvEnv} {f : Nat} {free : Bool}  :
    KeepsM (KvEnv.mark k f free) := by
  unfold KvEnv.mark
  repeat' (first
    | extract_lets
    | with_reducible apply KvEnv.rdN_keeps
    | with_reducible apply KvEnv.wrN_keeps
    | with_reducible apply keepsM_bind
    | dsimp only
    | split
    | intro _
  )

theorem KvEnv.takeFrame_keeps {k : KvEnv}  :
    KeepsM (KvEnv.takeFrame k) := by
  unfold KvEnv.takeFrame
  repeat' (first
    | extract_lets
    | with_reducible apply KvEnv.mark_keeps
    | with_reducible apply KvEnv.rdN_keeps
    | with_reducible apply KvEnv.rd_keeps
    | with_reducible apply KvEnv.wrN_keeps
    | with_reducible apply State.modDisp_keeps
    | with_reducible apply kvDraw_keeps
    | with_reducible apply keepsM_pure
    | with_reducible apply keepsM_throw
    | with_reducible apply keepsM_modify
    | with_reducible apply keepsM_bind
    | dsimp only
    | split
    | intro _
  )

theorem KvEnv.freeFrame_keeps {k : KvEnv} {f : Nat}  :
    KeepsM (KvEnv.freeFrame k f) := by
  unfold KvEnv.freeFrame
  repeat' (first
    | extract_lets
    | with_reducible apply KvEnv.mark_keeps
    | with_reducible apply KvEnv.rdN_keeps
    | with_reducible apply KvEnv.wrN_keeps
    | with_reducible apply keepsM_bind
    | intro _
  )

theorem KvEnv.place_keeps {k : KvEnv} {f : Nat} {pref : Option Nat} {d : List Byte} : KeepsM (k.place f pref d) := by
  have hw := KvEnv.wr_keeps (k := k) (off := 65536 * f) (d := d ++ List.replicate (65536 - d.length) 0)
  have ht {s0 s : State} {e : AccErr} {r : Unit → KvM Unit} (h : Keeps s0 s) : KeepsAt s0 s (throw e >>= r : KvM Unit) := by
    constructor
    · intro b t e; cases e
    · intro b t e; cases e; exact h
  unfold KvEnv.place
  apply keepsM_bind
  · exact keepsM_io fun s0 s h => State.translate_keeps h
  · intro l
    split
    · exact keepsM_throw
    · apply keepsM_get_bind
      intro s0 s h
      split
      · exact keepsAt_of keepsM_throw h
      · dsimp only
        split
        · exact ht h
        · split
          · exact ht h
          · split
            · exact keepsAt_set_bind (State.modFrame_keeps h) keepsM_throw
            · split
              · exact keepsAt_set_bind (State.remapped_keeps (State.modFrame_keeps h)) hw
              · exact keepsAt_of hw h

theorem KvEnv.follow_keeps {k : KvEnv} {v : Nat}  :
    KeepsM (KvEnv.follow k v) := by
  unfold KvEnv.follow
  repeat' (first
    | with_reducible apply keepsM_pure
    | with_reducible apply keepsM_throw
    | split
  )

theorem KvEnv.headOf_keeps {k : KvEnv} {seq : Nat}  :
    KeepsM (KvEnv.headOf k seq) := by
  unfold KvEnv.headOf
  repeat' (first
    | extract_lets
    | with_reducible apply KvEnv.follow_keeps
    | with_reducible apply KvEnv.rdN_keeps
    | with_reducible apply keepsM_pure
    | with_reducible apply keepsM_bind
    | split
    | intro _
  )

theorem KvEnv.nextOf_keeps {k : KvEnv} {f : Nat}  :
    KeepsM (KvEnv.nextOf k f) := by
  unfold KvEnv.nextOf
  repeat' (first
    | extract_lets
    | with_reducible apply KvEnv.follow_keeps
    | with_reducible apply KvEnv.rdN_keeps
    | with_reducible apply keepsM_bind
  )

theorem KvEnv.chainAt_keeps {k : KvEnv} {seq i : Nat} : KeepsM (k.chainAt seq i) := by
  induction i with
  | zero => exact KvEnv.headOf_keeps
  | succ i ih =>
    unfold KvEnv.chainAt
    refine keepsM_bind ih fun a => ?_
    split
    · exact KvEnv.nextOf_keeps
    · exact keepsM_pure

theorem KvEnv.chain_keeps {k : KvEnv} {n : Nat} {f : Option Nat} : KeepsM (k.chain n f) := by
  induction n generalizing f with
  | zero => unfold KvEnv.chain; exact keepsM_pure
  | succ n ih =>
    cases f with
    | none => unfold KvEnv.chain; exact keepsM_pure
    | some f =>
      unfold KvEnv.chain
      exact keepsM_bind KvEnv.nextOf_keeps fun _ => keepsM_bind ih fun _ => keepsM_pure

theorem KvEnv.newTable_keeps {k : KvEnv}  :
    KeepsM (KvEnv.newTable k) := by
  unfold KvEnv.newTable
  repeat' (first
    | extract_lets
    | with_reducible apply KvEnv.place_keeps
    | with_reducible apply KvEnv.takeFrame_keeps
    | with_reducible apply keepsM_pure
    | with_reducible apply keepsM_bind
    | intro _
  )

theorem KvEnv.grow_keeps {k : KvEnv} {seq i : Nat} : KeepsM (k.grow seq i) := by
  have hn (x y : Nat) : KeepsM (kvAtomic (k.newTable >>= fun f => k.wrN x y f >>= fun _ => pure f)) :=
    kvAtomic_keeps (keepsM_bind KvEnv.newTable_keeps fun _ => keepsM_bind KvEnv.wrN_keeps fun _ => keepsM_pure)
  induction i with
  | zero =>
    unfold KvEnv.grow
    refine keepsM_bind KvEnv.headOf_keeps fun a => ?_
    split
    · exact keepsM_pure
    · exact hn _ _
  | succ i ih =>
    unfold KvEnv.grow
    refine keepsM_bind ih fun p => keepsM_bind KvEnv.nextOf_keeps fun a => ?_
    split
    · exact keepsM_pure
    · exact hn _ _

theorem KvEnv.entry_keeps {k : KvEnv} {seq : Nat} {i : Nat}  :
    KeepsM (KvEnv.entry k seq i) := by
  unfold KvEnv.entry
  repeat' (first
    | extract_lets
    | with_reducible apply KvEnv.chainAt_keeps
    | with_reducible apply KvEnv.follow_keeps
    | with_reducible apply KvEnv.rdN_keeps
    | with_reducible apply keepsM_pure
    | with_reducible apply keepsM_bind
    | split
    | intro _
  )

theorem KvEnv.setEntry_keeps {k : KvEnv} {seq : Nat} {i : Nat} {v : Nat}  :
    KeepsM (KvEnv.setEntry k seq i v) := by
  unfold KvEnv.setEntry
  repeat' (first
    | extract_lets
    | with_reducible apply KvEnv.grow_keeps
    | with_reducible apply KvEnv.wrN_keeps
    | with_reducible apply keepsM_bind
    | intro _
  )

theorem KvEnv.addBlocks_keeps {k : KvEnv} {seq : Nat} {up : Bool} {n : Nat}  :
    KeepsM (KvEnv.addBlocks k seq up n) := by
  unfold KvEnv.addBlocks
  repeat' (first
    | extract_lets
    | with_reducible apply KvEnv.rdN_keeps
    | with_reducible apply KvEnv.wrN_keeps
    | with_reducible apply keepsM_bind
    | split
    | intro _
  )

theorem KvEnv.checkBlock_keeps {k : KvEnv} {f : Nat} {l : Nat} {g : Nat} {c : Nat}  :
    KeepsM (KvEnv.checkBlock k f l g c) := by
  unfold KvEnv.checkBlock
  repeat' (first
    | extract_lets
    | with_reducible apply KvEnv.rd_keeps
    | with_reducible apply kvNeed_keeps
    | with_reducible apply keepsM_pure
    | with_reducible apply keepsM_bind
    | intro _
  )

theorem KvEnv.newBlock_keeps {k : KvEnv} {seq : Nat} {c : Nat} {l : Nat} {g : Nat} {recs : List Byte}  :
    KeepsM (KvEnv.newBlock k seq c l g recs) := by
  unfold KvEnv.newBlock
  repeat' (first
    | extract_lets
    | with_reducible apply KvEnv.grow_keeps
    | with_reducible apply KvEnv.place_keeps
    | with_reducible apply KvEnv.setEntry_keeps
    | with_reducible apply KvEnv.takeFrame_keeps
    | with_reducible apply kvAtomic_keeps
    | with_reducible apply keepsM_pure
    | with_reducible apply keepsM_get
    | with_reducible apply keepsM_bind
    | intro _
  )

theorem KvEnv.unref_keeps {k : KvEnv} {f : Nat}  :
    KeepsM (KvEnv.unref k f) := by
  unfold KvEnv.unref
  repeat' (first
    | extract_lets
    | with_reducible apply KvEnv.freeFrame_keeps
    | with_reducible apply KvEnv.rdN_keeps
    | with_reducible apply KvEnv.wrN_keeps
    | with_reducible apply keepsM_pure
    | with_reducible apply keepsM_bind
    | split
    | intro _
  )

theorem KvEnv.blockToWrite_keeps {k : KvEnv} {seq : Nat} {c : Nat} {l : Nat} {g : Nat}  :
    KeepsM (KvEnv.blockToWrite k seq c l g) := by
  unfold KvEnv.blockToWrite
  repeat' (first
    | extract_lets
    | with_reducible apply KvEnv.addBlocks_keeps
    | with_reducible apply KvEnv.checkBlock_keeps
    | with_reducible apply KvEnv.entry_keeps
    | with_reducible apply KvEnv.newBlock_keeps
    | with_reducible apply KvEnv.rd_keeps
    | with_reducible apply KvEnv.wrN_keeps
    | with_reducible apply kvAtomic_keeps
    | with_reducible apply keepsM_pure
    | with_reducible apply keepsM_bind
    | split
    | intro _
  )

theorem KvEnv.srcRec_keeps {k : KvEnv} {a : AppendArgs} {src : Mo} {i : Nat} {j : Nat} {g : Nat}  :
    KeepsM (KvEnv.srcRec k a src i j g) := by
  unfold KvEnv.srcRec
  repeat' (first
    | extract_lets
    | with_reducible apply State.readMo_keeps
    | with_reducible apply keepsM_pure
    | with_reducible apply keepsM_io
    | with_reducible apply keepsM_bind
    | split
    | intro _
  )

theorem KvEnv.append_keeps {k : KvEnv} {a : AppendArgs} {src : Mo} {sel : Nat → Nat → Bool}  :
    KeepsM (KvEnv.append k a src sel) := by
  unfold KvEnv.append
  repeat' (first
    | extract_lets
    | with_reducible apply KvEnv.blockToWrite_keeps
    | with_reducible apply KvEnv.srcRec_keeps
    | with_reducible apply KvEnv.wr_keeps
    | with_reducible apply keepsM_pure
    | with_reducible apply keepsM_forM
    | with_reducible apply keepsM_bind
    | split
    | intro _
  )

theorem KvEnv.fork_keeps {k : KvEnv} {parent : Nat} {child : Nat} {pfx : Nat}  :
    KeepsM (KvEnv.fork k parent child pfx) := by
  unfold KvEnv.fork
  repeat' (first
    | extract_lets
    | with_reducible apply KvEnv.addBlocks_keeps
    | with_reducible apply KvEnv.checkBlock_keeps
    | with_reducible apply KvEnv.entry_keeps
    | with_reducible apply KvEnv.grow_keeps
    | with_reducible apply KvEnv.newBlock_keeps
    | with_reducible apply KvEnv.rd_keeps
    | with_reducible apply KvEnv.setEntry_keeps
    | with_reducible apply KvEnv.wrN_keeps
    | with_reducible apply kvAtomic_keeps
    | with_reducible apply keepsM_pure
    | with_reducible apply keepsM_forM
    | with_reducible apply keepsM_bind
    | split
    | intro _
  )

theorem KvEnv.release_keeps {k : KvEnv} {seq : Nat} {lo : Nat}  :
    KeepsM (KvEnv.release k seq lo) := by
  unfold KvEnv.release
  repeat' (first
    | extract_lets
    | with_reducible apply KvEnv.addBlocks_keeps
    | with_reducible apply KvEnv.chain_keeps
    | with_reducible apply KvEnv.checkBlock_keeps
    | with_reducible apply KvEnv.follow_keeps
    | with_reducible apply KvEnv.headOf_keeps
    | with_reducible apply KvEnv.rd_keeps
    | with_reducible apply KvEnv.unref_keeps
    | with_reducible apply KvEnv.wrN_keeps
    | with_reducible apply kvAtomic_keeps
    | with_reducible apply keepsM_pure
    | with_reducible apply keepsM_forM
    | with_reducible apply keepsM_bind
    | dsimp only
    | split
    | intro _
  )

theorem KvEnv.evict_keeps {k : KvEnv} {seq : Nat} {mode : Nat} {newLen : Nat}  :
    KeepsM (KvEnv.evict k seq mode newLen) := by
  unfold KvEnv.evict
  repeat' (first
    | extract_lets
    | with_reducible apply KvEnv.chain_keeps
    | with_reducible apply KvEnv.freeFrame_keeps
    | with_reducible apply KvEnv.headOf_keeps
    | with_reducible apply KvEnv.release_keeps
    | with_reducible apply KvEnv.wrN_keeps
    | with_reducible apply KvEnv.wr_keeps
    | with_reducible apply kvAtomic_keeps
    | with_reducible apply keepsM_forM
    | with_reducible apply keepsM_bind
    | split
    | intro _
  )

end Sys2Proof.Machine
end

