-- ==== Sys2Proof/Laws/KeepsKvAttend.lean ====
section
/-!
SUPPORT. Every operation of Machine/KvAttend.lean keeps (`Keeps`).
-/

set_option linter.unreachableTactic false
set_option linter.unusedTactic false

namespace Sys2Proof.Machine

theorem KvEnv.unit_keeps {k : KvEnv} {seq : Nat} {c : Nat} {l : Nat} {g : Nat} {n : Nat}  :
    KeepsM (KvEnv.unit k seq c l g n) := by
  unfold KvEnv.unit
  repeat' (first
    | extract_lets
    | with_reducible apply KvEnv.checkBlock_keeps
    | with_reducible apply KvEnv.entry_keeps
    | with_reducible apply KvEnv.rd_keeps
    | with_reducible apply keepsM_pure
    | with_reducible apply keepsM_bind
    | split
    | intro _
  )

theorem KvEnv.attendOne_keeps {k : KvEnv} {a : AttendArgs} {seq : Nat} {len : Nat} {rec : List Byte}  :
    KeepsM (KvEnv.attendOne k a seq len rec) := by
  unfold KvEnv.attendOne
  repeat' (first
    | extract_lets
    | with_reducible apply KvEnv.unit_keeps
    | with_reducible apply State.drew_keeps
    | with_reducible apply keepsM_pure
    | with_reducible apply keepsM_get
    | with_reducible apply keepsM_modify
    | with_reducible apply keepsM_mapM
    | with_reducible apply keepsM_bind
    | dsimp only
    | split
    | intro _
  )

theorem KvEnv.attend_keeps {k : KvEnv} {a : AttendArgs} {qs : List (Nat × Nat)} {src : Mo}  :
    KeepsM (KvEnv.attend k a qs src) := by
  unfold KvEnv.attend
  repeat' (first
    | extract_lets
    | with_reducible apply KvEnv.attendOne_keeps
    | with_reducible apply State.readMo_keeps
    | with_reducible apply keepsM_pure
    | with_reducible apply keepsM_io
    | with_reducible apply keepsM_mapM
    | with_reducible apply keepsM_bind
    | intro _
  )

end Sys2Proof.Machine
end

