-- ==== Sys2Proof/Laws/KeepsKv.lean ====
section
/-!
SUPPORT. Every operation of Machine/Kv.lean keeps (`Keeps`).
-/

set_option linter.unreachableTactic false
set_option linter.unusedTactic false

namespace Sys2Proof.Machine

theorem kvCheck_keeps {b : Bool} {st : Status}  :
    KeepsM (kvCheck b st) := by
  unfold kvCheck
  repeat' (first
    | with_reducible apply keepsM_pure
    | with_reducible apply keepsM_throw
    | split
  )

theorem kvWant_keeps {α : Type} {r : Except Status α}  :
    KeepsM (kvWant r) := by
  unfold kvWant
  repeat' (first
    | with_reducible apply keepsM_pure
    | with_reducible apply keepsM_throw
    | split
  )

theorem kvDo_keeps {α : Type} {m : KvM α} (h_m : KeepsM m) : KeepsM (kvDo m) := by
  constructor
  · intro s0 s a t h e
    simp only [kvDo] at e
    split at e <;> cases e
    exact h_m.ok s0 s _ _ h (by assumption)
  · intro s0 s x t h e
    simp only [kvDo] at e
    split at e <;> cases e
    exact h_m.error s0 s _ _ h (by assumption)

theorem kvAnswer_keeps {s0 : State} {s : State} {d0 : Disp} {m : KvD Disp} (h_s : Keeps s0 s) (h_m : KeepsM m) :
    Keeps s0 (kvAnswer s d0 m).1 := by
  unfold kvAnswer
  repeat' (first
    | with_reducible assumption
    | extract_lets
    | with_reducible apply State.accept_keeps
    | with_reducible apply State.faultCtx_keeps
    | with_reducible refine keeps_okM (by assumption) ?_ ?_
    | with_reducible refine keeps_errM (by assumption) ?_ ?_
    | split
  )

theorem kvPolder_keeps {h : Hdr} {c : Nat} {p : Nat}  :
    KeepsM (kvPolder h c p) := by
  unfold kvPolder
  repeat' (first
    | extract_lets
    | with_reducible apply kvCheck_keeps
    | with_reducible apply keepsM_get
    | with_reducible apply keepsM_bind
    | intro _
  )

theorem kvOpen_keeps {d : Disp} {m : Nat × Mo}  :
    KeepsM (kvOpen d m) := by
  unfold kvOpen
  repeat' (first
    | extract_lets
    | with_reducible apply State.readMo_keeps
    | with_reducible apply kvDo_keeps
    | with_reducible apply keepsM_pure
    | with_reducible apply keepsM_io
    | with_reducible apply keepsM_bind
    | intro _
  )

theorem kvFormatted_keeps {hd : List Byte}  :
    KeepsM (kvFormatted hd) := by
  unfold kvFormatted
  repeat' (first
    | with_reducible apply kvCheck_keeps
  )

theorem KvEnv.seqLen_keeps {k : KvEnv} {seq : Nat}  :
    KeepsM (KvEnv.seqLen k seq) := by
  unfold KvEnv.seqLen
  repeat' (first
    | extract_lets
    | with_reducible apply KvEnv.rd_keeps
    | with_reducible apply kvDo_keeps
    | with_reducible apply keepsM_pure
    | with_reducible apply keepsM_bind
    | intro _
  )

theorem KvEnv.setSeq_keeps {k : KvEnv} {seq : Nat} {st : Nat} {len : Nat}  :
    KeepsM (KvEnv.setSeq k seq st len) := by
  unfold KvEnv.setSeq
  repeat' (first
    | extract_lets
    | with_reducible apply KvEnv.wrN_keeps
    | with_reducible apply kvDo_keeps
    | with_reducible apply keepsM_bind
    | intro _
  )

theorem KvEnv.reserve_keeps {k : KvEnv} {hd : List Byte} {n : Nat}  :
    KeepsM (KvEnv.reserve k hd n) := by
  unfold KvEnv.reserve
  repeat' (first
    | extract_lets
    | with_reducible apply kvCheck_keeps
    | with_reducible apply keepsM_get
    | with_reducible apply keepsM_bind
    | intro _
  )

theorem KvEnv.lacks_keeps {k : KvEnv} {seq : Nat} {n : Nat}  :
    KeepsM (KvEnv.lacks k seq n) := by
  unfold KvEnv.lacks
  repeat' (first
    | extract_lets
    | with_reducible apply KvEnv.chain_keeps
    | with_reducible apply KvEnv.headOf_keeps
    | with_reducible apply kvDo_keeps
    | with_reducible apply keepsM_pure
    | with_reducible apply keepsM_get
    | with_reducible apply keepsM_bind
    | dsimp only
    | intro _
  )

theorem kvNotify_keeps {h : Hdr} {c : Nat} {cookie : DWord} : KeepsM (kvNotify h c cookie) := by
  unfold kvNotify
  apply keepsM_get_bind
  intro s0 s hs
  have hn := State.notify_keeps (h := h) (c := c) (cookie := cookie) hs
  split
  · rename_i t heq
    have ht := hn.out t heq
    exact ⟨fun a u e => by cases e; exact ht, fun a u e => by cases e⟩
  · exact keepsAt_of keepsM_throw hs

theorem kvAppendDec_keeps {h : Hdr} {a : AppendArgs} {c : Nat} {d0 : Disp} {m : Nat × Mo} {src : Mo}  :
    KeepsM (kvAppendDec h a c d0 m src) := by
  unfold kvAppendDec
  repeat' (first
    | extract_lets
    | with_reducible apply KvEnv.lacks_keeps
    | with_reducible apply KvEnv.reserve_keeps
    | with_reducible apply KvEnv.seqLen_keeps
    | with_reducible apply KvEnv.setSeq_keeps
    | with_reducible apply kvCheck_keeps
    | with_reducible apply kvFormatted_keeps
    | with_reducible apply kvNotify_keeps
    | with_reducible apply kvOpen_keeps
    | with_reducible apply kvPolder_keeps
    | with_reducible apply keepsM_pure
    | with_reducible apply keepsM_bind
    | dsimp only
    | intro _
  )

theorem execKvAppend_keeps {s0 : State} {h : Hdr} {a : AppendArgs} {s : State} (h_s : Keeps s0 s) :
    KeepsR s0 (execKvAppend h a s) := by
  unfold execKvAppend
  repeat' (first
    | with_reducible assumption
    | extract_lets
    | with_reducible apply State.packet_keeps
    | with_reducible apply kvAnswer_keeps
    | with_reducible apply kvAppendDec_keeps
    | dsimp only
    | split
    | intro _
  )

theorem KvEnv.queries_keeps {k : KvEnv} {a : AttendArgs} {src : Mo}  :
    KeepsM (KvEnv.queries k a src) := by
  unfold KvEnv.queries
  repeat' (first
    | extract_lets
    | with_reducible apply KvEnv.seqLen_keeps
    | with_reducible apply State.readMo_keeps
    | with_reducible apply kvCheck_keeps
    | with_reducible apply kvDo_keeps
    | with_reducible apply keepsM_pure
    | with_reducible apply keepsM_io
    | with_reducible apply keepsM_mapM
    | with_reducible apply keepsM_bind
    | dsimp only
    | intro _
  )

theorem kvAttendDec_keeps {h : Hdr} {a : AttendArgs} {c : Nat} {d0 : Disp} {m : Nat × Mo} {src : Mo} {res : Option (Nat × Mo)}  :
    KeepsM (kvAttendDec h a c d0 m src res) := by
  unfold kvAttendDec
  repeat' (first
    | extract_lets
    | with_reducible apply KvEnv.queries_keeps
    | with_reducible apply kvCheck_keeps
    | with_reducible apply kvFormatted_keeps
    | with_reducible apply kvNotify_keeps
    | with_reducible apply kvOpen_keeps
    | with_reducible apply kvPolder_keeps
    | with_reducible apply keepsM_pure
    | with_reducible apply keepsM_get
    | with_reducible apply keepsM_bind
    | dsimp only
    | intro _
  )

theorem execKvAttend_keeps {s0 : State} {h : Hdr} {a : AttendArgs} {s : State} (h_s : Keeps s0 s) :
    KeepsR s0 (execKvAttend h a s) := by
  unfold execKvAttend
  repeat' (first
    | with_reducible assumption
    | extract_lets
    | with_reducible apply State.packet_keeps
    | with_reducible apply kvAnswer_keeps
    | with_reducible apply kvAttendDec_keeps
    | dsimp only
    | split
    | intro _
  )

theorem kvForkDec_keeps {h : Hdr} {c : Nat} {parent : Nat} {child : Nat} {pfx : Nat} {cookie : DWord} {d0 : Disp} {m : Nat × Mo}  :
    KeepsM (kvForkDec h c parent child pfx cookie d0 m) := by
  unfold kvForkDec
  repeat' (first
    | extract_lets
    | with_reducible apply KvEnv.reserve_keeps
    | with_reducible apply KvEnv.seqLen_keeps
    | with_reducible apply KvEnv.setSeq_keeps
    | with_reducible apply kvCheck_keeps
    | with_reducible apply kvFormatted_keeps
    | with_reducible apply kvNotify_keeps
    | with_reducible apply kvOpen_keeps
    | with_reducible apply keepsM_pure
    | with_reducible apply keepsM_bind
    | dsimp only
    | intro _
  )

theorem execKvFork_keeps {s0 : State} {h : Hdr} {obj : Handle} {parent : Nat} {child : Nat} {pfx : Nat} {cookie : DWord} {s : State} (h_s : Keeps s0 s) :
    KeepsR s0 (execKvFork h obj parent child pfx cookie s) := by
  unfold execKvFork
  repeat' (first
    | with_reducible assumption
    | extract_lets
    | with_reducible apply State.packet_keeps
    | with_reducible apply kvAnswer_keeps
    | with_reducible apply kvForkDec_keeps
    | dsimp only
    | split
    | intro _
  )

theorem kvEvictDec_keeps {h : Hdr} {c : Nat} {seq : Nat} {mode : Nat} {newLen : Nat} {cookie : DWord} {d0 : Disp} {m : Nat × Mo}  :
    KeepsM (kvEvictDec h c seq mode newLen cookie d0 m) := by
  unfold kvEvictDec
  repeat' (first
    | extract_lets
    | with_reducible apply KvEnv.seqLen_keeps
    | with_reducible apply KvEnv.setSeq_keeps
    | with_reducible apply kvCheck_keeps
    | with_reducible apply kvFormatted_keeps
    | with_reducible apply kvNotify_keeps
    | with_reducible apply kvOpen_keeps
    | with_reducible apply keepsM_pure
    | with_reducible apply keepsM_bind
    | dsimp only
    | split
    | intro _
  )

theorem kvFormatDec_keeps {h : Hdr} {c : Nat} {seq : Nat} {cookie : DWord} {d0 : Disp} {m : Nat × Mo}  :
    KeepsM (kvFormatDec h c seq cookie d0 m) := by
  unfold kvFormatDec
  repeat' (first
    | extract_lets
    | with_reducible apply KvEnv.setSeq_keeps
    | with_reducible apply KvEnv.wr_keeps
    | with_reducible apply State.modMo_keeps
    | with_reducible apply kvCheck_keeps
    | with_reducible apply kvDo_keeps
    | with_reducible apply kvNotify_keeps
    | with_reducible apply kvOpen_keeps
    | with_reducible apply keepsM_pure
    | with_reducible apply keepsM_modify
    | with_reducible apply keepsM_forM
    | with_reducible apply keepsM_bind
    | dsimp only
    | split
    | intro _
  )

theorem State.evictPacket_keeps {s0 : State} {s : State} {cmd : Instr} {i : OpInfo} {h : Hdr} {obj : Handle} {seq : Nat} {mode : Nat} {newLen : Nat} {dec : Nat → Disp → Nat × Mo → KvD Disp} (h_s : Keeps s0 s) (h_dec : ∀ y0 y1 y2, KeepsM (dec y0 y1 y2)) :
    KeepsR s0 (State.evictPacket s cmd i h obj seq mode newLen dec) := by
  unfold State.evictPacket
  repeat' (first
    | with_reducible assumption
    | extract_lets
    | with_reducible apply h_dec
    | with_reducible apply KvEnv.evict_keeps
    | with_reducible apply State.packet_keeps
    | with_reducible apply kvAnswer_keeps
    | with_reducible apply keepsR_next
    | with_reducible apply keepsR_fault
    | with_reducible apply keepsR_refused
    | with_reducible refine keeps_fst (by assumption) ?_
    | with_reducible refine keeps_okE (st := fun a => a) (by assumption) ?_
    | with_reducible refine keeps_okP (by assumption) ?_
    | with_reducible refine keeps_someO (st := fun a => a) (by assumption) ?_
    | with_reducible refine keeps_someP (by assumption) ?_
    | with_reducible refine keeps_nextR (by assumption) ?_
    | with_reducible refine keeps_okM (by assumption) ?_ ?_
    | with_reducible refine keeps_errM (by assumption) ?_ ?_
    | dsimp only
    | split
    | intro _
    | assumption
  )

theorem execKvEvictRelease_keeps {s0 : State} {h : Hdr} {obj : Handle} {seq : Nat} {cookie : DWord} {s : State} (h_s : Keeps s0 s) :
    KeepsR s0 (execKvEvictRelease h obj seq cookie s) := by
  unfold execKvEvictRelease
  repeat' (first
    | with_reducible assumption
    | extract_lets
    | with_reducible apply State.evictPacket_keeps
    | with_reducible apply kvEvictDec_keeps
    | intro _
  )

theorem execKvEvictTruncate_keeps {s0 : State} {h : Hdr} {obj : Handle} {seq : Nat} {newLen : Nat} {cookie : DWord} {s : State} (h_s : Keeps s0 s) :
    KeepsR s0 (execKvEvictTruncate h obj seq newLen cookie s) := by
  unfold execKvEvictTruncate
  repeat' (first
    | with_reducible assumption
    | extract_lets
    | with_reducible apply State.evictPacket_keeps
    | with_reducible apply kvEvictDec_keeps
    | intro _
  )

theorem execKvEvictFormat_keeps {s0 : State} {h : Hdr} {obj : Handle} {seq : Nat} {cookie : DWord} {s : State} (h_s : Keeps s0 s) :
    KeepsR s0 (execKvEvictFormat h obj seq cookie s) := by
  unfold execKvEvictFormat
  repeat' (first
    | with_reducible assumption
    | extract_lets
    | with_reducible apply State.evictPacket_keeps
    | with_reducible apply kvFormatDec_keeps
    | intro _
  )

theorem KvEnv.blockStacks_keeps {k : KvEnv} {write : Bool} {seq : Nat} {c : Nat} {l : Nat} {g : Nat}  :
    KeepsM (KvEnv.blockStacks k write seq c l g) := by
  unfold KvEnv.blockStacks
  repeat' (first
    | extract_lets
    | with_reducible apply KvEnv.entry_keeps
    | with_reducible apply KvEnv.rdN_keeps
    | with_reducible apply keepsM_pure
    | with_reducible apply keepsM_get
    | with_reducible apply keepsM_bind
    | dsimp only
    | split
    | intro _
  )

theorem KvEnv.stacks_keeps {k : KvEnv} {w : Work}  :
    KeepsM (KvEnv.stacks k w) := by
  unfold KvEnv.stacks
  repeat' (first
    | extract_lets
    | with_reducible apply KvEnv.blockStacks_keeps
    | with_reducible apply keepsM_pure
    | with_reducible apply keepsM_mapM
    | with_reducible apply keepsM_bind
    | split
    | intro _
  )

theorem State.kvStartPart_keeps {s0 : State} {s : State} {d : Disp} (h_s : Keeps s0 s) :
    Keeps s0 (State.kvStartPart s d) := by
  unfold State.kvStartPart
  repeat' (first
    | with_reducible assumption
    | extract_lets
    | with_reducible apply KvEnv.append_keeps
    | with_reducible apply State.drew_keeps
    | with_reducible apply State.faultCtx_keeps
    | with_reducible refine keeps_okM (by assumption) ?_ ?_
    | with_reducible refine keeps_errM (by assumption) ?_ ?_
    | split
  )

theorem State.linkBytes_keeps {s0 : State} {s : State} {c : Nat} {n : Nat} (h_s : Keeps s0 s) :
    Keeps s0 (State.linkBytes s c n) := by
  unfold State.linkBytes
  repeat' (first
    | with_reducible assumption
    | with_reducible apply State.account_keeps
  )

theorem State.sendStore_keeps {s0 : State} {s : State} {d : Disp} {l : Nat} {p : Nat × List Byte} (h_s : Keeps s0 s) :
    Keeps s0 (State.sendStore s d l p) := by
  unfold State.sendStore
  dsimp only
  split
  · exact h_s
  · split
    · exact h_s
    · rename_i heq
      refine State.sendMsg_keeps (State.linkBytes_keeps (State.modDisp_keeps (State.modLink_keeps (keeps_okP heq ?_))))
      split
      · exact State.takeSeal_keeps h_s
      · exact keepsE_ok h_s

theorem KvEnv.work_keeps {k : KvEnv} {w : Work}  :
    KeepsM (KvEnv.work k w) := by
  unfold KvEnv.work
  repeat' (first
    | extract_lets
    | with_reducible apply KvEnv.append_keeps
    | with_reducible apply KvEnv.attend_keeps
    | with_reducible apply KvEnv.evict_keeps
    | with_reducible apply KvEnv.fork_keeps
    | with_reducible apply keepsM_pure
    | with_reducible apply keepsM_get
    | with_reducible apply keepsM_bind
    | split
    | intro _
  )

theorem kvStoreResults_keeps {k : KvEnv} {a : AttendArgs} {d : List Byte}  :
    KeepsM (kvStoreResults k a d) := by
  unfold kvStoreResults
  repeat' (first
    | extract_lets
    | with_reducible apply State.writeMo_keeps
    | with_reducible apply keepsM_pure
    | with_reducible apply keepsM_throw
    | with_reducible apply keepsM_get
    | with_reducible apply keepsM_io
    | with_reducible apply keepsM_bind
    | split
    | intro _
  )

theorem State.kvRun_keeps {s0 : State} {s : State} {d : Disp} {k : KvEnv} (h_s : Keeps s0 s) :
    Keeps s0 (State.kvRun s d k) := by
  unfold State.kvRun
  repeat' (first
    | with_reducible assumption
    | extract_lets
    | with_reducible apply KvEnv.work_keeps
    | with_reducible apply State.completeDisp_keeps
    | with_reducible apply State.faultCtx_keeps
    | with_reducible refine keeps_okM (by assumption) ?_ ?_
    | with_reducible refine keeps_errM (by assumption) ?_ ?_
    | split
  )

theorem State.kvResume_keeps {s0 : State} {s : State} (h_s : Keeps s0 s) :
    Keeps s0 (State.kvResume s) := by
  unfold State.kvResume
  repeat' (first
    | with_reducible assumption
    | extract_lets
    | with_reducible apply State.kvRun_keeps
    | with_reducible apply keeps_foldl
    | split
    | intro _
  )

theorem execKvOpComplete_keeps {s0 : State} {disp : DWord} {s : State} (h_s : Keeps s0 s) :
    KeepsR s0 (execKvOpComplete disp s) := by
  unfold execKvOpComplete
  repeat' (first
    | with_reducible assumption
    | with_reducible apply KvEnv.attend_keeps
    | with_reducible apply State.account_keeps
    | with_reducible apply State.drew_keeps
    | with_reducible apply State.ensureSeal_keeps
    | with_reducible apply keeps_foldl_fst
    | extract_lets
    | with_reducible apply KvEnv.work_keeps
    | with_reducible apply State.completeDisp_keeps
    | with_reducible apply State.faultCtx_keeps
    | with_reducible apply State.finish_keeps
    | with_reducible apply State.modDisp_keeps
    | with_reducible apply State.sendStore_keeps
    | with_reducible apply kvStoreResults_keeps
    | with_reducible apply keepsR_next
    | with_reducible apply keepsM_pure
    | with_reducible apply keepsM_bind
    | with_reducible apply keeps_foldl
    | with_reducible refine keeps_okM (by assumption) ?_ ?_
    | with_reducible refine keeps_errM (by assumption) ?_ ?_
    | dsimp only
    | split
    | intro _
  )

theorem kvModeDec_keeps {d0 : Disp} {m : Nat × Mo}  :
    KeepsM (kvModeDec d0 m) := by
  unfold kvModeDec
  repeat' (first
    | extract_lets
    | with_reducible apply kvCheck_keeps
    | with_reducible apply kvFormatted_keeps
    | with_reducible apply kvOpen_keeps
    | with_reducible apply keepsM_throw
    | with_reducible apply keepsM_bind
    | dsimp only
    | intro _
  )

theorem execUnassignedOpcode_keeps {s0 : State} {h : Hdr} {a : RawArgs} {s : State} (h_s : Keeps s0 s) :
    KeepsR s0 (execUnassignedOpcode h a s) := by
  unfold execUnassignedOpcode
  repeat' (first
    | with_reducible assumption
    | extract_lets
    | with_reducible apply State.evictPacket_keeps
    | with_reducible apply State.packet_keeps
    | with_reducible apply kvModeDec_keeps
    | with_reducible apply keepsR_next
    | with_reducible apply keepsR_fault
    | with_reducible apply keepsR_refused
    | with_reducible refine keeps_fst (by assumption) ?_
    | with_reducible refine keeps_okE (st := fun a => a) (by assumption) ?_
    | with_reducible refine keeps_okP (by assumption) ?_
    | with_reducible refine keeps_someO (st := fun a => a) (by assumption) ?_
    | with_reducible refine keeps_someP (by assumption) ?_
    | with_reducible refine keeps_nextR (by assumption) ?_
    | with_reducible refine keeps_okM (by assumption) ?_ ?_
    | with_reducible refine keeps_errM (by assumption) ?_ ?_
    | dsimp only
    | split
    | intro _
    | assumption
  )

end Sys2Proof.Machine
end

