-- ==== Sys2Proof/Laws/KeepsSched.lean ====
section
/-!
SUPPORT. Every operation of Machine/Sched.lean keeps (`Keeps`).
-/

set_option linter.unreachableTactic false
set_option linter.unusedTactic false

namespace Sys2Proof.Machine

theorem State.loadImage_keeps {s0 : State} {s : State} {g : Program} {cl : Nat} {ids : List Nat} (h_s : Keeps s0 s) :
    Keeps s0 (State.loadImage s g cl ids).1 := by
  unfold State.loadImage
  repeat' (first
    | with_reducible assumption
    | extract_lets
    | with_reducible apply State.readImage_keeps
    | with_reducible apply keeps_foldl_fst
    | with_reducible refine keeps_fst (by assumption) ?_
    | dsimp only
    | split
    | intro _
  )

theorem State.saveSlot_keeps {s0 : State} {s : State} {d : Disp} {g : Program} {m : Mo} {k : Nat} {x : Saved} (h_s : Keeps s0 s) :
    Keeps s0 (State.saveSlot s d g m k x).1 := by
  unfold State.saveSlot
  repeat' (first
    | with_reducible assumption
    | extract_lets
    | with_reducible apply State.drew_keeps
    | with_reducible apply State.writeMo_keeps
    | with_reducible apply keeps_foldl_fst
    | with_reducible refine keeps_fst (by assumption) ?_
    | dsimp only
    | split
    | intro _
  )

theorem State.checkSlot_keeps {s0 : State} {s : State} {g : Program} {m : Mo} {cl : Nat} {k : Nat} {x : Saved} (h_s : Keeps s0 s) :
    Keeps s0 (State.checkSlot s g m cl k x).1 := by
  unfold State.checkSlot
  repeat' (first
    | with_reducible assumption
    | extract_lets
    | with_reducible apply State.readMo_keeps
    | with_reducible apply keeps_foldl_fst
    | with_reducible refine keeps_fst (by assumption) ?_
    | dsimp only
    | split
    | intro _
  )

theorem State.setHomes_keeps {s0 : State} {s : State} {d : Disp} {es : List Nat} (h_s : Keeps s0 s) :
    Keeps s0 (State.setHomes s d es) := by
  unfold State.setHomes
  repeat' (first
    | with_reducible assumption
    | extract_lets
    | with_reducible apply State.modMo_keeps
    | with_reducible apply State.queueMove_keeps
    | with_reducible apply keeps_foldl
    | dsimp only
    | split
    | intro _
  )

theorem State.noteLast_keeps {s0 : State} {s : State} {d : Disp} (h_s : Keeps s0 s) :
    Keeps s0 (State.noteLast s d) := by
  unfold State.noteLast
  repeat' (first
    | with_reducible assumption
    | with_reducible apply State.onSched_keeps
    | split
  )

theorem State.freshEngs_keeps {s0 : State} {s : State} {d : Disp} {g : Program} {entry : Nat} {es : List Nat} (h_s : Keeps s0 s) :
    Keeps s0 (State.freshEngs s d g entry es).1 := by
  unfold State.freshEngs
  repeat' (first
    | with_reducible assumption
    | extract_lets
    | with_reducible apply State.drew_keeps
    | with_reducible apply State.loadImage_keeps
    | with_reducible apply keeps_foldl_fst
    | with_reducible refine keeps_fst (by assumption) ?_
    | dsimp only
    | split
    | intro _
  )

theorem State.backEngs_keeps {s0 : State} {s : State} {d : Disp} {g : Program} {sv : Mo} {es : List Nat} (h_s : Keeps s0 s) :
    Keeps s0 (State.backEngs s d g sv es).1 := by
  unfold State.backEngs
  repeat' (first
    | with_reducible assumption
    | extract_lets
    | with_reducible apply State.checkSlot_keeps
    | with_reducible apply State.loadImage_keeps
    | with_reducible apply keeps_foldl_fst
    | with_reducible refine keeps_fst (by assumption) ?_
    | dsimp only
    | split
    | intro _
  )

theorem State.startOn_keeps {s0 : State} {s : State} {d : Disp} {es : List Nat} (h_s : Keeps s0 s) :
    Keeps s0 (State.startOn s d es) := by
  unfold State.startOn
  repeat' (first
    | with_reducible assumption
    | with_reducible apply KvEnv.entry_keeps
    | with_reducible apply KvEnv.work_keeps
    | with_reducible apply State.faultAll_keeps
    | with_reducible apply State.hold_keeps
    | extract_lets
    | with_reducible apply State.backEngs_keeps
    | with_reducible apply State.engFault_keeps
    | with_reducible apply State.freshEngs_keeps
    | with_reducible apply State.kvStartPart_keeps
    | with_reducible apply State.modDisp_keeps
    | with_reducible apply State.modMo_keeps
    | with_reducible apply State.noteLast_keeps
    | with_reducible apply State.setHomes_keeps
    | with_reducible refine keeps_fst (by assumption) ?_
    | dsimp only
    | split
  )

theorem execDispatchStart_keeps {s0 : State} {k : Nat} {s : State} (h_s : Keeps s0 s) :
    KeepsR s0 (execDispatchStart k s) := by
  unfold execDispatchStart
  repeat' (first
    | with_reducible assumption
    | extract_lets
    | with_reducible apply State.finish_keeps
    | with_reducible apply State.modPolder_keeps
    | with_reducible apply State.startOn_keeps
    | with_reducible apply keepsR_next
    | split
  )

theorem execDispatchComplete_keeps {s0 : State} {disp : DWord} {s : State} (h_s : Keeps s0 s) :
    KeepsR s0 (execDispatchComplete disp s) := by
  unfold execDispatchComplete
  repeat' (first
    | with_reducible assumption
    | extract_lets
    | with_reducible apply State.completeDisp_keeps
    | with_reducible apply State.finish_keeps
    | with_reducible apply keepsR_next
    | split
  )

theorem execPreemptFullStop_keeps {s0 : State} {disp : DWord} {k : Nat} {s : State} (h_s : Keeps s0 s) :
    KeepsR s0 (execPreemptFullStop disp k s) := by
  unfold execPreemptFullStop
  repeat' (first
    | with_reducible assumption
    | extract_lets
    | with_reducible apply State.setEng_keeps
    | with_reducible apply keepsR_next
    | split
  )

theorem State.restAll_keeps {s0 : State} {s : State} {d : Disp} (h_s : Keeps s0 s) :
    Keeps s0 (State.restAll s d).1 := by
  unfold State.restAll
  repeat' (first
    | with_reducible assumption
    | extract_lets
    | with_reducible apply State.drew_keeps
    | with_reducible apply State.landUnits_keeps
    | with_reducible apply State.setEng_keeps
    | with_reducible apply keeps_foldl
    | with_reducible apply keeps_foldl_fst
    | dsimp only
    | split
    | intro _
  )

theorem execPreemptSaveStart_keeps {s0 : State} {disp : DWord} {s : State} (h_s : Keeps s0 s) :
    KeepsR s0 (execPreemptSaveStart disp s) := by
  unfold execPreemptSaveStart
  repeat' (first
    | with_reducible assumption
    | extract_lets
    | with_reducible apply State.charge_keeps
    | with_reducible apply State.engFault_keeps
    | with_reducible apply State.faultCtx_keeps
    | with_reducible apply State.finish_keeps
    | with_reducible apply State.modDisp_keeps
    | with_reducible apply State.modMo_keeps
    | with_reducible apply State.restAll_keeps
    | with_reducible apply keepsR_next
    | with_reducible refine keeps_fst (by assumption) ?_
    | split
  )

theorem State.saveAll_keeps {s0 : State} {s : State} {d : Disp} {g : Program} {m : Mo} (h_s : Keeps s0 s) :
    Keeps s0 (State.saveAll s d g m).1 := by
  unfold State.saveAll
  repeat' (first
    | with_reducible assumption
    | extract_lets
    | with_reducible apply State.saveSlot_keeps
    | with_reducible apply keeps_foldl_fst
    | dsimp only
    | split
    | intro _
  )

theorem execPreemptSaveDone_keeps {s0 : State} {disp : DWord} {s : State} (h_s : Keeps s0 s) :
    KeepsR s0 (execPreemptSaveDone disp s) := by
  unfold execPreemptSaveDone
  repeat' (first
    | with_reducible assumption
    | with_reducible apply KvEnv.wr_keeps
    | with_reducible apply State.soil_keeps
    | extract_lets
    | with_reducible apply State.account_keeps
    | with_reducible apply State.charge_keeps
    | with_reducible apply State.csqEvent_keeps
    | with_reducible apply State.faultCtx_keeps
    | with_reducible apply State.finish_keeps
    | with_reducible apply State.idleFrom_keeps
    | with_reducible apply State.modDisp_keeps
    | with_reducible apply State.saveAll_keeps
    | with_reducible apply keepsR_next
    | with_reducible refine keeps_fst (by assumption) ?_
    | dsimp only
    | split
  )

theorem State.chargeAll_keeps {s0 : State} {s : State} {k : Nat} (h_s : Keeps s0 s) :
    Keeps s0 (State.chargeAll s k) := by
  unfold State.chargeAll
  repeat' (first
    | with_reducible assumption
    | extract_lets
    | with_reducible apply State.charge_keeps
    | with_reducible apply keeps_foldl
  )

theorem execShareDeficitCharge_keeps {s0 : State} {k : Nat} {s : State} (h_s : Keeps s0 s) :
    KeepsR s0 (execShareDeficitCharge k s) := by
  unfold execShareDeficitCharge
  repeat' (first
    | with_reducible assumption
    | extract_lets
    | with_reducible apply State.chargeAll_keeps
    | with_reducible apply keepsR_next
  )

theorem State.hold_keeps {s0 : State} {s : State} {k : Nat} {p : Polder} {a : Adm} {days : List Nat} {start : Nat} (h_s : Keeps s0 s) :
    Keeps s0 (State.hold s k p a days start) := by
  unfold State.hold
  repeat' (first
    | with_reducible assumption
    | extract_lets
    | with_reducible apply State.modPolder_keeps
    | with_reducible apply State.preemptAll_keeps
  )

theorem execEveStart_keeps {s0 : State} {k : Nat} {c : Nat} {s : State} (h_s : Keeps s0 s) :
    KeepsR s0 (execEveStart k c s) := by
  unfold execEveStart
  repeat' (first
    | with_reducible assumption
    | extract_lets
    | with_reducible apply State.finish_keeps
    | with_reducible apply State.hold_keeps
    | with_reducible apply keepsR_next
    | dsimp only
    | split
  )

theorem State.credit_keeps {s0 : State} {s : State} {k : Nat} {p : Polder} {e : Nat} (h_s : Keeps s0 s) :
    Keeps s0 (State.credit s k p e) := by
  unfold State.credit
  repeat' (first
    | with_reducible assumption
    | extract_lets
    | with_reducible apply State.onObjs_keeps
    | with_reducible apply State.onSlices_keeps
  )

theorem State.overdraftGo_keeps {s0 : State} {k : Nat} {p : Polder} {c : Disp} {l : List Disp} {freed : List Nat} {s : State} (h : Keeps s0 s) :
    Keeps s0 (State.overdraftGo k p c l freed s) := by
  induction l generalizing freed s with
  | nil => exact h
  | cons d l ih =>
    unfold State.overdraftGo
    split
    · exact h
    · exact ih (State.preempt_keeps h)

theorem State.overdraft_keeps {s0 : State} {s : State} {k : Nat} {p : Polder} (h_s : Keeps s0 s) :
    Keeps s0 (State.overdraft s k p) := by
  unfold State.overdraft
  repeat' (first
    | with_reducible assumption
    | extract_lets
    | with_reducible apply State.overdraftGo_keeps
    | split
  )

theorem State.inForce_keeps {s0 : State} {s : State} {k : Nat} (h_s : Keeps s0 s) :
    Keeps s0 (State.inForce s k) := by
  unfold State.inForce
  repeat' (first
    | with_reducible assumption
    | extract_lets
    | with_reducible apply State.almanac_keeps
    | with_reducible apply State.modPolder_keeps
    | with_reducible apply State.onObjs_keeps
    | with_reducible apply State.onSlices_keeps
    | with_reducible refine keeps_fst (by assumption) ?_
    | with_reducible refine keeps_okE (st := fun a => a) (by assumption) ?_
    | with_reducible refine keeps_okP (by assumption) ?_
    | with_reducible refine keeps_someO (st := fun a => a) (by assumption) ?_
    | with_reducible refine keeps_someP (by assumption) ?_
    | with_reducible refine keeps_nextR (by assumption) ?_
    | with_reducible refine keeps_okM (by assumption) ?_ ?_
    | with_reducible refine keeps_errM (by assumption) ?_ ?_
    | dsimp only
    | split
    | intro _
    | assumption
    | (with_reducible refine keeps_mk ?_ ?_ ?_ ?_ ?_ <;> [rfl; rfl; rfl; rfl; (first | with_reducible assumption | with_reducible apply State.almanac_keeps | with_reducible apply State.modPolder_keeps | with_reducible apply State.onObjs_keeps | with_reducible apply State.onSlices_keeps | with_reducible refine keeps_fst (by assumption) ?_ | split)])
  )

theorem State.newDay_keeps {s0 : State} {s : State} {k : Nat} {p : Polder} (h_s : Keeps s0 s) :
    Keeps s0 (State.newDay s k p) := by
  unfold State.newDay
  repeat' (first
    | with_reducible assumption
    | extract_lets
    | with_reducible apply State.inForce_keeps
    | with_reducible apply State.modPolder_keeps
  )

theorem State.endRunsDay_keeps {s0 : State} {s : State} {k : Nat} {p : Polder} (h_s : Keeps s0 s) :
    Keeps s0 (State.endRunsDay s k p) := by
  unfold State.endRunsDay
  repeat' (first
    | with_reducible assumption
    | extract_lets
    | with_reducible apply State.account_keeps
    | with_reducible apply State.endRuns_keeps
    | with_reducible apply keeps_foldl
    | intro _
  )

theorem State.beginRuns_keeps {s0 : State} {s : State} {k : Nat} {day : Nat} (h_s : Keeps s0 s) :
    Keeps s0 (State.beginRuns s k day) := by
  unfold State.beginRuns
  repeat' (first
    | with_reducible assumption
    | with_reducible apply keeps_foldl_fst
    | with_reducible apply keeps_elim
    | extract_lets
    | with_reducible apply State.hold_keeps
    | with_reducible apply State.modPolder_keeps
    | with_reducible apply State.onSched_keeps
    | with_reducible apply keeps_foldl
    | split
    | intro _
  )

theorem State.takeOwner_keeps {s0 : State} {s : State} {k : Nat} {p : Polder} (h_s : Keeps s0 s) :
    Keeps s0 (State.takeOwner s k p) := by
  unfold State.takeOwner
  repeat' (first
    | with_reducible assumption
    | extract_lets
    | with_reducible apply State.modPolder_keeps
    | with_reducible apply State.preemptAll_keeps
    | split
  )

theorem State.withPolder_keeps {s0 : State} {s : State} {k : Nat} {f : State → Polder → State} (h_s : Keeps s0 s) (h_f : ∀ y0 y1, Keeps s0 y0 → Keeps s0 (f y0 y1)) :
    Keeps s0 (State.withPolder s k f) := by
  unfold State.withPolder
  repeat' (first
    | with_reducible assumption
    | with_reducible apply h_f
    | split
  )

theorem State.dayBegins_keeps {s0 : State} {s : State} {k : Nat} (h_s : Keeps s0 s) :
    Keeps s0 (State.dayBegins s k) := by
  unfold State.dayBegins
  repeat' (first
    | with_reducible assumption
    | extract_lets
    | with_reducible apply State.beginRuns_keeps
    | with_reducible apply State.credit_keeps
    | with_reducible apply State.overdraft_keeps
    | with_reducible apply State.takeOwner_keeps
    | with_reducible apply State.withPolder_keeps
    | intro _
  )

theorem execDayBoundary_keeps {s0 : State} {k : Nat} {s : State} (h_s : Keeps s0 s) :
    KeepsR s0 (execDayBoundary k s) := by
  unfold execDayBoundary
  repeat' (first
    | with_reducible assumption
    | extract_lets
    | with_reducible apply State.chargeAll_keeps
    | with_reducible apply State.dayBegins_keeps
    | with_reducible apply State.endRunsDay_keeps
    | with_reducible apply State.finish_keeps
    | with_reducible apply State.newDay_keeps
    | with_reducible apply State.raiseEdge_keeps
    | with_reducible apply State.withPolder_keeps
    | with_reducible apply keepsR_next
    | split
    | intro _
  )

theorem State.restart_keeps {s0 : State} {s : State} {k : Nat} (h_s : Keeps s0 s) :
    Keeps s0 (State.restart s k) := by
  unfold State.restart
  repeat' (first
    | with_reducible assumption
    | extract_lets
    | with_reducible apply State.chargeAll_keeps
    | with_reducible apply State.dayBegins_keeps
    | with_reducible apply State.inForce_keeps
    | with_reducible apply State.modPolder_keeps
  )

theorem State.restarts_keeps {s0 : State} {s : State} {old : State} (h_s : Keeps s0 s) (h_old : Keeps s0 old) :
    Keeps s0 (State.restarts s old) := by
  unfold State.restarts
  repeat' (first
    | with_reducible assumption
    | extract_lets
    | with_reducible apply State.restart_keeps
    | with_reducible apply keeps_foldl
  )

theorem State.slowCtx_keeps {s0 : State} {s : State} {c : Nat} {i : Nat} (h_s : Keeps s0 s) :
    Keeps s0 (State.slowCtx s c i) := by
  unfold State.slowCtx
  repeat' (first
    | with_reducible assumption
    | extract_lets
    | with_reducible apply State.modCtx_keeps
    | with_reducible apply State.postEvent_keeps
    | dsimp only
    | split
  )

theorem execSlowdownEpoch_keeps {s0 : State} {interference : List (Nat × Nat)} {s : State} (h_s : Keeps s0 s) :
    KeepsR s0 (execSlowdownEpoch interference s) := by
  unfold execSlowdownEpoch
  repeat' (first
    | with_reducible assumption
    | extract_lets
    | with_reducible apply State.charge_keeps
    | with_reducible apply State.finish_keeps
    | with_reducible apply State.slowCtx_keeps
    | with_reducible apply keepsR_next
    | with_reducible apply keeps_foldl
    | intro _
  )

theorem execContextFaulted_keeps {s0 : State} {c : Nat} {s : State} (h_s : Keeps s0 s) :
    KeepsR s0 (execContextFaulted c s) := by
  unfold execContextFaulted
  repeat' (first
    | with_reducible assumption
    | extract_lets
    | with_reducible apply State.finish_keeps
    | with_reducible apply State.modCtx_keeps
    | with_reducible apply State.postEvent_keeps
    | with_reducible apply keepsR_next
    | split
  )

end Sys2Proof.Machine
end

