-- ==== Sys2Proof/Laws/KeepsTxn.lean ====
section
/-!
SUPPORT. Every operation of Machine/Txn.lean keeps (`Keeps`).
-/

set_option linter.unreachableTactic false
set_option linter.unusedTactic false

namespace Sys2Proof.Machine

theorem State.withdraw_keeps {s0 : State} {s : State} {c : Nat} {p : Nat} (h_s : Keeps s0 s) :
    Keeps s0 (State.withdraw s c p) := by
  unfold State.withdraw
  repeat' (first
    | with_reducible assumption
    | extract_lets
    | with_reducible apply State.decProg_keeps
    | with_reducible apply State.onSched_keeps
    | dsimp only
    | split
  )

theorem State.apply_keeps {s0 : State} {s : State} {x1 : Setting} (h_s : Keeps s0 s) :
    Keeps s0 (State.apply s x1) := by
  unfold State.apply
  repeat' (first
    | with_reducible assumption
    | extract_lets
    | with_reducible apply State.decProg_keeps
    | with_reducible apply State.freeze_keeps
    | with_reducible apply State.incProg_keeps
    | with_reducible apply State.modCtx_keeps
    | with_reducible apply State.modPolder_keeps
    | with_reducible apply State.modQueue_keeps
    | with_reducible apply State.modSlice_keeps
    | with_reducible apply State.modStack_keeps
    | with_reducible apply State.reshape_keeps
    | with_reducible apply State.withdraw_keeps
    | with_reducible apply State.onSched_keeps
    | with_reducible apply State.onLinks_keeps
    | (with_reducible refine State.onPool_keeps ?_ ?_ <;> [rfl; skip])
    | dsimp only
    | split
  )

theorem State.committed_keeps {s0 : State} {s : State} {l : List Setting} (h_s : Keeps s0 s) :
    Keeps s0 (State.committed s l) := by
  unfold State.committed
  repeat' (first
    | with_reducible assumption
    | extract_lets
    | with_reducible apply State.almanac_keeps
    | with_reducible apply State.capacityChanged_keeps
    | with_reducible apply State.postEvent_keeps
    | with_reducible apply State.wakeCluster_keeps
    | with_reducible apply State.onObjs_keeps
    | with_reducible apply keeps_foldl
    | split
    | (with_reducible conv => arg 2; whnf); split
    | intro _
  )

theorem State.applyAll_keeps {s0 : State} {s : State} {l : List Setting} (h_s : Keeps s0 s) :
    Keeps s0 (State.applyAll s l) := by
  unfold State.applyAll
  repeat' (first
    | with_reducible assumption
    | extract_lets
    | with_reducible apply State.apply_keeps
    | with_reducible apply keeps_foldl
  )

theorem State.commitAll_keeps {s0 : State} {s : State} {c : Nat} {l : List Setting} (h_s : Keeps s0 s) :
    KeepsE (fun a => a) s0 (State.commitAll s c l) := by
  unfold State.commitAll
  repeat' (first
    | with_reducible assumption
    | with_reducible apply keepsE_error
    | extract_lets
    | with_reducible apply State.applyAll_keeps
    | with_reducible apply State.committed_keeps
    | with_reducible apply State.restarts_keeps
    | with_reducible apply keepsE_ok
    | split
  )

theorem State.endTxn_keeps {s0 : State} {s : State} {k : Nat} {c : Nat} (h_s : Keeps s0 s) :
    Keeps s0 (State.endTxn s k c) := by
  unfold State.endTxn
  repeat' (first
    | with_reducible assumption
    | with_reducible apply State.onObjs_keeps
  )

theorem State.stage_keeps {s0 : State} {s : State} {c : Nat} {x : Setting} (h_s : Keeps s0 s) :
    Keeps s0 (State.stage s c x).1 := by
  unfold State.stage
  repeat' (first
    | with_reducible assumption
    | with_reducible apply State.onObjs_keeps
    | split
  )

theorem State.settingPacket_keeps {s0 : State} {s : State} {cmd : Instr} {i : OpInfo} {h : Hdr} {x : Setting} (h_s : Keeps s0 s) :
    KeepsR s0 (State.settingPacket s cmd i h x) := by
  unfold State.settingPacket
  repeat' (first
    | with_reducible assumption
    | extract_lets
    | with_reducible apply State.commitAll_keeps
    | with_reducible apply State.packet_keeps
    | with_reducible apply State.stage_keeps
    | with_reducible refine keeps_okE (st := fun a => a) (by assumption) ?_
    | dsimp only
    | split
    | intro _
  )

theorem execQueueSetWeight_keeps {s0 : State} {h : Hdr} {queue : Handle} {weight : Nat} {s : State} (h_s : Keeps s0 s) :
    KeepsR s0 (execQueueSetWeight h queue weight s) := by
  unfold execQueueSetWeight
  repeat' (first
    | with_reducible assumption
    | with_reducible apply State.settingPacket_keeps
  )

theorem execCtxSetSlowdown_keeps {s0 : State} {h : Hdr} {thr : Nat} {s : State} (h_s : Keeps s0 s) :
    KeepsR s0 (execCtxSetSlowdown h thr s) := by
  unfold execCtxSetSlowdown
  repeat' (first
    | with_reducible assumption
    | with_reducible apply State.settingPacket_keeps
  )

theorem execSliceSetQuota_keeps {s0 : State} {h : Hdr} {slice : Handle} {field : Nat} {val : Nat} {s : State} (h_s : Keeps s0 s) :
    KeepsR s0 (execSliceSetQuota h slice field val s) := by
  unfold execSliceSetQuota
  repeat' (first
    | with_reducible assumption
    | with_reducible apply State.settingPacket_keeps
  )

theorem execSliceSetShare_keeps {s0 : State} {h : Hdr} {slice : Handle} {polder : Nat} {weight : Nat} {s : State} (h_s : Keeps s0 s) :
    KeepsR s0 (execSliceSetShare h slice polder weight s) := by
  unfold execSliceSetShare
  repeat' (first
    | with_reducible assumption
    | with_reducible apply State.settingPacket_keeps
  )

theorem execPolderShape_keeps {s0 : State} {h : Hdr} {polder : Nat} {units : BitVec 64} {dayUs : Nat} {s : State} (h_s : Keeps s0 s) :
    KeepsR s0 (execPolderShape h polder units dayUs s) := by
  unfold execPolderShape
  repeat' (first
    | with_reducible assumption
    | with_reducible apply State.settingPacket_keeps
  )

theorem execPolderCalendar_keeps {s0 : State} {h : Hdr} {polder : Nat} {feast : BitVec 64} {excl : BitVec 64} {s : State} (h_s : Keeps s0 s) :
    KeepsR s0 (execPolderCalendar h polder feast excl s) := by
  unfold execPolderCalendar
  repeat' (first
    | with_reducible assumption
    | with_reducible apply State.settingPacket_keeps
  )

theorem execPolderAdmit_keeps {s0 : State} {h : Hdr} {target : Handle} {polder : Nat} {kind : Nat} {days : BitVec 64} {prog : Handle} {s : State} (h_s : Keeps s0 s) :
    KeepsR s0 (execPolderAdmit h target polder kind days prog s) := by
  unfold execPolderAdmit
  repeat' (first
    | with_reducible assumption
    | with_reducible apply State.settingPacket_keeps
  )

theorem execLinkShape_keeps {s0 : State} {h : Hdr} {a : ShapeArgs} {s : State} (h_s : Keeps s0 s) :
    KeepsR s0 (execLinkShape h a s) := by
  unfold execLinkShape
  repeat' (first
    | with_reducible assumption
    | with_reducible apply State.settingPacket_keeps
  )

theorem execSluiceSet_keeps {s0 : State} {h : Hdr} {stack : Nat} {cap : Nat} {s : State} (h_s : Keeps s0 s) :
    KeepsR s0 (execSluiceSet h stack cap s) := by
  unfold execSluiceSet
  repeat' (first
    | with_reducible assumption
    | with_reducible apply State.settingPacket_keeps
  )

theorem execEmbankmentSet_keeps {s0 : State} {h : Hdr} {pct : Nat} {s : State} (h_s : Keeps s0 s) :
    KeepsR s0 (execEmbankmentSet h pct s) := by
  unfold execEmbankmentSet
  repeat' (first
    | with_reducible assumption
    | with_reducible apply State.settingPacket_keeps
  )

theorem execPlacementMode_keeps {s0 : State} {h : Hdr} {mode : Nat} {s : State} (h_s : Keeps s0 s) :
    KeepsR s0 (execPlacementMode h mode s) := by
  unfold execPlacementMode
  repeat' (first
    | with_reducible assumption
    | with_reducible apply State.settingPacket_keeps
  )

theorem execKeyPolicy_keeps {s0 : State} {h : Hdr} {target : Handle} {ival : Nat} {cap : Nat} {s : State} (h_s : Keeps s0 s) :
    KeepsR s0 (execKeyPolicy h target ival cap s) := by
  unfold execKeyPolicy
  repeat' (first
    | with_reducible assumption
    | with_reducible apply State.settingPacket_keeps
  )

theorem opTxnBegin_keeps {s0 : State} {s : State} {c : Nat} (h_s : Keeps s0 s) :
    KeepsE Prod.fst s0 (opTxnBegin s c) := by
  unfold opTxnBegin
  repeat' (first
    | with_reducible assumption
    | extract_lets
    | with_reducible apply State.drew_keeps
    | with_reducible apply State.modCtx_keeps
    | with_reducible apply State.onObjs_keeps
    | with_reducible apply keepsE_pure
    | with_reducible apply keepsE_bind
    | dsimp only
    | intro _
  )

theorem execTxnBegin_keeps {s0 : State} {h : Hdr} {s : State} (h_s : Keeps s0 s) :
    KeepsR s0 (execTxnBegin h s) := by
  unfold execTxnBegin
  repeat' (first
    | with_reducible assumption
    | extract_lets
    | with_reducible apply State.packet_keeps
    | with_reducible apply answerOf_keeps
    | with_reducible apply opTxnBegin_keeps
    | intro _
  )

theorem opTxnCommit_keeps {s0 : State} {t : Handle} {s : State} {c : Nat} (h_s : Keeps s0 s) :
    Keeps s0 (opTxnCommit t s c).1 := by
  unfold opTxnCommit
  repeat' (first
    | with_reducible assumption
    | extract_lets
    | with_reducible apply State.commitAll_keeps
    | with_reducible apply State.endTxn_keeps
    | with_reducible refine keeps_okE (st := fun a => a) (by assumption) ?_
    | dsimp only
    | split
  )

theorem execTxnCommit_keeps {s0 : State} {h : Hdr} {t : Handle} {s : State} (h_s : Keeps s0 s) :
    KeepsR s0 (execTxnCommit h t s) := by
  unfold execTxnCommit
  repeat' (first
    | with_reducible assumption
    | extract_lets
    | with_reducible apply State.packet_keeps
    | with_reducible apply opTxnCommit_keeps
    | intro _
  )

theorem execTxnAbort_keeps {s0 : State} {h : Hdr} {t : Handle} {s : State} (h_s : Keeps s0 s) :
    KeepsR s0 (execTxnAbort h t s) := by
  unfold execTxnAbort
  repeat' (first
    | with_reducible assumption
    | extract_lets
    | with_reducible apply State.endTxn_keeps
    | with_reducible apply State.packet_keeps
    | dsimp only
    | split
    | intro _
  )

theorem execTxnTimeout_keeps {s0 : State} {txn : Nat} {s : State} (h_s : Keeps s0 s) :
    KeepsR s0 (execTxnTimeout txn s) := by
  unfold execTxnTimeout
  repeat' (first
    | with_reducible assumption
    | extract_lets
    | with_reducible apply State.endTxn_keeps
    | with_reducible apply State.modCtx_keeps
    | with_reducible apply State.raiseEdge_keeps
    | with_reducible apply keepsR_next
    | split
  )

end Sys2Proof.Machine
end

