-- ==== Sys2Proof/Laws/KeepsSlices.lean ====
section
/-!
SUPPORT. Every operation of Machine/Slices.lean keeps (`Keeps`).
-/

set_option linter.unreachableTactic false
set_option linter.unusedTactic false

namespace Sys2Proof.Machine

theorem State.secUpdate_keeps {s0 : State} {s : State} (h_s : Keeps s0 s) :
    Keeps s0 (State.secUpdate s) := by
  unfold State.secUpdate
  repeat' (first
    | with_reducible assumption
    | extract_lets
    | (with_reducible refine State.onSen_keeps ?_ ?_ ?_ ?_ <;> [rfl; rfl; rfl; skip])
    | split
  )

theorem opSliceCreate_keeps {s0 : State} {a : SliceArgs} {s : State} {x1 : Nat} (h_s : Keeps s0 s) :
    KeepsE Prod.fst s0 (opSliceCreate a s x1) := by
  unfold opSliceCreate
  repeat' (first
    | with_reducible assumption
    | extract_lets
    | with_reducible apply State.almanac_keeps
    | with_reducible apply State.drew_keeps
    | with_reducible apply State.makeCtx_keeps
    | with_reducible apply State.makeQueue_keeps
    | with_reducible apply State.modSlice_keeps
    | with_reducible apply State.modTdi_keeps
    | with_reducible apply State.secUpdate_keeps
    | with_reducible apply State.onSched_keeps
    | with_reducible apply State.onSlices_keeps
    | with_reducible apply keepsE_pure
    | with_reducible apply keepsE_bind
    | with_reducible refine keeps_okP (by assumption) ?_
    | dsimp only
    | split
    | intro _
  )

theorem execSliceCreate_keeps {s0 : State} {h : Hdr} {a : SliceArgs} {s : State} (h_s : Keeps s0 s) :
    KeepsR s0 (execSliceCreate h a s) := by
  unfold execSliceCreate
  repeat' (first
    | with_reducible assumption
    | extract_lets
    | with_reducible apply State.packet_keeps
    | with_reducible apply answerOf_keeps
    | with_reducible apply opSliceCreate_keeps
    | intro _
  )

theorem State.endSessions_keeps {s0 : State} {s : State} {p : Sess → Bool} (h_s : Keeps s0 s) :
    Keeps s0 (State.endSessions s p) := by
  unfold State.endSessions
  repeat' (first
    | with_reducible assumption
    | (with_reducible refine State.onSen_keeps ?_ ?_ ?_ ?_ <;> [rfl; rfl; rfl; skip])
  )

theorem State.freeSlice_keeps {s0 : State} {s : State} {l : Nat} (h_s : Keeps s0 s) :
    Keeps s0 (State.freeSlice s l) := by
  unfold State.freeSlice
  repeat' (first
    | with_reducible assumption
    | extract_lets
    | with_reducible apply State.almanac_keeps
    | with_reducible apply State.endSessions_keeps
    | with_reducible apply State.modTdi_keeps
    | with_reducible apply State.secUpdate_keeps
    | with_reducible apply State.onObjs_keeps
    | with_reducible apply State.onSlices_keeps
    | with_reducible apply State.onLinks_keeps
  )

theorem State.destroySlice_keeps {s0 : State} {s : State} {l : Nat} (h_s : Keeps s0 s) :
    Keeps s0 (State.destroySlice s l) := by
  unfold State.destroySlice
  repeat' (first
    | with_reducible assumption
    | extract_lets
    | with_reducible apply State.endQuiesce_keeps
    | with_reducible apply State.freeSlice_keeps
    | with_reducible apply State.modSlice_keeps
    | with_reducible apply State.postDue_keeps
    | with_reducible apply State.teardown_keeps
    | with_reducible apply keeps_foldl
    | split
    | (with_reducible conv => arg 2; whnf); split
  )

theorem execSliceDestroy_keeps {s0 : State} {h : Hdr} {slice : Handle} {s : State} (h_s : Keeps s0 s) :
    KeepsR s0 (execSliceDestroy h slice s) := by
  unfold execSliceDestroy
  repeat' (first
    | with_reducible assumption
    | extract_lets
    | with_reducible apply State.destroySlice_keeps
    | with_reducible apply State.packet_keeps
    | with_reducible apply answerOf_keeps
    | with_reducible apply keepsE_pure
    | with_reducible apply keepsE_bind
    | intro _
  )

theorem State.passBack_keeps {s0 : State} {s : State} {b : Back} (h_s : Keeps s0 s) :
    Keeps s0 (State.passBack s b) := by
  unfold State.passBack
  repeat' (first
    | with_reducible assumption
    | extract_lets
    | with_reducible apply State.lateAnswer_keeps
    | with_reducible apply State.modMo_keeps
    | (with_reducible refine State.onPool_keeps ?_ ?_ <;> [rfl; skip])
  )

theorem opPdFramesBacked_keeps {s0 : State} {req : Nat} {status : Nat} {s : State} {x1 : Nat} (h_s : Keeps s0 s) :
    Keeps s0 (opPdFramesBacked req status s x1).1 := by
  unfold opPdFramesBacked
  repeat' (first
    | with_reducible assumption
    | extract_lets
    | with_reducible apply State.failBack_keeps
    | with_reducible apply State.freeReq_keeps
    | with_reducible apply State.passBack_keeps
    | split
  )

theorem execPdFramesBacked_keeps {s0 : State} {h : Hdr} {req : Nat} {status : Nat} {s : State} (h_s : Keeps s0 s) :
    KeepsR s0 (execPdFramesBacked h req status s) := by
  unfold execPdFramesBacked
  repeat' (first
    | with_reducible assumption
    | extract_lets
    | with_reducible apply State.packet_keeps
    | with_reducible apply opPdFramesBacked_keeps
    | intro _
  )

theorem execBackRequestTimeout_keeps {s0 : State} {req : Nat} {s : State} (h_s : Keeps s0 s) :
    KeepsR s0 (execBackRequestTimeout req s) := by
  unfold execBackRequestTimeout
  repeat' (first
    | with_reducible assumption
    | extract_lets
    | with_reducible apply State.failBack_keeps
    | with_reducible apply State.finish_keeps
    | with_reducible apply keepsR_next
    | split
  )

theorem opSliceDirtyLog_keeps {s0 : State} {slice : Handle} {on : Nat} {hostMap : Nat} {poolMap : Nat} {ranges : Option (List (Nat × Nat × Nat))} {s : State} {x1 : Nat} (h_s : Keeps s0 s) :
    KeepsE Prod.fst s0 (opSliceDirtyLog slice on hostMap poolMap ranges s x1) := by
  unfold opSliceDirtyLog
  repeat' (first
    | with_reducible assumption
    | extract_lets
    | with_reducible apply State.flushDirty_keeps
    | with_reducible apply State.modSlice_keeps
    | with_reducible apply keepsE_pure
    | with_reducible apply keepsE_bind
    | split
    | intro _
  )

theorem execSliceDirtyLog_keeps {s0 : State} {h : Hdr} {slice : Handle} {on : Nat} {hostMap : Nat} {poolMap : Nat} {ranges : Option (List (Nat × Nat × Nat))} {s : State} (h_s : Keeps s0 s) :
    KeepsR s0 (execSliceDirtyLog h slice on hostMap poolMap ranges s) := by
  unfold execSliceDirtyLog
  repeat' (first
    | with_reducible assumption
    | extract_lets
    | with_reducible apply State.packet_keeps
    | with_reducible apply answerOf_keeps
    | with_reducible apply opSliceDirtyLog_keeps
    | intro _
  )

theorem State.flipSlots_keeps {s0 : State} {s : State} {l : Nat} (h_s : Keeps s0 s) :
    Keeps s0 (State.flipSlots s l) := by
  unfold State.flipSlots
  repeat' (first
    | with_reducible assumption
    | extract_lets
    | with_reducible apply State.onLinks_keeps
  )

theorem State.beginQuiesce_keeps {s0 : State} {s : State} {l : Nat} {p : PendSig} (h_s : Keeps s0 s) :
    Keeps s0 (State.beginQuiesce s l p) := by
  unfold State.beginQuiesce
  repeat' (first
    | with_reducible assumption
    | extract_lets
    | with_reducible apply State.flipSlots_keeps
    | with_reducible apply State.modSlice_keeps
    | with_reducible apply State.preemptAll_keeps
    | with_reducible apply State.onObjs_keeps
    | with_reducible apply State.onSched_keeps
  )

theorem opSliceQuiesce_keeps {s0 : State} {h : Hdr} {slice : Handle} {s : State} {c : Nat} {n : Word} (h_s : Keeps s0 s) :
    Keeps s0 (opSliceQuiesce h slice s c n).1 := by
  unfold opSliceQuiesce
  repeat' (first
    | with_reducible assumption
    | extract_lets
    | with_reducible apply State.beginQuiesce_keeps
    | split
  )

theorem execSliceQuiesce_keeps {s0 : State} {h : Hdr} {slice : Handle} {s : State} (h_s : Keeps s0 s) :
    KeepsR s0 (execSliceQuiesce h slice s) := by
  unfold execSliceQuiesce
  repeat' (first
    | with_reducible assumption
    | extract_lets
    | with_reducible apply State.packet_keeps
    | with_reducible apply opSliceQuiesce_keeps
  )

theorem State.resume_keeps {s0 : State} {s : State} {l : Nat} (h_s : Keeps s0 s) :
    Keeps s0 (State.resume s l) := by
  unfold State.resume
  repeat' (first
    | with_reducible assumption
    | with_reducible apply KvEnv.work_keeps
    | with_reducible apply State.modTdi_keeps
    | with_reducible apply keeps_foldl_fst
    | extract_lets
    | with_reducible apply State.flipSlots_keeps
    | with_reducible apply State.modSlice_keeps
    | with_reducible apply State.postDue_keeps
    | with_reducible apply State.wake_keeps
    | with_reducible apply State.onObjs_keeps
    | with_reducible apply State.onSched_keeps
    | with_reducible apply keeps_foldl
  )

theorem State.abortQuiesce_keeps {s0 : State} {s : State} {l : Nat} (h_s : Keeps s0 s) :
    Keeps s0 (State.abortQuiesce s l) := by
  unfold State.abortQuiesce
  repeat' (first
    | with_reducible assumption
    | with_reducible apply State.endQuiesce_keeps
  )

theorem State.resumePacket_keeps {s0 : State} {h : Hdr} {slice : Handle} {s : State} (h_s : Keeps s0 s) :
    KeepsR s0 (State.resumePacket h slice s) := by
  unfold State.resumePacket
  repeat' (first
    | with_reducible assumption
    | extract_lets
    | with_reducible apply State.packet_keeps
    | with_reducible apply State.resume_keeps
    | with_reducible apply answerOf_keeps
    | with_reducible apply keepsR_next
    | with_reducible apply keepsR_fault
    | with_reducible apply keepsR_refused
    | with_reducible apply keepsE_pure
    | with_reducible apply keepsE_bind
    | with_reducible refine keeps_fst (by assumption) ?_
    | with_reducible refine keeps_okE (st := fun a => a) (by assumption) ?_
    | with_reducible refine keeps_okP (by assumption) ?_
    | with_reducible refine keeps_someO (st := fun a => a) (by assumption) ?_
    | with_reducible refine keeps_someP (by assumption) ?_
    | with_reducible refine keeps_nextR (by assumption) ?_
    | with_reducible refine keeps_okM (by assumption) ?_ ?_
    | with_reducible refine keeps_errM (by assumption) ?_ ?_
    | dsimp only
    | split
    | intro _
    | assumption
  )

end Sys2Proof.Machine
end

