-- ==== Sys2Proof/Laws/KeepsAccess.lean ====
section
/-!
SUPPORT. Every operation of Machine/Access.lean keeps (`Keeps`).
-/

set_option linter.unreachableTactic false
set_option linter.unusedTactic false

namespace Sys2Proof.Machine

theorem State.unsupported_keeps {s0 : State} {s : State} {q : Nat} (h_s : Keeps s0 s) :
    Keeps s0 (State.unsupported s q) := by
  unfold State.unsupported
  repeat' (first
    | with_reducible assumption
    | extract_lets
    | with_reducible apply State.emit_keeps
    | with_reducible apply State.modPort_keeps
    | with_reducible refine keeps_fst (by assumption) ?_
    | with_reducible refine keeps_okE (st := fun a => a) (by assumption) ?_
    | with_reducible refine keeps_okP (by assumption) ?_
    | with_reducible refine keeps_someO (st := fun a => a) (by assumption) ?_
    | with_reducible refine keeps_someP (by assumption) ?_
    | with_reducible refine keeps_nextR (by assumption) ?_
    | with_reducible refine keeps_okM (by assumption) ?_ ?_
    | with_reducible refine keeps_errM (by assumption) ?_ ?_
    | dsimp only
    | split
    | intro _
    | assumption
  )

theorem State.deny_keeps {s0 : State} {s : State} {p : Path} (h_s : Keeps s0 s) :
    Keeps s0 (State.deny s p) := by
  unfold State.deny
  repeat' (first
    | with_reducible assumption
    | with_reducible apply State.unsupported_keeps
    | extract_lets
    | with_reducible apply State.emit_keeps
    | with_reducible apply State.modPort_keeps
    | split
  )

theorem State.denyRead_keeps {s0 : State} {s : State} {p : Path} (h_s : Keeps s0 s) :
    Keeps s0 (State.denyRead s p) := by
  unfold State.denyRead
  repeat' (first
    | with_reducible assumption
    | extract_lets
    | with_reducible apply State.deny_keeps
    | with_reducible apply State.emit_keeps
    | with_reducible refine keeps_fst (by assumption) ?_
    | with_reducible refine keeps_okE (st := fun a => a) (by assumption) ?_
    | with_reducible refine keeps_okP (by assumption) ?_
    | with_reducible refine keeps_someO (st := fun a => a) (by assumption) ?_
    | with_reducible refine keeps_someP (by assumption) ?_
    | with_reducible refine keeps_nextR (by assumption) ?_
    | with_reducible refine keeps_okM (by assumption) ?_ ?_
    | with_reducible refine keeps_errM (by assumption) ?_ ?_
    | dsimp only
    | split
    | intro _
    | assumption
  )

theorem State.onBar0_keeps {s0 : State} {s : State} {p : Path} {off : Nat} {f : State → State} (h_s : Keeps s0 s) (h_f : ∀ y0, Keeps s0 y0 → Keeps s0 (f y0)) :
    KeepsR s0 (State.onBar0 s p off f) := by
  unfold State.onBar0
  repeat' (first
    | with_reducible assumption
    | extract_lets
    | with_reducible apply h_f
    | with_reducible apply State.deny_keeps
    | with_reducible apply State.finish_keeps
    | with_reducible apply keepsR_next
    | split
  )

theorem State.onReg_keeps {s0 : State} {s : State} {p : Path} {ok : Bool} {off : Nat} {f : State → State} (h_s : Keeps s0 s) (h_f : ∀ y0, Keeps s0 y0 → Keeps s0 (f y0)) :
    KeepsR s0 (State.onReg s p ok off f) := by
  unfold State.onReg
  repeat' (first
    | with_reducible assumption
    | extract_lets
    | with_reducible apply State.onBar0_keeps
    | split
    | intro _
  )

theorem State.onPage_keeps {s0 : State} {s : State} {p : Path} {owner : Option Nat} {f : State → State} (h_s : Keeps s0 s) (h_f : ∀ y0, Keeps s0 y0 → Keeps s0 (f y0)) :
    KeepsR s0 (State.onPage s p owner f) := by
  unfold State.onPage
  repeat' (first
    | with_reducible assumption
    | extract_lets
    | with_reducible apply h_f
    | with_reducible apply State.deny_keeps
    | with_reducible apply State.finish_keeps
    | with_reducible apply State.modTdi_keeps
    | with_reducible apply keepsR_next
    | split
  )

theorem State.doorbell_keeps {s0 : State} {s : State} {q : Nat} {v : Word} (h_s : Keeps s0 s) :
    Keeps s0 (State.doorbell s q v) := by
  unfold State.doorbell
  repeat' (first
    | with_reducible assumption
    | extract_lets
    | with_reducible apply State.haltQueue_keeps
    | with_reducible apply State.modQueue_keeps
    | with_reducible apply State.postEvent_keeps
    | dsimp only
    | split
  )

theorem execQeDbTailWrite_keeps {s0 : State} {p : Path} {queue : Nat} {val : Word} {s : State} (h_s : Keeps s0 s) :
    KeepsR s0 (execQeDbTailWrite p queue val s) := by
  unfold execQeDbTailWrite
  repeat' (first
    | with_reducible assumption
    | extract_lets
    | with_reducible apply State.doorbell_keeps
    | with_reducible apply State.onPage_keeps
    | intro _
  )

theorem State.evtCons_keeps {s0 : State} {s : State} {c : Nat} {v : Word} (h_s : Keeps s0 s) :
    Keeps s0 (State.evtCons s c v) := by
  unfold State.evtCons
  repeat' (first
    | with_reducible assumption
    | extract_lets
    | with_reducible apply State.drain_keeps
    | with_reducible apply State.modCtx_keeps
    | with_reducible apply State.notifyLinks_keeps
    | with_reducible apply State.raiseVec_keeps
    | dsimp only
    | split
  )

theorem execQeDbEvtConsWrite_keeps {s0 : State} {p : Path} {ctx : Nat} {val : Word} {s : State} (h_s : Keeps s0 s) :
    KeepsR s0 (execQeDbEvtConsWrite p ctx val s) := by
  unfold execQeDbEvtConsWrite
  repeat' (first
    | with_reducible assumption
    | extract_lets
    | with_reducible apply State.evtCons_keeps
    | with_reducible apply State.onPage_keeps
    | intro _
  )

end Sys2Proof.Machine
end

