-- ==== Sys2Proof/Laws/KeepsLinks.lean ====
section
/-!
SUPPORT. Every operation of Machine/Links.lean keeps (`Keeps`).
-/

set_option linter.unreachableTactic false
set_option linter.unusedTactic false

namespace Sys2Proof.Machine

theorem State.linkChanged_keeps {s0 : State} {s : State} {l : Nat} (h_s : Keeps s0 s) :
    Keeps s0 (State.linkChanged s l) := by
  unfold State.linkChanged
  repeat' (first
    | with_reducible assumption
    | extract_lets
    | with_reducible apply State.almanac_keeps
    | with_reducible apply State.raiseEdge_keeps
  )

theorem State.plainCpl_keeps {s0 : State} {s : State} {flow : Nat} {m : Msg} {strict : Bool} {st : Status} (h_s : Keeps s0 s) :
    Keeps s0 (State.plainCpl s flow m strict st) := by
  unfold State.plainCpl
  repeat' (first
    | with_reducible assumption
    | extract_lets
    | with_reducible apply State.sendMsg_keeps
  )

theorem State.lostMsg_keeps {s0 : State} {s : State} {m : Msg} (h_s : Keeps s0 s) :
    Keeps s0 (State.lostMsg s m) := by
  unfold State.lostMsg
  repeat' (first
    | with_reducible assumption
    | extract_lets
    | with_reducible apply State.plainCpl_keeps
    | with_reducible apply State.sendMsg_keeps
    | split
  )

theorem State.linkFault_keeps {s0 : State} {s : State} {ref : DWord} {l : Nat} {cls : Nat} {st : Status} (h_s : Keeps s0 s) :
    Keeps s0 (State.linkFault s ref l cls st) := by
  unfold State.linkFault
  repeat' (first
    | with_reducible assumption
    | extract_lets
    | with_reducible apply State.faultCtx_keeps
    | split
  )

theorem State.linkFall_keeps {s0 : State} {s : State} {l : Nat} {reason : Nat} (h_s : Keeps s0 s) :
    Keeps s0 (State.linkFall s l reason) := by
  unfold State.linkFall
  repeat' (first
    | with_reducible assumption
    | extract_lets
    | with_reducible apply State.linkChanged_keeps
    | with_reducible apply State.linkFault_keeps
    | with_reducible apply State.lostMsg_keeps
    | with_reducible apply State.modLink_keeps
    | with_reducible apply State.sendCtl_keeps
    | with_reducible apply keeps_foldl
    | dsimp only
    | split
    | intro _
  )

theorem execLinkDown_keeps {s0 : State} {l : Nat} {r : DownReason} {s : State} (h_s : Keeps s0 s) :
    KeepsR s0 (execLinkDown l r s) := by
  unfold execLinkDown
  repeat' (first
    | with_reducible assumption
    | extract_lets
    | with_reducible apply State.finish_keeps
    | with_reducible apply State.linkFall_keeps
    | with_reducible apply keepsR_next
  )

theorem State.shake_keeps {s0 : State} {s : State} {l : Nat} (h_s : Keeps s0 s) :
    Keeps s0 (State.shake s l) := by
  unfold State.shake
  repeat' (first
    | with_reducible assumption
    | extract_lets
    | with_reducible apply State.emit_keeps
    | with_reducible refine keeps_fst (by assumption) ?_
    | with_reducible refine keeps_okE (st := fun a => a) (by assumption) ?_
    | with_reducible refine keeps_okP (by assumption) ?_
    | with_reducible refine keeps_someO (st := fun a => a) (by assumption) ?_
    | with_reducible refine keeps_someP (by assumption) ?_
    | with_reducible refine keeps_nextR (by assumption) ?_
    | with_reducible refine keeps_okM (by assumption) ?_ ?_
    | with_reducible refine keeps_errM (by assumption) ?_ ?_
    | dsimp only
    | split
    | intro _
    | assumption
  )

theorem State.train_keeps {s0 : State} {s : State} {l : Nat} {far : FarEnd} (h_s : Keeps s0 s) :
    Keeps s0 (State.train s l far) := by
  unfold State.train
  repeat' (first
    | with_reducible assumption
    | with_reducible apply State.emit_keeps
    | with_reducible apply State.shake_keeps
    | extract_lets
    | with_reducible apply State.asked_keeps
    | with_reducible apply State.drew_keeps
    | with_reducible apply State.linkChanged_keeps
    | with_reducible apply State.modLink_keeps
    | split
  )

theorem execLinkTrainingStart_keeps {s0 : State} {l : Nat} {far : FarEnd} {s : State} (h_s : Keeps s0 s) :
    KeepsR s0 (execLinkTrainingStart l far s) := by
  unfold execLinkTrainingStart
  repeat' (first
    | with_reducible assumption
    | extract_lets
    | with_reducible apply State.finish_keeps
    | with_reducible apply State.train_keeps
    | with_reducible apply keepsR_next
  )

theorem State.tagFailure_keeps {s0 : State} {s : State} {l : Nat} {x : Link} (h_s : Keeps s0 s) :
    Keeps s0 (State.tagFailure s l x) := by
  unfold State.tagFailure
  repeat' (first
    | with_reducible assumption
    | extract_lets
    | with_reducible apply State.linkFall_keeps
    | with_reducible apply State.modLink_keeps
    | with_reducible apply State.raiseEdge_keeps
    | split
  )

theorem State.sendNak_keeps {s0 : State} {s : State} {l : Nat} (h_s : Keeps s0 s) :
    Keeps s0 (State.sendNak s l) := by
  unfold State.sendNak
  repeat' (first
    | with_reducible assumption
    | extract_lets
    | with_reducible apply State.modLink_keeps
    | with_reducible apply State.sendCtl_keeps
    | split
  )

theorem State.narrow_keeps {s0 : State} {s : State} {l : Nat} {lost : Bool} (h_s : Keeps s0 s) :
    Keeps s0 (State.narrow s l lost) := by
  unfold State.narrow
  repeat' (first
    | with_reducible assumption
    | extract_lets
    | with_reducible apply State.modLink_keeps
    | with_reducible apply State.requestLink_keeps
    | with_reducible refine keeps_fst (by assumption) ?_
    | with_reducible refine keeps_okE (st := fun a => a) (by assumption) ?_
    | with_reducible refine keeps_okP (by assumption) ?_
    | with_reducible refine keeps_someO (st := fun a => a) (by assumption) ?_
    | with_reducible refine keeps_someP (by assumption) ?_
    | with_reducible refine keeps_nextR (by assumption) ?_
    | with_reducible refine keeps_okM (by assumption) ?_ ?_
    | with_reducible refine keeps_errM (by assumption) ?_ ?_
    | dsimp only
    | split
    | intro _
    | assumption
  )

theorem State.dataFlit_keeps {s0 : State} {s : State} {l : Nat} {x : Link} {f : Flit} (h_s : Keeps s0 s) :
    Keeps s0 (State.dataFlit s l x f) := by
  unfold State.dataFlit
  repeat' (first
    | with_reducible assumption
    | extract_lets
    | with_reducible apply State.accept_keeps
    | with_reducible apply State.drew_keeps
    | with_reducible apply State.modLink_keeps
    | with_reducible apply State.narrow_keeps
    | with_reducible apply State.sendCtl_keeps
    | with_reducible apply State.sendNak_keeps
    | with_reducible apply State.tagFailure_keeps
    | with_reducible refine keeps_fst (by assumption) ?_
    | with_reducible refine keeps_okE (st := fun a => a) (by assumption) ?_
    | with_reducible refine keeps_okP (by assumption) ?_
    | with_reducible refine keeps_someO (st := fun a => a) (by assumption) ?_
    | with_reducible refine keeps_someP (by assumption) ?_
    | with_reducible refine keeps_nextR (by assumption) ?_
    | with_reducible refine keeps_okM (by assumption) ?_ ?_
    | with_reducible refine keeps_errM (by assumption) ?_ ?_
    | dsimp only
    | split
    | intro _
    | assumption
    | (with_reducible refine keeps_mk ?_ ?_ ?_ ?_ ?_ <;> [rfl; rfl; rfl; rfl; (first | with_reducible assumption | with_reducible apply State.accept_keeps | with_reducible apply State.drew_keeps | with_reducible apply State.modLink_keeps | with_reducible apply State.narrow_keeps | with_reducible apply State.sendCtl_keeps | with_reducible apply State.sendNak_keeps | with_reducible apply State.tagFailure_keeps | with_reducible refine keeps_fst (by assumption) ?_ | split)])
  )

theorem execDataFlitReceived_keeps {s0 : State} {l : Nat} {f : Flit} {s : State} (h_s : Keeps s0 s) :
    KeepsR s0 (execDataFlitReceived l f s) := by
  unfold execDataFlitReceived
  repeat' (first
    | with_reducible assumption
    | extract_lets
    | with_reducible apply State.dataFlit_keeps
    | with_reducible apply State.finish_keeps
    | with_reducible apply keepsR_next
    | split
  )

theorem execIdleFlitReceived_keeps {s0 : State} {_l : Nat} {s : State} (h_s : Keeps s0 s) :
    KeepsR s0 (execIdleFlitReceived _l s) := by
  unfold execIdleFlitReceived
  repeat' (first
    | with_reducible assumption
    | with_reducible apply keepsR_next
  )

theorem execTrainingFlitReceived_keeps {s0 : State} {l : Nat} {s : State} (h_s : Keeps s0 s) :
    KeepsR s0 (execTrainingFlitReceived l s) := by
  unfold execTrainingFlitReceived
  repeat' (first
    | with_reducible assumption
    | extract_lets
    | with_reducible apply State.finish_keeps
    | with_reducible apply State.linkFall_keeps
    | with_reducible apply keepsR_next
  )

theorem State.replay_keeps {s0 : State} {s : State} {l : Nat} (h_s : Keeps s0 s) :
    Keeps s0 (State.replay s l) := by
  unfold State.replay
  repeat' (first
    | with_reducible assumption
    | extract_lets
    | with_reducible apply State.emit_keeps
    | with_reducible apply State.modLink_keeps
    | with_reducible apply State.requestLink_keeps
    | with_reducible apply keeps_foldl
    | dsimp only
    | split
    | intro _
  )

theorem execReplayTimeout_keeps {s0 : State} {l : Nat} {s : State} (h_s : Keeps s0 s) :
    KeepsR s0 (execReplayTimeout l s) := by
  unfold execReplayTimeout
  repeat' (first
    | with_reducible assumption
    | extract_lets
    | with_reducible apply State.finish_keeps
    | with_reducible apply State.replay_keeps
    | with_reducible apply keepsR_next
    | split
  )

theorem State.rekeyTx_keeps {s0 : State} {s : State} {l : Nat} (h_s : Keeps s0 s) :
    Keeps s0 (State.rekeyTx s l) := by
  unfold State.rekeyTx
  repeat' (first
    | with_reducible assumption
    | extract_lets
    | with_reducible apply State.modLink_keeps
    | with_reducible apply State.pumpLink_keeps
  )

theorem State.rekeyRx_keeps {s0 : State} {s : State} {l : Nat} (h_s : Keeps s0 s) :
    Keeps s0 (State.rekeyRx s l) := by
  unfold State.rekeyRx
  repeat' (first
    | with_reducible assumption
    | with_reducible apply State.modLink_keeps
  )

theorem execRekey_keeps {s0 : State} {l : Nat} {tx : Bool} {s : State} (h_s : Keeps s0 s) :
    KeepsR s0 (execRekey l tx s) := by
  unfold execRekey
  repeat' (first
    | with_reducible assumption
    | extract_lets
    | with_reducible apply State.rekeyRx_keeps
    | with_reducible apply State.rekeyTx_keeps
    | with_reducible apply keepsR_next
    | split
  )

theorem State.setLanes_keeps {s0 : State} {s : State} {l : Nat} {w : Nat} (h_s : Keeps s0 s) :
    Keeps s0 (State.setLanes s l w) := by
  unfold State.setLanes
  repeat' (first
    | with_reducible assumption
    | extract_lets
    | with_reducible apply State.almanac_keeps
    | with_reducible apply State.modLink_keeps
    | with_reducible apply State.pumpLink_keeps
    | split
  )

theorem execWidthChange_keeps {s0 : State} {l : Nat} {lanes : Nat} {s : State} (h_s : Keeps s0 s) :
    KeepsR s0 (execWidthChange l lanes s) := by
  unfold execWidthChange
  repeat' (first
    | with_reducible assumption
    | extract_lets
    | with_reducible apply State.setLanes_keeps
    | with_reducible apply keepsR_next
  )

theorem State.retrainLink_keeps {s0 : State} {s : State} {l : Nat} {far : FarEnd} (h_s : Keeps s0 s) :
    Keeps s0 (State.retrainLink s l far) := by
  unfold State.retrainLink
  repeat' (first
    | with_reducible assumption
    | extract_lets
    | with_reducible apply State.almanac_keeps
    | with_reducible apply State.linkFall_keeps
    | with_reducible apply State.modLink_keeps
    | with_reducible apply State.pumpLink_keeps
    | with_reducible apply State.replay_keeps
    | dsimp only
    | split
  )

theorem execRetrain_keeps {s0 : State} {l : Nat} {far : FarEnd} {s : State} (h_s : Keeps s0 s) :
    KeepsR s0 (execRetrain l far s) := by
  unfold execRetrain
  repeat' (first
    | with_reducible assumption
    | extract_lets
    | with_reducible apply State.finish_keeps
    | with_reducible apply State.retrainLink_keeps
    | with_reducible apply keepsR_next
  )

theorem State.agreed_keeps {s0 : State} {s : State} {l : Nat} {kind : Nat} {w : Nat} (h_s : Keeps s0 s) :
    Keeps s0 (State.agreed s l kind w) := by
  unfold State.agreed
  repeat' (first
    | with_reducible assumption
    | with_reducible apply State.modLink_keeps
    | with_reducible apply State.setLanes_keeps
    | split
  )

theorem State.farRequest_keeps {s0 : State} {s : State} {l : Nat} {f : CtlFlit} (h_s : Keeps s0 s) :
    Keeps s0 (State.farRequest s l f) := by
  unfold State.farRequest
  repeat' (first
    | with_reducible assumption
    | with_reducible apply State.accept_keeps
    | extract_lets
    | with_reducible apply State.agreed_keeps
    | with_reducible apply State.linkFall_keeps
    | with_reducible apply State.modLink_keeps
    | with_reducible apply State.raiseEdge_keeps
    | with_reducible apply State.rekeyRx_keeps
    | dsimp only
    | split
  )

theorem State.farReply_keeps {s0 : State} {s : State} {l : Nat} {f : CtlFlit} (h_s : Keeps s0 s) :
    Keeps s0 (State.farReply s l f) := by
  unfold State.farReply
  repeat' (first
    | with_reducible assumption
    | extract_lets
    | with_reducible apply State.agreed_keeps
    | with_reducible apply State.modLink_keeps
    | with_reducible apply State.rekeyTx_keeps
    | split
  )

theorem State.ctlFlit_keeps {s0 : State} {s : State} {l : Nat} {x : Link} {f : CtlFlit} (h_s : Keeps s0 s) :
    Keeps s0 (State.ctlFlit s l x f) := by
  unfold State.ctlFlit
  repeat' (first
    | with_reducible assumption
    | extract_lets
    | with_reducible apply KvEnv.release_keeps
    | with_reducible apply State.farReply_keeps
    | with_reducible apply State.farRequest_keeps
    | with_reducible apply State.linkFall_keeps
    | with_reducible apply State.modLink_keeps
    | with_reducible apply State.pumpLink_keeps
    | with_reducible apply State.replay_keeps
    | with_reducible apply State.sendCtl_keeps
    | with_reducible apply State.tagFailure_keeps
    | with_reducible apply keeps_foldl
    | with_reducible apply keeps_foldl_fst
    | with_reducible apply keeps_elim
    | with_reducible refine keeps_fst (by assumption) ?_
    | with_reducible refine keeps_okE (st := fun a => a) (by assumption) ?_
    | with_reducible refine keeps_okP (by assumption) ?_
    | with_reducible refine keeps_someO (st := fun a => a) (by assumption) ?_
    | with_reducible refine keeps_someP (by assumption) ?_
    | with_reducible refine keeps_nextR (by assumption) ?_
    | with_reducible refine keeps_okM (by assumption) ?_ ?_
    | with_reducible refine keeps_errM (by assumption) ?_ ?_
    | dsimp only
    | split
    | intro _
    | assumption
  )

theorem execControlFlitReceived_keeps {s0 : State} {l : Nat} {f : CtlFlit} {s : State} (h_s : Keeps s0 s) :
    KeepsR s0 (execControlFlitReceived l f s) := by
  unfold execControlFlitReceived
  repeat' (first
    | with_reducible assumption
    | extract_lets
    | with_reducible apply State.ctlFlit_keeps
    | with_reducible apply State.finish_keeps
    | with_reducible apply keepsR_next
    | split
  )

theorem execControlFlitSend_keeps {s0 : State} {l : Nat} {s : State} (h_s : Keeps s0 s) :
    KeepsR s0 (execControlFlitSend l s) := by
  unfold execControlFlitSend
  repeat' (first
    | with_reducible assumption
    | extract_lets
    | with_reducible apply State.sendCtl_keeps
    | with_reducible apply keepsR_next
    | split
  )

theorem State.onLink_keeps {s0 : State} {s : State} {p : Path} {l : Nat} {o : Nat} {f : State → State} (h_s : Keeps s0 s) (h_f : ∀ y0, Keeps s0 y0 → Keeps s0 (f y0)) :
    KeepsR s0 (State.onLink s p l o f) := by
  unfold State.onLink
  repeat' (first
    | with_reducible assumption
    | extract_lets
    | with_reducible apply h_f
    | with_reducible apply State.onReg_keeps
    | split
    | intro _
  )

theorem execLnkCtrlRetrain_keeps {s0 : State} {p : Path} {l : Nat} {s : State} (h_s : Keeps s0 s) :
    KeepsR s0 (execLnkCtrlRetrain p l s) := by
  unfold execLnkCtrlRetrain
  repeat' (first
    | with_reducible assumption
    | extract_lets
    | with_reducible apply State.onLink_keeps
    | with_reducible apply State.requestLink_keeps
    | intro _
  )

theorem State.widthGo_keeps {s0 : State} {s : State} {l : Nat} (h_s : Keeps s0 s) :
    Keeps s0 (State.widthGo s l) := by
  unfold State.widthGo
  repeat' (first
    | with_reducible assumption
    | with_reducible apply State.requestLink_keeps
    | split
  )

theorem execLnkCtrlWidthGo_keeps {s0 : State} {p : Path} {l : Nat} {s : State} (h_s : Keeps s0 s) :
    KeepsR s0 (execLnkCtrlWidthGo p l s) := by
  unfold execLnkCtrlWidthGo
  repeat' (first
    | with_reducible assumption
    | extract_lets
    | with_reducible apply State.onLink_keeps
    | with_reducible apply State.widthGo_keeps
    | intro _
  )

theorem execLnkCtrlRekey_keeps {s0 : State} {p : Path} {l : Nat} {s : State} (h_s : Keeps s0 s) :
    KeepsR s0 (execLnkCtrlRekey p l s) := by
  unfold execLnkCtrlRekey
  repeat' (first
    | with_reducible assumption
    | extract_lets
    | with_reducible apply State.onLink_keeps
    | with_reducible apply State.requestLink_keeps
    | intro _
  )

theorem execLnkCtrlDown_keeps {s0 : State} {p : Path} {l : Nat} {s : State} (h_s : Keeps s0 s) :
    KeepsR s0 (execLnkCtrlDown p l s) := by
  unfold execLnkCtrlDown
  repeat' (first
    | with_reducible assumption
    | extract_lets
    | with_reducible apply State.linkFall_keeps
    | with_reducible apply State.onLink_keeps
    | intro _
  )

theorem State.setEnable_keeps {s0 : State} {s : State} {l : Nat} {on : Bool} (h_s : Keeps s0 s) :
    Keeps s0 (State.setEnable s l on) := by
  unfold State.setEnable
  repeat' (first
    | with_reducible assumption
    | extract_lets
    | with_reducible apply State.linkFall_keeps
    | with_reducible apply State.modLink_keeps
    | split
  )

theorem execLnkCfgEnableWrite_keeps {s0 : State} {p : Path} {l : Nat} {on : Bool} {s : State} (h_s : Keeps s0 s) :
    KeepsR s0 (execLnkCfgEnableWrite p l on s) := by
  unfold execLnkCfgEnableWrite
  repeat' (first
    | with_reducible assumption
    | extract_lets
    | with_reducible apply State.onLink_keeps
    | with_reducible apply State.setEnable_keeps
    | intro _
  )

theorem execLnkTopoLock_keeps {s0 : State} {p : Path} {s : State} (h_s : Keeps s0 s) :
    KeepsR s0 (execLnkTopoLock p s) := by
  unfold execLnkTopoLock
  repeat' (first
    | with_reducible assumption
    | extract_lets
    | with_reducible apply State.onBar0_keeps
    | with_reducible apply State.onLinks_keeps
    | intro _
  )

end Sys2Proof.Machine
end

