-- ==== Sys2Proof/Laws/KeepsMessages.lean ====
section
/-!
SUPPORT. Every operation of Machine/Messages.lean keeps (`Keeps`).
-/

set_option linter.unreachableTactic false
set_option linter.unusedTactic false

namespace Sys2Proof.Machine

theorem State.strictBudget_keeps {s0 : State} {s : State} {l : Nat} {x : Link} {m : Msg} (h_s : Keeps s0 s) :
    Keeps s0 (State.strictBudget s l x m).1 := by
  unfold State.strictBudget
  repeat' (first
    | with_reducible assumption
    | extract_lets
    | with_reducible apply State.modLink_keeps
    | with_reducible refine keeps_fst (by assumption) ?_
    | with_reducible refine keeps_okE (st := fun a => a) (by assumption) ?_
    | with_reducible refine keeps_okP (by assumption) ?_
    | with_reducible refine keeps_someO (st := fun a => a) (by assumption) ?_
    | with_reducible refine keeps_someP (by assumption) ?_
    | with_reducible refine keeps_nextR (by assumption) ?_
    | with_reducible refine keeps_okM (by assumption) ?_ ?_
    | with_reducible refine keeps_errM (by assumption) ?_ ?_
    | dsimp only
    | split
    | intro _
    | assumption
  )

theorem State.transit_keeps {s0 : State} {s : State} {l : Nat} {x : Link} {m : Msg} (h_s : Keeps s0 s) :
    Keeps s0 (State.transit s l x m) := by
  unfold State.transit
  repeat' (first
    | with_reducible assumption
    | with_reducible apply State.plainCpl_keeps
    | with_reducible apply State.strictBudget_keeps
    | extract_lets
    | with_reducible apply State.lostMsg_keeps
    | with_reducible apply State.sendMsg_keeps
    | with_reducible refine keeps_fst (by assumption) ?_
    | split
  )

theorem State.arrive_keeps {s0 : State} {s : State} {l : Nat} {ty : Nat} {m : Msg} {f : State → Link → Msg → State} (h_s : Keeps s0 s) (h_f : ∀ y0 y1 y2, Keeps s0 y0 → Keeps s0 (f y0 y1 y2)) :
    KeepsR s0 (State.arrive s l ty m f) := by
  unfold State.arrive
  repeat' (first
    | with_reducible assumption
    | extract_lets
    | with_reducible apply h_f
    | with_reducible apply State.finish_keeps
    | with_reducible apply State.linkFall_keeps
    | with_reducible apply State.transit_keeps
    | with_reducible apply keepsR_next
    | dsimp only
    | split
  )

theorem execMessageForward_keeps {s0 : State} {l : Nat} {m : Msg} {s : State} (h_s : Keeps s0 s) :
    KeepsR s0 (execMessageForward l m s) := by
  unfold execMessageForward
  repeat' (first
    | with_reducible assumption
    | extract_lets
    | with_reducible apply State.arrive_keeps
    | intro _
  )

theorem State.police_keeps {s0 : State} {s : State} {l : Nat} {k : Nat} {m : Msg} (h_s : Keeps s0 s) :
    KeepsO (fun a => a) s0 (State.police s l k m) := by
  unfold State.police
  repeat' (first
    | with_reducible assumption
    | with_reducible apply keepsO_none
    | extract_lets
    | with_reducible apply State.modLink_keeps
    | with_reducible apply State.modSlice_keeps
    | with_reducible apply keepsO_some
    | dsimp only
    | split
  )

theorem State.strictNow_keeps {s0 : State} {s : State} {l : Nat} {x : Link} {m : Msg} (h_s : Keeps s0 s) :
    Keeps s0 (State.strictNow s l x m).1 := by
  unfold State.strictNow
  repeat' (first
    | with_reducible assumption
    | with_reducible apply State.strictBudget_keeps
    | extract_lets
    | with_reducible apply State.modLink_keeps
    | split
  )

theorem State.unseal_keeps {s0 : State} {s : State} {c : Nat} {m : Msg} (h_s : Keeps s0 s) :
    KeepsE Prod.fst s0 (State.unseal s c m) := by
  unfold State.unseal
  repeat' (first
    | with_reducible assumption
    | with_reducible apply keepsE_error
    | extract_lets
    | with_reducible apply State.ensureSeal_keeps
    | with_reducible apply keepsE_ok
    | (with_reducible refine State.onSen_keeps ?_ ?_ ?_ ?_ <;> [rfl; rfl; rfl; skip])
    | with_reducible refine keeps_someO (st := fun a => a) (by assumption) ?_
    | split
  )

theorem State.portFault_keeps {s0 : State} {s : State} {c : Nat} {l : Nat} {e : AccErr} (h_s : Keeps s0 s) :
    Keeps s0 (State.portFault s c l e) := by
  unfold State.portFault
  repeat' (first
    | with_reducible assumption
    | with_reducible apply State.faultCtx_keeps
  )

theorem State.cplFor_keeps {s0 : State} {s : State} {c : Nat} {m : Msg} {strict : Bool} {st : Status} {data : List Byte} (h_s : Keeps s0 s) :
    Keeps s0 (State.cplFor s c m strict st data) := by
  unfold State.cplFor
  repeat' (first
    | with_reducible assumption
    | with_reducible apply keepsE_ok
    | extract_lets
    | with_reducible apply State.linkBytes_keeps
    | with_reducible apply State.plainCpl_keeps
    | with_reducible apply State.sendMsg_keeps
    | with_reducible apply State.takeSeal_keeps
    | with_reducible refine keeps_fst (by assumption) ?_
    | with_reducible refine keeps_okE (st := fun a => a) (by assumption) ?_
    | with_reducible refine keeps_okP (by assumption) ?_
    | with_reducible refine keeps_someO (st := fun a => a) (by assumption) ?_
    | with_reducible refine keeps_someP (by assumption) ?_
    | with_reducible refine keeps_nextR (by assumption) ?_
    | with_reducible refine keeps_okM (by assumption) ?_ ?_
    | with_reducible refine keeps_errM (by assumption) ?_ ?_
    | dsimp only
    | split
    | intro _
    | assumption
  )

theorem State.sealCheck_keeps {s0 : State} {s : State} {c : Nat} {m : Msg} (h_s : Keeps s0 s) : KeepsE Prod.fst s0 (State.sealCheck s c m) := by
  unfold State.sealCheck
  split
  · have k := State.unseal_keeps (c := c) (m := m) h_s
    cases hu : s.unseal c m with
    | error e => exact keepsE_error
    | ok a => exact keepsE_ok (k.out a hu)
  · split
    · exact keepsE_error
    · exact keepsE_ok h_s

theorem State.request_keeps {s0 : State} {s : State} {l : Nat} {x : Link} {m : Msg} {act : State → Nat → Bool → Msg → State} (h_s : Keeps s0 s) (h_act : ∀ y0 y1 y2 y3, Keeps s0 y0 → Keeps s0 (act y0 y1 y2 y3)) :
    Keeps s0 (State.request s l x m act) := by
  unfold State.request
  repeat' (first
    | with_reducible assumption
    | extract_lets
    | with_reducible apply h_act
    | with_reducible apply State.plainCpl_keeps
    | with_reducible apply State.police_keeps
    | with_reducible apply State.portFault_keeps
    | with_reducible apply State.sealCheck_keeps
    | with_reducible apply State.strictNow_keeps
    | with_reducible refine keeps_fst (by assumption) ?_
    | with_reducible refine keeps_okE (st := fun a => a) (by assumption) ?_
    | with_reducible refine keeps_okP (by assumption) ?_
    | with_reducible refine keeps_someO (st := fun a => a) (by assumption) ?_
    | with_reducible refine keeps_someP (by assumption) ?_
    | with_reducible refine keeps_nextR (by assumption) ?_
    | with_reducible refine keeps_okM (by assumption) ?_ ?_
    | with_reducible refine keeps_errM (by assumption) ?_ ?_
    | dsimp only
    | split
    | intro _
    | assumption
  )

theorem State.memRequest_keeps {s0 : State} {s : State} {l : Nat} {x : Link} {m : Msg} {access : State → Nat → Msg → State × Except AccErr (List Byte)} (h_s : Keeps s0 s) (h_access : ∀ y0 y1 y2, Keeps s0 y0 → Keeps s0 (access y0 y1 y2).1) :
    Keeps s0 (State.memRequest s l x m access) := by
  unfold State.memRequest
  repeat' (first
    | with_reducible assumption
    | extract_lets
    | with_reducible apply h_access
    | with_reducible apply State.cplFor_keeps
    | with_reducible apply State.plainCpl_keeps
    | with_reducible apply State.portFault_keeps
    | with_reducible apply State.request_keeps
    | with_reducible refine keeps_fst (by assumption) ?_
    | with_reducible refine keeps_okE (st := fun a => a) (by assumption) ?_
    | with_reducible refine keeps_okP (by assumption) ?_
    | with_reducible refine keeps_someO (st := fun a => a) (by assumption) ?_
    | with_reducible refine keeps_someP (by assumption) ?_
    | with_reducible refine keeps_nextR (by assumption) ?_
    | with_reducible refine keeps_okM (by assumption) ?_ ?_
    | with_reducible refine keeps_errM (by assumption) ?_ ?_
    | dsimp only
    | split
    | intro _
    | assumption
  )

theorem execMemRd_keeps {s0 : State} {l : Nat} {m : Msg} {s : State} (h_s : Keeps s0 s) :
    KeepsR s0 (execMemRd l m s) := by
  unfold execMemRd
  repeat' (first
    | with_reducible assumption
    | extract_lets
    | with_reducible apply State.arrive_keeps
    | with_reducible apply State.memRequest_keeps
    | with_reducible apply State.readCtx_keeps
    | intro _
  )

theorem execMemWr_keeps {s0 : State} {l : Nat} {m : Msg} {s : State} (h_s : Keeps s0 s) :
    KeepsR s0 (execMemWr l m s) := by
  unfold execMemWr
  repeat' (first
    | with_reducible assumption
    | extract_lets
    | with_reducible apply State.arrive_keeps
    | with_reducible apply State.linkBytes_keeps
    | with_reducible apply State.memRequest_keeps
    | with_reducible apply State.writeCtx_keeps
    | with_reducible refine keeps_fst (by assumption) ?_
    | dsimp only
    | split
    | intro _
  )

theorem execDoorbell_keeps {s0 : State} {l : Nat} {m : Msg} {s : State} (h_s : Keeps s0 s) :
    KeepsR s0 (execDoorbell l m s) := by
  unfold execDoorbell
  repeat' (first
    | with_reducible assumption
    | extract_lets
    | with_reducible apply State.arrive_keeps
    | with_reducible apply State.doorbell_keeps
    | with_reducible apply State.modLink_keeps
    | with_reducible apply State.portFault_keeps
    | with_reducible apply State.sealCheck_keeps
    | with_reducible apply keepsR_next
    | with_reducible apply keepsR_fault
    | with_reducible apply keepsR_refused
    | with_reducible refine keeps_fst (by assumption) ?_
    | with_reducible refine keeps_okE (st := fun a => a) (by assumption) ?_
    | with_reducible refine keeps_okP (by assumption) ?_
    | with_reducible refine keeps_someO (st := fun a => a) (by assumption) ?_
    | with_reducible refine keeps_someP (by assumption) ?_
    | with_reducible refine keeps_nextR (by assumption) ?_
    | with_reducible refine keeps_okM (by assumption) ?_ ?_
    | with_reducible refine keeps_errM (by assumption) ?_ ?_
    | dsimp only
    | split
    | intro _
    | assumption
  )

theorem execReservedMtype_keeps {s0 : State} {l : Nat} {m : Msg} {s : State} (h_s : Keeps s0 s) :
    KeepsR s0 (execReservedMtype l m s) := by
  unfold execReservedMtype
  repeat' (first
    | with_reducible assumption
    | with_reducible apply State.strictNow_keeps
    | extract_lets
    | with_reducible apply State.arrive_keeps
    | with_reducible apply State.plainCpl_keeps
    | intro _
  )

theorem execSecured_keeps {s0 : State} {l : Nat} {m : Msg} {s : State} (h_s : Keeps s0 s) :
    KeepsR s0 (execSecured l m s) := by
  unfold execSecured
  repeat' (first
    | with_reducible assumption
    | extract_lets
    | with_reducible apply State.arrive_keeps
    | with_reducible apply State.raiseEdge_keeps
    | split
    | intro _
  )

theorem State.storeEnds_keeps {s0 : State} {s : State} {l : Nat} {tag : Nat} {ref : DWord} {st : Status} (h_s : Keeps s0 s) :
    Keeps s0 (State.storeEnds s l tag ref st) := by
  unfold State.storeEnds
  repeat' (first
    | with_reducible assumption
    | extract_lets
    | with_reducible apply State.linkFault_keeps
    | with_reducible apply State.modDisp_keeps
    | with_reducible apply State.modLink_keeps
    | split
  )

theorem execCpl_keeps {s0 : State} {l : Nat} {m : Msg} {s : State} (h_s : Keeps s0 s) :
    KeepsR s0 (execCpl l m s) := by
  unfold execCpl
  repeat' (first
    | with_reducible assumption
    | extract_lets
    | with_reducible apply State.arrive_keeps
    | with_reducible apply State.storeEnds_keeps
    | split
    | intro _
  )

theorem execResultStoreTimeout_keeps {s0 : State} {disp : DWord} {s : State} (h_s : Keeps s0 s) :
    KeepsR s0 (execResultStoreTimeout disp s) := by
  unfold execResultStoreTimeout
  repeat' (first
    | with_reducible assumption
    | dsimp only
    | with_reducible apply State.finish_keeps
    | with_reducible apply State.storeEnds_keeps
    | with_reducible apply keepsR_next
    | split
  )

theorem execPathLost_keeps {s0 : State} {l : Nat} {m : Msg} {s : State} (h_s : Keeps s0 s) :
    KeepsR s0 (execPathLost l m s) := by
  unfold execPathLost
  repeat' (first
    | with_reducible assumption
    | extract_lets
    | with_reducible apply State.arrive_keeps
    | with_reducible apply State.storeEnds_keeps
    | with_reducible apply keepsR_next
    | with_reducible apply keepsR_fault
    | with_reducible apply keepsR_refused
    | with_reducible refine keeps_fst (by assumption) ?_
    | with_reducible refine keeps_okE (st := fun a => a) (by assumption) ?_
    | with_reducible refine keeps_okP (by assumption) ?_
    | with_reducible refine keeps_someO (st := fun a => a) (by assumption) ?_
    | with_reducible refine keeps_someP (by assumption) ?_
    | with_reducible refine keeps_nextR (by assumption) ?_
    | with_reducible refine keeps_okM (by assumption) ?_ ?_
    | with_reducible refine keeps_errM (by assumption) ?_ ?_
    | dsimp only
    | split
    | intro _
    | assumption
  )

theorem opDispatchRemote_keeps {s0 : State} {h : Hdr} {a : RemoteArgs} {s : State} {c : Nat} {n : Word} (h_s : Keeps s0 s) :
    KeepsE Prod.fst s0 (opDispatchRemote h a s c n) := by
  unfold opDispatchRemote
  repeat' (first
    | with_reducible assumption
    | extract_lets
    | with_reducible apply State.notify_keeps
    | with_reducible apply keepsE_pure
    | with_reducible apply keepsE_bind
    | with_reducible refine keeps_okE (st := fun a => a) (by assumption) ?_
    | intro _
  )

theorem execDispatchRemote_keeps {s0 : State} {h : Hdr} {a : RemoteArgs} {s : State} (h_s : Keeps s0 s) :
    KeepsR s0 (execDispatchRemote h a s) := by
  unfold execDispatchRemote
  repeat' (first
    | with_reducible assumption
    | extract_lets
    | with_reducible apply State.packet_keeps
    | with_reducible apply acceptOr_keeps
    | with_reducible apply opDispatchRemote_keeps
    | intro _
  )

theorem State.sendRdisp_keeps {s0 : State} {s : State} {l : Nat} {k : Nat} {d : Disp} {a : RemoteArgs} (h_s : Keeps s0 s) :
    Keeps s0 (State.sendRdisp s l k d a) := by
  unfold State.sendRdisp
  repeat' (first
    | with_reducible assumption
    | with_reducible apply keepsE_ok
    | extract_lets
    | with_reducible apply State.linkBytes_keeps
    | with_reducible apply State.linkFault_keeps
    | with_reducible apply State.modDisp_keeps
    | with_reducible apply State.modLink_keeps
    | with_reducible apply State.sendMsg_keeps
    | with_reducible apply State.takeSeal_keeps
    | with_reducible refine keeps_fst (by assumption) ?_
    | with_reducible refine keeps_okE (st := fun a => a) (by assumption) ?_
    | with_reducible refine keeps_okP (by assumption) ?_
    | with_reducible refine keeps_someO (st := fun a => a) (by assumption) ?_
    | with_reducible refine keeps_someP (by assumption) ?_
    | with_reducible refine keeps_nextR (by assumption) ?_
    | with_reducible refine keeps_okM (by assumption) ?_ ?_
    | with_reducible refine keeps_errM (by assumption) ?_ ?_
    | dsimp only
    | split
    | intro _
    | assumption
  )

theorem execRdispSend_keeps {s0 : State} {l : Nat} {s : State} (h_s : Keeps s0 s) :
    KeepsR s0 (execRdispSend l s) := by
  unfold execRdispSend
  repeat' (first
    | with_reducible assumption
    | extract_lets
    | with_reducible apply State.finish_keeps
    | with_reducible apply State.sendRdisp_keeps
    | with_reducible apply keepsR_next
    | split
  )

theorem State.freeRdisp_keeps {s0 : State} {s : State} {l : Nat} {k : Nat} (h_s : Keeps s0 s) :
    Keeps s0 (State.freeRdisp s l k) := by
  unfold State.freeRdisp
  repeat' (first
    | with_reducible assumption
    | with_reducible apply State.modLink_keeps
  )

theorem execRdispDone_keeps {s0 : State} {l : Nat} {m : Msg} {s : State} (h_s : Keeps s0 s) :
    KeepsR s0 (execRdispDone l m s) := by
  unfold execRdispDone
  repeat' (first
    | with_reducible assumption
    | with_reducible apply State.linkBytes_keeps
    | with_reducible apply State.request_keeps
    | with_reducible apply State.take_keepsT
    | extract_lets
    | with_reducible apply State.arrive_keeps
    | with_reducible apply State.endDisp_keeps
    | with_reducible apply State.freeRdisp_keeps
    | with_reducible apply State.linkFault_keeps
    | with_reducible apply State.plainCpl_keeps
    | with_reducible apply State.police_keeps
    | with_reducible apply State.portFault_keeps
    | with_reducible refine keeps_someO (st := fun a => a) (by assumption) ?_
    | with_reducible refine State.sealCheck_keeps ?_ _ (by assumption)
    | dsimp only
    | split
    | intro _
  )

theorem execRdispTimeout_keeps {s0 : State} {l : Nat} {slot : Nat} {s : State} (h_s : Keeps s0 s) :
    KeepsR s0 (execRdispTimeout l slot s) := by
  unfold execRdispTimeout
  repeat' (first
    | with_reducible assumption
    | extract_lets
    | with_reducible apply State.finish_keeps
    | with_reducible apply State.linkFault_keeps
    | with_reducible apply State.raiseEdge_keeps
    | with_reducible apply keepsR_next
    | dsimp only
    | split
  )

end Sys2Proof.Machine
end

