-- ==== Sys2Proof/Laws/KeepsSecurity.lean ====
section
/-!
SUPPORT. Every operation of Machine/Security.lean keeps (`Keeps`).
-/

set_option linter.unreachableTactic false
set_option linter.unusedTactic false

namespace Sys2Proof.Machine

theorem State.rotate_keeps {s0 : State} {s : State} {c : Nat} (h_s : Keeps s0 s) :
    Keeps s0 (State.rotate s c) := by
  unfold State.rotate
  repeat' (first
    | with_reducible assumption
    | extract_lets
    | with_reducible apply State.installKey_keeps
    | with_reducible apply State.modCtx_keeps
    | with_reducible apply State.raiseEdge_keeps
  )

theorem opKeyRotate_keeps {s0 : State} {target : Handle} {s : State} {c : Nat} (h_s : Keeps s0 s) :
    KeepsE Prod.fst s0 (opKeyRotate target s c) := by
  unfold opKeyRotate
  repeat' (first
    | with_reducible assumption
    | extract_lets
    | with_reducible apply State.rotate_keeps
    | with_reducible apply keepsE_pure
    | with_reducible apply keepsE_bind
    | intro _
  )

theorem execKeyRotate_keeps {s0 : State} {h : Hdr} {target : Handle} {s : State} (h_s : Keeps s0 s) :
    KeepsR s0 (execKeyRotate h target s) := by
  unfold execKeyRotate
  repeat' (first
    | with_reducible assumption
    | extract_lets
    | with_reducible apply State.packet_keeps
    | with_reducible apply answerOf_keeps
    | with_reducible apply opKeyRotate_keeps
    | intro _
  )

theorem execAutoKeyRotate_keeps {s0 : State} {c : Nat} {s : State} (h_s : Keeps s0 s) :
    KeepsR s0 (execAutoKeyRotate c s) := by
  unfold execAutoKeyRotate
  repeat' (first
    | with_reducible assumption
    | extract_lets
    | with_reducible apply State.rotate_keeps
    | with_reducible apply keepsR_next
    | dsimp only
    | split
  )

theorem State.endSweep_keeps {s0 : State} {s : State} {c : Nat} {x : Ctx} (h_s : Keeps s0 s) :
    Keeps s0 (State.endSweep s c x) := by
  unfold State.endSweep
  repeat' (first
    | with_reducible assumption
    | extract_lets
    | with_reducible apply State.destroyKeys_keeps
    | with_reducible apply State.faultCtx_keeps
    | with_reducible apply State.modCtx_keeps
    | with_reducible apply State.raiseEdge_keeps
    | with_reducible apply keeps_foldl
    | (with_reducible refine State.onPool_keeps ?_ ?_ <;> [rfl; skip])
    | (with_reducible refine State.onSen_keeps ?_ ?_ ?_ ?_ <;> [rfl; rfl; rfl; skip])
    | dsimp only
    | split
    | intro _
  )

theorem execSweepComplete_keeps {s0 : State} {c : Nat} {s : State} (h_s : Keeps s0 s) :
    KeepsR s0 (execSweepComplete c s) := by
  unfold execSweepComplete
  repeat' (first
    | with_reducible assumption
    | extract_lets
    | with_reducible apply State.endSweep_keeps
    | with_reducible apply State.finish_keeps
    | with_reducible apply keepsR_next
    | split
  )

theorem opAttestReport_keeps {s0 : State} {obj : Handle} {nonce : List Byte} {s : State} {c : Nat} (h_s : Keeps s0 s) :
    Keeps s0 (opAttestReport obj nonce s c).1 := by
  unfold opAttestReport
  repeat' (first
    | with_reducible assumption
    | with_reducible apply State.asked_keeps
    | with_reducible apply State.drew_keeps
    | extract_lets
    | with_reducible apply State.modSlice_keeps
    | with_reducible apply State.putResult_keeps
    | with_reducible refine keeps_fst (by assumption) ?_
    | dsimp only
    | split
  )

theorem execAttestReport_keeps {s0 : State} {h : Hdr} {obj : Handle} {nonce : List Byte} {s : State} (h_s : Keeps s0 s) :
    KeepsR s0 (execAttestReport h obj nonce s) := by
  unfold execAttestReport
  repeat' (first
    | with_reducible assumption
    | extract_lets
    | with_reducible apply State.packet_keeps
    | with_reducible apply opAttestReport_keeps
    | intro _
  )

theorem execEntropyHealthFail_keeps {s0 : State} {s : State} (h_s : Keeps s0 s) :
    KeepsR s0 (execEntropyHealthFail s) := by
  unfold execEntropyHealthFail
  repeat' (first
    | with_reducible assumption
    | extract_lets
    | with_reducible apply State.raiseEdge_keeps
    | with_reducible apply keepsR_next
    | (with_reducible refine State.onSen_keeps ?_ ?_ ?_ ?_ <;> [rfl; rfl; rfl; skip])
  )

theorem execEntropyRecover_keeps {s0 : State} {s : State} (h_s : Keeps s0 s) :
    KeepsR s0 (execEntropyRecover s) := by
  unfold execEntropyRecover
  repeat' (first
    | with_reducible assumption
    | extract_lets
    | with_reducible apply State.raiseEdge_keeps
    | with_reducible apply keepsR_next
    | (with_reducible refine State.onSen_keeps ?_ ?_ ?_ ?_ <;> [rfl; rfl; rfl; skip])
  )

theorem execDebugTokenLoad_keeps {s0 : State} {t : Token} {s : State} (h_s : Keeps s0 s) :
    KeepsR s0 (execDebugTokenLoad t s) := by
  unfold execDebugTokenLoad
  repeat' (first
    | with_reducible assumption
    | extract_lets
    | with_reducible apply State.asked_keeps
    | with_reducible apply State.drew_keeps
    | with_reducible apply keepsR_next
    | (with_reducible refine State.onSen_keeps ?_ ?_ ?_ ?_ <;> [rfl; rfl; rfl; skip])
    | dsimp only
    | split
  )

theorem execDbgCtrlClose_keeps {s0 : State} {s : State} (h_s : Keeps s0 s) :
    KeepsR s0 (execDbgCtrlClose s) := by
  unfold execDbgCtrlClose
  repeat' (first
    | with_reducible assumption
    | extract_lets
    | with_reducible apply keepsR_next
    | (with_reducible refine State.onSen_keeps ?_ ?_ ?_ ?_ <;> [rfl; rfl; rfl; skip])
  )

theorem execDebugLifetimeExpiry_keeps {s0 : State} {s : State} (h_s : Keeps s0 s) :
    KeepsR s0 (execDebugLifetimeExpiry s) := by
  unfold execDebugLifetimeExpiry
  repeat' (first
    | with_reducible assumption
    | extract_lets
    | with_reducible apply keepsR_next
    | (with_reducible refine State.onSen_keeps ?_ ?_ ?_ ?_ <;> [rfl; rfl; rfl; skip])
  )

theorem State.spdm_keeps {s0 : State} {s : State} {sess : Option Nat} {r : Option (List Nat)} (h_s : Keeps s0 s) :
    Keeps s0 (State.spdm s sess r) := by
  unfold State.spdm
  repeat' (first
    | with_reducible assumption
    | with_reducible apply State.emit_keeps
  )

theorem State.spdmBusy_keeps {s0 : State} {s : State} {sess : Option Nat} (h_s : Keeps s0 s) :
    Keeps s0 (State.spdmBusy s sess) := by
  unfold State.spdmBusy
  repeat' (first
    | with_reducible assumption
    | with_reducible apply State.emit_keeps
  )

theorem State.spdmAt_keeps {s0 : State} {s : State} {w : SessWhere} {f : State → State} (h_s : Keeps s0 s) (h_f : ∀ y0, Keeps s0 y0 → Keeps s0 (f y0)) :
    KeepsR s0 (State.spdmAt s w f) := by
  unfold State.spdmAt
  repeat' (first
    | with_reducible assumption
    | extract_lets
    | with_reducible apply h_f
    | with_reducible apply State.emit_keeps
    | with_reducible apply State.stage_keeps
    | with_reducible apply keepsR_next
    | with_reducible apply keepsR_fault
    | with_reducible apply keepsR_refused
    | with_reducible refine keeps_fst (by assumption) ?_
    | with_reducible refine keeps_okE (st := fun a => a) (by assumption) ?_
    | with_reducible refine keeps_okP (by assumption) ?_
    | with_reducible refine keeps_someO (st := fun a => a) (by assumption) ?_
    | with_reducible refine keeps_someP (by assumption) ?_
    | with_reducible refine keeps_nextR (by assumption) ?_
    | with_reducible refine keeps_okM (by assumption) ?_ ?_
    | with_reducible refine keeps_errM (by assumption) ?_ ?_
    | dsimp only
    | split
    | intro _
    | assumption
  )

theorem execKeyExchange_keeps {s0 : State} {w : SessWhere} {slice : Option Handle} {share : Nat × Nat} {selfRooted : Bool} {leaf : Nat} {rootDigest : Nat} {chainOk : Bool} {s : State} (h_s : Keeps s0 s) :
    KeepsR s0 (execKeyExchange w slice share selfRooted leaf rootDigest chainOk s) := by
  unfold execKeyExchange
  repeat' (first
    | with_reducible assumption
    | extract_lets
    | with_reducible apply State.asked_keeps
    | with_reducible apply State.claim_keeps
    | with_reducible apply State.drew_keeps
    | (with_reducible refine State.onSen_keeps ?_ ?_ ?_ ?_ <;> [rfl; rfl; rfl; skip])
    | with_reducible apply State.spdm_keeps
    | with_reducible apply State.spdmAt_keeps
    | with_reducible apply State.spdmBusy_keeps
    | with_reducible apply keepsR_next
    | with_reducible apply keepsR_fault
    | with_reducible apply keepsR_refused
    | with_reducible refine keeps_fst (by assumption) ?_
    | with_reducible refine keeps_okE (st := fun a => a) (by assumption) ?_
    | with_reducible refine keeps_okP (by assumption) ?_
    | with_reducible refine keeps_someO (st := fun a => a) (by assumption) ?_
    | with_reducible refine keeps_someP (by assumption) ?_
    | with_reducible refine keeps_nextR (by assumption) ?_
    | with_reducible refine keeps_okM (by assumption) ?_ ?_
    | with_reducible refine keeps_errM (by assumption) ?_ ?_
    | dsimp only
    | split
    | intro _
    | assumption
  )

theorem State.endSession_keeps {s0 : State} {s : State} {k : Nat} (h_s : Keeps s0 s) :
    Keeps s0 (State.endSession s k) := by
  unfold State.endSession
  repeat' (first
    | with_reducible assumption
    | extract_lets
    | with_reducible apply State.dropSeals_keeps
    | with_reducible apply State.endSessions_keeps
    | split
  )

theorem execSessionEnd_keeps {s0 : State} {sess : Nat} {s : State} (h_s : Keeps s0 s) :
    KeepsR s0 (execSessionEnd sess s) := by
  unfold execSessionEnd
  repeat' (first
    | with_reducible assumption
    | extract_lets
    | with_reducible apply State.endSession_keeps
    | with_reducible apply keepsR_next
  )

theorem State.signed_keeps {s0 : State} {s : State} {d : List Byte} (h_s : Keeps s0 s) :
    Keeps s0 (State.signed s d).1 := by
  unfold State.signed
  repeat' (first
    | with_reducible assumption
    | extract_lets
    | with_reducible apply State.asked_keeps
    | with_reducible apply State.drew_keeps
    | with_reducible refine keeps_fst (by assumption) ?_
    | with_reducible refine keeps_okE (st := fun a => a) (by assumption) ?_
    | with_reducible refine keeps_okP (by assumption) ?_
    | with_reducible refine keeps_someO (st := fun a => a) (by assumption) ?_
    | with_reducible refine keeps_someP (by assumption) ?_
    | with_reducible refine keeps_nextR (by assumption) ?_
    | with_reducible refine keeps_okM (by assumption) ?_ ?_
    | with_reducible refine keeps_errM (by assumption) ?_ ?_
    | dsimp only
    | split
    | intro _
    | assumption
  )

theorem State.spdmAnswer_keeps {s0 : State} {s : State} {w : SessWhere} {k : Option Sess} {r : SpdmReq} (h_s : Keeps s0 s) :
    Keeps s0 (State.spdmAnswer s w k r).1 := by
  unfold State.spdmAnswer
  repeat' (first
    | with_reducible assumption
    | extract_lets
    | (with_reducible refine State.onSen_keeps ?_ ?_ ?_ ?_ <;> [rfl; rfl; rfl; skip])
    | with_reducible apply State.signed_keeps
    | with_reducible apply State.take_keepsT
    | with_reducible refine keeps_fst (by assumption) ?_
    | with_reducible refine keeps_okE (st := fun a => a) (by assumption) ?_
    | with_reducible refine keeps_okP (by assumption) ?_
    | with_reducible refine keeps_someO (st := fun a => a) (by assumption) ?_
    | with_reducible refine keeps_someP (by assumption) ?_
    | with_reducible refine keeps_nextR (by assumption) ?_
    | with_reducible refine keeps_okM (by assumption) ?_ ?_
    | with_reducible refine keeps_errM (by assumption) ?_ ?_
    | dsimp only
    | split
    | intro _
    | assumption
  )

theorem execGetMeasurements_keeps {s0 : State} {w : SessWhere} {sess : Option Nat} {r : SpdmReq} {s : State} (h_s : Keeps s0 s) :
    KeepsR s0 (execGetMeasurements w sess r s) := by
  unfold execGetMeasurements
  repeat' (first
    | with_reducible assumption
    | extract_lets
    | with_reducible apply State.claim_keeps
    | with_reducible apply State.spdm_keeps
    | with_reducible apply State.spdmAnswer_keeps
    | with_reducible apply State.spdmAt_keeps
    | with_reducible apply State.spdmBusy_keeps
    | with_reducible apply keepsR_next
    | with_reducible apply keepsR_fault
    | with_reducible apply keepsR_refused
    | with_reducible refine keeps_fst (by assumption) ?_
    | with_reducible refine keeps_okE (st := fun a => a) (by assumption) ?_
    | with_reducible refine keeps_okP (by assumption) ?_
    | with_reducible refine keeps_someO (st := fun a => a) (by assumption) ?_
    | with_reducible refine keeps_someP (by assumption) ?_
    | with_reducible refine keeps_nextR (by assumption) ?_
    | with_reducible refine keeps_okM (by assumption) ?_ ?_
    | with_reducible refine keeps_errM (by assumption) ?_ ?_
    | dsimp only
    | split
    | intro _
    | (with_reducible conv => arg 2; whnf); split
    | assumption
  )

theorem State.scrub_keeps {s0 : State} {s : State} {l : Nat} (h_s : Keeps s0 s) :
    Keeps s0 (State.scrub s l) := by
  unfold State.scrub
  repeat' (first
    | with_reducible assumption
    | extract_lets
    | with_reducible apply State.abortQuiesce_keeps
    | with_reducible apply State.modTdi_keeps
    | with_reducible apply State.tearKeys_keeps
    | with_reducible apply State.tearStart_keeps
    | with_reducible apply keeps_foldl
    | (with_reducible conv => arg 2; whnf); split
    | intro _
  )

theorem State.toError_keeps {s0 : State} {s : State} {l : Nat} (h_s : Keeps s0 s) :
    Keeps s0 (State.toError s l) := by
  unfold State.toError
  repeat' (first
    | with_reducible assumption
    | extract_lets
    | with_reducible apply State.modTdi_keeps
    | with_reducible apply State.scrub_keeps
    | split
  )

theorem State.tdisp_keeps {s0 : State} {s : State} {port : Nat} {sess : Nat} {f : State → State × Except Nat (List Nat)} (h_s : Keeps s0 s) (h_f : ∀ y0, Keeps s0 y0 → Keeps s0 (f y0).1) :
    KeepsR s0 (State.tdisp s port sess f) := by
  unfold State.tdisp
  repeat' (first
    | with_reducible assumption
    | extract_lets
    | with_reducible apply h_f
    | with_reducible apply State.emit_keeps
    | with_reducible apply State.finish_keeps
    | with_reducible apply State.raiseEdge_keeps
    | with_reducible apply State.spdm_keeps
    | with_reducible apply keepsR_next
    | with_reducible apply keepsR_fault
    | with_reducible apply keepsR_refused
    | with_reducible refine keeps_fst (by assumption) ?_
    | with_reducible refine keeps_okE (st := fun a => a) (by assumption) ?_
    | with_reducible refine keeps_okP (by assumption) ?_
    | with_reducible refine keeps_someO (st := fun a => a) (by assumption) ?_
    | with_reducible refine keeps_someP (by assumption) ?_
    | with_reducible refine keeps_nextR (by assumption) ?_
    | with_reducible refine keeps_okM (by assumption) ?_ ?_
    | with_reducible refine keeps_errM (by assumption) ?_ ?_
    | dsimp only
    | split
    | intro _
    | assumption
  )

theorem State.onIface_keeps {s0 : State} {s : State} {port : Nat} {sess : Nat} {id : IfaceId} {f : State → Nat → Tdi → State × Except Nat (List Nat)} (h_s : Keeps s0 s) (h_f : ∀ y0 y1 y2, Keeps s0 y0 → Keeps s0 (f y0 y1 y2).1) :
    KeepsR s0 (State.onIface s port sess id f) := by
  unfold State.onIface
  repeat' (first
    | with_reducible assumption
    | extract_lets
    | with_reducible apply h_f
    | with_reducible apply State.tdisp_keeps
    | with_reducible apply keepsR_next
    | with_reducible apply keepsR_fault
    | with_reducible apply keepsR_refused
    | with_reducible refine keeps_fst (by assumption) ?_
    | with_reducible refine keeps_okE (st := fun a => a) (by assumption) ?_
    | with_reducible refine keeps_okP (by assumption) ?_
    | with_reducible refine keeps_someO (st := fun a => a) (by assumption) ?_
    | with_reducible refine keeps_someP (by assumption) ?_
    | with_reducible refine keeps_nextR (by assumption) ?_
    | with_reducible refine keeps_okM (by assumption) ?_ ?_
    | with_reducible refine keeps_errM (by assumption) ?_ ?_
    | dsimp only
    | split
    | intro _
    | assumption
  )

theorem execLockInterface_keeps {s0 : State} {port : Nat} {sess : Nat} {id : IfaceId} {s : State} (h_s : Keeps s0 s) :
    KeepsR s0 (execLockInterface port sess id s) := by
  unfold execLockInterface
  repeat' (first
    | with_reducible assumption
    | with_reducible apply State.onIface_keeps
    | extract_lets
    | with_reducible apply State.modTdi_keeps
    | with_reducible apply State.tdisp_keeps
    | dsimp only
    | split
    | intro _
  )

theorem execStartInterface_keeps {s0 : State} {port : Nat} {sess : Nat} {id : IfaceId} {s : State} (h_s : Keeps s0 s) :
    KeepsR s0 (execStartInterface port sess id s) := by
  unfold execStartInterface
  repeat' (first
    | with_reducible assumption
    | with_reducible apply State.onIface_keeps
    | extract_lets
    | with_reducible apply State.asked_keeps
    | with_reducible apply State.drew_keeps
    | with_reducible apply State.modTdi_keeps
    | with_reducible apply State.postDue_keeps
    | with_reducible apply State.raiseEdge_keeps
    | with_reducible apply State.spdmBusy_keeps
    | with_reducible apply State.tdisp_keeps
    | with_reducible apply keepsR_next
    | dsimp only
    | split
    | intro _
  )

theorem execStopInterface_keeps {s0 : State} {port : Nat} {sess : Nat} {id : IfaceId} {s : State} (h_s : Keeps s0 s) :
    KeepsR s0 (execStopInterface port sess id s) := by
  unfold execStopInterface
  repeat' (first
    | with_reducible assumption
    | with_reducible apply State.onIface_keeps
    | extract_lets
    | with_reducible apply State.modTdi_keeps
    | with_reducible apply State.scrub_keeps
    | with_reducible apply State.tdisp_keeps
    | dsimp only
    | split
    | intro _
  )

theorem execBindClaim_keeps {s0 : State} {port : Nat} {sess : Nat} {vendor : Nat} {cmd : Nat} {id : IfaceId} {value : Nat} {s : State} (h_s : Keeps s0 s) :
    KeepsR s0 (execBindClaim port sess vendor cmd id value s) := by
  unfold execBindClaim
  repeat' (first
    | with_reducible assumption
    | extract_lets
    | with_reducible apply State.modTdi_keeps
    | with_reducible apply State.tdisp_keeps
    | dsimp only
    | split
    | intro _
  )

theorem execIdeKmKeyProg_keeps {s0 : State} {port : Nat} {sess : Nat} {stream : IdeStream} {keySet : Nat} {tx : Bool} {go : Bool} {s : State} (h_s : Keeps s0 s) :
    KeepsR s0 (execIdeKmKeyProg port sess stream keySet tx go s) := by
  unfold execIdeKmKeyProg
  repeat' (first
    | with_reducible assumption
    | with_reducible apply State.modPort_keeps
    | with_reducible apply State.onIface_keeps
    | extract_lets
    | with_reducible apply State.modTdi_keeps
    | with_reducible apply State.tdisp_keeps
    | with_reducible apply State.toError_keeps
    | dsimp only
    | split
    | intro _
  )

theorem execIdeIntegrityFailure_keeps {s0 : State} {port : Nat} {slice : Handle} {s : State} (h_s : Keeps s0 s) :
    KeepsR s0 (execIdeIntegrityFailure port slice s) := by
  unfold execIdeIntegrityFailure
  repeat' (first
    | with_reducible assumption
    | extract_lets
    | with_reducible apply State.finish_keeps
    | with_reducible apply State.modTdi_keeps
    | with_reducible apply State.toError_keeps
    | with_reducible apply keepsR_next
    | split
  )

end Sys2Proof.Machine
end

