-- ==== Sys2Proof/Laws/KeepsEvents.lean ====
section
/-!
SUPPORT. Every operation of Machine/Events.lean keeps (`Keeps`).
-/

set_option linter.unreachableTactic false
set_option linter.unusedTactic false

namespace Sys2Proof.Machine

theorem State.eachBit_keeps {s0 : State} {s : State} {w : Nat} {bits : Word} {f : State → Nat → State} (h_s : Keeps s0 s) (h_f : ∀ y0 y1, Keeps s0 y0 → Keeps s0 (f y0 y1)) :
    Keeps s0 (State.eachBit s w bits f) := by
  unfold State.eachBit
  repeat' (first
    | with_reducible assumption
    | extract_lets
    | with_reducible apply h_f
    | with_reducible apply keeps_foldl
    | split
    | intro _
  )

theorem State.setPend_keeps {s0 s : State} {i : Nat} (h : Keeps s0 s) : Keeps s0 (s.setPend i) := by
  unfold State.setPend
  split
  · exact State.modSrc_keeps id h
  · exact h

theorem State.clrPend_keeps {s0 s : State} {i : Nat} (h : Keeps s0 s) : Keeps s0 (s.clrPend i) := State.modSrc_keeps id h

theorem execEvcPendSetWrite_keeps {s0 : State} {p : Path} {w : Nat} {bits : Word} {s : State} (h_s : Keeps s0 s) :
    KeepsR s0 (execEvcPendSetWrite p w bits s) := by
  unfold execEvcPendSetWrite
  repeat' (first
    | with_reducible assumption
    | extract_lets
    | with_reducible apply State.eachBit_keeps
    | with_reducible apply State.onReg_keeps
    | with_reducible apply State.setPend_keeps
    | intro _
  )

theorem execEvcPendClrWrite_keeps {s0 : State} {p : Path} {w : Nat} {bits : Word} {s : State} (h_s : Keeps s0 s) :
    KeepsR s0 (execEvcPendClrWrite p w bits s) := by
  unfold execEvcPendClrWrite
  repeat' (first
    | with_reducible assumption
    | extract_lets
    | with_reducible apply State.clrPend_keeps
    | with_reducible apply State.eachBit_keeps
    | with_reducible apply State.onReg_keeps
    | intro _
  )

theorem execEvcMaskSetWrite_keeps {s0 : State} {p : Path} {w : Nat} {bits : Word} {s : State} (h : Keeps s0 s) : KeepsR s0 (execEvcMaskSetWrite p w bits s) := by
  unfold execEvcMaskSetWrite
  exact State.onReg_keeps h fun a ha => State.eachBit_keeps ha fun b i hb => State.modSrc_keeps id hb

theorem execEvcMaskClrWrite_keeps {s0 : State} {p : Path} {w : Nat} {bits : Word} {s : State} (h : Keeps s0 s) : KeepsR s0 (execEvcMaskClrWrite p w bits s) := by
  unfold execEvcMaskClrWrite
  exact State.onReg_keeps h fun a ha => State.eachBit_keeps ha fun b i hb => State.modSrc_keeps id hb

theorem claimable_eligible {s : State} {n i : Nat} (h : s.claimable n = some i) : s.eligible n i = true := by
  unfold State.claimable at h
  have key : ∀ (l : List Nat) (a : Option Nat), (∀ j, a = some j → s.eligible n j = true) → ∀ j, l.foldl (fun a i =>
      if s.eligible n i then
        match a with
        | none => some i
        | some j => if (s.src j).prio < (s.src i).prio ∨ ((s.src j).prio = (s.src i).prio ∧ i < j) then some i else a
      else a) a = some j → s.eligible n j = true := by
    intro l
    induction l with
    | nil => intro a ha j hj; exact ha j hj
    | cons k l ih =>
      intro a ha
      rw [List.foldl_cons]
      apply ih
      intro j hj
      split at hj
      · split at hj
        · cases hj; assumption
        · split at hj
          · cases hj; assumption
          · exact ha j hj
      · exact ha j hj
  exact key _ none (by simp) i h

theorem State.claim_keeps {s0 s : State} {n : Nat} (h : Keeps s0 s) : Keeps s0 (s.claim n) := by
  unfold State.claim
  split
  · exact State.emit_keeps h
  · rename_i i hi
    extract_lets x
    have he := claimable_eligible hi
    refine State.emit_keeps ?_
    refine ⟨h.1, h.2.1, h.2.2.1, h.2.2.2.1, h.2.2.2.2.1, h.2.2.2.2.2.1, h.2.2.2.2.2.2.1, fun e0 => ?_⟩
    have ok := h.2.2.2.2.2.2.2 e0
    refine ⟨fun e he => ?_, fun e hm => ?_⟩
    · rcases tset_mem he with rfl | he
      · exact ok.src i
      · exact ok.1 e he
    · rcases tset_mem hm with rfl | hm
      · refine ⟨ok.src i, ?_⟩
        have hc := ok.core n
        unfold State.eligible at he
        simp only [Bool.and_eq_true, decide_eq_true_eq] at he
        show (decide ((s.core n).run < (s.src i).prio) && nested (s.core n).stack (s.core n).run) = true
        simp [he.2, hc.2]
      · exact ok.2 e hm

theorem execEvcClaimRead_keeps {s0 : State} {core : Nat} {s : State} (h_s : Keeps s0 s) :
    KeepsR s0 (execEvcClaimRead core s) := by
  unfold execEvcClaimRead
  repeat' (first
    | with_reducible assumption
    | extract_lets
    | with_reducible apply State.claim_keeps
    | with_reducible apply keepsR_next
    | split
  )

theorem State.unclaim_keeps {s0 s : State} {i : Nat} (h : Keeps s0 s) : Keeps s0 (s.unclaim i) := State.modSrc_keeps id h

theorem State.eoi_keeps {s0 s : State} {n id : Nat} (h : Keeps s0 s) : Keeps s0 (s.eoi n id) := by
  unfold State.eoi
  split
  · rename_i i r t e
    split
    · refine State.unclaim_keeps (State.modCore_keeps (fun x => ?_) h)
      have := x.core n
      rw [e] at this
      simp only [nested, Bool.and_eq_true, decide_eq_true_eq] at this
      exact ⟨by show r ≤ 15; omega, this.2.2⟩
    · exact State.modCore_keeps (fun x => x.core n) h
  · exact State.modCore_keeps (fun x => x.core n) h

theorem execEvcEoiWrite_keeps {s0 : State} {core : Nat} {id : Nat} {s : State} (h_s : Keeps s0 s) :
    KeepsR s0 (execEvcEoiWrite core id s) := by
  unfold execEvcEoiWrite
  repeat' (first
    | with_reducible assumption
    | extract_lets
    | with_reducible apply State.eoi_keeps
    | with_reducible apply keepsR_next
    | split
  )

theorem State.resetCore_keeps {s0 s : State} {n : Nat} (h : Keeps s0 s) : Keeps s0 (s.resetCore n) := by
  unfold State.resetCore
  refine State.modCore_keeps (fun _ => ⟨by simp [Core.reset], rfl⟩) (keeps_foldl h fun a e ha => State.modSrc_keeps id ha)

theorem State.modWire_keeps {s0 s : State} {i : Nat} {f : Wire → Wire} (h : Keeps s0 s) : Keeps s0 (s.modWire i f) := keeps_mkE id h

theorem State.driveWire_keeps {s0 : State} {s : State} {i : Nat} {old : Bool} (h_s : Keeps s0 s) :
    Keeps s0 (State.driveWire s i old) := by
  unfold State.driveWire
  repeat' (first
    | with_reducible assumption
    | extract_lets
    | with_reducible apply State.raiseEdge_keeps
    | with_reducible apply State.setCond_keeps
    | split
  )

theorem execWiredInputChange_keeps {s0 : State} {i : Nat} {level : Bool} {samples : Nat} {s : State} (h_s : Keeps s0 s) :
    KeepsR s0 (execWiredInputChange i level samples s) := by
  unfold execWiredInputChange
  repeat' (first
    | with_reducible assumption
    | extract_lets
    | with_reducible apply State.driveWire_keeps
    | with_reducible apply State.modWire_keeps
    | with_reducible apply keepsR_next
    | split
  )

theorem State.denyParty_keeps {s0 : State} {s : State} {who : Party} (h_s : Keeps s0 s) :
    Keeps s0 (State.denyParty s who) := by
  unfold State.denyParty
  repeat' (first
    | with_reducible assumption
    | with_reducible apply State.deny_keeps
    | split
  )

theorem State.mbxSend_keeps {s0 s : State} {who : Party} {m width : Nat} {msg : DWord} (h : Keeps s0 s) :
    Keeps s0 (s.mbxSend who m width msg) := by
  unfold State.mbxSend
  split
  · exact State.modMbox_keeps (Or.inl le_rfl) h
  · rename_i hc
    exact State.mbxPush_keeps (by by_contra hl; exact hc (Or.inr (Or.inr (Or.inl (by omega))))) h

theorem execMbxSend_keeps {s0 : State} {who : Party} {m : Nat} {width : Nat} {msg : DWord} {s : State} (h_s : Keeps s0 s) :
    KeepsR s0 (execMbxSend who m width msg s) := by
  unfold execMbxSend
  repeat' (first
    | with_reducible assumption
    | extract_lets
    | with_reducible apply State.denyParty_keeps
    | with_reducible apply State.mbxSend_keeps
    | with_reducible apply keepsR_next
    | split
  )

theorem State.attachPd_keeps {s0 : State} {s : State} (h_s : Keeps s0 s) :
    Keeps s0 (State.attachPd s) := by
  unfold State.attachPd
  repeat' (first
    | extract_lets
    | with_reducible apply State.pump_keeps
    | (with_reducible refine State.onPool_keeps ?_ ?_ <;> [rfl; skip])
    | assumption
  )

theorem State.detachPd_keeps {s0 : State} {s : State} (h_s : Keeps s0 s) :
    Keeps s0 (State.detachPd s) := by
  unfold State.detachPd
  repeat' (first
    | extract_lets
    | (with_reducible refine State.onPool_keeps ?_ ?_ <;> [rfl; skip])
    | assumption
  )

theorem State.notice_keeps {s0 : State} {s : State} {w : DWord} (h_s : Keeps s0 s) :
    Keeps s0 (State.notice s w) := by
  unfold State.notice
  repeat' (first
    | with_reducible assumption
    | with_reducible apply State.attachPd_keeps
    | with_reducible apply State.detachPd_keeps
    | split
  )

theorem State.mbxRecv_keeps {s0 s : State} {who : Party} {m width : Nat} (h : Keeps s0 s) : Keeps s0 (s.mbxRecv who m width).1 := by
  unfold State.mbxRecv
  split
  · rename_i w r heq
    split
    · exact State.modMbox_keeps (Or.inl le_rfl) h
    · have h1 : Keeps s0 (s.modMbox m fun x => { x with msgs := r }) :=
        State.modMbox_keeps (Or.inl (by rw [heq]; simp)) h
      have h2 : Keeps s0 (if r = [] then (if mbxReceiver m = .control then (s.modMbox m fun x => { x with msgs := r }).setCond (64 + m) false
          else (s.modMbox m fun x => { x with msgs := r })).noteSender m 1 else (s.modMbox m fun x => { x with msgs := r })) := by
        split
        · apply State.noteSender_keeps
          split
          · exact State.setCond_keeps h1
          · exact h1
        · exact h1
      extract_lets
      dsimp only
      split
      · exact State.pump_keeps h2
      · split
        · exact State.notice_keeps h2
        · exact h2
  · exact State.modMbox_keeps (Or.inl le_rfl) h

theorem execMbxRecv_keeps {s0 : State} {who : Party} {m : Nat} {width : Nat} {s : State} (h_s : Keeps s0 s) :
    KeepsR s0 (execMbxRecv who m width s) := by
  unfold execMbxRecv
  repeat' (first
    | with_reducible assumption
    | extract_lets
    | with_reducible apply State.denyParty_keeps
    | with_reducible apply State.emit_keeps
    | with_reducible apply State.finish_keeps
    | with_reducible apply State.mbxRecv_keeps
    | with_reducible apply keepsR_next
    | dsimp only
    | split
  )

theorem State.drainNotices_keeps {s0 : State} {n : Nat} {s : State} (h : Keeps s0 s) : Keeps s0 (State.drainNotices n s) := by
  induction n generalizing s with
  | zero => exact h
  | succ n ih =>
    unfold State.drainNotices
    split
    · exact h
    · exact ih (State.mbxRecv_keeps h)

theorem State.pdNotice_keeps {s0 : State} {s : State} {w : DWord} (h_s : Keeps s0 s) :
    Keeps s0 (State.pdNotice s w) := by
  unfold State.pdNotice
  repeat' (first
    | with_reducible assumption
    | extract_lets
    | with_reducible apply State.denyParty_keeps
    | with_reducible apply State.drainNotices_keeps
    | with_reducible apply State.finish_keeps
    | with_reducible apply State.mbxSend_keeps
    | split
  )

theorem execPdAttach_keeps {s0 : State} {s : State} (h_s : Keeps s0 s) :
    KeepsR s0 (execPdAttach s) := by
  unfold execPdAttach
  repeat' (first
    | with_reducible assumption
    | extract_lets
    | with_reducible apply State.pdNotice_keeps
    | with_reducible apply keepsR_next
  )

theorem execPdDetach_keeps {s0 : State} {s : State} (h_s : Keeps s0 s) :
    KeepsR s0 (execPdDetach s) := by
  unfold execPdDetach
  repeat' (first
    | with_reducible assumption
    | extract_lets
    | with_reducible apply State.pdNotice_keeps
    | with_reducible apply keepsR_next
  )

end Sys2Proof.Machine
end

