-- ==== Sys2Proof/Laws/KeepsHostPorts.lean ====
section
/-!
SUPPORT. Every operation of Machine/HostPorts.lean keeps (`Keeps`).
-/

set_option linter.unreachableTactic false
set_option linter.unusedTactic false

namespace Sys2Proof.Machine

theorem State.resetPd_keeps {s0 : State} {s : State} (h_s : Keeps s0 s) :
    Keeps s0 (State.resetPd s) := by
  unfold State.resetPd
  repeat' (first
    | with_reducible assumption
    | extract_lets
    | with_reducible apply State.detachPd_keeps
    | with_reducible apply State.mbxClear_keeps
  )

theorem State.bootstrap_keeps {s0 : State} {s : State} (h_s : Keeps s0 s) :
    KeepsE (fun a => a) s0 (State.bootstrap s) := by
  unfold State.bootstrap
  repeat' (first
    | with_reducible assumption
    | with_reducible apply State.raiseEdge_keeps
    | extract_lets
    | with_reducible apply State.asked_keeps
    | with_reducible apply State.drew_keeps
    | with_reducible apply State.installKey_keeps
    | with_reducible apply State.modSlice_keeps
    | with_reducible apply State.onObjs_keeps
    | with_reducible apply keepsE_pure
    | with_reducible apply keepsE_bind
    | dsimp only
    | split
    | intro _
  )

theorem State.s0Go_keeps {s0 : State} {s : State} {lost : Bool} (h_s : Keeps s0 s) :
    Keeps s0 (State.s0Go s lost) := by
  unfold State.s0Go
  repeat' (first
    | with_reducible assumption
    | extract_lets
    | with_reducible apply State.bootstrap_keeps
    | with_reducible apply State.resetPd_keeps
    | with_reducible apply State.onSlices_keeps
    | with_reducible refine keeps_okE (st := fun a => a) (by assumption) ?_
    | split
  )

theorem execHubS0Go_keeps {s0 : State} {p : Path} {lost : Bool} {s : State} (h_s : Keeps s0 s) :
    KeepsR s0 (execHubS0Go p lost s) := by
  unfold execHubS0Go
  repeat' (first
    | with_reducible assumption
    | extract_lets
    | with_reducible apply State.onBar0_keeps
    | with_reducible apply State.s0Go_keeps
    | intro _
  )

theorem State.moveIface_keeps {s0 : State} {s : State} {l : Nat} {new : Nat} (h_s : Keeps s0 s) :
    Keeps s0 (State.moveIface s l new) := by
  unfold State.moveIface
  repeat' (first
    | with_reducible assumption
    | with_reducible apply State.endSessions_keeps
    | (with_reducible refine State.onSen_keeps ?_ ?_ ?_ ?_ <;> [rfl; rfl; rfl; skip])
    | extract_lets
    | with_reducible apply State.endSession_keeps
    | with_reducible apply State.modTdi_keeps
    | with_reducible apply State.scrub_keeps
    | split
    | (with_reducible conv => arg 2; whnf); split
  )

theorem State.forgetPasid_keeps {s0 : State} {s : State} {port : Nat} {pasid : Nat} (h_s : Keeps s0 s) :
    Keeps s0 (State.forgetPasid s port pasid) := by
  unfold State.forgetPasid
  repeat' (first
    | with_reducible assumption
    | with_reducible apply State.modPort_keeps
  )

theorem State.rebind_keeps {s0 : State} {s : State} {l : Nat} {x : Slice} {reg : RebindReg} {v : Nat} (h_s : Keeps s0 s) :
    KeepsO (fun a => a) s0 (State.rebind s l x reg v) := by
  unfold State.rebind
  repeat' (first
    | with_reducible assumption
    | with_reducible apply State.modTdi_keeps
    | with_reducible apply keepsO_none
    | extract_lets
    | with_reducible apply State.forgetPasid_keeps
    | with_reducible apply State.modSlice_keeps
    | with_reducible apply State.moveIface_keeps
    | with_reducible apply State.toError_keeps
    | with_reducible apply keepsO_some
    | split
  )

theorem State.writeRebind_keeps {s0 : State} {s : State} {l : Nat} {reg : RebindReg} {v : Nat} (h_s : Keeps s0 s) :
    Keeps s0 (State.writeRebind s l reg v) := by
  unfold State.writeRebind
  repeat' (first
    | with_reducible assumption
    | extract_lets
    | with_reducible apply State.rebind_keeps
    | with_reducible apply State.onSlices_keeps
    | with_reducible refine keeps_someO (st := fun a => a) (by assumption) ?_
    | split
  )

theorem execSliceRebind_keeps {s0 : State} {p : Path} {slice : Nat} {reg : RebindReg} {val : Word} {s : State} (h_s : Keeps s0 s) :
    KeepsR s0 (execSliceRebind p slice reg val s) := by
  unfold execSliceRebind
  repeat' (first
    | with_reducible assumption
    | extract_lets
    | with_reducible apply State.onReg_keeps
    | with_reducible apply State.writeRebind_keeps
    | intro _
  )

theorem State.writeWin_keeps {s0 : State} {s : State} {port : Nat} {k : Nat} {w : Nat} {v : Word} (h_s : Keeps s0 s) :
    Keeps s0 (State.writeWin s port k w v) := by
  unfold State.writeWin
  repeat' (first
    | with_reducible assumption
    | extract_lets
    | with_reducible apply State.modPort_keeps
    | split
  )

theorem execHubHpwinWrite_keeps {s0 : State} {p : Path} {port : Nat} {k : Nat} {word : Nat} {val : Word} {s : State} (h_s : Keeps s0 s) :
    KeepsR s0 (execHubHpwinWrite p port k word val s) := by
  unfold execHubHpwinWrite
  repeat' (first
    | with_reducible assumption
    | extract_lets
    | with_reducible apply State.onReg_keeps
    | with_reducible apply State.writeWin_keeps
    | intro _
  )

theorem State.memFails_keeps {s0 : State} {s : State} {port : Nat} {hpa : Nat} (h_s : Keeps s0 s) :
    Keeps s0 (State.memFails s port hpa) := by
  unfold State.memFails
  repeat' (first
    | with_reducible assumption
    | with_reducible apply State.modPort_keeps
  )

theorem State.winAccess_keeps {s0 : State} {α : Type} {s : State} {port : Nat} {c : Nat} {cva : Nat} {f : State → State × Except AccErr α} (h_s : Keeps s0 s) (h_f : ∀ y0, Keeps s0 y0 → Keeps s0 (f y0).1) :
    Keeps s0 (State.winAccess s port c cva f).1 := by
  unfold State.winAccess
  repeat' (first
    | with_reducible assumption
    | dsimp only
    | with_reducible apply h_f
    | with_reducible apply State.faultCtx_keeps
    | with_reducible refine keeps_fst (by assumption) ?_
    | split
  )

theorem State.cxlRead_keeps {s0 : State} {s : State} {port : Nat} {hpa : Nat} {len : Nat} (h_s : Keeps s0 s) :
    Keeps s0 (State.cxlRead s port hpa len).1 := by
  unfold State.cxlRead
  repeat' (first
    | with_reducible assumption
    | with_reducible apply State.sampleTable_keeps
    | extract_lets
    | with_reducible apply State.account_keeps
    | with_reducible apply State.readCtx_keeps
    | with_reducible apply State.sampleFrame_keeps
    | with_reducible apply State.winAccess_keeps
    | with_reducible refine keeps_fst (by assumption) ?_
    | dsimp only
    | split
    | intro _
  )

theorem execCxlMemRead_keeps {s0 : State} {port : Nat} {hpa : Nat} {len : Nat} {s : State} (h_s : Keeps s0 s) :
    KeepsR s0 (execCxlMemRead port hpa len s) := by
  unfold execCxlMemRead
  repeat' (first
    | with_reducible assumption
    | with_reducible apply State.unsupported_keeps
    | extract_lets
    | with_reducible apply State.cxlRead_keeps
    | with_reducible apply State.emit_keeps
    | with_reducible apply State.finish_keeps
    | with_reducible apply State.memFails_keeps
    | with_reducible apply keepsR_next
    | with_reducible refine keeps_fst (by assumption) ?_
    | split
  )

theorem State.cxlWrite_keeps {s0 : State} {s : State} {port : Nat} {hpa : Nat} {d : List Byte} (h_s : Keeps s0 s) :
    Keeps s0 (State.cxlWrite s port hpa d).1 := by
  unfold State.cxlWrite
  repeat' (first
    | with_reducible assumption
    | extract_lets
    | with_reducible apply State.account_keeps
    | with_reducible apply State.winAccess_keeps
    | with_reducible apply State.writeCtx_keeps
    | with_reducible apply State.writeTable_keeps
    | with_reducible refine keeps_fst (by assumption) ?_
    | dsimp only
    | split
    | intro _
  )

theorem execCxlMemWrite_keeps {s0 : State} {port : Nat} {hpa : Nat} {data : List Byte} {s : State} (h_s : Keeps s0 s) :
    KeepsR s0 (execCxlMemWrite port hpa data s) := by
  unfold execCxlMemWrite
  repeat' (first
    | with_reducible assumption
    | with_reducible apply State.unsupported_keeps
    | extract_lets
    | with_reducible apply State.cxlWrite_keeps
    | with_reducible apply State.finish_keeps
    | with_reducible apply State.memFails_keeps
    | with_reducible apply keepsR_next
    | with_reducible refine keeps_fst (by assumption) ?_
    | split
  )

theorem State.sendPending_keeps {s0 : State} {s : State} {port : Nat} {vs : List Nat} (h_s : Keeps s0 s) :
    Keeps s0 (State.sendPending s port vs) := by
  unfold State.sendPending
  repeat' (first
    | with_reducible assumption
    | extract_lets
    | with_reducible apply State.modPort_keeps
    | with_reducible apply State.sendVec_keeps
    | with_reducible apply keeps_foldl
    | with_reducible apply keeps_foldl_fst
    | with_reducible refine keeps_fst (by assumption) ?_
    | with_reducible refine keeps_okE (st := fun a => a) (by assumption) ?_
    | with_reducible refine keeps_okP (by assumption) ?_
    | with_reducible refine keeps_someO (st := fun a => a) (by assumption) ?_
    | with_reducible refine keeps_someP (by assumption) ?_
    | with_reducible refine keeps_nextR (by assumption) ?_
    | with_reducible refine keeps_okM (by assumption) ?_ ?_
    | with_reducible refine keeps_errM (by assumption) ?_ ?_
    | dsimp only
    | split
    | intro _
    | assumption
  )

theorem State.unmask_keeps {s0 : State} {s : State} {port : Nat} {v : Nat} (h_s : Keeps s0 s) :
    Keeps s0 (State.unmask s port v) := by
  unfold State.unmask
  repeat' (first
    | with_reducible assumption
    | with_reducible apply State.sendPending_keeps
    | extract_lets
    | with_reducible apply State.emit_keeps
    | with_reducible apply State.modPort_keeps
    | with_reducible apply State.toError_keeps
    | split
    | (with_reducible conv => arg 2; whnf); split
  )

theorem State.setFmask_keeps {s0 : State} {s : State} {port : Nat} {on : Bool} (h_s : Keeps s0 s) :
    Keeps s0 (State.setFmask s port on) := by
  unfold State.setFmask
  repeat' (first
    | with_reducible assumption
    | extract_lets
    | with_reducible apply State.modPort_keeps
    | with_reducible apply State.sendPending_keeps
    | with_reducible apply State.unmask_keeps
    | with_reducible refine keeps_fst (by assumption) ?_
    | with_reducible refine keeps_okE (st := fun a => a) (by assumption) ?_
    | with_reducible refine keeps_okP (by assumption) ?_
    | with_reducible refine keeps_someO (st := fun a => a) (by assumption) ?_
    | with_reducible refine keeps_someP (by assumption) ?_
    | with_reducible refine keeps_nextR (by assumption) ?_
    | with_reducible refine keeps_okM (by assumption) ?_ ?_
    | with_reducible refine keeps_errM (by assumption) ?_ ?_
    | dsimp only
    | split
    | intro _
    | assumption
  )

theorem execMsixVectorUnmask_keeps {s0 : State} {port : Nat} {vec : Nat} {s : State} (h_s : Keeps s0 s) :
    KeepsR s0 (execMsixVectorUnmask port vec s) := by
  unfold execMsixVectorUnmask
  repeat' (first
    | with_reducible assumption
    | with_reducible apply State.unsupported_keeps
    | extract_lets
    | with_reducible apply State.finish_keeps
    | with_reducible apply State.unmask_keeps
    | with_reducible apply keepsR_next
    | split
  )

theorem execAtsInvalidation_keeps {s0 : State} {port : Nat} {pasid : Nat} {base : Nat} {len : Nat} {s : State} (h_s : Keeps s0 s) :
    KeepsR s0 (execAtsInvalidation port pasid base len s) := by
  unfold execAtsInvalidation
  repeat' (first
    | with_reducible assumption
    | extract_lets
    | with_reducible apply State.modPort_keeps
    | with_reducible apply State.raiseEdge_keeps
    | with_reducible apply State.emit_keeps
    | with_reducible apply keepsR_next
    | split
  )

theorem State.priFails_keeps {s0 : State} {s : State} {port : Nat} {r : Pri} (h_s : Keeps s0 s) :
    Keeps s0 (State.priFails s port r) := by
  unfold State.priFails
  repeat' (first
    | with_reducible assumption
    | extract_lets
    | with_reducible apply State.engFault_keeps
    | with_reducible apply State.faultCtx_keeps
    | with_reducible apply State.fetchFails_keeps
    | with_reducible apply State.raiseEdge_keeps
    | with_reducible refine keeps_fst (by assumption) ?_
    | with_reducible refine keeps_okE (st := fun a => a) (by assumption) ?_
    | with_reducible refine keeps_okP (by assumption) ?_
    | with_reducible refine keeps_someO (st := fun a => a) (by assumption) ?_
    | with_reducible refine keeps_someP (by assumption) ?_
    | with_reducible refine keeps_nextR (by assumption) ?_
    | with_reducible refine keeps_okM (by assumption) ?_ ?_
    | with_reducible refine keeps_errM (by assumption) ?_ ?_
    | dsimp only
    | split
    | intro _
    | assumption
    | (with_reducible refine keeps_mk ?_ ?_ ?_ ?_ ?_ <;> [rfl; rfl; rfl; rfl; (first | with_reducible assumption | with_reducible apply State.engFault_keeps | with_reducible apply State.faultCtx_keeps | with_reducible apply State.fetchFails_keeps | with_reducible apply State.raiseEdge_keeps | with_reducible refine keeps_fst (by assumption) ?_ | split)])
  )

theorem State.priDone_keeps {s0 : State} {s : State} {port : Nat} {r : Pri} (h_s : Keeps s0 s) :
    Keeps s0 (State.priDone s port r) := by
  unfold State.priDone
  repeat' (first
    | with_reducible assumption
    | extract_lets
    | with_reducible apply State.drew_keeps
    | with_reducible apply State.hold_keeps
    | with_reducible apply State.hostPut_keeps
    | with_reducible apply State.modPort_keeps
    | with_reducible apply State.postDue_keeps
    | with_reducible refine keeps_fst (by assumption) ?_
    | with_reducible refine keeps_okE (st := fun a => a) (by assumption) ?_
    | with_reducible refine keeps_okP (by assumption) ?_
    | with_reducible refine keeps_someO (st := fun a => a) (by assumption) ?_
    | with_reducible refine keeps_someP (by assumption) ?_
    | with_reducible refine keeps_nextR (by assumption) ?_
    | with_reducible refine keeps_okM (by assumption) ?_ ?_
    | with_reducible refine keeps_errM (by assumption) ?_ ?_
    | dsimp only
    | split
    | intro _
    | assumption
    | (with_reducible refine keeps_mk ?_ ?_ ?_ ?_ ?_ <;> [rfl; rfl; rfl; rfl; (first | with_reducible assumption | with_reducible apply State.drew_keeps | with_reducible apply State.hold_keeps | with_reducible apply State.hostPut_keeps | with_reducible apply State.modPort_keeps | with_reducible apply State.postDue_keeps | with_reducible refine keeps_fst (by assumption) ?_ | split)])
  )

theorem State.endPri_keeps {s0 : State} {s : State} {port : Nat} {id : Nat} {f : State → Pri → State} (h_s : Keeps s0 s) (h_f : ∀ y0 y1, Keeps s0 y0 → Keeps s0 (f y0 y1)) :
    Keeps s0 (State.endPri s port id f) := by
  unfold State.endPri
  repeat' (first
    | with_reducible assumption
    | extract_lets
    | with_reducible apply h_f
    | with_reducible apply State.modPort_keeps
    | split
  )

theorem execPriResponse_keeps {s0 : State} {port : Nat} {id : Nat} {code : PriCode} {s : State} (h_s : Keeps s0 s) :
    KeepsR s0 (execPriResponse port id code s) := by
  unfold execPriResponse
  repeat' (first
    | with_reducible assumption
    | with_reducible apply State.priDone_keeps
    | extract_lets
    | with_reducible apply State.endPri_keeps
    | with_reducible apply State.finish_keeps
    | with_reducible apply State.modPort_keeps
    | with_reducible apply State.priFails_keeps
    | with_reducible apply keepsR_next
    | split
    | intro _
  )

theorem execPriTimeout_keeps {s0 : State} {port : Nat} {id : Nat} {s : State} (h_s : Keeps s0 s) :
    KeepsR s0 (execPriTimeout port id s) := by
  unfold execPriTimeout
  repeat' (first
    | with_reducible assumption
    | extract_lets
    | with_reducible apply State.endPri_keeps
    | with_reducible apply State.finish_keeps
    | with_reducible apply State.priFails_keeps
    | with_reducible apply keepsR_next
    | split
    | intro _
  )

theorem State.losePort_keeps {s0 : State} {s : State} {port : Nat} {l : Nat} (h_s : Keeps s0 s) :
    Keeps s0 (State.losePort s port l) := by
  unfold State.losePort
  repeat' (first
    | with_reducible assumption
    | extract_lets
    | with_reducible apply State.abortQuiesce_keeps
    | with_reducible apply State.faultCtx_keeps
    | with_reducible apply State.modTdi_keeps
    | with_reducible apply State.toError_keeps
    | with_reducible apply keeps_foldl
    | dsimp only
    | split
    | intro _
  )

theorem execHostPortLoss_keeps {s0 : State} {port : Nat} {_why : PortLoss} {s : State} (h_s : Keeps s0 s) :
    KeepsR s0 (execHostPortLoss port _why s) := by
  unfold execHostPortLoss
  repeat' (first
    | with_reducible assumption
    | extract_lets
    | with_reducible apply State.endSessions_keeps
    | with_reducible apply State.finish_keeps
    | with_reducible apply State.losePort_keeps
    | with_reducible apply State.modPort_keeps
    | with_reducible apply State.raiseEdge_keeps
    | with_reducible apply State.resetPd_keeps
    | with_reducible apply State.teardown_keeps
    | with_reducible apply State.onSlices_keeps
    | with_reducible apply keepsR_next
    | with_reducible apply keeps_foldl
    | split
    | intro _
  )

theorem execHostPortLinkUp_keeps {s0 : State} {port : Nat} {rate : Nat} {width : Nat} {cxl : Bool} {s : State} (h_s : Keeps s0 s) :
    KeepsR s0 (execHostPortLinkUp port rate width cxl s) := by
  unfold execHostPortLinkUp
  repeat' (first
    | with_reducible assumption
    | extract_lets
    | with_reducible apply State.drew_keeps
    | with_reducible apply State.modPort_keeps
    | with_reducible apply State.raiseEdge_keeps
    | with_reducible apply keepsR_next
    | split
  )

end Sys2Proof.Machine
end

