-- ==== Sys2Proof/Laws/KeepsPlacement.lean ====
section
/-!
SUPPORT. Every operation of Machine/Placement.lean keeps (`Keeps`).
-/

set_option linter.unreachableTactic false
set_option linter.unusedTactic false

namespace Sys2Proof.Machine

theorem State.fcmdDone_keeps {s0 : State} {s : State} {r : Except Status State} (h_s : Keeps s0 s) (h_r : KeepsE (fun a => a) s0 (r)) :
    Keeps s0 (State.fcmdDone s r) := by
  unfold State.fcmdDone
  repeat' (first
    | with_reducible assumption
    | extract_lets
    | (with_reducible refine State.onPool_keeps ?_ ?_ <;> [rfl; skip])
    | with_reducible refine keeps_okH1 (by assumption)
    | split
  )

theorem State.putFresh_keeps {s0 : State} {s : State} {fs : List Nat} {f : Frame} (h_s : Keeps s0 s) :
    Keeps s0 (State.putFresh s fs f) := by
  unfold State.putFresh
  repeat' (first
    | with_reducible assumption
    | (with_reducible refine State.onPool_keeps ?_ ?_ <;> [rfl; skip])
  )

theorem State.backCmd_keeps {s0 : State} {s : State} (h_s : Keeps s0 s) :
    KeepsE (fun a => a) s0 (State.backCmd s) := by
  unfold State.backCmd
  repeat' (first
    | with_reducible assumption
    | extract_lets
    | with_reducible apply State.putFresh_keeps
    | with_reducible apply keepsE_pure
    | with_reducible apply keepsE_bind
    | (with_reducible refine State.onPool_keeps ?_ ?_ <;> [rfl; skip])
    | dsimp only
    | split
    | intro _
  )

theorem execBack_keeps {s0 : State} {p : Path} {s : State} (h_s : Keeps s0 s) :
    KeepsR s0 (execBack p s) := by
  unfold execBack
  repeat' (first
    | with_reducible assumption
    | extract_lets
    | with_reducible apply State.backCmd_keeps
    | with_reducible apply State.fcmdDone_keeps
    | with_reducible apply State.onBar0_keeps
    | intro _
  )

theorem State.tableCmd_keeps {s0 : State} {s : State} (h_s : Keeps s0 s) :
    KeepsE (fun a => a) s0 (State.tableCmd s) := by
  unfold State.tableCmd
  repeat' (first
    | with_reducible assumption
    | extract_lets
    | with_reducible apply State.putFresh_keeps
    | with_reducible apply keepsE_pure
    | with_reducible apply keepsE_bind
    | intro _
  )

theorem execTable_keeps {s0 : State} {p : Path} {s : State} (h_s : Keeps s0 s) :
    KeepsR s0 (execTable p s) := by
  unfold execTable
  repeat' (first
    | with_reducible assumption
    | extract_lets
    | with_reducible apply State.fcmdDone_keeps
    | with_reducible apply State.onBar0_keeps
    | with_reducible apply State.tableCmd_keeps
    | intro _
  )

theorem State.untableCmd_keeps {s0 : State} {s : State} (h_s : Keeps s0 s) :
    KeepsE (fun a => a) s0 (State.untableCmd s) := by
  unfold State.untableCmd
  repeat' (first
    | with_reducible assumption
    | extract_lets
    | with_reducible apply State.unback_keeps
    | with_reducible apply keepsE_pure
    | with_reducible apply keepsE_bind
    | intro _
  )

theorem execUntable_keeps {s0 : State} {p : Path} {s : State} (h_s : Keeps s0 s) :
    KeepsR s0 (execUntable p s) := by
  unfold execUntable
  repeat' (first
    | with_reducible assumption
    | extract_lets
    | with_reducible apply State.fcmdDone_keeps
    | with_reducible apply State.onBar0_keeps
    | with_reducible apply State.untableCmd_keeps
    | intro _
  )

theorem State.queryCmd_keeps {s0 : State} {s : State} (h_s : Keeps s0 s) :
    KeepsE (fun a => a) s0 (State.queryCmd s) := by
  unfold State.queryCmd
  repeat' (first
    | with_reducible assumption
    | extract_lets
    | with_reducible apply State.drew_keeps
    | with_reducible apply keepsE_pure
    | with_reducible apply keepsE_bind
    | (with_reducible refine State.onPool_keeps ?_ ?_ <;> [rfl; skip])
    | dsimp only
    | split
    | intro _
  )

theorem execQuery_keeps {s0 : State} {p : Path} {s : State} (h_s : Keeps s0 s) :
    KeepsR s0 (execQuery p s) := by
  unfold execQuery
  repeat' (first
    | with_reducible assumption
    | extract_lets
    | with_reducible apply State.fcmdDone_keeps
    | with_reducible apply State.onBar0_keeps
    | with_reducible apply State.queryCmd_keeps
    | intro _
  )

theorem State.invGo_keeps {s0 : State} {s : State} (h_s : Keeps s0 s) :
    Keeps s0 (State.invGo s) := by
  unfold State.invGo
  repeat' (first
    | with_reducible assumption
    | (with_reducible refine State.onPool_keeps ?_ ?_ <;> [rfl; skip])
    | split
  )

theorem execPleInvGo_keeps {s0 : State} {p : Path} {s : State} (h_s : Keeps s0 s) :
    KeepsR s0 (execPleInvGo p s) := by
  unfold execPleInvGo
  repeat' (first
    | with_reducible assumption
    | extract_lets
    | with_reducible apply State.invGo_keeps
    | with_reducible apply State.onBar0_keeps
  )

theorem execInvalidationDone_keeps {s0 : State} {s : State} (h_s : Keeps s0 s) :
    KeepsR s0 (execInvalidationDone s) := by
  unfold execInvalidationDone
  repeat' (first
    | with_reducible assumption
    | extract_lets
    | with_reducible apply keepsR_next
    | (with_reducible refine State.onPool_keeps ?_ ?_ <;> [rfl; skip])
    | split
  )

theorem execPleReqDoneWrite_keeps {s0 : State} {p : Path} {width : Nat} {val : DWord} {s : State} (h_s : Keeps s0 s) :
    KeepsR s0 (execPleReqDoneWrite p width val s) := by
  unfold execPleReqDoneWrite
  repeat' (first
    | with_reducible assumption
    | extract_lets
    | with_reducible apply State.freeReq_keeps
    | with_reducible apply State.onBar0_keeps
    | split
    | intro _
  )

theorem State.retryMoves_keeps {s0 : State} {s : State} (h_s : Keeps s0 s) :
    Keeps s0 (State.retryMoves s) := by
  unfold State.retryMoves
  repeat' (first
    | with_reducible assumption
    | extract_lets
    | with_reducible apply State.queueMove_keeps
    | with_reducible apply keeps_foldl
    | (with_reducible refine State.onPool_keeps ?_ ?_ <;> [rfl; skip])
    | intro _
  )

theorem State.queueStats_keeps {s0 : State} {s : State} (h_s : Keeps s0 s) :
    Keeps s0 (State.queueStats s) := by
  unfold State.queueStats
  repeat' (first
    | with_reducible assumption
    | extract_lets
    | with_reducible apply State.queueMove_keeps
    | with_reducible apply keeps_foldl
    | split
    | intro _
  )

theorem execPleEpoch_keeps {s0 : State} {s : State} (h_s : Keeps s0 s) :
    KeepsR s0 (execPleEpoch s) := by
  unfold execPleEpoch
  repeat' (first
    | with_reducible assumption
    | extract_lets
    | with_reducible apply State.finish_keeps
    | with_reducible apply State.queueStats_keeps
    | with_reducible apply State.raiseEdge_keeps
    | with_reducible apply State.retryMoves_keeps
    | with_reducible apply keepsR_next
    | (with_reducible refine State.onPool_keeps ?_ ?_ <;> [rfl; skip])
  )

theorem execMoveStart_keeps {s0 : State} {stack : Nat} {s : State} (h_s : Keeps s0 s) :
    KeepsR s0 (execMoveStart stack s) := by
  unfold execMoveStart
  repeat' (first
    | with_reducible assumption
    | dsimp only
    | with_reducible apply State.evacRoom_keeps
    | with_reducible apply State.finish_keeps
    | with_reducible apply State.modFrame_keeps
    | with_reducible apply keepsR_next
    | (with_reducible refine State.onPool_keeps ?_ ?_ <;> [rfl; skip])
    | split
  )

theorem State.moved_keeps {s0 : State} {s : State} {m : Move} (h_s : Keeps s0 s) :
    Keeps s0 (State.moved s m) := by
  unfold State.moved
  repeat' (first
    | with_reducible assumption
    | extract_lets
    | with_reducible apply State.modFrame_keeps
    | with_reducible apply State.modStack_keeps
    | with_reducible apply State.remapped_keeps
    | (with_reducible refine State.onPool_keeps ?_ ?_ <;> [rfl; skip])
    | split
  )

theorem execMoveCopyDone_keeps {s0 : State} {lpf : Nat} {s : State} (h_s : Keeps s0 s) :
    KeepsR s0 (execMoveCopyDone lpf s) := by
  unfold execMoveCopyDone
  repeat' (first
    | with_reducible assumption
    | extract_lets
    | with_reducible apply State.abandon_keeps
    | with_reducible apply State.finish_keeps
    | with_reducible apply State.loseFrame_keeps
    | with_reducible apply State.moved_keeps
    | with_reducible apply keepsR_next
    | split
  )

theorem opStackRetire_keeps {s0 : State} {h : Hdr} {k : Nat} {s : State} {c : Nat} {n : Word} (h_s : Keeps s0 s) :
    Keeps s0 (opStackRetire h k s c n).1 := by
  unfold opStackRetire
  repeat' (first
    | with_reducible assumption
    | extract_lets
    | with_reducible apply State.modStack_keeps
    | with_reducible apply State.retire_keeps
    | split
  )

theorem execStackRetire_keeps {s0 : State} {h : Hdr} {stack : Nat} {s : State} (h_s : Keeps s0 s) :
    KeepsR s0 (execStackRetire h stack s) := by
  unfold execStackRetire
  repeat' (first
    | with_reducible assumption
    | extract_lets
    | with_reducible apply State.packet_keeps
    | with_reducible apply opStackRetire_keeps
  )

theorem execStackPhyTrainingLoss_keeps {s0 : State} {stack : Nat} {retrained : Bool} {s : State} (h_s : Keeps s0 s) :
    KeepsR s0 (execStackPhyTrainingLoss stack retrained s) := by
  unfold execStackPhyTrainingLoss
  repeat' (first
    | with_reducible assumption
    | extract_lets
    | with_reducible apply State.finish_keeps
    | with_reducible apply State.modStack_keeps
    | with_reducible apply State.raiseEdge_keeps
    | with_reducible apply State.retire_keeps
    | with_reducible apply keepsR_next
    | dsimp only
    | split
  )

theorem execUncorrectableRead_keeps {s0 : State} {stack : Nat} {lpf : Nat} {sector : Nat} {s : State} (h_s : Keeps s0 s) :
    KeepsR s0 (execUncorrectableRead stack lpf sector s) := by
  unfold execUncorrectableRead
  repeat' (first
    | with_reducible assumption
    | extract_lets
    | with_reducible apply State.abandon_keeps
    | with_reducible apply State.finish_keeps
    | with_reducible apply State.loseFrame_keeps
    | with_reducible apply State.modStack_keeps
    | with_reducible apply State.raiseEdge_keeps
    | with_reducible apply State.retire_keeps
    | with_reducible apply keepsR_next
    | (with_reducible refine State.onPool_keeps ?_ ?_ <;> [rfl; skip])
    | dsimp only
    | split
  )

end Sys2Proof.Machine
end

