-- ==== Sys2Proof/Laws/KeepsPower.lean ====
section
/-!
SUPPORT. Every operation of Machine/Power.lean keeps (`Keeps`).
-/

set_option linter.unreachableTactic false
set_option linter.unusedTactic false

namespace Sys2Proof.Machine

theorem State.vstep_keeps {s0 : State} {s : State} {ok : Bool} (h_s : Keeps s0 s) :
    Keeps s0 (State.vstep s ok) := by
  unfold State.vstep
  repeat' (first
    | with_reducible assumption
    | extract_lets
    | with_reducible apply State.emit_keeps
    | with_reducible apply State.onPwr_keeps
    | split
  )

theorem State.measurePower_keeps {s0 : State} {s : State} {mv : Nat} {uw : Nat} (h_s : Keeps s0 s) :
    Keeps s0 (State.measurePower s mv uw) := by
  unfold State.measurePower
  repeat' (first
    | with_reducible assumption
    | extract_lets
    | with_reducible apply State.account_keeps
    | with_reducible apply State.drew_keeps
    | with_reducible apply State.onPwr_keeps
    | with_reducible apply keeps_foldl
    | intro _
  )

theorem execPowerMeasurement_keeps {s0 : State} {mv : Nat} {ma : Nat} {avsOk : Bool} {s : State} (h_s : Keeps s0 s) :
    KeepsR s0 (execPowerMeasurement mv ma avsOk s) := by
  unfold execPowerMeasurement
  repeat' (first
    | with_reducible assumption
    | with_reducible apply State.onPwr_keeps
    | extract_lets
    | with_reducible apply State.measurePower_keeps
    | with_reducible apply State.vstep_keeps
    | with_reducible apply keepsR_next
  )

theorem State.hotSources_keeps {s0 : State} {s : State} (h_s : Keeps s0 s) :
    Keeps s0 (State.hotSources s) := by
  unfold State.hotSources
  repeat' (first
    | with_reducible assumption
    | extract_lets
    | with_reducible apply State.setCond_keeps
    | with_reducible apply keeps_foldl
    | with_reducible apply keeps_foldl_fst
    | with_reducible refine keeps_fst (by assumption) ?_
    | with_reducible refine keeps_okE (st := fun a => a) (by assumption) ?_
    | with_reducible refine keeps_okP (by assumption) ?_
    | with_reducible refine keeps_someO (st := fun a => a) (by assumption) ?_
    | with_reducible refine keeps_someP (by assumption) ?_
    | with_reducible refine keeps_nextR (by assumption) ?_
    | with_reducible refine keeps_okM (by assumption) ?_ ?_
    | with_reducible refine keeps_errM (by assumption) ?_ ?_
    | dsimp only
    | split
    | intro _
    | assumption
  )

theorem State.thermal_keeps {s0 : State} {s : State} {temps : List Nat} (h_s : Keeps s0 s) :
    Keeps s0 (State.thermal s temps) := by
  unfold State.thermal
  repeat' (first
    | with_reducible assumption
    | extract_lets
    | with_reducible apply State.hotSources_keeps
    | with_reducible apply State.onPwr_keeps
    | with_reducible apply keeps_foldl
    | with_reducible apply keeps_foldl_fst
    | with_reducible refine keeps_fst (by assumption) ?_
    | with_reducible refine keeps_okE (st := fun a => a) (by assumption) ?_
    | with_reducible refine keeps_okP (by assumption) ?_
    | with_reducible refine keeps_someO (st := fun a => a) (by assumption) ?_
    | with_reducible refine keeps_someP (by assumption) ?_
    | with_reducible refine keeps_nextR (by assumption) ?_
    | with_reducible refine keeps_okM (by assumption) ?_ ?_
    | with_reducible refine keeps_errM (by assumption) ?_ ?_
    | dsimp only
    | split
    | intro _
    | assumption
  )

theorem execThermalCeilingStep_keeps {s0 : State} {temps : List Nat} {s : State} (h_s : Keeps s0 s) :
    KeepsR s0 (execThermalCeilingStep temps s) := by
  unfold execThermalCeilingStep
  repeat' (first
    | with_reducible assumption
    | with_reducible apply State.drew_keeps
    | with_reducible apply State.thermal_keeps
    | with_reducible apply State.vstep_keeps
    | extract_lets
    | with_reducible apply State.setCond_keeps
    | with_reducible apply State.onPwr_keeps
    | with_reducible apply keepsR_next
    | with_reducible apply keeps_foldl
    | split
    | intro _
  )

theorem State.dipBegins_keeps {s0 : State} {s : State} (h_s : Keeps s0 s) :
    Keeps s0 (State.dipBegins s) := by
  unfold State.dipBegins
  repeat' (first
    | with_reducible assumption
    | extract_lets
    | with_reducible apply State.onSched_keeps
    | with_reducible apply State.onPwr_keeps
  )

theorem State.warnBegins_keeps {s0 : State} {s : State} (h_s : Keeps s0 s) :
    Keeps s0 (State.warnBegins s) := by
  unfold State.warnBegins
  repeat' (first
    | with_reducible assumption
    | extract_lets
    | with_reducible apply State.raiseEdge_keeps
    | with_reducible apply State.onSched_keeps
    | with_reducible apply State.onPwr_keeps
  )

theorem execSupplyWarn_keeps {s0 : State} {s : State} (h_s : Keeps s0 s) :
    KeepsR s0 (execSupplyWarn s) := by
  unfold execSupplyWarn
  repeat' (first
    | with_reducible assumption
    | extract_lets
    | with_reducible apply State.dipBegins_keeps
    | with_reducible apply State.warnBegins_keeps
    | with_reducible apply keepsR_next
    | split
  )

theorem State.suspendOne_keeps {s0 : State} {s : State} {ticks : Nat} {c : Nat} (h_s : Keeps s0 s) :
    Keeps s0 (State.suspendOne s ticks c) := by
  unfold State.suspendOne
  repeat' (first
    | with_reducible assumption
    | extract_lets
    | with_reducible apply State.account_keeps
    | with_reducible apply State.postEvent_keeps
  )

theorem State.noteDip_keeps {s0 : State} {s : State} {mv : Nat} {ticks : Nat} (h_s : Keeps s0 s) :
    Keeps s0 (State.noteDip s mv ticks) := by
  unfold State.noteDip
  repeat' (first
    | with_reducible assumption
    | with_reducible apply State.onPwr_keeps
  )

theorem execDipEnd_keeps {s0 : State} {minMv : Nat} {ticks : Nat} {s : State} (h_s : Keeps s0 s) :
    KeepsR s0 (execDipEnd minMv ticks s) := by
  unfold execDipEnd
  repeat' (first
    | with_reducible assumption
    | extract_lets
    | with_reducible apply State.finish_keeps
    | with_reducible apply State.noteDip_keeps
    | with_reducible apply State.suspendOne_keeps
    | with_reducible apply State.onSched_keeps
    | with_reducible apply State.onPwr_keeps
    | with_reducible apply keepsR_next
    | with_reducible apply keeps_foldl
    | split
    | intro _
  )

theorem execSupplyClear_keeps {s0 : State} {s : State} (h_s : Keeps s0 s) :
    KeepsR s0 (execSupplyClear s) := by
  unfold execSupplyClear
  repeat' (first
    | with_reducible assumption
    | extract_lets
    | with_reducible apply State.raiseEdge_keeps
    | with_reducible apply State.onSched_keeps
    | with_reducible apply State.onPwr_keeps
    | with_reducible apply keepsR_next
    | split
  )

theorem execRateUpdate_keeps {s0 : State} {mhz : List Nat} {s : State} (h : Keeps s0 s) : KeepsR s0 (execRateUpdate mhz s) := by
  unfold execRateUpdate
  extract_lets on s2
  have h2 : Keeps s0 s2 := by
    refine keeps_foldl h fun a c ha => ?_
    split
    · exact State.raiseEdge_keeps ha
    · exact ha
  have h3 : Keeps s0 (s2.drew 1) := State.drew_keeps h2
  split
  rename_i x s3 r heq
  have h4 : Keeps s0 s3 := by split at heq <;> (cases heq; assumption)
  refine keepsR_next ?_
  repeat' split
  all_goals exact keeps_mkA rfl h4

theorem execClusterNapEntry_keeps {s0 : State} {c : Nat} {s : State} (h_s : Keeps s0 s) :
    KeepsR s0 (execClusterNapEntry c s) := by
  unfold execClusterNapEntry
  repeat' (first
    | with_reducible assumption
    | extract_lets
    | with_reducible apply State.setClu_keeps
    | with_reducible apply State.onPwr_keeps
    | with_reducible apply keepsR_next
    | split
  )

theorem execClusterDeepEntry_keeps {s0 : State} {c : Nat} {s : State} (h_s : Keeps s0 s) :
    KeepsR s0 (execClusterDeepEntry c s) := by
  unfold execClusterDeepEntry
  repeat' (first
    | with_reducible assumption
    | with_reducible apply State.dropUcode_keeps
    | extract_lets
    | with_reducible apply State.setClu_keeps
    | with_reducible apply keepsR_next
    | split
  )

theorem execClusterWake_keeps {s0 : State} {c : Nat} {s : State} (h_s : Keeps s0 s) :
    KeepsR s0 (execClusterWake c s) := by
  unfold execClusterWake
  repeat' (first
    | with_reducible assumption
    | extract_lets
    | with_reducible apply State.wakeCluster_keeps
    | with_reducible apply keepsR_next
    | split
  )

theorem execPwrCcsleepReq_keeps {s0 : State} {p : Path} {s : State} (h_s : Keeps s0 s) :
    KeepsR s0 (execPwrCcsleepReq p s) := by
  unfold execPwrCcsleepReq
  repeat' (first
    | with_reducible assumption
    | extract_lets
    | with_reducible apply State.onBar0_keeps
    | with_reducible apply State.onPwr_keeps
    | intro _
  )

theorem execControlClusterDown_keeps {s0 s : State} (h : Keeps s0 s) : KeepsR s0 (execControlClusterDown s) := by
  unfold execControlClusterDown
  split
  · exact keepsR_next (keeps_mkE id (State.onPwr_keeps h))
  · exact keepsR_next h

theorem State.ccUp_keeps {s0 : State} {s : State} (h_s : Keeps s0 s) :
    Keeps s0 (State.ccUp s) := by
  unfold State.ccUp
  repeat' (first
    | with_reducible assumption
    | extract_lets
    | with_reducible apply State.dashed_keeps
    | (with_reducible refine State.modMbox_keeps ?_ ?_ <;> [(first | exact Or.inl (Nat.le_refl _) | exact Or.inr (Nat.zero_le _)); skip])
    | with_reducible apply State.noteNonempty_keeps
    | with_reducible apply State.onPwr_keeps
    | with_reducible apply State.wake_keeps
    | with_reducible apply keeps_foldl
    | with_reducible apply keeps_foldl_fst
    | with_reducible refine keeps_fst (by assumption) ?_
    | with_reducible refine keeps_okE (st := fun a => a) (by assumption) ?_
    | with_reducible refine keeps_okP (by assumption) ?_
    | with_reducible refine keeps_someO (st := fun a => a) (by assumption) ?_
    | with_reducible refine keeps_someP (by assumption) ?_
    | with_reducible refine keeps_nextR (by assumption) ?_
    | with_reducible refine keeps_okM (by assumption) ?_ ?_
    | with_reducible refine keeps_errM (by assumption) ?_ ?_
    | dsimp only
    | split
    | intro _
    | assumption
  )

end Sys2Proof.Machine
end

