-- ==== Sys2Proof/Laws/KeepsBoot.lean ====
section
/-!
SUPPORT. Every operation of Machine/Boot.lean keeps (`Keeps`).
-/

set_option linter.unreachableTactic false
set_option linter.unusedTactic false

namespace Sys2Proof.Machine

theorem State.readStore_keeps {s0 : State} {s : State} {b : Boot} (h_s : Keeps s0 s) :
    Keeps s0 (State.readStore s b) := by
  unfold State.readStore
  repeat' (first
    | with_reducible assumption
    | extract_lets
    | with_reducible apply State.onBrg_keeps
    | (with_reducible refine State.onSen_keeps ?_ ?_ ?_ ?_ <;> [rfl; rfl; rfl; skip])
    | with_reducible apply State.take_keepsT
    | with_reducible refine keeps_fst (by assumption) ?_
    | with_reducible refine keeps_okE (st := fun a => a) (by assumption) ?_
    | with_reducible refine keeps_okP (by assumption) ?_
    | with_reducible refine keeps_someO (st := fun a => a) (by assumption) ?_
    | with_reducible refine keeps_someP (by assumption) ?_
    | with_reducible refine keeps_nextR (by assumption) ?_
    | with_reducible refine keeps_okM (by assumption) ?_ ?_
    | with_reducible refine keeps_errM (by assumption) ?_ ?_
    | dsimp only
    | split
    | intro _
    | assumption
    | (with_reducible refine keeps_mk ?_ ?_ ?_ ?_ ?_ <;> [rfl; rfl; rfl; rfl; (first | with_reducible assumption | with_reducible apply State.onBrg_keeps | with_reducible apply State.take_keepsT | with_reducible refine keeps_fst (by assumption) ?_ | split)])
  )

theorem State.freshLinks_keeps {s0 : State} {s : State} (h_s : Keeps s0 s) :
    Keeps s0 (State.freshLinks s) := by
  unfold State.freshLinks
  repeat' (first
    | with_reducible assumption
    | with_reducible apply State.onLinks_keeps
  )

theorem State.bootLinks_keeps {s0 : State} {s : State} {b : Boot} (h_s : Keeps s0 s) :
    Keeps s0 (State.bootLinks s b) := by
  unfold State.bootLinks
  repeat' (first
    | with_reducible assumption
    | extract_lets
    | with_reducible apply State.freshLinks_keeps
    | with_reducible apply State.modLink_keeps
    | with_reducible apply State.train_keeps
    | with_reducible apply State.onLinks_keeps
    | with_reducible apply keeps_foldl
    | dsimp only
    | split
    | intro _
  )

theorem State.setReady_keeps {s0 : State} {s : State} {b : Boot} (h_s : Keeps s0 s) :
    Keeps s0 (State.setReady s b) := by
  unfold State.setReady
  repeat' (first
    | extract_lets
    | with_reducible apply State.almanac_keeps
    | with_reducible apply State.freeze_keeps
    | with_reducible apply State.onSched_keeps
    | with_reducible apply State.onSlices_keeps
    | with_reducible apply State.onBrg_keeps
    | assumption
  )

theorem State.bootFails_keeps {s0 : State} {s : State} {stage : Nat} (h_s : Keeps s0 s) :
    Keeps s0 (State.bootFails s stage) := by
  unfold State.bootFails
  repeat' (first
    | with_reducible assumption
    | with_reducible apply State.onBrg_keeps
  )

theorem State.katEnds_keeps {s0 : State} {s : State} {c : Nat} {d : Defect} (h_s : Keeps s0 s) :
    Keeps s0 (State.katEnds s c d) := by
  unfold State.katEnds
  repeat' (first
    | with_reducible assumption
    | extract_lets
    | with_reducible apply State.raiseEdge_keeps
    | split
  )

theorem State.bootRest_keeps {s0 : State} {s : State} {b : Boot} {fw : Image} (h_s : Keeps s0 s) :
    Keeps s0 (State.bootRest s b fw) := by
  unfold State.bootRest
  repeat' (first
    | with_reducible assumption
    | with_reducible apply State.loadUcode_keeps
    | (with_reducible refine State.onPool_keepsW ?_ ?_ <;> [(first | exact fun w => Memory.wf_filter _ w | exact fun w => Memory.wf_memPut _ _ w | exact fun w => Memory.wf_memClear _ _ w); skip])
    | with_reducible apply State.stage_keeps
    | with_reducible apply keeps_foldl_fst
    | extract_lets
    | with_reducible apply State.bootLinks_keeps
    | with_reducible apply State.katEnds_keeps
    | with_reducible apply State.layInternal_keeps
    | with_reducible apply State.setReady_keeps
    | with_reducible apply State.onBrg_keeps
    | with_reducible apply State.onPwr_keeps
    | with_reducible apply keeps_foldl
    | (with_reducible refine State.onPool_keeps ?_ ?_ <;> [rfl; skip])
    | (with_reducible refine State.onSen_keeps ?_ ?_ ?_ ?_ <;> [rfl; rfl; rfl; skip])
    | (with_reducible conv => arg 2; whnf); split
    | intro _
  )

theorem State.bootStages_keeps {s0 : State} {s : State} {b : Boot} (h_s : Keeps s0 s) :
    Keeps s0 (State.bootStages s b) := by
  unfold State.bootStages
  repeat' (first
    | with_reducible assumption
    | extract_lets
    | with_reducible apply State.bootFails_keeps
    | with_reducible apply State.bootRest_keeps
    | with_reducible apply State.onBrg_keeps
    | (with_reducible refine State.onSen_keeps ?_ ?_ ?_ ?_ <;> [rfl; rfl; rfl; skip])
    | dsimp only
    | split
  )

theorem State.draws_keeps {s0 : State} {s : State} {b : Boot} (h_s : Keeps s0 s) :
    Keeps s0 (State.draws s b) := by
  unfold State.draws
  repeat' (first
    | with_reducible assumption
    | extract_lets
    | with_reducible apply State.asked_keeps
    | with_reducible apply State.drew_keeps
    | with_reducible apply State.raiseEdge_keeps
    | (with_reducible refine State.onSen_keeps ?_ ?_ ?_ ?_ <;> [rfl; rfl; rfl; skip])
    | split
  )

theorem State.cold_keeps {s0 s : State} (h : Keeps s0 s) : Keeps s0 s.cold :=
  ⟨fun _ => rfl, fun _ => rfl, fun _ _ he => (by cases he), h.2.2.2.1, h.2.2.2.2.1, h.2.2.2.2.2.1, h.2.2.2.2.2.2.1,
    fun _ => ⟨fun _ he => (by cases he), fun _ he => (by cases he)⟩⟩

theorem State.sense_keeps {s0 s : State} {b : Boot} (h : Keeps s0 s) : Keeps s0 (s.sense b) := by
  refine State.onBrg_keeps ⟨h.1, h.2.1, h.2.2.1, h.2.2.2.1, h.2.2.2.2.1.trans (Nat.le_max_left _ _), fun i x => ?_, fun i x => ?_, h.2.2.2.2.2.2.2⟩
  · have := h.2.2.2.2.2.1 i x
    show (s.sen.burnt ||| b.burnt).getLsbD i = true
    rw [BitVec.getLsbD_or, this]; rfl
  · have := h.2.2.2.2.2.2.1 i x
    show (s.sen.revoked ||| b.revoked).getLsbD i = true
    rw [BitVec.getLsbD_or, this]; rfl

theorem State.coldBoot_keeps {s0 : State} {s : State} {b : Boot} (h_s : Keeps s0 s) :
    Keeps s0 (State.coldBoot s b) := by
  unfold State.coldBoot
  repeat' (first
    | with_reducible assumption
    | with_reducible apply State.cold_keeps
    | with_reducible apply State.readStore_keeps
    | extract_lets
    | with_reducible apply State.bootFails_keeps
    | with_reducible apply State.bootStages_keeps
    | with_reducible apply State.draws_keeps
    | with_reducible apply State.sense_keeps
    | split
    | (with_reducible refine keeps_mk ?_ ?_ ?_ ?_ ?_ <;> [rfl; rfl; rfl; rfl; (first | with_reducible assumption | with_reducible apply State.bootFails_keeps | with_reducible apply State.bootStages_keeps | with_reducible apply State.cold_keeps | with_reducible apply State.draws_keeps | with_reducible apply State.sense_keeps | with_reducible apply State.onObjs_keeps | with_reducible apply State.onSched_keeps | with_reducible apply State.onSlices_keeps | with_reducible apply State.onLinks_keeps | with_reducible apply State.onBrg_keeps | with_reducible apply State.onPwr_keeps | with_reducible refine keeps_fst (by assumption) ?_ | with_reducible refine keeps_okP (by assumption) ?_ | with_reducible refine keeps_someP (by assumption) ?_ | with_reducible refine keeps_okE (st := fun a => a) (by assumption) ?_ | with_reducible refine keeps_someO (st := fun a => a) (by assumption) ?_)])
  )

theorem State.lostReplies_keeps {s0 : State} {s : State} (h_s : Keeps s0 s) :
    Keeps s0 (State.lostReplies s) := by
  unfold State.lostReplies
  repeat' (first
    | with_reducible assumption
    | extract_lets
    | with_reducible apply State.reply_keeps
    | with_reducible apply keeps_foldl
    | dsimp only
    | split
    | intro _
  )

theorem State.unquiet_keeps {s0 : State} {s : State} (h_s : Keeps s0 s) :
    Keeps s0 (State.unquiet s) := by
  unfold State.unquiet
  repeat' (first
    | with_reducible assumption
    | extract_lets
    | with_reducible apply State.postDue_keeps
    | with_reducible apply State.onSlices_keeps
    | with_reducible apply keeps_foldl
  )

theorem State.deviceLost_keeps {s0 : State} {s : State} (h_s : Keeps s0 s) :
    Keeps s0 (State.deviceLost s) := by
  unfold State.deviceLost
  repeat' (first
    | with_reducible assumption
    | extract_lets
    | with_reducible apply State.lostReplies_keeps
    | with_reducible apply State.postEvent_keeps
    | with_reducible apply State.unquiet_keeps
    | with_reducible apply keeps_foldl
    | dsimp only
    | split
    | intro _
  )

theorem State.afterBlock_keeps {s0 s : State} {cause : Nat} {trip : Bool} (h : Keeps s0 s) : Keeps s0 (s.afterBlock cause trip) := by
  unfold State.afterBlock
  extract_lets n r b s1 s2
  have h1 : Keeps s0 s1 :=
    ⟨fun _ => rfl, fun _ => rfl, fun _ _ he => (by cases he), h.2.2.2.1, h.2.2.2.2.1, h.2.2.2.2.2.1, h.2.2.2.2.2.2.1,
      fun _ => ⟨fun _ he => (by cases he), fun _ he => (by cases he)⟩⟩
  have h2 : Keeps s0 s2 := by
    unfold s2
    split
    · exact h1
    · exact State.emit_keeps h1
  refine keeps_foldl h2 fun a i ha => ?_
  split
  · exact State.setCond_keeps ha
  · exact ha

theorem State.blockBoot_keeps {s0 s : State} {cause : Nat} {trip : Bool} {b : Boot} (h : Keeps s0 s) : Keeps s0 (s.blockBoot cause trip b) := by
  unfold State.blockBoot
  split
  · exact h
  · extract_lets s1 c
    have h1 : Keeps s0 s1 := State.afterBlock_keeps h
    exact State.bootStages_keeps (State.readStore_keeps (State.draws_keeps (keeps_mk (X := s1) rfl rfl rfl rfl h1)))

theorem execColdReset_keeps {s0 : State} {s : State} (h_s : Keeps s0 s) :
    KeepsR s0 (execColdReset s) := by
  unfold execColdReset
  repeat' (first
    | with_reducible assumption
    | extract_lets
    | with_reducible apply State.cold_keeps
    | with_reducible apply State.deviceLost_keeps
    | with_reducible apply keepsR_next
  )

theorem execColdResetRelease_keeps {s0 : State} {b : Boot} {s : State} (h_s : Keeps s0 s) :
    KeepsR s0 (execColdResetRelease b s) := by
  unfold execColdResetRelease
  repeat' (first
    | with_reducible assumption
    | with_reducible apply State.stage_keeps
    | extract_lets
    | with_reducible apply State.coldBoot_keeps
    | with_reducible apply keepsR_next
    | split
  )

theorem execBlockReset_keeps {s0 : State} {cause : Nat} {b : Boot} {s : State} (h_s : Keeps s0 s) :
    KeepsR s0 (execBlockReset cause b s) := by
  unfold execBlockReset
  repeat' (first
    | with_reducible assumption
    | extract_lets
    | with_reducible apply State.blockBoot_keeps
    | with_reducible apply State.deviceLost_keeps
    | with_reducible apply keepsR_next
    | split
  )

theorem execFatalInternalError_keeps {s0 : State} {b : Boot} {s : State} (h_s : Keeps s0 s) :
    KeepsR s0 (execFatalInternalError b s) := by
  unfold execFatalInternalError
  repeat' (first
    | with_reducible assumption
    | extract_lets
    | with_reducible apply State.blockBoot_keeps
    | with_reducible apply State.deviceLost_keeps
    | with_reducible apply keepsR_next
  )

theorem execSupplyReset_keeps {s0 : State} {minMv : Nat} {ticks : Nat} {b : Boot} {s : State} (h_s : Keeps s0 s) :
    KeepsR s0 (execSupplyReset minMv ticks b s) := by
  unfold execSupplyReset
  repeat' (first
    | with_reducible assumption
    | extract_lets
    | with_reducible apply State.blockBoot_keeps
    | with_reducible apply State.noteDip_keeps
    | with_reducible apply keepsR_next
    | split
  )

theorem execThermalTrip_keeps {s0 : State} {die : Nat} {b : Boot} {s : State} (h_s : Keeps s0 s) :
    KeepsR s0 (execThermalTrip die b s) := by
  unfold execThermalTrip
  repeat' (first
    | with_reducible assumption
    | extract_lets
    | with_reducible apply State.blockBoot_keeps
    | with_reducible apply State.deviceLost_keeps
    | with_reducible apply keepsR_next
    | split
  )

theorem State.abortPackets_keeps {s0 : State} {s : State} {d : Nat} (h_s : Keeps s0 s) :
    Keeps s0 (State.abortPackets s d) := by
  unfold State.abortPackets
  repeat' (first
    | with_reducible assumption
    | extract_lets
    | with_reducible apply State.abortQuiesce_keeps
    | with_reducible apply State.failBack_keeps
    | with_reducible apply State.late_keeps
    | with_reducible apply State.modStack_keeps
    | with_reducible apply State.onSched_keeps
    | with_reducible apply keeps_foldl
    | split
    | intro _
  )

theorem execWatchdogExpiry_keeps {s0 : State} {core : Nat} {b : Boot} {s : State} (h_s : Keeps s0 s) :
    KeepsR s0 (execWatchdogExpiry core b s) := by
  unfold execWatchdogExpiry
  repeat' (first
    | with_reducible assumption
    | extract_lets
    | with_reducible apply State.abortPackets_keeps
    | with_reducible apply State.blockBoot_keeps
    | with_reducible apply State.deviceLost_keeps
    | with_reducible apply State.drew_keeps
    | with_reducible apply State.finish_keeps
    | with_reducible apply State.resetCore_keeps
    | with_reducible apply State.onBrg_keeps
    | with_reducible apply keepsR_next
    | split
  )

end Sys2Proof.Machine
end

