-- ==== Sys2Proof/Laws/KeepsMgmt.lean ====
section
/-!
SUPPORT. Every operation of Machine/Mgmt.lean keeps (`Keeps`).
-/

set_option linter.unreachableTactic false
set_option linter.unusedTactic false

namespace Sys2Proof.Machine

theorem State.mctp_keeps {s0 : State} {s : State} {body : List Nat} (h_s : Keeps s0 s) :
    Keeps s0 (State.mctp s body) := by
  unfold State.mctp
  repeat' (first
    | with_reducible assumption
    | extract_lets
    | with_reducible apply State.emit_keeps
    | with_reducible apply State.take_keepsT
    | with_reducible apply keeps_foldl
    | with_reducible apply keeps_foldl_fst
    | with_reducible refine keeps_fst (by assumption) ?_
    | with_reducible refine keeps_okE (st := fun a => a) (by assumption) ?_
    | with_reducible refine keeps_okP (by assumption) ?_
    | with_reducible refine keeps_someO (st := fun a => a) (by assumption) ?_
    | with_reducible refine keeps_someP (by assumption) ?_
    | with_reducible refine keeps_nextR (by assumption) ?_
    | with_reducible refine keeps_okM (by assumption) ?_ ?_
    | with_reducible refine keeps_errM (by assumption) ?_ ?_
    | dsimp only
    | split
    | intro _
    | assumption
  )

theorem State.i3cAddr_keeps {s0 : State} {s : State} {a : Nat} (h_s : Keeps s0 s) :
    Keeps s0 (State.i3cAddr s a) := by
  unfold State.i3cAddr
  repeat' (first
    | with_reducible assumption
    | extract_lets
    | with_reducible refine keeps_fst (by assumption) ?_
    | with_reducible refine keeps_okE (st := fun a => a) (by assumption) ?_
    | with_reducible refine keeps_okP (by assumption) ?_
    | with_reducible refine keeps_someO (st := fun a => a) (by assumption) ?_
    | with_reducible refine keeps_someP (by assumption) ?_
    | with_reducible refine keeps_nextR (by assumption) ?_
    | with_reducible refine keeps_okM (by assumption) ?_ ?_
    | with_reducible refine keeps_errM (by assumption) ?_ ?_
    | dsimp only
    | split
    | intro _
    | assumption
  )

theorem execMctpControl_keeps {s0 : State} {unit : Nat} {r : MctpReq} {s : State} (h : Keeps s0 s) :
    KeepsR s0 (execMctpControl unit r s) := by
  unfold execMctpControl
  refine keepsR_next ?_
  repeat' split
  all_goals first
    | exact h
    | exact State.i3cAddr_keeps h
    | exact State.mctp_keeps h
    | exact State.mctp_keeps (State.drew_keeps h)
    | exact keeps_mk rfl rfl rfl rfl (State.mctp_keeps h)

theorem State.answerMgmt_keeps {s0 : State} {s : State} {k : Nat} {ok : Bool} (h_s : Keeps s0 s) :
    Keeps s0 (State.answerMgmt s k ok) := by
  unfold State.answerMgmt
  repeat' (first
    | with_reducible assumption
    | with_reducible apply State.emit_keeps
  )

theorem State.onMgmt_keeps {s0 : State} {s : State} {k : Nat} {claim : Bool} {ok : Bool} {f : State → State} (h_s : Keeps s0 s) (h_f : ∀ y0, Keeps s0 y0 → Keeps s0 (f y0)) :
    KeepsR s0 (State.onMgmt s k claim ok f) := by
  unfold State.onMgmt
  repeat' (first
    | with_reducible assumption
    | extract_lets
    | with_reducible apply h_f
    | with_reducible apply State.answerMgmt_keeps
    | with_reducible apply keepsR_next
    | split
  )

theorem State.stageComponent_keeps {s0 : State} {s : State} {c : Component} (h_s : Keeps s0 s) :
    Keeps s0 (State.stageComponent s c) := by
  unfold State.stageComponent
  repeat' (first
    | with_reducible assumption
    | extract_lets
    | with_reducible refine keeps_fst (by assumption) ?_
    | with_reducible refine keeps_okE (st := fun a => a) (by assumption) ?_
    | with_reducible refine keeps_okP (by assumption) ?_
    | with_reducible refine keeps_someO (st := fun a => a) (by assumption) ?_
    | with_reducible refine keeps_someP (by assumption) ?_
    | with_reducible refine keeps_nextR (by assumption) ?_
    | with_reducible refine keeps_okM (by assumption) ?_ ?_
    | with_reducible refine keeps_errM (by assumption) ?_ ?_
    | dsimp only
    | split
    | intro _
    | assumption
  )

theorem execPldmFirmwareUpdate_keeps {s0 : State} {sess : Nat} {r : PldmReq} {s : State} (h_s : Keeps s0 s) :
    KeepsR s0 (execPldmFirmwareUpdate sess r s) := by
  unfold execPldmFirmwareUpdate
  repeat' (first
    | with_reducible assumption
    | with_reducible apply State.spdm_keeps
    | extract_lets
    | with_reducible apply State.onMgmt_keeps
    | with_reducible apply State.stageComponent_keeps
    | with_reducible apply keepsR_next
    | split
    | intro _
  )

theorem execClaimSlot_keeps {s0 : State} {sess digest : Nat} {s : State} (h : Keeps s0 s) : KeepsR s0 (execClaimSlot sess digest s) := by
  refine State.onMgmt_keeps h fun a ha => ?_
  refine ⟨ha.1, ha.2.1, ha.2.2.1, ha.2.2.2.1, ha.2.2.2.2.1, fun i x => ?_, ha.2.2.2.2.2.2⟩
  show (a.sen.burnt ||| 1).getLsbD i = true
  rw [BitVec.getLsbD_or, ha.2.2.2.2.2.1 i x]; rfl

theorem execBurnSlot_keeps {s0 : State} {sess slot digest signer : Nat} {sigOk : Bool} {s : State} (h : Keeps s0 s) :
    KeepsR s0 (execBurnSlot sess slot digest signer sigOk s) := by
  refine State.onMgmt_keeps h fun a ha => ?_
  refine ⟨ha.1, ha.2.1, ha.2.2.1, ha.2.2.2.1, ha.2.2.2.2.1, fun i x => ?_, ha.2.2.2.2.2.2⟩
  show (a.sen.burnt ||| (1#4 <<< slot)).getLsbD i = true
  rw [BitVec.getLsbD_or, ha.2.2.2.2.2.1 i x]; rfl

theorem execRevokeSlot_keeps {s0 : State} {sess slot signer : Nat} {sigOk : Bool} {s : State} (h : Keeps s0 s) :
    KeepsR s0 (execRevokeSlot sess slot signer sigOk s) := by
  refine State.onMgmt_keeps h fun a ha => ?_
  refine ⟨ha.1, ha.2.1, ha.2.2.1, ha.2.2.2.1, ha.2.2.2.2.1, ha.2.2.2.2.2.1, fun i x => ?_, ha.2.2.2.2.2.2.2⟩
  show (a.sen.revoked ||| (1#4 <<< slot)).getLsbD i = true
  rw [BitVec.getLsbD_or, ha.2.2.2.2.2.2.1 i x]; rfl

theorem execBurnSvn_keeps {s0 : State} {sess svn signer : Nat} {sigOk : Bool} {s : State} (h : Keeps s0 s) :
    KeepsR s0 (execBurnSvn sess svn signer sigOk s) := by
  refine State.onMgmt_keeps h fun a ha => ?_
  exact ⟨ha.1, ha.2.1, ha.2.2.1, ha.2.2.2.1, ha.2.2.2.2.1.trans (Nat.le_max_left _ _), ha.2.2.2.2.2⟩

theorem execResetBlock_keeps {s0 : State} {sess : Nat} {b : Boot} {s : State} (h_s : Keeps s0 s) :
    KeepsR s0 (execResetBlock sess b s) := by
  unfold execResetBlock
  repeat' (first
    | with_reducible assumption
    | extract_lets
    | with_reducible apply State.blockBoot_keeps
    | with_reducible apply State.deviceLost_keeps
    | with_reducible apply keepsR_next
    | split
  )

theorem execResetCold_keeps {s0 : State} {sess : Nat} {b : Boot} {s : State} (h_s : Keeps s0 s) :
    KeepsR s0 (execResetCold sess b s) := by
  unfold execResetCold
  repeat' (first
    | with_reducible assumption
    | extract_lets
    | with_reducible apply State.coldBoot_keeps
    | with_reducible apply State.deviceLost_keeps
    | with_reducible apply keepsR_next
    | split
  )

end Sys2Proof.Machine
end

