-- ==== Sys2Proof/Laws/KeepsResets.lean ====
section
/-!
SUPPORT. Every operation of Machine/Resets.lean keeps (`Keeps`).
-/

set_option linter.unreachableTactic false
set_option linter.unusedTactic false

namespace Sys2Proof.Machine

theorem State.resetEngine_keeps {s0 : State} {s : State} {n : Nat} (h_s : Keeps s0 s) :
    Keeps s0 (State.resetEngine s n) := by
  unfold State.resetEngine
  repeat' (first
    | with_reducible assumption
    | with_reducible apply State.zeroed_keeps
    | extract_lets
    | with_reducible apply State.abortWhere_keeps
    | with_reducible apply State.dashed_keeps
  )

theorem State.resetCluster_keeps {s0 : State} {s : State} {c : Nat} (h_s : Keeps s0 s) :
    Keeps s0 (State.resetCluster s c) := by
  unfold State.resetCluster
  repeat' (first
    | with_reducible assumption
    | with_reducible apply State.zeroed_keeps
    | extract_lets
    | with_reducible apply State.abortWhere_keeps
    | with_reducible apply State.dashed_keeps
    | with_reducible apply State.kvResume_keeps
    | with_reducible apply State.mbxClear_keeps
    | with_reducible apply State.wakeCluster_keeps
  )

theorem State.dropCluster_keeps {s0 : State} {s : State} {c : Nat} (h_s : Keeps s0 s) :
    Keeps s0 (State.dropCluster s c) := by
  unfold State.dropCluster
  repeat' (first
    | with_reducible assumption
    | with_reducible apply State.dropUcode_keeps
    | with_reducible apply keeps_foldl_fst
    | extract_lets
    | with_reducible apply State.reshape_keeps
    | with_reducible apply State.restarts_keeps
    | with_reducible apply State.setClu_keeps
    | with_reducible apply State.withdraw_keeps
    | with_reducible apply keeps_foldl
    | intro _
  )

theorem State.applyKat_keeps {s0 : State} {s : State} {c : Nat} {r : KatResult} (h_s : Keeps s0 s) :
    Keeps s0 (State.applyKat s c r) := by
  unfold State.applyKat
  repeat' (first
    | with_reducible assumption
    | with_reducible apply State.zeroed_keeps
    | extract_lets
    | with_reducible apply State.almanac_keeps
    | with_reducible apply State.dropCluster_keeps
    | with_reducible apply State.raiseEdge_keeps
    | with_reducible apply State.retire_keeps
    | with_reducible apply State.onBrg_keeps
    | split
    | (with_reducible conv => arg 2; whnf); split
  )

theorem opKatRun_keeps {s0 : State} {c : Nat} {r : KatResult} {s : State} {x1 : Nat} (h_s : Keeps s0 s) :
    KeepsE Prod.fst s0 (opKatRun c r s x1) := by
  unfold opKatRun
  repeat' (first
    | with_reducible assumption
    | extract_lets
    | with_reducible apply State.applyKat_keeps
    | with_reducible apply State.setClu_keeps
    | with_reducible apply State.wakeCluster_keeps
    | with_reducible apply keepsE_pure
    | with_reducible apply keepsE_bind
    | intro _
  )

theorem execKatRun_keeps {s0 : State} {h : Hdr} {cluster : Nat} {r : KatResult} {s : State} (h_s : Keeps s0 s) :
    KeepsR s0 (execKatRun h cluster r s) := by
  unfold execKatRun
  repeat' (first
    | with_reducible assumption
    | extract_lets
    | with_reducible apply State.packet_keeps
    | with_reducible apply answerOf_keeps
    | with_reducible apply opKatRun_keeps
    | intro _
  )

theorem execResetRequestEngine_keeps {s0 : State} {h : Hdr} {n : Nat} {s : State} (h_s : Keeps s0 s) :
    KeepsR s0 (execResetRequestEngine h n s) := by
  unfold execResetRequestEngine
  repeat' (first
    | with_reducible assumption
    | extract_lets
    | with_reducible apply State.packet_keeps
    | with_reducible apply State.resetEngine_keeps
    | with_reducible apply answerOf_keeps
    | with_reducible apply keepsE_pure
    | with_reducible apply keepsE_bind
    | intro _
  )

theorem execResetRequestCluster_keeps {s0 : State} {h : Hdr} {n : Nat} {s : State} (h_s : Keeps s0 s) :
    KeepsR s0 (execResetRequestCluster h n s) := by
  unfold execResetRequestCluster
  repeat' (first
    | with_reducible assumption
    | extract_lets
    | with_reducible apply State.packet_keeps
    | with_reducible apply State.resetCluster_keeps
    | with_reducible apply answerOf_keeps
    | with_reducible apply keepsE_pure
    | with_reducible apply keepsE_bind
    | intro _
  )

theorem opResetPolder_keeps {s0 : State} {h : Hdr} {k : Nat} {s : State} {c : Nat} {n : Word} (h_s : Keeps s0 s) :
    Keeps s0 (opResetPolder h k s c n).1 := by
  unfold opResetPolder
  repeat' (first
    | with_reducible assumption
    | extract_lets
    | with_reducible apply State.onSched_keeps
    | split
  )

theorem execResetRequestPolder_keeps {s0 : State} {h : Hdr} {n : Nat} {s : State} (h_s : Keeps s0 s) :
    KeepsR s0 (execResetRequestPolder h n s) := by
  unfold execResetRequestPolder
  repeat' (first
    | with_reducible assumption
    | extract_lets
    | with_reducible apply State.packet_keeps
    | with_reducible apply opResetPolder_keeps
  )

theorem State.inner_keeps {s0 : State} {s : State} {kat : List KatResult} (h_s : Keeps s0 s) :
    Keeps s0 (State.inner s kat) := by
  unfold State.inner
  repeat' (first
    | with_reducible assumption
    | with_reducible apply State.loadUcode_keeps
    | with_reducible apply State.moved_keeps
    | (with_reducible refine State.onPool_keepsW ?_ ?_ <;> [(first | exact fun w => Memory.wf_filter _ w | exact fun w => Memory.wf_memPut _ _ w | exact fun w => Memory.wf_memClear _ _ w); skip])
    | with_reducible apply keeps_foldl_fst
    | extract_lets
    | with_reducible apply State.abandon_keeps
    | with_reducible apply State.abortWhere_keeps
    | with_reducible apply State.almanac_keeps
    | with_reducible apply State.applyKat_keeps
    | with_reducible apply State.dashed_keeps
    | with_reducible apply State.kvResume_keeps
    | with_reducible apply State.mbxClear_keeps
    | with_reducible apply State.setClu_keeps
    | with_reducible apply State.wakeCluster_keeps
    | with_reducible apply State.onSched_keeps
    | with_reducible apply keeps_foldl
    | (with_reducible refine State.onPool_keeps ?_ ?_ <;> [rfl; skip])
    | split
    | intro _
  )

theorem execInnerReset_keeps {s0 : State} {h : Hdr} {n : Nat} {kat : List KatResult} {s : State} (h_s : Keeps s0 s) :
    KeepsR s0 (execInnerReset h n kat s) := by
  unfold execInnerReset
  repeat' (first
    | with_reducible assumption
    | extract_lets
    | with_reducible apply State.inner_keeps
    | with_reducible apply State.packet_keeps
    | with_reducible apply answerOf_keeps
    | with_reducible apply keepsE_pure
    | with_reducible apply keepsE_bind
    | intro _
  )

theorem State.noteEcc_keeps {s0 : State} {s : State} {c : Nat} {engine : Nat} {store : Nat} {addr : Nat} (h_s : Keeps s0 s) :
    Keeps s0 (State.noteEcc s c engine store addr) := by
  unfold State.noteEcc
  repeat' (first
    | extract_lets
    | with_reducible apply State.raiseEdge_keeps
    | assumption
  )

theorem execSramUncorrectableError_keeps {s0 : State} {w : EccWhere} {addr : Nat} {b : Boot} {s : State} (h_s : Keeps s0 s) :
    KeepsR s0 (execSramUncorrectableError w addr b s) := by
  unfold execSramUncorrectableError
  repeat' (first
    | with_reducible assumption
    | extract_lets
    | with_reducible apply State.abortWhere_keeps
    | with_reducible apply State.blockBoot_keeps
    | with_reducible apply State.deviceLost_keeps
    | with_reducible apply State.finish_keeps
    | with_reducible apply State.noteEcc_keeps
    | with_reducible apply State.resetCluster_keeps
    | with_reducible apply State.resetEngine_keeps
    | with_reducible apply State.onSched_keeps
    | with_reducible apply keepsR_next
    | split
  )

end Sys2Proof.Machine
end

