-- ==== Sys2Proof/Laws/KeepsLine.lean ====
section
/-!
SUPPORT. Every operation of Machine/Line.lean keeps (`Keeps`).
-/

set_option linter.unreachableTactic false
set_option linter.unusedTactic false

namespace Sys2Proof.Machine

theorem firmware_keeps {s0 : State} {i : Instr} {s : State} (h_s : Keeps s0 s) :
    KeepsR s0 (firmware i s) := by
  unfold firmware
  repeat' (first
    | with_reducible assumption
    | extract_lets
    | with_reducible apply State.resumePacket_keeps
    | with_reducible apply execAttestReport_keeps
    | with_reducible apply execCtxCreate_keeps
    | with_reducible apply execCtxDestroy_keeps
    | with_reducible apply execCtxSetRing_keeps
    | with_reducible apply execCtxSetSlowdown_keeps
    | with_reducible apply execEmbankmentSet_keeps
    | with_reducible apply execFenceCreate_keeps
    | with_reducible apply execFenceFree_keeps
    | with_reducible apply execInnerReset_keeps
    | with_reducible apply execKatRun_keeps
    | with_reducible apply execKeyPolicy_keeps
    | with_reducible apply execKeyRotate_keeps
    | with_reducible apply execLinkShape_keeps
    | with_reducible apply execMoCopy_keeps
    | with_reducible apply execMoCreate_keeps
    | with_reducible apply execMoFill_keeps
    | with_reducible apply execMoFree_keeps
    | with_reducible apply execMoPlaceHint_keeps
    | with_reducible apply execMoSeal_keeps
    | with_reducible apply execPdFramesBacked_keeps
    | with_reducible apply execPlacementMode_keeps
    | with_reducible apply execPolderAdmit_keeps
    | with_reducible apply execPolderCalendar_keeps
    | with_reducible apply execPolderShape_keeps
    | with_reducible apply execProgramFree_keeps
    | with_reducible apply execProgramLoad_keeps
    | with_reducible apply execQueryAlmanac_keeps
    | with_reducible apply execQueryContext_keeps
    | with_reducible apply execQueryDigest_keeps
    | with_reducible apply execQueryFence_keeps
    | with_reducible apply execQueryMo_keeps
    | with_reducible apply execQueryQueue_keeps
    | with_reducible apply execQueueCreate_keeps
    | with_reducible apply execQueueDestroy_keeps
    | with_reducible apply execQueueSetWeight_keeps
    | with_reducible apply execQueueStart_keeps
    | with_reducible apply execQueueStop_keeps
    | with_reducible apply execResetRequestCluster_keeps
    | with_reducible apply execResetRequestEngine_keeps
    | with_reducible apply execResetRequestPolder_keeps
    | with_reducible apply execSliceCreate_keeps
    | with_reducible apply execSliceDestroy_keeps
    | with_reducible apply execSliceDirtyLog_keeps
    | with_reducible apply execSliceQuiesce_keeps
    | with_reducible apply execSliceSetQuota_keeps
    | with_reducible apply execSliceSetShare_keeps
    | with_reducible apply execSluiceSet_keeps
    | with_reducible apply execStackRetire_keeps
    | with_reducible apply execTxnAbort_keeps
    | with_reducible apply execTxnBegin_keeps
    | with_reducible apply execTxnCommit_keeps
    | with_reducible apply execUnassignedOpcode_keeps
    | with_reducible apply keepsR_next
    | with_reducible apply keepsR_fault
    | with_reducible apply keepsR_refused
    | with_reducible refine keeps_fst (by assumption) ?_
    | with_reducible refine keeps_okE (st := fun a => a) (by assumption) ?_
    | with_reducible refine keeps_okP (by assumption) ?_
    | with_reducible refine keeps_someO (st := fun a => a) (by assumption) ?_
    | with_reducible refine keeps_someP (by assumption) ?_
    | with_reducible refine keeps_nextR (by assumption) ?_
    | with_reducible refine keeps_okM (by assumption) ?_ ?_
    | with_reducible refine keeps_errM (by assumption) ?_ ?_
    | dsimp only
    | split
    | intro _
    | assumption
  )

theorem State.lineGo_keeps {s0 : State} {n : Nat} {s : State} (h : Keeps s0 s) : Keeps s0 (State.lineGo n s) := by
  induction n generalizing s with
  | zero => exact h
  | succ n ih =>
    unfold State.lineGo
    split
    · exact h
    · split
      · rename_i heq
        exact ih ((firmware_keeps h).out _ heq)
      · exact h

theorem State.lineServe_keeps {s0 : State} {s : State} (h : Keeps s0 s) : Keeps s0 s.lineServe := by
  unfold State.lineServe
  split
  · exact State.lineGo_keeps h
  · exact h

theorem thenLine_keeps {s0 : State} {r : Result} (h : KeepsR s0 r) : KeepsR s0 (thenLine r) := by
  cases r with
  | next t => exact keepsR_next (State.lineServe_keeps (h.out t rfl))
  | fault _ => exact keepsR_fault
  | refused _ => exact keepsR_refused

theorem execSliceResume_keeps {s0 : State} {h : Hdr} {slice : Handle} {s : State} (h_s : Keeps s0 s) :
    KeepsR s0 (execSliceResume h slice s) := by
  unfold execSliceResume
  repeat' (first
    | with_reducible assumption
    | extract_lets
    | with_reducible apply State.resumePacket_keeps
    | with_reducible apply thenLine_keeps
    | with_reducible apply keepsR_next
    | with_reducible apply keepsR_fault
    | with_reducible apply keepsR_refused
    | with_reducible refine keeps_fst (by assumption) ?_
    | with_reducible refine keeps_okE (st := fun a => a) (by assumption) ?_
    | with_reducible refine keeps_okP (by assumption) ?_
    | with_reducible refine keeps_someO (st := fun a => a) (by assumption) ?_
    | with_reducible refine keeps_someP (by assumption) ?_
    | with_reducible refine keeps_nextR (by assumption) ?_
    | with_reducible refine keeps_okM (by assumption) ?_ ?_
    | with_reducible refine keeps_errM (by assumption) ?_ ?_
    | dsimp only
    | split
    | intro _
    | assumption
  )

theorem execControlClusterWake_keeps {s0 : State} {s : State} (h_s : Keeps s0 s) :
    KeepsR s0 (execControlClusterWake s) := by
  unfold execControlClusterWake
  repeat' (first
    | with_reducible assumption
    | extract_lets
    | with_reducible apply State.ccUp_keeps
    | with_reducible apply thenLine_keeps
    | with_reducible apply keepsR_next
    | with_reducible apply keepsR_fault
    | with_reducible apply keepsR_refused
    | with_reducible refine keeps_fst (by assumption) ?_
    | with_reducible refine keeps_okE (st := fun a => a) (by assumption) ?_
    | with_reducible refine keeps_okP (by assumption) ?_
    | with_reducible refine keeps_someO (st := fun a => a) (by assumption) ?_
    | with_reducible refine keeps_someP (by assumption) ?_
    | with_reducible refine keeps_nextR (by assumption) ?_
    | with_reducible refine keeps_okM (by assumption) ?_ ?_
    | with_reducible refine keeps_errM (by assumption) ?_ ?_
    | dsimp only
    | split
    | intro _
    | assumption
  )

end Sys2Proof.Machine
end

