-- ==== Sys2Proof/Laws/KeepsScan.lean ====
section
/-!
SUPPORT. Every operation of Machine/Scan.lean keeps (`Keeps`).
-/

set_option linter.unreachableTactic false
set_option linter.unusedTactic false

namespace Sys2Proof.Machine

theorem State.scanEngine_keeps {s0 : State} {s : State} {o : Nat} (h_s : Keeps s0 s) :
    Keeps s0 (State.scanEngine s o) := by
  unfold State.scanEngine
  repeat' (first
    | with_reducible assumption
    | extract_lets
    | with_reducible apply State.drew_keeps
    | with_reducible apply State.emit_keeps
    | with_reducible refine keeps_fst (by assumption) ?_
    | with_reducible refine keeps_okE (st := fun a => a) (by assumption) ?_
    | with_reducible refine keeps_okP (by assumption) ?_
    | with_reducible refine keeps_someO (st := fun a => a) (by assumption) ?_
    | with_reducible refine keeps_someP (by assumption) ?_
    | with_reducible refine keeps_nextR (by assumption) ?_
    | with_reducible refine keeps_okM (by assumption) ?_ ?_
    | with_reducible refine keeps_errM (by assumption) ?_ ?_
    | dsimp only
    | split
    | intro _
    | assumption
  )

theorem State.scanCore_keeps {s0 : State} {s : State} {o : Nat} (h_s : Keeps s0 s) :
    Keeps s0 (State.scanCore s o) := by
  unfold State.scanCore
  repeat' (first
    | with_reducible assumption
    | extract_lets
    | with_reducible apply State.drew_keeps
    | with_reducible apply State.emit_keeps
    | with_reducible refine keeps_fst (by assumption) ?_
    | with_reducible refine keeps_okE (st := fun a => a) (by assumption) ?_
    | with_reducible refine keeps_okP (by assumption) ?_
    | with_reducible refine keeps_someO (st := fun a => a) (by assumption) ?_
    | with_reducible refine keeps_someP (by assumption) ?_
    | with_reducible refine keeps_nextR (by assumption) ?_
    | with_reducible refine keeps_okM (by assumption) ?_ ?_
    | with_reducible refine keeps_errM (by assumption) ?_ ?_
    | dsimp only
    | split
    | intro _
    | assumption
  )

theorem State.scanRead_keeps {s0 : State} {s : State} {o : Nat} (h_s : Keeps s0 s) :
    Keeps s0 (State.scanRead s o) := by
  unfold State.scanRead
  repeat' (first
    | with_reducible assumption
    | extract_lets
    | with_reducible apply State.emit_keeps
    | with_reducible apply State.scanCore_keeps
    | with_reducible apply State.scanEngine_keeps
    | with_reducible apply State.take_keepsT
    | with_reducible refine keeps_fst (by assumption) ?_
    | with_reducible refine keeps_okE (st := fun a => a) (by assumption) ?_
    | with_reducible refine keeps_okP (by assumption) ?_
    | with_reducible refine keeps_someO (st := fun a => a) (by assumption) ?_
    | with_reducible refine keeps_someP (by assumption) ?_
    | with_reducible refine keeps_nextR (by assumption) ?_
    | with_reducible refine keeps_okM (by assumption) ?_ ?_
    | with_reducible refine keeps_errM (by assumption) ?_ ?_
    | dsimp only
    | split
    | intro _
    | assumption
  )

theorem State.scanWrite_keeps {s0 : State} {s : State} {o : Nat} {v : Nat} (h_s : Keeps s0 s) :
    Keeps s0 (State.scanWrite s o v) := by
  unfold State.scanWrite
  repeat' (first
    | with_reducible assumption
    | extract_lets
    | with_reducible apply State.emit_keeps
    | (with_reducible refine State.onSen_keeps ?_ ?_ ?_ ?_ <;> [rfl; rfl; rfl; skip])
    | with_reducible refine keeps_fst (by assumption) ?_
    | with_reducible refine keeps_okE (st := fun a => a) (by assumption) ?_
    | with_reducible refine keeps_okP (by assumption) ?_
    | with_reducible refine keeps_someO (st := fun a => a) (by assumption) ?_
    | with_reducible refine keeps_someP (by assumption) ?_
    | with_reducible refine keeps_nextR (by assumption) ?_
    | with_reducible refine keeps_okM (by assumption) ?_ ?_
    | with_reducible refine keeps_errM (by assumption) ?_ ?_
    | dsimp only
    | split
    | intro _
    | assumption
  )

theorem State.lockedItem_keeps {s0 : State} {s : State} {q : Nat} {changed : Bool} (h_s : Keeps s0 s) :
    Keeps s0 (State.lockedItem s q changed) := by
  unfold State.lockedItem
  repeat' (first
    | with_reducible assumption
    | extract_lets
    | with_reducible apply State.toError_keeps
    | with_reducible apply keeps_foldl
    | with_reducible apply keeps_foldl_fst
    | with_reducible refine keeps_fst (by assumption) ?_
    | with_reducible refine keeps_okE (st := fun a => a) (by assumption) ?_
    | with_reducible refine keeps_okP (by assumption) ?_
    | with_reducible refine keeps_someO (st := fun a => a) (by assumption) ?_
    | with_reducible refine keeps_someP (by assumption) ?_
    | with_reducible refine keeps_nextR (by assumption) ?_
    | with_reducible refine keeps_okM (by assumption) ?_ ?_
    | with_reducible refine keeps_errM (by assumption) ?_ ?_
    | dsimp only
    | split
    | intro _
    | assumption
  )

theorem State.cfgWrite_keeps {s0 : State} {s : State} {q : Nat} {o : Nat} {v : Nat} (h_s : Keeps s0 s) :
    Keeps s0 (State.cfgWrite s q o v) := by
  unfold State.cfgWrite
  repeat' (first
    | with_reducible assumption
    | extract_lets
    | with_reducible apply State.lockedItem_keeps
    | with_reducible apply State.modPort_keeps
    | with_reducible apply State.setFmask_keeps
    | with_reducible refine keeps_fst (by assumption) ?_
    | with_reducible refine keeps_okE (st := fun a => a) (by assumption) ?_
    | with_reducible refine keeps_okP (by assumption) ?_
    | with_reducible refine keeps_someO (st := fun a => a) (by assumption) ?_
    | with_reducible refine keeps_someP (by assumption) ?_
    | with_reducible refine keeps_nextR (by assumption) ?_
    | with_reducible refine keeps_okM (by assumption) ?_ ?_
    | with_reducible refine keeps_errM (by assumption) ?_ ?_
    | dsimp only
    | split
    | intro _
    | assumption
  )

theorem State.onCfg_keeps {s0 : State} {s : State} {p : Path} {f : Nat → State} (h_s : Keeps s0 s) (h_f : ∀ y0, Keeps s0 (f y0)) :
    Keeps s0 (State.onCfg s p f) := by
  unfold State.onCfg
  repeat' (first
    | with_reducible assumption
    | extract_lets
    | with_reducible apply h_f
    | with_reducible apply State.deny_keeps
    | with_reducible apply State.emit_keeps
    | with_reducible refine keeps_fst (by assumption) ?_
    | with_reducible refine keeps_okE (st := fun a => a) (by assumption) ?_
    | with_reducible refine keeps_okP (by assumption) ?_
    | with_reducible refine keeps_someO (st := fun a => a) (by assumption) ?_
    | with_reducible refine keeps_someP (by assumption) ?_
    | with_reducible refine keeps_nextR (by assumption) ?_
    | with_reducible refine keeps_okM (by assumption) ?_ ?_
    | with_reducible refine keeps_errM (by assumption) ?_ ?_
    | dsimp only
    | split
    | intro _
    | assumption
  )

theorem State.onOwn_keeps {s0 : State} {s : State} {p : Path} {f : Nat → State} (h_s : Keeps s0 s) (h_f : ∀ y0, Keeps s0 (f y0)) :
    Keeps s0 (State.onOwn s p f) := by
  unfold State.onOwn
  repeat' (first
    | with_reducible assumption
    | extract_lets
    | with_reducible apply h_f
    | with_reducible apply State.deny_keeps
    | with_reducible refine keeps_fst (by assumption) ?_
    | with_reducible refine keeps_okE (st := fun a => a) (by assumption) ?_
    | with_reducible refine keeps_okP (by assumption) ?_
    | with_reducible refine keeps_someO (st := fun a => a) (by assumption) ?_
    | with_reducible refine keeps_someP (by assumption) ?_
    | with_reducible refine keeps_nextR (by assumption) ?_
    | with_reducible refine keeps_okM (by assumption) ?_ ?_
    | with_reducible refine keeps_errM (by assumption) ?_ ?_
    | dsimp only
    | split
    | intro _
    | assumption
  )

theorem State.readSide_keeps {s0 : State} {s : State} {p : Path} {bar : Nat} {off : Nat} (h_s : Keeps s0 s) :
    Keeps s0 (State.readSide s p bar off) := by
  unfold State.readSide
  repeat' (first
    | with_reducible assumption
    | extract_lets
    | with_reducible apply State.denyRead_keeps
    | with_reducible apply State.emit_keeps
    | with_reducible apply State.onCfg_keeps
    | with_reducible apply State.onOwn_keeps
    | with_reducible apply State.scanRead_keeps
    | with_reducible refine keeps_fst (by assumption) ?_
    | with_reducible refine keeps_okE (st := fun a => a) (by assumption) ?_
    | with_reducible refine keeps_okP (by assumption) ?_
    | with_reducible refine keeps_someO (st := fun a => a) (by assumption) ?_
    | with_reducible refine keeps_someP (by assumption) ?_
    | with_reducible refine keeps_nextR (by assumption) ?_
    | with_reducible refine keeps_okM (by assumption) ?_ ?_
    | with_reducible refine keeps_errM (by assumption) ?_ ?_
    | dsimp only
    | split
    | intro _
    | assumption
  )

theorem State.writeSide_keeps {s0 : State} {s : State} {p : Path} {bar : Nat} {off : Nat} {v : Nat} (h_s : Keeps s0 s) :
    Keeps s0 (State.writeSide s p bar off v) := by
  unfold State.writeSide
  repeat' (first
    | with_reducible assumption
    | extract_lets
    | with_reducible apply State.cfgWrite_keeps
    | with_reducible apply State.deny_keeps
    | with_reducible apply State.modPort_keeps
    | with_reducible apply State.onCfg_keeps
    | with_reducible apply State.onOwn_keeps
    | with_reducible apply State.scanWrite_keeps
    | with_reducible refine keeps_fst (by assumption) ?_
    | with_reducible refine keeps_okE (st := fun a => a) (by assumption) ?_
    | with_reducible refine keeps_okP (by assumption) ?_
    | with_reducible refine keeps_someO (st := fun a => a) (by assumption) ?_
    | with_reducible refine keeps_someP (by assumption) ?_
    | with_reducible refine keeps_nextR (by assumption) ?_
    | with_reducible refine keeps_okM (by assumption) ?_ ?_
    | with_reducible refine keeps_errM (by assumption) ?_ ?_
    | dsimp only
    | split
    | intro _
    | assumption
  )

end Sys2Proof.Machine
end

