-- ==== Sys2Proof/Laws/KeepsRegs.lean ====
section
/-!
SUPPORT. Every operation of Machine/Regs.lean keeps (`Keeps`).
-/

set_option linter.unreachableTactic false
set_option linter.unusedTactic false

namespace Sys2Proof.Machine

theorem State.clearRc_keeps {s0 : State} {s : State} {off : Nat} (h_s : Keeps s0 s) :
    Keeps s0 (State.clearRc s off) := by
  unfold State.clearRc
  repeat' (first
    | with_reducible assumption
    | extract_lets
    | with_reducible apply State.modLink_keeps
    | with_reducible apply State.modPort_keeps
    | with_reducible apply State.onSched_keeps
    | with_reducible apply State.onPwr_keeps
    | (with_reducible refine State.onPool_keeps ?_ ?_ <;> [rfl; skip])
    | (with_reducible refine State.onSen_keeps ?_ ?_ ?_ ?_ <;> [rfl; rfl; rfl; skip])
    | dsimp only
    | split
    | assumption
  )

theorem State.liveRate_keeps {s0 : State} {s : State} {off : Nat} (h_s : Keeps s0 s) :
    Keeps s0 (State.liveRate s off) := by
  unfold State.liveRate
  repeat' (first
    | with_reducible assumption
    | extract_lets
    | with_reducible apply State.onPwr_keeps
    | with_reducible refine keeps_fst (by assumption) ?_
    | with_reducible refine keeps_okE (st := fun a => a) (by assumption) ?_
    | with_reducible refine keeps_okP (by assumption) ?_
    | with_reducible refine keeps_someO (st := fun a => a) (by assumption) ?_
    | with_reducible refine keeps_someP (by assumption) ?_
    | with_reducible refine keeps_nextR (by assumption) ?_
    | with_reducible refine keeps_okM (by assumption) ?_ ?_
    | with_reducible refine keeps_errM (by assumption) ?_ ?_
    | dsimp only
    | split
    | intro _
    | assumption
  )

theorem State.readBar0_keeps {s0 : State} {s : State} {p : Path} {off : Nat} (h_s : Keeps s0 s) :
    Keeps s0 (State.readBar0 s p off).1 := by
  unfold State.readBar0
  repeat' (first
    | with_reducible assumption
    | with_reducible apply State.liveRate_keeps
    | extract_lets
    | with_reducible apply State.clearRc_keeps
    | with_reducible apply State.mbxRecv_keeps
    | dsimp only
    | split
  )

theorem State.readPage_keeps {s0 : State} {s : State} {p : Path} {owner : Option Nat} {v : Nat} (h_s : Keeps s0 s) :
    KeepsR s0 (State.readPage s p owner v) := by
  unfold State.readPage
  split
  · exact State.onPage_keeps h_s fun _ h => State.emit_keeps h
  · exact keepsR_next (State.denyRead_keeps h_s)

theorem execRegisterReadClear_keeps {s0 : State} {p : Path} {bar : Nat} {off : Nat} {s : State} (h_s : Keeps s0 s) :
    KeepsR s0 (execRegisterReadClear p bar off s) := by
  unfold execRegisterReadClear
  repeat' (first
    | with_reducible assumption
    | with_reducible apply State.readSide_keeps
    | extract_lets
    | with_reducible apply State.deny_keeps
    | with_reducible apply State.drew_keeps
    | with_reducible apply State.emit_keeps
    | with_reducible apply State.finish_keeps
    | with_reducible apply State.claim_keeps
    | with_reducible apply State.denyRead_keeps
    | with_reducible apply State.readPage_keeps
    | with_reducible apply State.readBar0_keeps
    | with_reducible apply keepsR_next
    | dsimp only
    | split
    | intro _
  )

theorem State.wrSlice_keeps {s0 : State} {s : State} {o : Nat} {v : Nat} (h_s : Keeps s0 s) :
    Keeps s0 (State.wrSlice s o v) := by
  unfold State.wrSlice
  repeat' (first
    | with_reducible assumption
    | extract_lets
    | with_reducible apply State.s0Go_keeps
    | with_reducible apply State.writeRebind_keeps
    | with_reducible apply State.onSlices_keeps
    | split
  )

theorem State.wrHost_keeps {s0 : State} {s : State} {o : Nat} {v : Nat} (h_s : Keeps s0 s) :
    Keeps s0 (State.wrHost s o v) := by
  unfold State.wrHost
  repeat' (first
    | with_reducible assumption
    | extract_lets
    | with_reducible apply State.modPort_keeps
    | with_reducible apply State.writeWin_keeps
    | split
  )

theorem State.fcmd_keeps {s0 : State} {s : State} {op : Nat} (h_s : Keeps s0 s) :
    Keeps s0 (State.fcmd s op) := by
  unfold State.fcmd
  repeat' (first
    | with_reducible assumption
    | extract_lets
    | with_reducible apply State.backCmd_keeps
    | with_reducible apply State.fcmdDone_keeps
    | with_reducible apply State.queryCmd_keeps
    | with_reducible apply State.tableCmd_keeps
    | with_reducible apply State.untableCmd_keeps
    | split
  )

theorem State.wrPle_keeps {s0 : State} {s : State} {o : Nat} {v : Nat} (h_s : Keeps s0 s) :
    Keeps s0 (State.wrPle s o v) := by
  unfold State.wrPle
  repeat' (first
    | with_reducible assumption
    | with_reducible apply State.fcmd_keeps
    | with_reducible apply State.invGo_keeps
    | (with_reducible refine State.onPool_keeps ?_ ?_ <;> [rfl; skip])
    | split
  )

theorem State.wrWire_keeps {s0 : State} {s : State} {i : Nat} {v : Nat} (h_s : Keeps s0 s) :
    Keeps s0 (State.wrWire s i v) := by
  unfold State.wrWire
  repeat' (first
    | with_reducible assumption
    | extract_lets
    | with_reducible apply State.modWire_keeps
    | with_reducible apply State.setCond_keeps
    | with_reducible refine keeps_fst (by assumption) ?_
    | with_reducible refine keeps_okE (st := fun a => a) (by assumption) ?_
    | with_reducible refine keeps_okP (by assumption) ?_
    | with_reducible refine keeps_someO (st := fun a => a) (by assumption) ?_
    | with_reducible refine keeps_someP (by assumption) ?_
    | with_reducible refine keeps_nextR (by assumption) ?_
    | with_reducible refine keeps_okM (by assumption) ?_ ?_
    | with_reducible refine keeps_errM (by assumption) ?_ ?_
    | dsimp only
    | split
    | intro _
    | assumption
  )

theorem State.wrEvc_keeps {s0 s : State} {o v : Nat} (h : Keeps s0 s) : Keeps s0 (s.wrEvc o v) := by
  unfold State.wrEvc
  extract_lets w b
  repeat' split
  · exact h
  · exact State.modSrc_keeps (fun _ => by show v % 16 ≤ 15; omega) h
  · exact State.eachBit_keeps h fun a i ha => State.setPend_keeps ha
  · exact State.eachBit_keeps h fun a i ha => State.clrPend_keeps ha
  · exact State.eachBit_keeps h fun a i ha => State.modSrc_keeps id ha
  · exact State.eachBit_keeps h fun a i ha => State.modSrc_keeps id ha
  · exact State.eoi_keeps h
  · exact State.modCore_keeps (fun x => x.core _) h
  · exact h
  · exact State.wrWire_keeps h
  · exact h

theorem State.wrMbx_keeps {s0 : State} {s : State} {p : Path} {o : Nat} {v : Nat} (h_s : Keeps s0 s) :
    Keeps s0 (State.wrMbx s p o v) := by
  unfold State.wrMbx
  repeat' (first
    | with_reducible assumption
    | extract_lets
    | with_reducible apply State.mbxSend_keeps
    | (with_reducible refine State.modMbox_keeps ?_ ?_ <;> [(first | exact Or.inl (Nat.le_refl _) | exact Or.inr (Nat.zero_le _)); skip])
    | split
  )

theorem State.wrLnkCfg_keeps {s0 : State} {s : State} {l : Nat} {x : Link} {v : Nat} (h_s : Keeps s0 s) :
    Keeps s0 (State.wrLnkCfg s l x v) := by
  unfold State.wrLnkCfg
  repeat' (first
    | with_reducible assumption
    | extract_lets
    | with_reducible apply State.modLink_keeps
    | with_reducible apply State.setEnable_keeps
    | split
    | (with_reducible conv => arg 2; whnf); split
  )

theorem State.wrLnkCtrl_keeps {s0 : State} {s : State} {l : Nat} {v : Nat} (h_s : Keeps s0 s) :
    Keeps s0 (State.wrLnkCtrl s l v) := by
  unfold State.wrLnkCtrl
  repeat' (first
    | with_reducible assumption
    | extract_lets
    | with_reducible apply State.linkFall_keeps
    | with_reducible apply State.modLink_keeps
    | with_reducible apply State.requestLink_keeps
    | with_reducible apply State.widthGo_keeps
    | split
    | (with_reducible conv => arg 2; whnf); split
  )

theorem State.wrBifur_keeps {s0 : State} {s : State} {v : Nat} (h_s : Keeps s0 s) :
    Keeps s0 (State.wrBifur s v) := by
  unfold State.wrBifur
  repeat' (first
    | with_reducible assumption
    | extract_lets
    | with_reducible apply State.linkFall_keeps
    | with_reducible apply State.modLink_keeps
    | with_reducible apply State.onLinks_keeps
    | with_reducible apply keeps_foldl
    | dsimp only
    | split
    | intro _
  )

theorem State.wrLnk_keeps {s0 : State} {s : State} {o : Nat} {v : Nat} (h_s : Keeps s0 s) :
    Keeps s0 (State.wrLnk s o v) := by
  unfold State.wrLnk
  repeat' (first
    | with_reducible assumption
    | dsimp only
    | with_reducible apply State.modLink_keeps
    | with_reducible apply State.wrBifur_keeps
    | with_reducible apply State.wrLnkCfg_keeps
    | with_reducible apply State.wrLnkCtrl_keeps
    | with_reducible apply State.onLinks_keeps
    | split
  )

theorem State.wrPwr_keeps {s0 : State} {s : State} {o : Nat} {v : Nat} (h_s : Keeps s0 s) :
    Keeps s0 (State.wrPwr s o v) := by
  unfold State.wrPwr
  repeat' (first
    | with_reducible assumption
    | with_reducible apply State.hotSources_keeps
    | with_reducible apply State.onPwr_keeps
    | split
  )

theorem State.wrMmc_keeps {s0 : State} {s : State} {mmc : Bool} {o : Nat} {v : Nat} (h_s : Keeps s0 s) :
    Keeps s0 (State.wrMmc s mmc o v) := by
  unfold State.wrMmc
  repeat' (first
    | with_reducible assumption
    | extract_lets
    | split
    | assumption
  )

theorem State.write0_keeps {s0 : State} {s : State} {p : Path} {off : Nat} {v : Nat} (h_s : Keeps s0 s) :
    Keeps s0 (State.write0 s p off v) := by
  unfold State.write0
  repeat' (first
    | with_reducible assumption
    | extract_lets
    | with_reducible apply State.wrEvc_keeps
    | with_reducible apply State.wrHost_keeps
    | with_reducible apply State.wrLnk_keeps
    | with_reducible apply State.wrMbx_keeps
    | with_reducible apply State.wrMmc_keeps
    | with_reducible apply State.wrPle_keeps
    | with_reducible apply State.wrPwr_keeps
    | with_reducible apply State.wrSlice_keeps
    | split
  )

theorem State.writeBar0_keeps {s0 : State} {s : State} {p : Path} {off : Nat} {width : Nat} {v : DWord} (h_s : Keeps s0 s) :
    Keeps s0 (State.writeBar0 s p off width v) := by
  unfold State.writeBar0
  repeat' (first
    | with_reducible assumption
    | extract_lets
    | with_reducible apply State.freeReq_keeps
    | with_reducible apply State.mbxSend_keeps
    | with_reducible apply State.write0_keeps
    | split
  )

theorem State.wrMsix_keeps {s0 : State} {s : State} {q : Nat} {o : Nat} {v : Nat} (h_s : Keeps s0 s) :
    Keeps s0 (State.wrMsix s q o v) := by
  unfold State.wrMsix
  repeat' (first
    | with_reducible assumption
    | extract_lets
    | with_reducible apply State.modPort_keeps
    | with_reducible apply State.toError_keeps
    | with_reducible apply State.unmask_keeps
    | split
    | (with_reducible conv => arg 2; whnf); split
  )

theorem execRegisterWrite_keeps {s0 : State} {p : Path} {bar off width : Nat} {val : DWord} {s : State} (h : Keeps s0 s) :
    KeepsR s0 (execRegisterWrite p bar off width val s) := by
  unfold execRegisterWrite
  extract_lets q c
  have ite : ∀ {c : Prop} [Decidable c] {a b : Result}, KeepsR s0 a → KeepsR s0 b → KeepsR s0 (if c then a else b) := by
    intro c _ a b ha hb
    by_cases hc : c
    · rwa [if_pos hc]
    · rwa [if_neg hc]
  have hd : Keeps s0 (s.deny p) := State.deny_keeps h
  have hr : ∀ b : Bool, Keeps s0 (if b then s else s.deny p) := fun b => by cases b <;> assumption
  refine ite ?_ ?_
  · exact keepsR_next h
  refine ite ?_ ?_
  · exact keepsR_next hd
  refine ite ?_ ?_
  · exact keepsR_next (State.finish_keeps (keeps_foldl h fun _ _ ha => State.writeSide_keeps ha))
  refine ite ?_ ?_
  · exact keepsR_next hd
  refine ite ?_ ?_
  · refine keepsR_next ?_
    split
    · exact State.finish_keeps (State.writeBar0_keeps h)
    · exact hd
  refine ite ?_ ?_
  · refine State.onPage_keeps h fun y hy => keeps_foldl hy fun a e ha => ?_
    split
    · exact State.doorbell_keeps ha
    · split
      · cases a.queue? q with
        | none => exact ha
        | some x => exact State.evtCons_keeps ha
      · exact ha
  refine ite ?_ ?_
  · exact keepsR_next (hr _)
  refine ite ?_ ?_
  · refine State.onPage_keeps h fun y hy => keeps_foldl hy fun a e ha => ?_
    split
    · exact State.evtCons_keeps ha
    · exact ha
  refine ite ?_ ?_
  · exact keepsR_next (hr _)
  split
  · refine keepsR_next ?_
    split
    · refine State.finish_keeps ?_
      split
      · exact keeps_foldl h fun _ _ ha => State.wrMsix_keeps ha
      · exact h
    · exact hd
  · exact keepsR_next hd

end Sys2Proof.Machine
end

