-- ==== Sys2Proof/Laws/Packets.lean ====
section
/-!
SUPPORT. What the shared packet form does: a served packet runs its opcode and is answered.
-/

namespace Sys2Proof.Machine

/-- A served packet runs its opcode in the state that `served` names, and is answered. -/
theorem State.packet_served {s s1 : State} {i : OpInfo} {h : Hdr} {c : Nat} {n : Word} {f : Option Nat} {cmd : Instr}
    (op : State → Nat → Word → State × Ans) (e : s.served i h = some (s1, c, n, f)) :
    s.packet cmd i h op = .next ((op s1 c n).1.answer i h n f (op s1 c n).2).finish := by
  unfold State.served at e
  unfold State.packet
  split at e
  · rename_i t c' n' ht
    rw [ht]
    split at e
    · rename_i hh
      simp only [Option.some.injEq, Prod.mk.injEq] at e
      obtain ⟨rfl, rfl, rfl, rfl⟩ := e
      simp only [State.serve, Nat.not_lt.mpr hh.1, if_false, hh.2] <;> rfl
    · cases e
  · cases e

/-- A served packet whose opcode answers OK. -/
theorem State.packet_done {s s1 s2 : State} {i : OpInfo} {h : Hdr} {c : Nat} {n : Word} {f : Option Nat} {cmd : Instr} {res : List Nat}
    (op : State → Nat → Word → State × Ans) (e : s.served i h = some (s1, c, n, f)) (ho : op s1 c n = (s2, .ok res)) :
    s.packet cmd i h op = .next (s2.done i h n f res) := by
  rw [State.packet_served op e, ho]; rfl

/-- A served packet whose opcode answers another status. -/
theorem State.packet_failed {s s1 s2 : State} {i : OpInfo} {h : Hdr} {c : Nat} {n : Word} {f : Option Nat} {cmd : Instr} {st : Status}
    (op : State → Nat → Word → State × Ans) (e : s.served i h = some (s1, c, n, f)) (ho : op s1 c n = (s2, .bad st [])) :
    s.packet cmd i h op = .next (s2.failed i h n f st) := by
  rw [State.packet_served op e, ho]; rfl

/-- A served packet whose reply comes later. -/
theorem State.packet_putOff {s s1 s2 : State} {i : OpInfo} {h : Hdr} {c : Nat} {n : Word} {f : Option Nat} {cmd : Instr}
    (op : State → Nat → Word → State × Ans) (e : s.served i h = some (s1, c, n, f)) (ho : op s1 c n = (s2, .later)) :
    s.packet cmd i h op = .next (s2.putOff i h n f) := by
  rw [State.packet_served op e, ho]; rfl

/-- A check that passes. -/
@[simp] theorem check_pos {b : Bool} (st : Status) (h : b = true) : check b st = .ok () := by rw [h]; rfl
/-- A check that fails. -/
theorem check_neg {b : Bool} (st : Status) (h : b = false) : check b st = .error st := by rw [h]; rfl
/-- A result carried on. -/
@[simp] theorem map_ok {α β : Type} (a : α) (g : α → β) : (g <$> (Except.ok a : Except Status α)) = .ok (g a) := rfl
/-- A value that is there. -/
@[simp] theorem want_some {α : Type} (a : α) (st : Status) : want (some a) st = .ok a := rfl
/-- Passing checks drop out. -/
@[simp] theorem ok_bind {α β : Type} (a : α) (k : α → Except Status β) : ((Except.ok a : Except Status α) >>= k) = k a := rfl
/-- An opcode that passes its checks answers OK. -/
@[simp] theorem answerOf_pure (s t : State) (res : List Nat) : answerOf s (pure (t, res)) = (t, .ok res) := rfl
@[simp] theorem answerOf_ok (s t : State) (res : List Nat) : answerOf s (.ok (t, res)) = (t, .ok res) := rfl
@[simp] theorem answerOf_error (s : State) (st : Status) : answerOf s (.error st) = (s, .bad st []) := rfl
/-- The end of the checks. -/
@[simp] theorem pure_bind_ok {α β : Type} (a : α) (k : α → Except Status β) : ((pure a : Except Status α) >>= k) = k a := rfl

theorem State.settle_quiet {s : State} (h : s.ringBad = []) : s.settle = s := by
  simp [State.settle, State.settleGo, h]

theorem tkeys_nil {α : Type} {t : Tab α} {p : α → Bool} (h : ∀ e ∈ t, p e.2 = false) : tkeys t p = [] := by
  simp only [tkeys, List.map_eq_nil_iff, List.filter_eq_nil_iff]
  intro e he
  simp [h e he]

end Sys2Proof.Machine
end

