-- ==== Sys2Proof/Laws/Shared.lean ====
section
/-!
SUPPORT. One lemma for each operation that several meanings share: what it answers where its conditions hold.
-/

namespace Sys2Proof.Machine

/-! ## Register and page accesses -/

/-- A register access that reaches its register has its effect. -/
theorem onBar0_reaches {p : Path} {s : State} {off : Nat} {f : State → State} (h1 : p.wf = true) (h2 : s.reaches p off true = true) : s.onBar0 p off f = .next (f s).finish := by
  unfold State.onBar0; simp only [h1, h2, Bool.not_true, Bool.false_eq_true, if_false, if_true]

/-- A register access that does not reach its register is denied. -/
theorem onBar0_denied {p : Path} {s : State} {off : Nat} {f : State → State} (h1 : p.wf = true) (h2 : s.reaches p off true = false) : s.onBar0 p off f = .next (s.deny p) := by
  unfold State.onBar0; simp only [h1, h2, Bool.not_true, Bool.false_eq_true, if_false]

/-- A write of a register that the array has is a register access with its effect. -/
theorem onReg_has {p : Path} {s : State} {off : Nat} {f : State → State} : s.onReg p true off f = s.onBar0 p off f := rfl

/-- A write of a register that the array does not have completes with no effect of its own. -/
theorem onReg_lacks {p : Path} {s : State} {off : Nat} {f : State → State} (h1 : p.wf = true) (h2 : s.reaches p off true = true) :
    s.onReg p false off f = .next s.finish := onBar0_reaches h1 h2

/-- A page access by the slice that owns the page has its effect. -/
theorem onPage_owner {port : Nat} {ps : Option Nat} {tee : Bool} {s : State} {l : Nat} {f : State → State} (h0 : port < 4) (h1 : ∀ i, ps = some i → i < 2 ^ 20) (h2 : s.sliceBy port ps = some l) (h3 : s.brg.ready = true) (h4 : s.teeOk l tee = true) : s.onPage (.host port ps tee) (some l) f = .next (f s).finish := by
  have hw : Path.wf (.host port ps tee) = true := by
    unfold Path.wf
    cases ps with
    | none => simpa using h0
    | some i => simpa [h0] using h1 i rfl
  unfold State.onPage
  simp [hw, h2, h3, h4]

/-! ## KV opcodes -/

/-- A step that answers, then the rest. -/
theorem kvBind_ok {α β : Type} {x : KvD α} {g : α → KvD β} {s t : State} {a : α} (h : x s = .ok a t) : (x >>= g) s = g a t := by
  show EStateM.bind x g s = _
  unfold EStateM.bind; rw [h]

/-- Reading the state. -/
theorem kvGet_bind {β : Type} {g : State → KvD β} {s : State} : (get >>= g : KvD β) s = g s s := rfl

/-- A check that passes. -/
theorem kvCheck_ok {b : Bool} {st : Status} {s : State} (h : b = true) : kvCheck b st s = .ok () s := by rw [h]; rfl

/-- An operation that answers. -/
theorem kvDo_ok {α : Type} {m : KvM α} {s t : State} {a : α} (h : m s = .ok a t) : kvDo m s = .ok a t := by unfold kvDo; rw [h]

/-- The checks of the work's polder. -/
theorem kvPolder_ok {h : Hdr} {c p : Nat} {s : State} (h1 : s.actives ≠ []) (h2 : (s.polder? p).isSome = true) (h3 : s.classOk ((s.queue? h.q).elim 0 (·.cls)) c p none = true) : kvPolder h c p s = .ok () s := by
  have c1 : (!s.actives.isEmpty) = true := by cases hh : s.actives <;> simp_all
  unfold kvPolder
  rw [kvGet_bind, kvBind_ok (kvCheck_ok c1), kvBind_ok (kvCheck_ok h2)]
  exact kvCheck_ok h3

/-- A formatted object. -/
theorem kvFormatted_ok {hd : List Byte} {s : State} (h : imgNat hd 40 1 = 1) : kvFormatted hd s = .ok () s := kvCheck_ok (by simp [h])

/-- The header read. -/
theorem kvOpen_ok {d : Disp} {m : Nat × Mo} {s t : State} {hd : List Byte} (h : s.readMo m.2 .hub 0 48 = (t, .ok hd)) :
    kvOpen d m s = .ok ({ ref := d.ref, m := m.1, mo := m.2, geo := geoOf hd (m.2.len / 65536), who := .hub }, { d with kvHead := hd }) t := by
  unfold kvOpen
  rw [kvBind_ok (a := hd) (t := t) (kvDo_ok (by unfold kvIo; simp only [h]))]
  rfl

/-- Frames enough. -/
theorem kvReserve_ok {e : KvEnv} {hd : List Byte} {n : Nat} {s : State} (h : n ≤ s.kvAvail e.m (imgNat hd 36 4) e.geo.pool) : e.reserve hd n s = .ok () s := by
  unfold KvEnv.reserve
  rw [kvGet_bind]
  exact kvCheck_ok (by simpa using h)

/-- The notification armed. -/
theorem kvNotify_ok {h : Hdr} {c : Nat} {k : DWord} {s t : State} (e : s.notify h c k = .ok t) : kvNotify h c k s = .ok () t := by
  unfold kvNotify
  rw [kvGet_bind, e]; rfl

/-- A work packet accepted. -/
theorem kvAnswer_ok {s t : State} {d0 d : Disp} {m : KvD Disp} (h : m s = .ok d t) : kvAnswer s d0 m = (t.accept d, .ok (leNats 8 d.ref.toNat)) := by
  unfold kvAnswer; rw [h]

/-! ## Work packets and links -/

/-- A work packet is found under its own reference. -/
theorem disp_ref {s : State} {ref : DWord} {d : Disp} (h : s.disp? ref = some d) : d.ref = ref := by
  have := List.find?_some h; simpa using this

/-- A link that was just changed. -/
theorem link_modLink {s : State} {l : Nat} {x : Link} {f : Link → Link} (h : s.link? l = some x) : (s.modLink l f).link? l = some (f x) := by
  unfold State.link? at h ⊢
  unfold State.modLink State.onLinks
  simp [tget_tmod, h]

/-- A message that arrives at its own node. -/
theorem arrive_here {s : State} {l ty : Nat} {m : Msg} {x : Link} {f : State → Link → Msg → State} (h2 : s.link? l = some x) (h3 : x.up = true)
    (h4 : msgAgrees (s.taken l ty x m) = true) (h5 : m.dst = s.address 0xFF) :
    s.arrive l ty m f = .next (f s x (s.taken l ty x m)).finish := by
  have h6 : (s.taken l ty x m).dst = m.dst := by unfold State.taken; split <;> rfl
  unfold State.arrive
  simp only [h2, h3, h4, h6, h5]
  rfl

end Sys2Proof.Machine
end

