-- ==== Sys2Proof/Laws/Pages.lean ====
section
/-!
SUPPORT. Accesses of a context through one page: translation whatever the free values choose (R217), reads of a FRESH frame (R210), writes to host
pages (R272), and writes to a bound frame, which leave every walk as it was (R214).
-/

namespace Sys2Proof.Machine

/-! ## Accesses through one page, whatever the free values choose -/

/-- Page `page` of context `c` walks to `v`, and so does every translation of it that an NI holds. -/
abbrev Maps (s : State) (c page v : Nat) : Prop := s.walk c page = .ok v ∧ ∀ e ∈ s.pool.tlb, e.ctx = c → e.page = page → e.leaf.toNat = v

theorem walk_congr {s t : State} {c page : Nat} (h1 : t.pool.roots = s.pool.roots) (h2 : t.pool.frames = s.pool.frames) (h3 : t.pool.mem = s.pool.mem)
    (h4 : t.pool.tags = s.pool.tags) (h5 : t.pool.bad = s.pool.bad) (h6 : t.sen.bootNonce = s.sen.bootNonce) : t.walk c page = s.walk c page := by
  unfold State.walk State.tableEntry State.tableTag State.frame?
  rw [h1, h2, h3, h4, h5, h6]

theorem sampleAccess_eq (s : State) (lpf k : Nat) (who : By) :
    ∃ a b, s.sampleAccess lpf k who = { s with pool := { s.pool with stks := a, stats := b } } := by
  unfold State.sampleAccess
  split
  · exact ⟨_, _, rfl⟩
  · split <;> exact ⟨_, _, rfl⟩

/-- The sector reads of a walk change the stacks' sampling and the frames' statistics only. -/
theorem sampleFrames_eq (who : By) : ∀ (l : List Nat) (s : State),
    ∃ a b, l.foldl (fun u t => u.sampleFrame t who) s = { s with pool := { s.pool with stks := a, stats := b } }
  | [], s => ⟨_, _, rfl⟩
  | t :: l, s => by
    obtain ⟨a, b, h⟩ : ∃ a b, s.sampleFrame t who = { s with pool := { s.pool with stks := a, stats := b } } := by
      unfold State.sampleFrame
      split
      · exact sampleAccess_eq ..
      · exact ⟨_, _, rfl⟩
    obtain ⟨a', b', h'⟩ := sampleFrames_eq who l (s.sampleFrame t who)
    exact ⟨a', b', by rw [List.foldl_cons, h', h]⟩

/-- A table frame's sample changes no more. -/
theorem sampleTable_eq (s : State) (lpf : Nat) (who : By) : ∃ a b, s.sampleTable lpf who = { s with pool := { s.pool with stks := a, stats := b } } := by
  unfold State.sampleTable
  split
  · simpa using sampleFrames_eq who [lpf] s
  · exact ⟨_, _, rfl⟩

/-- The samples of a walk. -/
theorem sampleTables_eq (who : By) : ∀ (l : List Nat) (s : State),
    ∃ a b, l.foldl (fun u t => u.sampleTable t who) s = { s with pool := { s.pool with stks := a, stats := b } }
  | [], s => ⟨_, _, rfl⟩
  | t :: l, s => by
    obtain ⟨a, b, h⟩ := sampleTable_eq s t who
    obtain ⟨a', b', h'⟩ := sampleTables_eq who l (s.sampleTable t who)
    exact ⟨a', b', by rw [List.foldl_cons, h', h]⟩

/-- A translation that an NI comes to hold is the new one or was held. -/
theorem cache_eq (s : State) (who : By) (ent : TlbEnt) (l : Leaf) :
    ∃ tlb pm, s.cache who ent l = { s with pool := { s.pool with tlb := tlb, pmap := pm } } ∧ ∀ e ∈ tlb, e = ent ∨ e ∈ s.pool.tlb := by
  refine ⟨_, _, rfl, fun e he => ?_⟩
  split at he
  · exact .inr he
  · rcases List.mem_cons.mp he with h | h
    · exact .inl h
    · rcases List.mem_append.mp h with h | h
      · refine .inr ?_
        split at h
        · exact (List.mem_filter.mp (List.mem_of_mem_take h)).1
        · exact (List.mem_filter.mp h).1
      · exact .inr (List.mem_filter.mp h).1

/-- A translation changes the free values drawn, the sampling and what the NIs hold, and adds to the translations held none but its own page's;
it gives what the walk gives where no NI holds another translation of the page. -/
theorem translate_eq (s : State) (who : By) (c page : Nat) :
    ∃ n a b tlb pm r, s.translate who c page = ({ s with free := n, pool := { s.pool with stks := a, stats := b, tlb := tlb, pmap := pm } }, r) ∧
      (∀ e ∈ tlb, e ∈ s.pool.tlb ∨ e.ctx = c ∧ e.page = page ∧ ∃ v, s.walk c page = .ok v ∧ e.leaf = BitVec.ofNat 64 v) ∧
      ∀ v l, Maps s c page v → leafOf v = some l → r = .ok l := by
  have miss : ∀ n, ∃ a b tlb pm r,
      (let s1 : State := { s with free := n }
       let s2 := (s1.walkVia c page).foldl (fun a t => a.sampleTable t who) s1
       match s1.walk c page with
       | .error e => (s2, .error e)
       | .ok v =>
         (match leafOf v with
           | none => (s2, .error (accDike (page * 65536)))
           | some l => (s2.cache who { ni := who.ni, ctx := c, page := page, leaf := BitVec.ofNat 64 v } l, .ok l))) =
        (({ s with free := n, pool := { s.pool with stks := a, stats := b, tlb := tlb, pmap := pm } } : State), (r : Except AccErr Leaf)) ∧
      (∀ e ∈ tlb, e ∈ s.pool.tlb ∨ e.ctx = c ∧ e.page = page ∧ ∃ v, s.walk c page = .ok v ∧ e.leaf = BitVec.ofNat 64 v) ∧
      ∀ v l, Maps s c page v → leafOf v = some l → r = .ok l := by
    intro n
    obtain ⟨a, b, h⟩ := sampleTables_eq who (({ s with free := n } : State).walkVia c page) { s with free := n }
    have hw : ({ s with free := n } : State).walk c page = s.walk c page := walk_congr rfl rfl rfl rfl rfl rfl
    simp only [h, hw]
    split
    · exact ⟨a, b, _, _, _, rfl, fun e he => .inl he, fun v l hm _ => by rename_i e; have := hm.1; simp_all⟩
    · rename_i w hw2
      split
      · rename_i hl2
        exact ⟨a, b, _, _, _, rfl, fun e he => .inl he, fun v l hm hl => by have := hm.1; rw [hw2] at this; cases this; rw [hl2] at hl; cases hl⟩
      · rename_i x hl2
        obtain ⟨tlb, pm, hc, hin⟩ := cache_eq ({ s with free := n, pool := { s.pool with stks := a, stats := b } } : State) who
          { ni := who.ni, ctx := c, page := page, leaf := BitVec.ofNat 64 w } x
        refine ⟨a, b, tlb, pm, .ok x, by rw [hc], ?_, fun v l hm hl => by have := hm.1; rw [hw2] at this; cases this; rw [hl2] at hl; cases hl; rfl⟩
        intro e he
        rcases hin e he with rfl | h
        · exact .inr ⟨rfl, rfl, w, hw2, rfl⟩
        · exact .inl h
  unfold State.translate
  by_cases h0 : s.cached who.ni c page = []
  · simp only [h0, if_true]
    obtain ⟨a, b, tlb, pm, r, h⟩ := miss s.free
    exact ⟨_, a, b, tlb, pm, r, h⟩
  · simp only [h0, if_false]
    cases hx : (s.cached who.ni c page)[s.peek % ((s.cached who.ni c page).length + 1)]? with
    | some e =>
      refine ⟨s.free + 1, _, _, _, _, _, rfl, fun e he => .inl he, fun v l hm hl => ?_⟩
      have he := List.mem_of_getElem? hx
      simp only [State.cached, List.mem_filter, Bool.and_eq_true, beq_iff_eq] at he
      simp only [hm.2 e he.1 he.2.1.2 he.2.2, hl]
    | none =>
      obtain ⟨a, b, tlb, pm, r, h⟩ := miss (s.free + 1)
      exact ⟨_, a, b, tlb, pm, r, h⟩

/-- The translation of such a page gives its leaf, and the page stays so. -/
theorem translate_maps {s : State} {who : By} {c page v : Nat} {l : Leaf} (h : Maps s c page v) (hv : v < 2 ^ 64) (hl : leafOf v = some l) :
    ∃ n a b tlb pm, s.translate who c page = ({ s with free := n, pool := { s.pool with stks := a, stats := b, tlb := tlb, pmap := pm } }, .ok l) ∧
      (∀ e ∈ tlb, e.ctx = c → e.page = page → e.leaf.toNat = v) ∧ ∀ e ∈ tlb, e ∈ s.pool.tlb ∨ e.ctx = c ∧ e.page = page := by
  obtain ⟨n, a, b, tlb, pm, r, ht, hin, hr⟩ := translate_eq s who c page
  obtain rfl := hr v l h hl
  refine ⟨n, a, b, tlb, pm, ht, fun e he h1 h2 => ?_, fun e he => (hin e he).imp_right fun x => ⟨x.1, x.2.1⟩⟩
  rcases hin e he with h3 | ⟨-, -, w, hw, h3⟩
  · exact h.2 e h3 h1 h2
  · rw [h.1] at hw; cases hw
    rw [h3, BitVec.toNat_ofNat]; omega

/-- A read inside one page whose frame is FRESH succeeds. -/
theorem read_fresh {c v lpf : Nat} {w : Bool} {f : Frame} {x : Ctx} {who : By} (hv : v < 2 ^ 64) (hl : leafOf v = some (.pool lpf w)) :
    ∀ (n : Nat) (s : State) (cva len : Nat), Maps s c (cva / 65536) v → s.frame? lpf = some f → s.ctx? c = some x → f.owner = some c → f.st = .fresh →
      cva % 65536 + len ≤ 65536 → ∃ t b, State.readGo c who n s cva len = (t, .ok b) := by
  intro n
  induction n with
  | zero => intro s cva len _ _ _ _ _ _; exact ⟨_, _, rfl⟩
  | succ n ih =>
    intro s cva len hm hf hx ho hs hle
    unfold State.readGo
    by_cases h0 : len = 0
    · rw [if_pos h0]; exact ⟨_, _, rfl⟩
    · rw [if_neg h0]
      obtain ⟨k, ks, zs, tlb, pm, ht, hq, hold⟩ := translate_maps (who := who) hm hv hl
      simp only [ht]
      have hp : ∀ m, (({ s with free := k, pool := { s.pool with stks := ks, stats := zs, tlb := tlb, pmap := pm } } : State).readPiece c who (.pool lpf w) cva m) =
          ({ s with free := k, pool := { s.pool with stks := ks, stats := zs, tlb := tlb, pmap := pm } }, .ok (List.replicate m 0)) := by
        intro m
        have e1 : ({ s with free := k, pool := { s.pool with stks := ks, stats := zs, tlb := tlb, pmap := pm } } : State).frame? lpf = some f := hf
        have e2 : ({ s with free := k, pool := { s.pool with stks := ks, stats := zs, tlb := tlb, pmap := pm } } : State).ctx? c = some x := hx
        unfold State.readPiece
        simp only [e1, e2, ho, hs, ne_eq, not_true_eq_false, if_false]
      rw [hp]
      simp only []
      by_cases hd : len - min len (256 - cva % 256) = 0
      · rw [hd]
        have : ∃ t b, State.readGo c who n ({ s with free := k, pool := { s.pool with stks := ks, stats := zs, tlb := tlb, pmap := pm } } : State) (cva + min len (256 - cva % 256)) 0 = (t, .ok b) := by
          cases n with
          | zero => exact ⟨_, _, rfl⟩
          | succ n => exact ⟨_, _, by unfold State.readGo; rw [if_pos rfl]⟩
        obtain ⟨t, b, hr⟩ := this
        rw [hr]; exact ⟨_, _, rfl⟩
      · have hpg : (cva + min len (256 - cva % 256)) / 65536 = cva / 65536 := by omega
        obtain ⟨t, b, hr⟩ := ih { s with free := k, pool := { s.pool with stks := ks, stats := zs, tlb := tlb, pmap := pm } } (cva + min len (256 - cva % 256)) (len - min len (256 - cva % 256))
          ⟨by rw [hpg, ← hm.1]; exact walk_congr rfl rfl rfl rfl rfl rfl, by rw [hpg]; exact hq⟩ hf hx ho hs (by omega)
        rw [hr]; exact ⟨_, _, rfl⟩

/-- The ports of the context's slice without ATS. -/
abbrev NoAts (s : State) (c : Nat) : Prop := ∀ x, s.slice? (s.sliceOf c) = some x → (s.port x.port).atsOn = false

/-- Requests that go out change the outputs only. -/
theorem emits_eq {α : Type} (f : α → Out) : ∀ (l : List α) (s : State), ∃ o, l.foldl (fun a e => a.emit (f e)) s = { s with out := o }
  | [], s => ⟨_, rfl⟩
  | e :: l, s => by
    obtain ⟨o, h⟩ := emits_eq f l (s.emit (f e))
    exact ⟨o, by rw [List.foldl_cons, h]; rfl⟩

theorem hostWrite_maps {s : State} {c v p addr : Nat} {d : List Byte} {who : PriFor} (hm : Maps s c p v) (hn : NoAts s c) :
    ∃ t, s.hostWrite c addr d who = (t, .hit) ∧ Maps t c p v ∧ NoAts t c := by
  unfold State.hostWrite
  cases hs : s.slice? (s.sliceOf c) with
  | none => exact ⟨s, by simp [hs], hm, hn⟩
  | some x =>
    have ha := hn x hs
    refine ⟨_, by simp only [hs, State.hostMiss, ha, Bool.not_false, Bool.true_or, if_true]; rfl, ?_, ?_⟩ <;> unfold State.hostPut <;>
      obtain ⟨o, ho⟩ := emits_eq (fun e : Nat × Nat => .host x.port x.pasid e.1 ((d.drop (e.1 - addr)).take e.2) (s.tee (s.sliceOf c)))
        (pieces 512 addr d.length) s <;> rw [ho]
    · refine ⟨?_, hm.2⟩
      rw [← hm.1]; exact walk_congr rfl rfl rfl rfl rfl rfl
    · intro y hy
      have hsl : ((({ s with out := o } : State).dirtyHost (s.sliceOf c) addr d.length).account c fun a =>
          { a with host := a.host + BitVec.ofNat 64 d.length }).sliceOf c = s.sliceOf c := by
        simp only [State.sliceOf, State.ctx?, State.account, State.modCtx, State.onObjs, State.dirtyHost, State.modSlice, State.onSlices, tget_tmod, if_true]
        cases tget s.objs.ctxs c <;> rfl
      rw [hsl] at hy
      simp only [State.slice?, State.account, State.modCtx, State.onObjs, State.dirtyHost, State.modSlice, State.onSlices, tget_tmod, if_true] at hy
      rw [show tget s.slices.tab (s.sliceOf c) = some x from hs] at hy
      simp only [Option.map_some, Option.some.injEq] at hy
      rw [← hy]; exact ha

/-- A write inside one page of host pages succeeds. -/
theorem write_host {c v iova mask : Nat} {who : By} {pref : Option Nat} (hv : v < 2 ^ 64) (hl : leafOf v = some (.host iova mask true))
    (hk : ∀ i < 16, mask.testBit i = true) : ∀ (n : Nat) (s : State) (cva : Nat) (d : List Byte), Maps s c (cva / 65536) v → NoAts s c →
      cva % 65536 + d.length ≤ 65536 → ∃ t, State.writeGo c who pref n s cva d = (t, .ok ()) := by
  intro n
  induction n with
  | zero => intro s cva d _ _ _; exact ⟨_, rfl⟩
  | succ n ih =>
    intro s cva d hm hn hle
    unfold State.writeGo
    by_cases h0 : d = []
    · rw [if_pos h0]; exact ⟨_, rfl⟩
    · rw [if_neg h0]
      obtain ⟨k, ks, zs, tlb, pm, ht, hq, hold⟩ := translate_maps (who := who) hm hv hl
      simp only [ht]
      have hm' : Maps ({ s with free := k, pool := { s.pool with stks := ks, stats := zs, tlb := tlb, pmap := pm } } : State) c (cva / 65536) v :=
        ⟨by rw [← hm.1]; exact walk_congr rfl rfl rfl rfl rfl rfl, hq⟩
      obtain ⟨t, hw, hmt, hnt⟩ := hostWrite_maps (addr := iova + cva % 65536) (d := d.take (256 - cva % 256)) (who := .write c) hm'
        (show NoAts ({ s with free := k, pool := { s.pool with stks := ks, stats := zs, tlb := tlb, pmap := pm } } : State) c from hn)
      have hb : bits cva 12 4 < 16 := by unfold bits; omega
      have hp : (({ s with free := k, pool := { s.pool with stks := ks, stats := zs, tlb := tlb, pmap := pm } } : State).writePiece c who pref (.host iova mask true) cva
          (d.take (256 - cva % 256))) = (t, .ok ()) := by
        unfold State.writePiece
        simp only [hk _ hb, Bool.and_self, if_true, hw]
      rw [hp]
      simp only []
      by_cases hd : d.drop (d.take (256 - cva % 256)).length = []
      · rw [hd]
        cases n with
        | zero => exact ⟨_, rfl⟩
        | succ n => exact ⟨_, by unfold State.writeGo; rw [if_pos rfl]⟩
      · have hlen : 0 < (d.drop (d.take (256 - cva % 256)).length).length := List.length_pos_iff.mpr hd
        simp only [List.length_drop, List.length_take] at hlen
        have hpg : (cva + (d.take (256 - cva % 256)).length) / 65536 = cva / 65536 := by simp only [List.length_take]; omega
        refine ih t _ _ ?_ hnt ?_
        · rw [hpg]; exact hmt
        · simp only [List.length_drop, List.length_take]; omega

/-! ## Writes to a bound frame -/

/-- Frame `lpf` is bound and context `c`'s. -/
abbrev Owns (s : State) (c lpf : Nat) : Prop := ∃ f k x, s.frame? lpf = some f ∧ f.owner = some c ∧ f.st = .bound k ∧ s.ctx? c = some x

/-- A table entry is read from a table frame only, so that bytes put into a frame with an owner do not change it. -/
theorem tableEntry_put {s t : State} {lpf o i sec c cva : Nat} {f : Frame} {d : List Byte} {tag : Tag} (k : Nat) (hf : s.frame? lpf = some f)
    (ho : f.owner = some c) (hle : o + d.length ≤ 65536) (hi : i < 8192) (hs : sec < 256) (h1 : t.pool.frames = s.pool.frames)
    (h2 : t.pool.mem = memPut s.pool.mem (65536 * lpf + o) d) (h3 : t.pool.tags = tset s.pool.tags (lpf * 256 + sec) tag)
    (h4 : ∀ j, j / 256 ≠ lpf → (j ∈ t.pool.bad ↔ j ∈ s.pool.bad)) (h5 : t.sen.bootNonce = s.sen.bootNonce) :
    t.tableEntry k i cva = s.tableEntry k i cva := by
  unfold State.tableEntry State.tableTag State.frame?
  rw [h1, h5]
  cases hk : tget s.pool.frames k with
  | none => rfl
  | some g =>
    simp only []
    by_cases hg : g.owner ≠ none
    · rw [if_pos hg, if_pos hg]
    · rw [if_neg hg, if_neg hg]
      have hne : k ≠ lpf := by
        rintro rfl
        unfold State.frame? at hf
        rw [hk] at hf
        cases hf
        rw [ho] at hg
        exact hg (by simp)
      have e1 : memRead t.pool.mem (65536 * k + 8 * i) 8 = memRead s.pool.mem (65536 * k + 8 * i) 8 := by
        rw [memRead_eq, memRead_eq, h2]
        refine List.map_congr_left fun j hj => ?_
        rw [List.mem_range] at hj
        exact memGet_memPut_out _ (by omega)
      have e2 : tget t.pool.tags (k * 256 + i / 32) = tget s.pool.tags (k * 256 + i / 32) := by
        rw [h3, tget_tset, if_neg (by omega)]
      have e3 : t.pool.bad.contains (k * 256 + i / 32) = s.pool.bad.contains (k * 256 + i / 32) := by
        have := h4 (k * 256 + i / 32) (by omega)
        rw [Bool.eq_iff_iff]; simpa using this
      simp only [e1, e2, e3]

/-- Bytes put into a frame with an owner change no walk. -/
theorem walk_put {s t : State} {lpf o sec c p : Nat} {f : Frame} {d : List Byte} {tag : Tag} (hf : s.frame? lpf = some f)
    (ho : f.owner = some c) (hle : o + d.length ≤ 65536) (hs : sec < 256) (h0 : t.pool.roots = s.pool.roots) (h1 : t.pool.frames = s.pool.frames)
    (h2 : t.pool.mem = memPut s.pool.mem (65536 * lpf + o) d) (h3 : t.pool.tags = tset s.pool.tags (lpf * 256 + sec) tag)
    (h4 : ∀ j, j / 256 ≠ lpf → (j ∈ t.pool.bad ↔ j ∈ s.pool.bad)) (h5 : t.sen.bootNonce = s.sen.bootNonce) (a : Nat) : t.walk a p = s.walk a p := by
  have e := fun k i cva (hi : i < 8192) => tableEntry_put (t := t) (cva := cva) k hf ho hle hi hs h1 h2 h3 h4 h5
  unfold State.walk
  rw [h0]
  by_cases hp : 2 ^ 32 ≤ p
  · simp only [if_pos hp]
  · simp only [if_neg hp]
    cases tget s.pool.roots a with
    | none => rfl
    | some r =>
      obtain ⟨root, b⟩ := r
      cases b
      · rfl
      · simp only [e root (p / 2 ^ 26) (p * 65536) (by omega)]
        cases s.tableEntry root (p / 2 ^ 26) (p * 65536) with
        | error x => rfl
        | ok e1 =>
          simp only []
          cases nextTable e1 with
          | none => rfl
          | some t2 =>
            simp only [e t2 (p / 2 ^ 13 % 8192) (p * 65536) (by omega)]
            cases s.tableEntry t2 (p / 2 ^ 13 % 8192) (p * 65536) with
            | error x => rfl
            | ok e2 =>
              simp only []
              cases nextTable e2 with
              | none => rfl
              | some t3 => exact e t3 (p % 8192) (p * 65536) (by omega)

/-- One sector's bytes written into a bound frame, the whole sector or one that verifies. -/
theorem writePiece_bound {s : State} {c v lpf cva : Nat} {who : By} {pref : Option Nat} {d : List Byte} (hm : Maps s c (cva / 65536) v) (ho : Owns s c lpf)
    (hle : cva % 65536 + d.length ≤ 65536) (hs : d.length = 256 ∨ ∃ x, s.ctx? c = some x ∧ s.sectorOk x lpf cva = true) :
    ∃ t, s.writePiece c who pref (.pool lpf true) cva d = (t, .ok ()) ∧ Maps t c (cva / 65536) v ∧ Owns t c lpf ∧
      ((∃ x, s.ctx? c = some x ∧ s.sectorOk x lpf cva = true) → ∃ x, t.ctx? c = some x ∧ t.sectorOk x lpf cva = true) ∧
      (∀ a p, t.walk a p = s.walk a p) ∧ t.pool.tlb = s.pool.tlb ∧ t.pool.frames = s.pool.frames := by
  obtain ⟨f, k, x, hf, hw, hb, hx⟩ := ho
  unfold State.writePiece
  simp only [hf, hx, hw, Bool.not_true, bne_self_eq_false, Bool.or_self, Bool.false_eq_true, if_false, hb, FrSt.home, Option.getD_some]
  have hs' : d.length = 256 ∨ s.sectorOk x lpf cva = true := by
    rcases hs with h | ⟨y, h1, h2⟩
    · exact .inl h
    · rw [hx] at h1; cases h1; exact .inr h2
  rw [if_pos hs']
  obtain ⟨a, b, hsm⟩ := sampleAccess_eq (s.onPool fun p =>
    { p with mem := memPut p.mem (65536 * lpf + cva % 65536) d
             tags := tset p.tags (lpf * 256 + bits cva 8 8) { nonce := x.nonce, season := x.season, cva := cva / 256 }
             bad := if d.length = 256 then p.bad.filter (· != lpf * 256 + bits cva 8 8) else p.bad }) lpf k who
  rw [hsm]
  have hbits : bits cva 8 8 < 256 := by unfold bits; omega
  have hctx : ∀ (u : State) (l : Nat) (g : Acct → Acct), u.objs = s.objs → ((u.dirtyFrame l lpf).account c g).ctx? c = some { x with acct := g x.acct } := by
    intro u l g hu
    simp only [State.ctx?, State.account, State.modCtx, State.onObjs, tget_tmod, if_true, State.dirtyFrame, State.modSlice, State.onSlices, hu]
    rw [show tget s.objs.ctxs c = some x from hx]; rfl
  have hwalk : ∀ u : State, u.pool.roots = s.pool.roots → u.pool.frames = s.pool.frames →
      u.pool.mem = memPut s.pool.mem (65536 * lpf + cva % 65536) d →
      u.pool.tags = tset s.pool.tags (lpf * 256 + bits cva 8 8) { nonce := x.nonce, season := x.season, cva := cva / 256 } →
      u.pool.bad = (if d.length = 256 then s.pool.bad.filter (· != lpf * 256 + bits cva 8 8) else s.pool.bad) →
      u.sen.bootNonce = s.sen.bootNonce → ∀ a p, u.walk a p = s.walk a p := by
    intro u h0 h1 h2 h3 h4 h5 a p
    apply walk_put (d := d) (o := cva % 65536) (sec := bits cva 8 8) (tag := { nonce := x.nonce, season := x.season, cva := cva / 256 }) hf hw hle hbits h0 h1 h2 h3
      _ h5
    intro j hj
    rw [h4]
    split
    · simp only [List.mem_filter, bne_iff_ne, ne_eq, and_iff_left_iff_imp]
      intro _ h; omega
    · rfl
  refine ⟨_, rfl, ⟨?_, hm.2⟩, ?_, ?_, ?_, rfl, rfl⟩
  · rw [← hm.1]; apply hwalk <;> rfl
  · exact ⟨f, k, _, hf, hw, hb, hctx _ _ _ rfl⟩
  · rintro ⟨y, h1, h2⟩
    obtain rfl : x = y := Option.some.inj h1
    refine ⟨_, hctx _ _ _ rfl, ?_⟩
    unfold State.sectorOk at h2 ⊢
    simp only [Bool.and_eq_true, Bool.not_eq_true', List.contains_eq_mem, decide_eq_false_iff_not] at h2 ⊢
    refine ⟨?_, ?_⟩
    · show lpf * 256 + bits cva 8 8 ∉ (if d.length = 256 then s.pool.bad.filter (· != lpf * 256 + bits cva 8 8) else s.pool.bad)
      split
      · simp
      · exact h2.1
    · show (match tget (tset s.pool.tags (lpf * 256 + bits cva 8 8) _) (lpf * 256 + bits cva 8 8) with | some t => _ | none => false) = true
      rw [tget_tset, if_pos rfl]
      simp [Ctx.tagOk]
  · apply hwalk <;> rfl

/-- A write of whole sectors inside one page of a bound frame succeeds. -/
theorem write_whole {c v lpf : Nat} {who : By} {pref : Option Nat} (hv : v < 2 ^ 64) (hl : leafOf v = some (.pool lpf true)) :
    ∀ (n : Nat) (s : State) (cva : Nat) (d : List Byte), Maps s c (cva / 65536) v → Owns s c lpf → cva % 256 = 0 → d.length % 256 = 0 →
      cva % 65536 + d.length ≤ 65536 → ∃ t, State.writeGo c who pref n s cva d = (t, .ok ()) ∧ Maps t c (cva / 65536) v ∧ Owns t c lpf ∧
        (∀ p w, p ≠ cva / 65536 → Maps s c p w → Maps t c p w) ∧ t.pool.frames = s.pool.frames := by
  intro n
  induction n with
  | zero => intro s cva d hm ho _ _ _; exact ⟨_, rfl, hm, ho, fun _ _ _ h => h, rfl⟩
  | succ n ih =>
    intro s cva d hm ho ha hd hle
    unfold State.writeGo
    by_cases h0 : d = []
    · rw [if_pos h0]; exact ⟨_, rfl, hm, ho, fun _ _ _ h => h, rfl⟩
    · rw [if_neg h0]
      have hpos : 0 < d.length := List.length_pos_iff.mpr h0
      have htk : (d.take (256 - cva % 256)).length = 256 := by rw [List.length_take]; omega
      obtain ⟨k, ks, zs, tlb, pm, ht, hq, hold⟩ := translate_maps (who := who) hm hv hl
      have hm' : Maps ({ s with free := k, pool := { s.pool with stks := ks, stats := zs, tlb := tlb, pmap := pm } } : State) c (cva / 65536) v :=
        ⟨by rw [← hm.1]; exact walk_congr rfl rfl rfl rfl rfl rfl, hq⟩
      obtain ⟨t, hw, hmt, hot, -, hwk, htl, hfr⟩ := writePiece_bound (who := who) (pref := pref) (d := d.take (256 - cva % 256)) hm'
        (show Owns ({ s with free := k, pool := { s.pool with stks := ks, stats := zs, tlb := tlb, pmap := pm } } : State) c lpf from ho) (by omega) (.inl htk)
      have hother : ∀ p w, p ≠ cva / 65536 → Maps s c p w → Maps t c p w := by
        intro p w hp hs
        refine ⟨?_, ?_⟩
        · rw [hwk, ← hs.1]; exact walk_congr rfl rfl rfl rfl rfl rfl
        · intro e he h1 h2
          rw [htl] at he
          rcases hold e he with h | h
          · exact hs.2 e h h1 h2
          · exact absurd (h2.symm.trans h.2) hp
      have hpg : (cva + 256) / 65536 = cva / 65536 ∨ d.length = 256 := by omega
      simp only [ht, hw, htk]
      by_cases hmore : d.length = 256
      · refine ⟨t, ?_, hmt, hot, hother, hfr⟩
        cases n with
        | zero => rfl
        | succ n => unfold State.writeGo; rw [if_pos (List.drop_eq_nil_of_le (by omega))]
      · have hpg : (cva + 256) / 65536 = cva / 65536 := by omega
        obtain ⟨u, h1, h2, h3, h4, h5⟩ := ih t (cva + 256) (d.drop 256) (by rw [hpg]; exact hmt) hot (by omega)
          (by simp only [List.length_drop]; omega) (by simp only [List.length_drop]; omega)
        rw [hpg] at h2 h4
        exact ⟨u, h1, h2, h3, fun p w hp hs => h4 p w hp (hother p w hp hs), h5.trans hfr⟩

/-- A write inside one sector of a bound frame, which verifies, succeeds. -/
theorem write_sector {c v lpf : Nat} {who : By} {pref : Option Nat} (hv : v < 2 ^ 64) (hl : leafOf v = some (.pool lpf true)) {s : State} {cva : Nat}
    {d : List Byte} (hm : Maps s c (cva / 65536) v) (ho : Owns s c lpf) (hle : cva % 256 + d.length ≤ 256)
    (hs : ∃ x, s.ctx? c = some x ∧ s.sectorOk x lpf cva = true) :
    ∃ t, s.writeCtx c who pref cva d = (t, .ok ()) ∧ Maps t c (cva / 65536) v ∧ Owns t c lpf ∧ ∃ x, t.ctx? c = some x ∧ t.sectorOk x lpf cva = true := by
  unfold State.writeCtx
  unfold State.writeGo
  by_cases h0 : d = []
  · rw [if_pos h0]; exact ⟨_, rfl, hm, ho, hs⟩
  · rw [if_neg h0]
    have htk : d.take (256 - cva % 256) = d := List.take_of_length_le (by omega)
    obtain ⟨k, ks, zs, tlb, pm, ht, hq, hold⟩ := translate_maps (who := who) hm hv hl
    have hm' : Maps ({ s with free := k, pool := { s.pool with stks := ks, stats := zs, tlb := tlb, pmap := pm } } : State) c (cva / 65536) v :=
      ⟨by rw [← hm.1]; exact walk_congr rfl rfl rfl rfl rfl rfl, hq⟩
    obtain ⟨t, hw, hmt, hot, hst, -⟩ := writePiece_bound (who := who) (pref := pref) (d := d) hm'
      (show Owns ({ s with free := k, pool := { s.pool with stks := ks, stats := zs, tlb := tlb, pmap := pm } } : State) c lpf from ho) (by omega) (.inr hs)
    simp only [ht, htk, hw, List.drop_length]
    refine ⟨t, ?_, hmt, hot, hst hs⟩
    unfold State.writeGo
    simp

theorem sectorOk_congr {s : State} {x : Ctx} {lpf a b : Nat} (h : a / 256 = b / 256) : s.sectorOk x lpf a = s.sectorOk x lpf b := by
  have : bits a 8 8 = bits b 8 8 := by unfold bits; omega
  unfold State.sectorOk Ctx.tagOk
  rw [this, h]

/-- A directory entry of a bound frame, in a sector that verifies, can be written at decode. -/
theorem setSeq_ok {k : KvEnv} {seq st len v lpf : Nat} {s : State} (hv : v < 2 ^ 64) (hl : leafOf v = some (.pool lpf true))
    (hm : Maps s k.mo.ctx ((k.mo.base + dirAt seq) / 65536) v) (ho : Owns s k.mo.ctx lpf) (hb : k.mo.base % 65536 = 0)
    (hs : ∃ x, s.ctx? k.mo.ctx = some x ∧ s.sectorOk x lpf (k.mo.base + dirAt seq) = true) : ∃ t, k.setSeq seq st len s = .ok () t := by
  have ha : (k.mo.base + dirAt seq) % 32 = 0 := by unfold dirAt; omega
  obtain ⟨t, h1, h2, h3, h4⟩ := write_sector (who := k.who) (pref := none) (d := leBytes 1 st) hv hl hm ho (by simp [leBytes]; omega) hs
  have hd : (k.mo.base + (dirAt seq + 8)) / 65536 = (k.mo.base + dirAt seq) / 65536 := by omega
  obtain ⟨x, hx, hok⟩ := h4
  obtain ⟨u, g1, -⟩ := write_sector (who := k.who) (pref := none) (d := leBytes 4 len) (cva := k.mo.base + (dirAt seq + 8)) hv hl (by rw [hd]; exact h2) h3
    (by simp [leBytes]; omega) ⟨x, hx, by rw [← hok]; exact sectorOk_congr (by omega)⟩
  have e1 : kvDo (k.wrN (dirAt seq) 1 st) s = .ok () t := kvDo_ok (by unfold KvEnv.wrN KvEnv.wr kvIo State.writeMo; simp only [h1])
  have e2 : kvDo (k.wrN (dirAt seq + 8) 4 len) t = .ok () u := kvDo_ok (by unfold KvEnv.wrN KvEnv.wr kvIo State.writeMo; simp only [g1])
  exact ⟨u, by unfold KvEnv.setSeq; rw [kvBind_ok e1, e2]⟩

/-- A read inside one sector of a bound frame, which verifies, gives the bytes that stand there, and leaves the page as it was. -/
theorem read_sector {c v lpf : Nat} {w : Bool} {who : By} (hv : v < 2 ^ 64) (hl : leafOf v = some (.pool lpf w)) {s : State} {cva n : Nat}
    (hm : Maps s c (cva / 65536) v) (ho : Owns s c lpf) (h0 : 0 < n) (hle : cva % 256 + n ≤ 256)
    (hs : ∃ x, s.ctx? c = some x ∧ s.sectorOk x lpf cva = true) :
    ∃ t, s.readCtx c who cva n = (t, .ok (memRead s.pool.mem (65536 * lpf + cva % 65536) n)) ∧ Maps t c (cva / 65536) v ∧ Owns t c lpf ∧
      (∃ x, t.ctx? c = some x ∧ t.sectorOk x lpf cva = true) ∧ t.sched = s.sched := by
  obtain ⟨f, k, x, hf, hw, hb, hx⟩ := ho
  obtain ⟨y, hy, hok⟩ := hs
  obtain rfl : x = y := Option.some.inj (hx.symm.trans hy)
  obtain ⟨m, ks, zs, tlb, pm, ht, hq, -⟩ := translate_maps (who := who) hm hv hl
  obtain ⟨a, b, hsm⟩ := sampleAccess_eq ({ s with free := m, pool := { s.pool with stks := ks, stats := zs, tlb := tlb, pmap := pm } } : State) lpf k who
  have hp : ({ s with free := m, pool := { s.pool with stks := ks, stats := zs, tlb := tlb, pmap := pm } } : State).readPiece c who (.pool lpf w) cva n =
      (({ s with free := m, pool := { s.pool with stks := a, stats := b, tlb := tlb, pmap := pm } } : State).account c
        (fun q => { q with poolRead := q.poolRead + 256 }), .ok (memRead s.pool.mem (65536 * lpf + cva % 65536) n)) := by
    have e1 : ({ s with free := m, pool := { s.pool with stks := ks, stats := zs, tlb := tlb, pmap := pm } } : State).frame? lpf = some f := hf
    have e2 : ({ s with free := m, pool := { s.pool with stks := ks, stats := zs, tlb := tlb, pmap := pm } } : State).ctx? c = some x := hx
    have e3 : ({ s with free := m, pool := { s.pool with stks := ks, stats := zs, tlb := tlb, pmap := pm } } : State).sectorOk x lpf cva = true := hok
    unfold State.readPiece
    simp only [e1, e2, hw, hb, ne_eq, not_true_eq_false, if_false, FrSt.home, Option.getD_some, e3, if_true, hsm]
  refine ⟨(({ s with free := m, pool := { s.pool with stks := a, stats := b, tlb := tlb, pmap := pm } } : State).account c
    (fun q => { q with poolRead := q.poolRead + 256 })), ?_, ⟨?_, hq⟩, ⟨f, k, { x with acct := { x.acct with poolRead := x.acct.poolRead + 256 } }, hf, hw, hb, ?_⟩,
    ⟨{ x with acct := { x.acct with poolRead := x.acct.poolRead + 256 } }, ?_, hok⟩, rfl⟩
  · unfold State.readCtx State.readGo
    rw [if_neg (by omega), Nat.min_eq_left (by omega)]
    simp only [ht, hp]
    rw [Nat.sub_self]
    unfold State.readGo
    simp
  · rw [← hm.1]; exact walk_congr rfl rfl rfl rfl rfl rfl
  · show tget (tmod s.objs.ctxs c _) c = _
    rw [tget_tmod, if_pos rfl, show tget s.objs.ctxs c = some x from hx]; rfl
  · show tget (tmod s.objs.ctxs c _) c = _
    rw [tget_tmod, if_pos rfl, show tget s.objs.ctxs c = some x from hx]; rfl

/-- A sequence whose directory entry names no table frame lacks what no earlier work brings. -/
theorem lacks_none {k : KvEnv} {seq n v lpf : Nat} {w : Bool} {s : State} (hv : v < 2 ^ 64) (hl : leafOf v = some (.pool lpf w))
    (hm : Maps s k.mo.ctx ((k.mo.base + (dirAt seq + 4)) / 65536) v) (ho : Owns s k.mo.ctx lpf) (hb : k.mo.base % 65536 = 0)
    (hs : ∃ x, s.ctx? k.mo.ctx = some x ∧ s.sectorOk x lpf (k.mo.base + (dirAt seq + 4)) = true)
    (hd : leNat (memRead s.pool.mem (65536 * lpf + (k.mo.base + (dirAt seq + 4)) % 65536) 4) = noFrame) :
    ∃ t, k.lacks seq n s = .ok (tableFrames n - (s.sched.disps.filter (fun d => d.work.kvObj == some k.m)).foldl
        (fun a d => k.geo.framesAfter seq a d.work) 0) t ∧ Maps t k.mo.ctx ((k.mo.base + (dirAt seq + 4)) / 65536) v ∧ Owns t k.mo.ctx lpf ∧
      (∃ x, t.ctx? k.mo.ctx = some x ∧ t.sectorOk x lpf (k.mo.base + (dirAt seq + 4)) = true) ∧ t.sched = s.sched := by
  obtain ⟨t, h1, h2, h3, h4, h5⟩ := read_sector (who := k.who) (n := 4) hv hl hm ho (by omega) (by unfold dirAt; omega) hs
  refine ⟨t, ?_, h2, h3, h4, h5⟩
  have e1 : k.rdN (dirAt seq + 4) 4 s = .ok noFrame t := by
    unfold KvEnv.rdN KvEnv.rd kvIo State.readMo
    show (EStateM.bind _ _) s = _
    unfold EStateM.bind
    simp only [h1]
    rw [← hd]; rfl
  have e2 : k.headOf seq s = .ok none t := by
    unfold KvEnv.headOf
    show (EStateM.bind _ _) s = _
    unfold EStateM.bind
    simp only [e1]
    rw [if_neg (by decide)]
    unfold KvEnv.follow
    rw [if_pos rfl]; rfl
  have e3 : kvDo (do k.chain k.geo.frames (← k.headOf seq)) s = .ok [] t := by
    apply kvDo_ok
    show (EStateM.bind _ _) s = _
    unfold EStateM.bind
    simp only [e2]
    cases k.geo.frames <;> rfl
  unfold KvEnv.lacks
  rw [kvBind_ok (show (get : KvD State) s = .ok s s from rfl), kvBind_ok e3]
  rfl

end Sys2Proof.Machine
end

