-- ==== Sys2Proof/Laws/State.lean ====
section
/-!
SUPPORT. What each primitive update of State leaves in each of its fields.
-/

namespace Sys2Proof.Machine

/-! ## `State.onObjs` -/

@[simp] theorem State.onObjs_now (s : State) (f : Objs → Objs) : (s.onObjs f).now = s.now := rfl
@[simp] theorem State.onObjs_objs (s : State) (f : Objs → Objs) : (s.onObjs f).objs = f s.objs := rfl
@[simp] theorem State.onObjs_slices (s : State) (f : Objs → Objs) : (s.onObjs f).slices = s.slices := rfl
@[simp] theorem State.onObjs_sched (s : State) (f : Objs → Objs) : (s.onObjs f).sched = s.sched := rfl
@[simp] theorem State.onObjs_pool (s : State) (f : Objs → Objs) : (s.onObjs f).pool = s.pool := rfl
@[simp] theorem State.onObjs_sen (s : State) (f : Objs → Objs) : (s.onObjs f).sen = s.sen := rfl
@[simp] theorem State.onObjs_links (s : State) (f : Objs → Objs) : (s.onObjs f).links = s.links := rfl
@[simp] theorem State.onObjs_ports (s : State) (f : Objs → Objs) : (s.onObjs f).ports = s.ports := rfl
@[simp] theorem State.onObjs_evc (s : State) (f : Objs → Objs) : (s.onObjs f).evc = s.evc := rfl
@[simp] theorem State.onObjs_mbx (s : State) (f : Objs → Objs) : (s.onObjs f).mbx = s.mbx := rfl
@[simp] theorem State.onObjs_brg (s : State) (f : Objs → Objs) : (s.onObjs f).brg = s.brg := rfl
@[simp] theorem State.onObjs_ecc (s : State) (f : Objs → Objs) : (s.onObjs f).ecc = s.ecc := rfl
@[simp] theorem State.onObjs_pwr (s : State) (f : Objs → Objs) : (s.onObjs f).pwr = s.pwr := rfl
@[simp] theorem State.onObjs_mmc (s : State) (f : Objs → Objs) : (s.onObjs f).mmc = s.mmc := rfl
@[simp] theorem State.onObjs_alm (s : State) (f : Objs → Objs) : (s.onObjs f).alm = s.alm := rfl
@[simp] theorem State.onObjs_pending (s : State) (f : Objs → Objs) : (s.onObjs f).pending = s.pending := rfl
@[simp] theorem State.onObjs_free (s : State) (f : Objs → Objs) : (s.onObjs f).free = s.free := rfl
@[simp] theorem State.onObjs_ringBad (s : State) (f : Objs → Objs) : (s.onObjs f).ringBad = s.ringBad := rfl
@[simp] theorem State.onObjs_out (s : State) (f : Objs → Objs) : (s.onObjs f).out = s.out := rfl

/-! ## `State.onSched` -/

@[simp] theorem State.onSched_now (s : State) (f : Sched → Sched) : (s.onSched f).now = s.now := rfl
@[simp] theorem State.onSched_objs (s : State) (f : Sched → Sched) : (s.onSched f).objs = s.objs := rfl
@[simp] theorem State.onSched_slices (s : State) (f : Sched → Sched) : (s.onSched f).slices = s.slices := rfl
@[simp] theorem State.onSched_sched (s : State) (f : Sched → Sched) : (s.onSched f).sched = f s.sched := rfl
@[simp] theorem State.onSched_pool (s : State) (f : Sched → Sched) : (s.onSched f).pool = s.pool := rfl
@[simp] theorem State.onSched_sen (s : State) (f : Sched → Sched) : (s.onSched f).sen = s.sen := rfl
@[simp] theorem State.onSched_links (s : State) (f : Sched → Sched) : (s.onSched f).links = s.links := rfl
@[simp] theorem State.onSched_ports (s : State) (f : Sched → Sched) : (s.onSched f).ports = s.ports := rfl
@[simp] theorem State.onSched_evc (s : State) (f : Sched → Sched) : (s.onSched f).evc = s.evc := rfl
@[simp] theorem State.onSched_mbx (s : State) (f : Sched → Sched) : (s.onSched f).mbx = s.mbx := rfl
@[simp] theorem State.onSched_brg (s : State) (f : Sched → Sched) : (s.onSched f).brg = s.brg := rfl
@[simp] theorem State.onSched_ecc (s : State) (f : Sched → Sched) : (s.onSched f).ecc = s.ecc := rfl
@[simp] theorem State.onSched_pwr (s : State) (f : Sched → Sched) : (s.onSched f).pwr = s.pwr := rfl
@[simp] theorem State.onSched_mmc (s : State) (f : Sched → Sched) : (s.onSched f).mmc = s.mmc := rfl
@[simp] theorem State.onSched_alm (s : State) (f : Sched → Sched) : (s.onSched f).alm = s.alm := rfl
@[simp] theorem State.onSched_pending (s : State) (f : Sched → Sched) : (s.onSched f).pending = s.pending := rfl
@[simp] theorem State.onSched_free (s : State) (f : Sched → Sched) : (s.onSched f).free = s.free := rfl
@[simp] theorem State.onSched_ringBad (s : State) (f : Sched → Sched) : (s.onSched f).ringBad = s.ringBad := rfl
@[simp] theorem State.onSched_out (s : State) (f : Sched → Sched) : (s.onSched f).out = s.out := rfl

/-! ## `State.onPool` -/

@[simp] theorem State.onPool_now (s : State) (f : Pool → Pool) : (s.onPool f).now = s.now := rfl
@[simp] theorem State.onPool_objs (s : State) (f : Pool → Pool) : (s.onPool f).objs = s.objs := rfl
@[simp] theorem State.onPool_slices (s : State) (f : Pool → Pool) : (s.onPool f).slices = s.slices := rfl
@[simp] theorem State.onPool_sched (s : State) (f : Pool → Pool) : (s.onPool f).sched = s.sched := rfl
@[simp] theorem State.onPool_pool (s : State) (f : Pool → Pool) : (s.onPool f).pool = f s.pool := rfl
@[simp] theorem State.onPool_sen (s : State) (f : Pool → Pool) : (s.onPool f).sen = s.sen := rfl
@[simp] theorem State.onPool_links (s : State) (f : Pool → Pool) : (s.onPool f).links = s.links := rfl
@[simp] theorem State.onPool_ports (s : State) (f : Pool → Pool) : (s.onPool f).ports = s.ports := rfl
@[simp] theorem State.onPool_evc (s : State) (f : Pool → Pool) : (s.onPool f).evc = s.evc := rfl
@[simp] theorem State.onPool_mbx (s : State) (f : Pool → Pool) : (s.onPool f).mbx = s.mbx := rfl
@[simp] theorem State.onPool_brg (s : State) (f : Pool → Pool) : (s.onPool f).brg = s.brg := rfl
@[simp] theorem State.onPool_ecc (s : State) (f : Pool → Pool) : (s.onPool f).ecc = s.ecc := rfl
@[simp] theorem State.onPool_pwr (s : State) (f : Pool → Pool) : (s.onPool f).pwr = s.pwr := rfl
@[simp] theorem State.onPool_mmc (s : State) (f : Pool → Pool) : (s.onPool f).mmc = s.mmc := rfl
@[simp] theorem State.onPool_alm (s : State) (f : Pool → Pool) : (s.onPool f).alm = s.alm := rfl
@[simp] theorem State.onPool_pending (s : State) (f : Pool → Pool) : (s.onPool f).pending = s.pending := rfl
@[simp] theorem State.onPool_free (s : State) (f : Pool → Pool) : (s.onPool f).free = s.free := rfl
@[simp] theorem State.onPool_ringBad (s : State) (f : Pool → Pool) : (s.onPool f).ringBad = s.ringBad := rfl
@[simp] theorem State.onPool_out (s : State) (f : Pool → Pool) : (s.onPool f).out = s.out := rfl

/-! ## `State.onSen` -/

@[simp] theorem State.onSen_now (s : State) (f : Sen → Sen) : (s.onSen f).now = s.now := rfl
@[simp] theorem State.onSen_objs (s : State) (f : Sen → Sen) : (s.onSen f).objs = s.objs := rfl
@[simp] theorem State.onSen_slices (s : State) (f : Sen → Sen) : (s.onSen f).slices = s.slices := rfl
@[simp] theorem State.onSen_sched (s : State) (f : Sen → Sen) : (s.onSen f).sched = s.sched := rfl
@[simp] theorem State.onSen_pool (s : State) (f : Sen → Sen) : (s.onSen f).pool = s.pool := rfl
@[simp] theorem State.onSen_sen (s : State) (f : Sen → Sen) : (s.onSen f).sen = f s.sen := rfl
@[simp] theorem State.onSen_links (s : State) (f : Sen → Sen) : (s.onSen f).links = s.links := rfl
@[simp] theorem State.onSen_ports (s : State) (f : Sen → Sen) : (s.onSen f).ports = s.ports := rfl
@[simp] theorem State.onSen_evc (s : State) (f : Sen → Sen) : (s.onSen f).evc = s.evc := rfl
@[simp] theorem State.onSen_mbx (s : State) (f : Sen → Sen) : (s.onSen f).mbx = s.mbx := rfl
@[simp] theorem State.onSen_brg (s : State) (f : Sen → Sen) : (s.onSen f).brg = s.brg := rfl
@[simp] theorem State.onSen_ecc (s : State) (f : Sen → Sen) : (s.onSen f).ecc = s.ecc := rfl
@[simp] theorem State.onSen_pwr (s : State) (f : Sen → Sen) : (s.onSen f).pwr = s.pwr := rfl
@[simp] theorem State.onSen_mmc (s : State) (f : Sen → Sen) : (s.onSen f).mmc = s.mmc := rfl
@[simp] theorem State.onSen_alm (s : State) (f : Sen → Sen) : (s.onSen f).alm = s.alm := rfl
@[simp] theorem State.onSen_pending (s : State) (f : Sen → Sen) : (s.onSen f).pending = s.pending := rfl
@[simp] theorem State.onSen_free (s : State) (f : Sen → Sen) : (s.onSen f).free = s.free := rfl
@[simp] theorem State.onSen_ringBad (s : State) (f : Sen → Sen) : (s.onSen f).ringBad = s.ringBad := rfl
@[simp] theorem State.onSen_out (s : State) (f : Sen → Sen) : (s.onSen f).out = s.out := rfl

/-! ## `State.onSlices` -/

@[simp] theorem State.onSlices_now (s : State) (f : Slices → Slices) : (s.onSlices f).now = s.now := rfl
@[simp] theorem State.onSlices_objs (s : State) (f : Slices → Slices) : (s.onSlices f).objs = s.objs := rfl
@[simp] theorem State.onSlices_slices (s : State) (f : Slices → Slices) : (s.onSlices f).slices = f s.slices := rfl
@[simp] theorem State.onSlices_sched (s : State) (f : Slices → Slices) : (s.onSlices f).sched = s.sched := rfl
@[simp] theorem State.onSlices_pool (s : State) (f : Slices → Slices) : (s.onSlices f).pool = s.pool := rfl
@[simp] theorem State.onSlices_sen (s : State) (f : Slices → Slices) : (s.onSlices f).sen = s.sen := rfl
@[simp] theorem State.onSlices_links (s : State) (f : Slices → Slices) : (s.onSlices f).links = s.links := rfl
@[simp] theorem State.onSlices_ports (s : State) (f : Slices → Slices) : (s.onSlices f).ports = s.ports := rfl
@[simp] theorem State.onSlices_evc (s : State) (f : Slices → Slices) : (s.onSlices f).evc = s.evc := rfl
@[simp] theorem State.onSlices_mbx (s : State) (f : Slices → Slices) : (s.onSlices f).mbx = s.mbx := rfl
@[simp] theorem State.onSlices_brg (s : State) (f : Slices → Slices) : (s.onSlices f).brg = s.brg := rfl
@[simp] theorem State.onSlices_ecc (s : State) (f : Slices → Slices) : (s.onSlices f).ecc = s.ecc := rfl
@[simp] theorem State.onSlices_pwr (s : State) (f : Slices → Slices) : (s.onSlices f).pwr = s.pwr := rfl
@[simp] theorem State.onSlices_mmc (s : State) (f : Slices → Slices) : (s.onSlices f).mmc = s.mmc := rfl
@[simp] theorem State.onSlices_alm (s : State) (f : Slices → Slices) : (s.onSlices f).alm = s.alm := rfl
@[simp] theorem State.onSlices_pending (s : State) (f : Slices → Slices) : (s.onSlices f).pending = s.pending := rfl
@[simp] theorem State.onSlices_free (s : State) (f : Slices → Slices) : (s.onSlices f).free = s.free := rfl
@[simp] theorem State.onSlices_ringBad (s : State) (f : Slices → Slices) : (s.onSlices f).ringBad = s.ringBad := rfl
@[simp] theorem State.onSlices_out (s : State) (f : Slices → Slices) : (s.onSlices f).out = s.out := rfl

/-! ## `State.onLinks` -/

@[simp] theorem State.onLinks_now (s : State) (f : Links → Links) : (s.onLinks f).now = s.now := rfl
@[simp] theorem State.onLinks_objs (s : State) (f : Links → Links) : (s.onLinks f).objs = s.objs := rfl
@[simp] theorem State.onLinks_slices (s : State) (f : Links → Links) : (s.onLinks f).slices = s.slices := rfl
@[simp] theorem State.onLinks_sched (s : State) (f : Links → Links) : (s.onLinks f).sched = s.sched := rfl
@[simp] theorem State.onLinks_pool (s : State) (f : Links → Links) : (s.onLinks f).pool = s.pool := rfl
@[simp] theorem State.onLinks_sen (s : State) (f : Links → Links) : (s.onLinks f).sen = s.sen := rfl
@[simp] theorem State.onLinks_links (s : State) (f : Links → Links) : (s.onLinks f).links = f s.links := rfl
@[simp] theorem State.onLinks_ports (s : State) (f : Links → Links) : (s.onLinks f).ports = s.ports := rfl
@[simp] theorem State.onLinks_evc (s : State) (f : Links → Links) : (s.onLinks f).evc = s.evc := rfl
@[simp] theorem State.onLinks_mbx (s : State) (f : Links → Links) : (s.onLinks f).mbx = s.mbx := rfl
@[simp] theorem State.onLinks_brg (s : State) (f : Links → Links) : (s.onLinks f).brg = s.brg := rfl
@[simp] theorem State.onLinks_ecc (s : State) (f : Links → Links) : (s.onLinks f).ecc = s.ecc := rfl
@[simp] theorem State.onLinks_pwr (s : State) (f : Links → Links) : (s.onLinks f).pwr = s.pwr := rfl
@[simp] theorem State.onLinks_mmc (s : State) (f : Links → Links) : (s.onLinks f).mmc = s.mmc := rfl
@[simp] theorem State.onLinks_alm (s : State) (f : Links → Links) : (s.onLinks f).alm = s.alm := rfl
@[simp] theorem State.onLinks_pending (s : State) (f : Links → Links) : (s.onLinks f).pending = s.pending := rfl
@[simp] theorem State.onLinks_free (s : State) (f : Links → Links) : (s.onLinks f).free = s.free := rfl
@[simp] theorem State.onLinks_ringBad (s : State) (f : Links → Links) : (s.onLinks f).ringBad = s.ringBad := rfl
@[simp] theorem State.onLinks_out (s : State) (f : Links → Links) : (s.onLinks f).out = s.out := rfl

/-! ## `State.onBrg` -/

@[simp] theorem State.onBrg_now (s : State) (f : Brg → Brg) : (s.onBrg f).now = s.now := rfl
@[simp] theorem State.onBrg_objs (s : State) (f : Brg → Brg) : (s.onBrg f).objs = s.objs := rfl
@[simp] theorem State.onBrg_slices (s : State) (f : Brg → Brg) : (s.onBrg f).slices = s.slices := rfl
@[simp] theorem State.onBrg_sched (s : State) (f : Brg → Brg) : (s.onBrg f).sched = s.sched := rfl
@[simp] theorem State.onBrg_pool (s : State) (f : Brg → Brg) : (s.onBrg f).pool = s.pool := rfl
@[simp] theorem State.onBrg_sen (s : State) (f : Brg → Brg) : (s.onBrg f).sen = s.sen := rfl
@[simp] theorem State.onBrg_links (s : State) (f : Brg → Brg) : (s.onBrg f).links = s.links := rfl
@[simp] theorem State.onBrg_ports (s : State) (f : Brg → Brg) : (s.onBrg f).ports = s.ports := rfl
@[simp] theorem State.onBrg_evc (s : State) (f : Brg → Brg) : (s.onBrg f).evc = s.evc := rfl
@[simp] theorem State.onBrg_mbx (s : State) (f : Brg → Brg) : (s.onBrg f).mbx = s.mbx := rfl
@[simp] theorem State.onBrg_brg (s : State) (f : Brg → Brg) : (s.onBrg f).brg = f s.brg := rfl
@[simp] theorem State.onBrg_ecc (s : State) (f : Brg → Brg) : (s.onBrg f).ecc = s.ecc := rfl
@[simp] theorem State.onBrg_pwr (s : State) (f : Brg → Brg) : (s.onBrg f).pwr = s.pwr := rfl
@[simp] theorem State.onBrg_mmc (s : State) (f : Brg → Brg) : (s.onBrg f).mmc = s.mmc := rfl
@[simp] theorem State.onBrg_alm (s : State) (f : Brg → Brg) : (s.onBrg f).alm = s.alm := rfl
@[simp] theorem State.onBrg_pending (s : State) (f : Brg → Brg) : (s.onBrg f).pending = s.pending := rfl
@[simp] theorem State.onBrg_free (s : State) (f : Brg → Brg) : (s.onBrg f).free = s.free := rfl
@[simp] theorem State.onBrg_ringBad (s : State) (f : Brg → Brg) : (s.onBrg f).ringBad = s.ringBad := rfl
@[simp] theorem State.onBrg_out (s : State) (f : Brg → Brg) : (s.onBrg f).out = s.out := rfl

/-! ## `State.onPwr` -/

@[simp] theorem State.onPwr_now (s : State) (f : Pwr → Pwr) : (s.onPwr f).now = s.now := rfl
@[simp] theorem State.onPwr_objs (s : State) (f : Pwr → Pwr) : (s.onPwr f).objs = s.objs := rfl
@[simp] theorem State.onPwr_slices (s : State) (f : Pwr → Pwr) : (s.onPwr f).slices = s.slices := rfl
@[simp] theorem State.onPwr_sched (s : State) (f : Pwr → Pwr) : (s.onPwr f).sched = s.sched := rfl
@[simp] theorem State.onPwr_pool (s : State) (f : Pwr → Pwr) : (s.onPwr f).pool = s.pool := rfl
@[simp] theorem State.onPwr_sen (s : State) (f : Pwr → Pwr) : (s.onPwr f).sen = s.sen := rfl
@[simp] theorem State.onPwr_links (s : State) (f : Pwr → Pwr) : (s.onPwr f).links = s.links := rfl
@[simp] theorem State.onPwr_ports (s : State) (f : Pwr → Pwr) : (s.onPwr f).ports = s.ports := rfl
@[simp] theorem State.onPwr_evc (s : State) (f : Pwr → Pwr) : (s.onPwr f).evc = s.evc := rfl
@[simp] theorem State.onPwr_mbx (s : State) (f : Pwr → Pwr) : (s.onPwr f).mbx = s.mbx := rfl
@[simp] theorem State.onPwr_brg (s : State) (f : Pwr → Pwr) : (s.onPwr f).brg = s.brg := rfl
@[simp] theorem State.onPwr_ecc (s : State) (f : Pwr → Pwr) : (s.onPwr f).ecc = s.ecc := rfl
@[simp] theorem State.onPwr_pwr (s : State) (f : Pwr → Pwr) : (s.onPwr f).pwr = f s.pwr := rfl
@[simp] theorem State.onPwr_mmc (s : State) (f : Pwr → Pwr) : (s.onPwr f).mmc = s.mmc := rfl
@[simp] theorem State.onPwr_alm (s : State) (f : Pwr → Pwr) : (s.onPwr f).alm = s.alm := rfl
@[simp] theorem State.onPwr_pending (s : State) (f : Pwr → Pwr) : (s.onPwr f).pending = s.pending := rfl
@[simp] theorem State.onPwr_free (s : State) (f : Pwr → Pwr) : (s.onPwr f).free = s.free := rfl
@[simp] theorem State.onPwr_ringBad (s : State) (f : Pwr → Pwr) : (s.onPwr f).ringBad = s.ringBad := rfl
@[simp] theorem State.onPwr_out (s : State) (f : Pwr → Pwr) : (s.onPwr f).out = s.out := rfl

/-! ## `State.emit` -/

@[simp] theorem State.emit_now (s : State) (o : Out) : (s.emit o).now = s.now := rfl
@[simp] theorem State.emit_objs (s : State) (o : Out) : (s.emit o).objs = s.objs := rfl
@[simp] theorem State.emit_slices (s : State) (o : Out) : (s.emit o).slices = s.slices := rfl
@[simp] theorem State.emit_sched (s : State) (o : Out) : (s.emit o).sched = s.sched := rfl
@[simp] theorem State.emit_pool (s : State) (o : Out) : (s.emit o).pool = s.pool := rfl
@[simp] theorem State.emit_sen (s : State) (o : Out) : (s.emit o).sen = s.sen := rfl
@[simp] theorem State.emit_links (s : State) (o : Out) : (s.emit o).links = s.links := rfl
@[simp] theorem State.emit_ports (s : State) (o : Out) : (s.emit o).ports = s.ports := rfl
@[simp] theorem State.emit_evc (s : State) (o : Out) : (s.emit o).evc = s.evc := rfl
@[simp] theorem State.emit_mbx (s : State) (o : Out) : (s.emit o).mbx = s.mbx := rfl
@[simp] theorem State.emit_brg (s : State) (o : Out) : (s.emit o).brg = s.brg := rfl
@[simp] theorem State.emit_ecc (s : State) (o : Out) : (s.emit o).ecc = s.ecc := rfl
@[simp] theorem State.emit_pwr (s : State) (o : Out) : (s.emit o).pwr = s.pwr := rfl
@[simp] theorem State.emit_mmc (s : State) (o : Out) : (s.emit o).mmc = s.mmc := rfl
@[simp] theorem State.emit_alm (s : State) (o : Out) : (s.emit o).alm = s.alm := rfl
@[simp] theorem State.emit_pending (s : State) (o : Out) : (s.emit o).pending = s.pending := rfl
@[simp] theorem State.emit_free (s : State) (o : Out) : (s.emit o).free = s.free := rfl
@[simp] theorem State.emit_ringBad (s : State) (o : Out) : (s.emit o).ringBad = s.ringBad := rfl
@[simp] theorem State.emit_out (s : State) (o : Out) : (s.emit o).out = o :: s.out := rfl

/-! ## `State.drew` -/

@[simp] theorem State.drew_now (s : State) (n : Nat) : (s.drew n).now = s.now := rfl
@[simp] theorem State.drew_objs (s : State) (n : Nat) : (s.drew n).objs = s.objs := rfl
@[simp] theorem State.drew_slices (s : State) (n : Nat) : (s.drew n).slices = s.slices := rfl
@[simp] theorem State.drew_sched (s : State) (n : Nat) : (s.drew n).sched = s.sched := rfl
@[simp] theorem State.drew_pool (s : State) (n : Nat) : (s.drew n).pool = s.pool := rfl
@[simp] theorem State.drew_sen (s : State) (n : Nat) : (s.drew n).sen = s.sen := rfl
@[simp] theorem State.drew_links (s : State) (n : Nat) : (s.drew n).links = s.links := rfl
@[simp] theorem State.drew_ports (s : State) (n : Nat) : (s.drew n).ports = s.ports := rfl
@[simp] theorem State.drew_evc (s : State) (n : Nat) : (s.drew n).evc = s.evc := rfl
@[simp] theorem State.drew_mbx (s : State) (n : Nat) : (s.drew n).mbx = s.mbx := rfl
@[simp] theorem State.drew_brg (s : State) (n : Nat) : (s.drew n).brg = s.brg := rfl
@[simp] theorem State.drew_ecc (s : State) (n : Nat) : (s.drew n).ecc = s.ecc := rfl
@[simp] theorem State.drew_pwr (s : State) (n : Nat) : (s.drew n).pwr = s.pwr := rfl
@[simp] theorem State.drew_mmc (s : State) (n : Nat) : (s.drew n).mmc = s.mmc := rfl
@[simp] theorem State.drew_alm (s : State) (n : Nat) : (s.drew n).alm = s.alm := rfl
@[simp] theorem State.drew_pending (s : State) (n : Nat) : (s.drew n).pending = s.pending := rfl
@[simp] theorem State.drew_free (s : State) (n : Nat) : (s.drew n).free = s.free + n := rfl
@[simp] theorem State.drew_ringBad (s : State) (n : Nat) : (s.drew n).ringBad = s.ringBad := rfl
@[simp] theorem State.drew_out (s : State) (n : Nat) : (s.drew n).out = s.out := rfl

/-! ## `State.modPort` -/

@[simp] theorem State.modPort_now (s : State) (p : Nat) (f : Port → Port) : (s.modPort p f).now = s.now := rfl
@[simp] theorem State.modPort_objs (s : State) (p : Nat) (f : Port → Port) : (s.modPort p f).objs = s.objs := rfl
@[simp] theorem State.modPort_slices (s : State) (p : Nat) (f : Port → Port) : (s.modPort p f).slices = s.slices := rfl
@[simp] theorem State.modPort_sched (s : State) (p : Nat) (f : Port → Port) : (s.modPort p f).sched = s.sched := rfl
@[simp] theorem State.modPort_pool (s : State) (p : Nat) (f : Port → Port) : (s.modPort p f).pool = s.pool := rfl
@[simp] theorem State.modPort_sen (s : State) (p : Nat) (f : Port → Port) : (s.modPort p f).sen = s.sen := rfl
@[simp] theorem State.modPort_links (s : State) (p : Nat) (f : Port → Port) : (s.modPort p f).links = s.links := rfl
@[simp] theorem State.modPort_ports (s : State) (p : Nat) (f : Port → Port) : (s.modPort p f).ports = tset s.ports p (f (s.port p)) := rfl
@[simp] theorem State.modPort_evc (s : State) (p : Nat) (f : Port → Port) : (s.modPort p f).evc = s.evc := rfl
@[simp] theorem State.modPort_mbx (s : State) (p : Nat) (f : Port → Port) : (s.modPort p f).mbx = s.mbx := rfl
@[simp] theorem State.modPort_brg (s : State) (p : Nat) (f : Port → Port) : (s.modPort p f).brg = s.brg := rfl
@[simp] theorem State.modPort_ecc (s : State) (p : Nat) (f : Port → Port) : (s.modPort p f).ecc = s.ecc := rfl
@[simp] theorem State.modPort_pwr (s : State) (p : Nat) (f : Port → Port) : (s.modPort p f).pwr = s.pwr := rfl
@[simp] theorem State.modPort_mmc (s : State) (p : Nat) (f : Port → Port) : (s.modPort p f).mmc = s.mmc := rfl
@[simp] theorem State.modPort_alm (s : State) (p : Nat) (f : Port → Port) : (s.modPort p f).alm = s.alm := rfl
@[simp] theorem State.modPort_pending (s : State) (p : Nat) (f : Port → Port) : (s.modPort p f).pending = s.pending := rfl
@[simp] theorem State.modPort_free (s : State) (p : Nat) (f : Port → Port) : (s.modPort p f).free = s.free := rfl
@[simp] theorem State.modPort_ringBad (s : State) (p : Nat) (f : Port → Port) : (s.modPort p f).ringBad = s.ringBad := rfl
@[simp] theorem State.modPort_out (s : State) (p : Nat) (f : Port → Port) : (s.modPort p f).out = s.out := rfl

/-! ## `State.modSrc` -/

@[simp] theorem State.modSrc_now (s : State) (i : Nat) (f : Src → Src) : (s.modSrc i f).now = s.now := rfl
@[simp] theorem State.modSrc_objs (s : State) (i : Nat) (f : Src → Src) : (s.modSrc i f).objs = s.objs := rfl
@[simp] theorem State.modSrc_slices (s : State) (i : Nat) (f : Src → Src) : (s.modSrc i f).slices = s.slices := rfl
@[simp] theorem State.modSrc_sched (s : State) (i : Nat) (f : Src → Src) : (s.modSrc i f).sched = s.sched := rfl
@[simp] theorem State.modSrc_pool (s : State) (i : Nat) (f : Src → Src) : (s.modSrc i f).pool = s.pool := rfl
@[simp] theorem State.modSrc_sen (s : State) (i : Nat) (f : Src → Src) : (s.modSrc i f).sen = s.sen := rfl
@[simp] theorem State.modSrc_links (s : State) (i : Nat) (f : Src → Src) : (s.modSrc i f).links = s.links := rfl
@[simp] theorem State.modSrc_ports (s : State) (i : Nat) (f : Src → Src) : (s.modSrc i f).ports = s.ports := rfl
@[simp] theorem State.modSrc_evc (s : State) (i : Nat) (f : Src → Src) : (s.modSrc i f).evc = { s.evc with srcs := tset s.evc.srcs i (f (s.src i)) } := rfl
@[simp] theorem State.modSrc_mbx (s : State) (i : Nat) (f : Src → Src) : (s.modSrc i f).mbx = s.mbx := rfl
@[simp] theorem State.modSrc_brg (s : State) (i : Nat) (f : Src → Src) : (s.modSrc i f).brg = s.brg := rfl
@[simp] theorem State.modSrc_ecc (s : State) (i : Nat) (f : Src → Src) : (s.modSrc i f).ecc = s.ecc := rfl
@[simp] theorem State.modSrc_pwr (s : State) (i : Nat) (f : Src → Src) : (s.modSrc i f).pwr = s.pwr := rfl
@[simp] theorem State.modSrc_mmc (s : State) (i : Nat) (f : Src → Src) : (s.modSrc i f).mmc = s.mmc := rfl
@[simp] theorem State.modSrc_alm (s : State) (i : Nat) (f : Src → Src) : (s.modSrc i f).alm = s.alm := rfl
@[simp] theorem State.modSrc_pending (s : State) (i : Nat) (f : Src → Src) : (s.modSrc i f).pending = s.pending := rfl
@[simp] theorem State.modSrc_free (s : State) (i : Nat) (f : Src → Src) : (s.modSrc i f).free = s.free := rfl
@[simp] theorem State.modSrc_ringBad (s : State) (i : Nat) (f : Src → Src) : (s.modSrc i f).ringBad = s.ringBad := rfl
@[simp] theorem State.modSrc_out (s : State) (i : Nat) (f : Src → Src) : (s.modSrc i f).out = s.out := rfl

/-! ## `State.modCore` -/

@[simp] theorem State.modCore_now (s : State) (i : Nat) (f : Core → Core) : (s.modCore i f).now = s.now := rfl
@[simp] theorem State.modCore_objs (s : State) (i : Nat) (f : Core → Core) : (s.modCore i f).objs = s.objs := rfl
@[simp] theorem State.modCore_slices (s : State) (i : Nat) (f : Core → Core) : (s.modCore i f).slices = s.slices := rfl
@[simp] theorem State.modCore_sched (s : State) (i : Nat) (f : Core → Core) : (s.modCore i f).sched = s.sched := rfl
@[simp] theorem State.modCore_pool (s : State) (i : Nat) (f : Core → Core) : (s.modCore i f).pool = s.pool := rfl
@[simp] theorem State.modCore_sen (s : State) (i : Nat) (f : Core → Core) : (s.modCore i f).sen = s.sen := rfl
@[simp] theorem State.modCore_links (s : State) (i : Nat) (f : Core → Core) : (s.modCore i f).links = s.links := rfl
@[simp] theorem State.modCore_ports (s : State) (i : Nat) (f : Core → Core) : (s.modCore i f).ports = s.ports := rfl
@[simp] theorem State.modCore_evc (s : State) (i : Nat) (f : Core → Core) : (s.modCore i f).evc = { s.evc with cores := tset s.evc.cores i (f (s.core i)) } := rfl
@[simp] theorem State.modCore_mbx (s : State) (i : Nat) (f : Core → Core) : (s.modCore i f).mbx = s.mbx := rfl
@[simp] theorem State.modCore_brg (s : State) (i : Nat) (f : Core → Core) : (s.modCore i f).brg = s.brg := rfl
@[simp] theorem State.modCore_ecc (s : State) (i : Nat) (f : Core → Core) : (s.modCore i f).ecc = s.ecc := rfl
@[simp] theorem State.modCore_pwr (s : State) (i : Nat) (f : Core → Core) : (s.modCore i f).pwr = s.pwr := rfl
@[simp] theorem State.modCore_mmc (s : State) (i : Nat) (f : Core → Core) : (s.modCore i f).mmc = s.mmc := rfl
@[simp] theorem State.modCore_alm (s : State) (i : Nat) (f : Core → Core) : (s.modCore i f).alm = s.alm := rfl
@[simp] theorem State.modCore_pending (s : State) (i : Nat) (f : Core → Core) : (s.modCore i f).pending = s.pending := rfl
@[simp] theorem State.modCore_free (s : State) (i : Nat) (f : Core → Core) : (s.modCore i f).free = s.free := rfl
@[simp] theorem State.modCore_ringBad (s : State) (i : Nat) (f : Core → Core) : (s.modCore i f).ringBad = s.ringBad := rfl
@[simp] theorem State.modCore_out (s : State) (i : Nat) (f : Core → Core) : (s.modCore i f).out = s.out := rfl

/-! ## `State.modWire` -/

@[simp] theorem State.modWire_now (s : State) (i : Nat) (f : Wire → Wire) : (s.modWire i f).now = s.now := rfl
@[simp] theorem State.modWire_objs (s : State) (i : Nat) (f : Wire → Wire) : (s.modWire i f).objs = s.objs := rfl
@[simp] theorem State.modWire_slices (s : State) (i : Nat) (f : Wire → Wire) : (s.modWire i f).slices = s.slices := rfl
@[simp] theorem State.modWire_sched (s : State) (i : Nat) (f : Wire → Wire) : (s.modWire i f).sched = s.sched := rfl
@[simp] theorem State.modWire_pool (s : State) (i : Nat) (f : Wire → Wire) : (s.modWire i f).pool = s.pool := rfl
@[simp] theorem State.modWire_sen (s : State) (i : Nat) (f : Wire → Wire) : (s.modWire i f).sen = s.sen := rfl
@[simp] theorem State.modWire_links (s : State) (i : Nat) (f : Wire → Wire) : (s.modWire i f).links = s.links := rfl
@[simp] theorem State.modWire_ports (s : State) (i : Nat) (f : Wire → Wire) : (s.modWire i f).ports = s.ports := rfl
@[simp] theorem State.modWire_evc (s : State) (i : Nat) (f : Wire → Wire) : (s.modWire i f).evc = { s.evc with wires := tset s.evc.wires i (f (s.wire i)) } := rfl
@[simp] theorem State.modWire_mbx (s : State) (i : Nat) (f : Wire → Wire) : (s.modWire i f).mbx = s.mbx := rfl
@[simp] theorem State.modWire_brg (s : State) (i : Nat) (f : Wire → Wire) : (s.modWire i f).brg = s.brg := rfl
@[simp] theorem State.modWire_ecc (s : State) (i : Nat) (f : Wire → Wire) : (s.modWire i f).ecc = s.ecc := rfl
@[simp] theorem State.modWire_pwr (s : State) (i : Nat) (f : Wire → Wire) : (s.modWire i f).pwr = s.pwr := rfl
@[simp] theorem State.modWire_mmc (s : State) (i : Nat) (f : Wire → Wire) : (s.modWire i f).mmc = s.mmc := rfl
@[simp] theorem State.modWire_alm (s : State) (i : Nat) (f : Wire → Wire) : (s.modWire i f).alm = s.alm := rfl
@[simp] theorem State.modWire_pending (s : State) (i : Nat) (f : Wire → Wire) : (s.modWire i f).pending = s.pending := rfl
@[simp] theorem State.modWire_free (s : State) (i : Nat) (f : Wire → Wire) : (s.modWire i f).free = s.free := rfl
@[simp] theorem State.modWire_ringBad (s : State) (i : Nat) (f : Wire → Wire) : (s.modWire i f).ringBad = s.ringBad := rfl
@[simp] theorem State.modWire_out (s : State) (i : Nat) (f : Wire → Wire) : (s.modWire i f).out = s.out := rfl

/-! ## `State.modMbox` -/

@[simp] theorem State.modMbox_now (s : State) (i : Nat) (f : Mbox → Mbox) : (s.modMbox i f).now = s.now := rfl
@[simp] theorem State.modMbox_objs (s : State) (i : Nat) (f : Mbox → Mbox) : (s.modMbox i f).objs = s.objs := rfl
@[simp] theorem State.modMbox_slices (s : State) (i : Nat) (f : Mbox → Mbox) : (s.modMbox i f).slices = s.slices := rfl
@[simp] theorem State.modMbox_sched (s : State) (i : Nat) (f : Mbox → Mbox) : (s.modMbox i f).sched = s.sched := rfl
@[simp] theorem State.modMbox_pool (s : State) (i : Nat) (f : Mbox → Mbox) : (s.modMbox i f).pool = s.pool := rfl
@[simp] theorem State.modMbox_sen (s : State) (i : Nat) (f : Mbox → Mbox) : (s.modMbox i f).sen = s.sen := rfl
@[simp] theorem State.modMbox_links (s : State) (i : Nat) (f : Mbox → Mbox) : (s.modMbox i f).links = s.links := rfl
@[simp] theorem State.modMbox_ports (s : State) (i : Nat) (f : Mbox → Mbox) : (s.modMbox i f).ports = s.ports := rfl
@[simp] theorem State.modMbox_evc (s : State) (i : Nat) (f : Mbox → Mbox) : (s.modMbox i f).evc = s.evc := rfl
@[simp] theorem State.modMbox_mbx (s : State) (i : Nat) (f : Mbox → Mbox) : (s.modMbox i f).mbx = { s.mbx with boxes := tset s.mbx.boxes i (f (s.mbox i)) } := rfl
@[simp] theorem State.modMbox_brg (s : State) (i : Nat) (f : Mbox → Mbox) : (s.modMbox i f).brg = s.brg := rfl
@[simp] theorem State.modMbox_ecc (s : State) (i : Nat) (f : Mbox → Mbox) : (s.modMbox i f).ecc = s.ecc := rfl
@[simp] theorem State.modMbox_pwr (s : State) (i : Nat) (f : Mbox → Mbox) : (s.modMbox i f).pwr = s.pwr := rfl
@[simp] theorem State.modMbox_mmc (s : State) (i : Nat) (f : Mbox → Mbox) : (s.modMbox i f).mmc = s.mmc := rfl
@[simp] theorem State.modMbox_alm (s : State) (i : Nat) (f : Mbox → Mbox) : (s.modMbox i f).alm = s.alm := rfl
@[simp] theorem State.modMbox_pending (s : State) (i : Nat) (f : Mbox → Mbox) : (s.modMbox i f).pending = s.pending := rfl
@[simp] theorem State.modMbox_free (s : State) (i : Nat) (f : Mbox → Mbox) : (s.modMbox i f).free = s.free := rfl
@[simp] theorem State.modMbox_ringBad (s : State) (i : Nat) (f : Mbox → Mbox) : (s.modMbox i f).ringBad = s.ringBad := rfl
@[simp] theorem State.modMbox_out (s : State) (i : Nat) (f : Mbox → Mbox) : (s.modMbox i f).out = s.out := rfl

/-! ## `State.almanac` -/

@[simp] theorem State.almanac_now (s : State) : (s.almanac).now = s.now := rfl
@[simp] theorem State.almanac_objs (s : State) : (s.almanac).objs = s.objs := rfl
@[simp] theorem State.almanac_slices (s : State) : (s.almanac).slices = s.slices := rfl
@[simp] theorem State.almanac_sched (s : State) : (s.almanac).sched = s.sched := rfl
@[simp] theorem State.almanac_pool (s : State) : (s.almanac).pool = s.pool := rfl
@[simp] theorem State.almanac_sen (s : State) : (s.almanac).sen = s.sen := rfl
@[simp] theorem State.almanac_links (s : State) : (s.almanac).links = s.links := rfl
@[simp] theorem State.almanac_ports (s : State) : (s.almanac).ports = s.ports := rfl
@[simp] theorem State.almanac_evc (s : State) : (s.almanac).evc = s.evc := rfl
@[simp] theorem State.almanac_mbx (s : State) : (s.almanac).mbx = s.mbx := rfl
@[simp] theorem State.almanac_brg (s : State) : (s.almanac).brg = s.brg := rfl
@[simp] theorem State.almanac_ecc (s : State) : (s.almanac).ecc = s.ecc := rfl
@[simp] theorem State.almanac_pwr (s : State) : (s.almanac).pwr = s.pwr := rfl
@[simp] theorem State.almanac_mmc (s : State) : (s.almanac).mmc = s.mmc := rfl
@[simp] theorem State.almanac_alm (s : State) : (s.almanac).alm = { s.alm with gen := s.alm.gen + 2 } := rfl
@[simp] theorem State.almanac_pending (s : State) : (s.almanac).pending = s.pending := rfl
@[simp] theorem State.almanac_free (s : State) : (s.almanac).free = s.free := rfl
@[simp] theorem State.almanac_ringBad (s : State) : (s.almanac).ringBad = s.ringBad := rfl
@[simp] theorem State.almanac_out (s : State) : (s.almanac).out = s.out := rfl

/-! ## Reading a part that was just changed -/

@[simp] theorem State.port_modPort (s : State) (p q : Nat) (f : Port → Port) : (s.modPort p f).port q = if q = p then f (s.port p) else s.port q := by
  simp only [State.port, State.modPort, tgetD, tget_tset]; split <;> rfl

@[simp] theorem State.src_modSrc (s : State) (i j : Nat) (f : Src → Src) : (s.modSrc i f).src j = if j = i then f (s.src i) else s.src j := by
  simp only [State.src, State.modSrc, tgetD, tget_tset]; split <;> rfl

@[simp] theorem State.core_modCore (s : State) (i j : Nat) (f : Core → Core) : (s.modCore i f).core j = if j = i then f (s.core i) else s.core j := by
  simp only [State.core, State.modCore, tgetD, tget_tset]; split <;> rfl

@[simp] theorem State.wire_modWire (s : State) (i j : Nat) (f : Wire → Wire) : (s.modWire i f).wire j = if j = i then f (s.wire i) else s.wire j := by
  simp only [State.wire, State.modWire, tgetD, tget_tset]; split <;> rfl

@[simp] theorem State.mbox_modMbox (s : State) (i j : Nat) (f : Mbox → Mbox) : (s.modMbox i f).mbox j = if j = i then f (s.mbox i) else s.mbox j := by
  simp only [State.mbox, State.modMbox, tgetD, tget_tset]; split <;> rfl

@[simp] theorem State.ctx?_modCtx (s : State) (c d : Nat) (f : Ctx → Ctx) : (s.modCtx c f).ctx? d = if d = c then (s.ctx? c).map f else s.ctx? d := by
  simp only [State.ctx?, State.modCtx, State.onObjs, tget_tmod]

@[simp] theorem State.queue?_modQueue (s : State) (q r : Nat) (f : Queue → Queue) :
    (s.modQueue q f).queue? r = if r = q then (s.queue? q).map f else s.queue? r := by
  simp only [State.queue?, State.modQueue, State.onObjs, tget_tmod]

@[simp] theorem State.mo?_modMo (s : State) (m n : Nat) (f : Mo → Mo) : (s.modMo m f).mo? n = if n = m then (s.mo? m).map f else s.mo? n := by
  simp only [State.mo?, State.modMo, State.onObjs, tget_tmod]

@[simp] theorem State.fence?_modFence (s : State) (m n : Nat) (f : Fence → Fence) :
    (s.modFence m f).fence? n = if n = m then (s.fence? m).map f else s.fence? n := by
  simp only [State.fence?, State.modFence, State.onObjs, tget_tmod]

@[simp] theorem State.slice?_modSlice (s : State) (l k : Nat) (f : Slice → Slice) :
    (s.modSlice l f).slice? k = if k = l then (s.slice? l).map f else s.slice? k := by
  simp only [State.slice?, State.modSlice, State.onSlices, tget_tmod]

@[simp] theorem State.frame?_modFrame (s : State) (l k : Nat) (f : Frame → Frame) :
    (s.modFrame l f).frame? k = if k = l then (s.frame? l).map f else s.frame? k := by
  simp only [State.frame?, State.modFrame, State.onPool, tget_tmod]

end Sys2Proof.Machine
end

