-- ==== Sys2Proof/Tests/Slice0.lean ====
section
/-!
SUPPORT. Tests. What WellFormed accepts and refuses; small results of single commands, their expected values worked out by hand from the
rules named; and, for the statements with hypotheses, a concrete state and operands that meet all of a clause's hypotheses together
(witness_<statement>_<clause>).
-/

set_option Elab.async false
set_option exponentiation.threshold 1024
set_option maxRecDepth 20000
set_option linter.style.longLine false

open Sys2Proof Sys2Proof.Machine

namespace Sys2Proof.Tests

/-! ## Operands for the tests -/

def hdr0 : Hdr := { q := 0, flags := 0, cont := 0, context := 0, fence := 0, tag := 0, fval := 0, rsvd := false }
def queueArgs0 : QueueArgs := { target := 0, ringAddr := 0, ringObj := 0, log2 := 4, cls := 0, weight := 1, replyAddr := 0, replyObj := 0 }
def bind0 : Bind := { obj := 0, index := 0, off := 0 }
def dispArgs0 : DispArgs := { program := 0, count := 1, polder := 0, entry := 0, save := 0, binds := [bind0], cookie := 0 }
def remoteArgs0 : RemoteArgs := { link := 0, arg := 0, result := 0, func := 0, argLen := 0, cookie := 0 }
def appendArgs0 : AppendArgs :=
  { obj := 0, layer0 := 0, nlay := 1, seq := 0, source := 0, srcOff := 0, pos := 0, count := 1, form := 0, polder := 0, cookie := 0 }
def attendArgs0 : AttendArgs :=
  { obj := 0, layer := 0, nq := 1, queries := 0, results := 0, qOff := 0, sigma := 0x3F800000, outFmt := 8, opts := 0, polder := 0, rOff := 0, ret := 0
    port := 0, cookie := 0 }
def sliceArgs0 : SliceArgs :=
  { pasid := 1, port := 0, mode := 0, qCtx := 1, qQueue := 1, qFence := 1, qFrame := 0, hostBw := 0, linkBw := 0, evtAddr := 0, evtLog2 := 6, vector := 0
    ringAddr := 0, ringLog2 := 4, weight := 1, replyAddr := 0 }
def shapeArgs0 : ShapeArgs := { link := 0, overhead := 0, slice := 0, weight := 0, rate := 0, burst := 0 }
def kat0 : KatResult := { pass := 0x1FFFF, store := true, mover := true, csq := true, icu := true }
def token0 : Token := { magic := 0x4B544244, version := 1, scope := 0, rsvd := false, device := 0, challenge := 0, lifetime := 1, sigOk := true, signer := 0 }
def chain0 : Chain := { leafOk := true, sigOk := true, root := 0 }
def image0 : Image :=
  { present := true, legacy := false, magic := 0x4E574643, format := 0x0200, hdrLen := 512, bodyLen := 64, svn := 0, component := 1, version := 0, certLen := 8, keySlot := 0
    rsvd := false, chain := chain0, sigOk := true, tagOk := true, bodyOk := true, key := 0, digest := 0, tableOff := 0, padOk := true, pairs := [] }
def lics0 : LicSet := { magic := 0x5353434C, format := 0x0100, count := 0, chainLen := 8, rsvd := 0, chain := chain0, recs := [], digest := 0 }
def bundle0 : Bundle := { sigOk := false, signer := 0, creds := [], vendors := [] }
def far0 : FarEnd :=
  { signal := true, phy := true, lanes := 8, ident := 0, attach := true, width := 8, vcs := 1, ded := List.replicate 8 1, cap := 8, coord := (0, 0, 0)
    rdisp := false, chain := chain0, share := (0, 0), certDig := 0 }
def flit0 : Flit := { seq := 0, vc := 0, kph := false, fill := 0, ctr := 0, fecOk := true, tagOk := true }
def ctl0 : CtlFlit :=
  { kph := false, ack := 0, ackValid := false, nak := false, freed := List.replicate 8 0, reqKind := 0, reqArg := 0, reqId := 0, reply := 0, replyId := 0
    tagOk := true }
def msg0 : Msg :=
  { mtype := 1, flags := 0, units := 0, tag := 0, binding := 0, src := 0, dst := 0, addr := 0, len := 0, route := 0, data := [], sealCtr := 0
    sealTag := [], bad := false }
def iface0 : IfaceId := { func := 0, slice := 0, rest := 0 }
def boot0 : Boot :=
  { svn := 0, stepping := 1, burnt := 0, revoked := 0, slots := []
    fused := { root := 0, idKey := 0, linkKey := 0, imgKey := 0, rootDig := 0, dbgDig := 0 }, device := 0, linkDev := 0
    fuseGood := List.replicate 20 0x1FFFF, mmcFw := { image0 with component := 3 }, romVer := 0, links := none, fw := image0, golden := image0, hubOk := true
    ucode := { image0 with component := 2 }, kat := List.replicate 20 kat0, stackOk := 0xFFFFF, far := [], lics := lics0, idCert := chain0, linkCert := chain0
    bundle := bundle0, admin := none, entropyOk := true, bootUs := 1 }
def raw0 : RawArgs := { op := 0, sel := 4, obj := 0, seq := 0, newLen := 0, cookie := 0 }

/-! ## Well-formed commands -/

/-- WellFormed accepts: object and fence packets. -/
theorem test_wf_accepts_object_and_fence_packets : ([
  .ctxCreate hdr0 0 0 0, .ctxDestroy hdr0 0, .queueCreate hdr0 queueArgs0, .ctxSetRing hdr0 0 0 0 0, .queueDestroy hdr0 0, .queueStart hdr0 0,
   .queueStop hdr0 0, .moCreate hdr0 0 0 0 0, .moFree hdr0 0, .moSeal hdr0 0, .fenceCreate hdr0 0, .fenceFree hdr0 0, .programLoad hdr0 0 0,
   .programFree hdr0 0, .queueSetWeight hdr0 0 0, .moFill hdr0 0 0 0 0, .moCopy hdr0 0 0 0 0 0, .moPlaceHint hdr0 0 0, .dispatch hdr0 dispArgs0,
   .dispatchRemote hdr0 remoteArgs0, .kvAppend hdr0 appendArgs0, .kvAttend hdr0 attendArgs0, .kvFork hdr0 0 0 0 0 0, .kvEvictRelease hdr0 0 0 0,
   .kvEvictTruncate hdr0 0 0 0 0, .kvEvictFormat hdr0 0 0 0, .fenceSignal hdr0, .fenceWait hdr0 0 0, .fenceNotify hdr0 0 0 0, .fenceReset hdr0 0 0,
   .ctxSetSlowdown hdr0 0] : List Instr).all Instr.wf = true := by decide

/-- WellFormed refuses: object and fence packets. -/
theorem test_wf_refuses_object_and_fence_packets_1 : ([
  .ctxCreate { hdr0 with q := 8192 } 0 0 0, .ctxCreate hdr0 (2 ^ 64) 0 0, .ctxCreate hdr0 0 (2 ^ 8) 0, .ctxCreate hdr0 0 0 (2 ^ 16),
   .ctxDestroy { hdr0 with q := 8192 } 0, .queueCreate { hdr0 with q := 8192 } queueArgs0, .queueCreate hdr0 { queueArgs0 with ringAddr := 2 ^ 64 },
   .queueCreate hdr0 { queueArgs0 with log2 := 2 ^ 8 }, .queueCreate hdr0 { queueArgs0 with cls := 2 ^ 8 },
   .queueCreate hdr0 { queueArgs0 with weight := 2 ^ 32 }, .queueCreate hdr0 { queueArgs0 with replyAddr := 2 ^ 64 },
   .ctxSetRing { hdr0 with q := 8192 } 0 0 0 0, .ctxSetRing hdr0 (2 ^ 64) 0 0 0, .ctxSetRing hdr0 0 0 (2 ^ 8) 0, .ctxSetRing hdr0 0 0 0 (2 ^ 16),
   .queueDestroy { hdr0 with q := 8192 } 0, .queueStart { hdr0 with q := 8192 } 0, .queueStop { hdr0 with q := 8192 } 0,
   .moCreate { hdr0 with q := 8192 } 0 0 0 0, .moCreate hdr0 (2 ^ 64) 0 0 0, .moCreate hdr0 0 (2 ^ 64) 0 0, .moCreate hdr0 0 0 (2 ^ 8) 0,
   .moFree { hdr0 with q := 8192 } 0, .moSeal { hdr0 with q := 8192 } 0, .fenceCreate { hdr0 with q := 8192 } 0,
   .fenceFree { hdr0 with q := 8192 } 0, .programLoad { hdr0 with q := 8192 } 0 0, .programLoad hdr0 0 (2 ^ 64),
   .programFree { hdr0 with q := 8192 } 0, .queueSetWeight { hdr0 with q := 8192 } 0 0, .queueSetWeight hdr0 0 (2 ^ 32),
   .moFill { hdr0 with q := 8192 } 0 0 0 0, .moFill hdr0 0 0 (2 ^ 64) 0, .moFill hdr0 0 0 0 (2 ^ 64), .moCopy { hdr0 with q := 8192 } 0 0 0 0 0,
   .moCopy hdr0 0 0 (2 ^ 64) 0 0, .moCopy hdr0 0 0 0 (2 ^ 64) 0, .moCopy hdr0 0 0 0 0 (2 ^ 64), .moPlaceHint { hdr0 with q := 8192 } 0 0,
   .moPlaceHint hdr0 0 (2 ^ 8), .dispatch { hdr0 with q := 8192 } dispArgs0, .dispatch hdr0 { dispArgs0 with count := 2 ^ 16 },
   .dispatch hdr0 { dispArgs0 with polder := 2 ^ 8 }] : List Instr).all (fun i => !i.wf) = true := by decide

/-- WellFormed refuses: object and fence packets. -/
theorem test_wf_refuses_object_and_fence_packets_2 : ([
  .dispatch hdr0 { dispArgs0 with entry := 2 ^ 32 }, .dispatch hdr0 { dispArgs0 with binds := [{ obj := 0, index := 65536, off := 0 }] },
   .dispatch hdr0 { dispArgs0 with binds := [] }, .dispatchRemote { hdr0 with q := 8192 } remoteArgs0,
   .dispatchRemote hdr0 { remoteArgs0 with link := 2 ^ 8 }, .dispatchRemote hdr0 { remoteArgs0 with argLen := 2 ^ 64 },
   .kvAppend { hdr0 with q := 8192 } appendArgs0, .kvAppend hdr0 { appendArgs0 with layer0 := 2 ^ 16 },
   .kvAppend hdr0 { appendArgs0 with nlay := 2 ^ 16 }, .kvAppend hdr0 { appendArgs0 with seq := 2 ^ 32 },
   .kvAppend hdr0 { appendArgs0 with srcOff := 2 ^ 64 }, .kvAppend hdr0 { appendArgs0 with pos := 2 ^ 32 },
   .kvAppend hdr0 { appendArgs0 with count := 2 ^ 16 }, .kvAppend hdr0 { appendArgs0 with form := 2 ^ 8 },
   .kvAppend hdr0 { appendArgs0 with polder := 2 ^ 8 }, .kvAttend { hdr0 with q := 8192 } attendArgs0,
   .kvAttend hdr0 { attendArgs0 with layer := 2 ^ 16 }, .kvAttend hdr0 { attendArgs0 with nq := 2 ^ 16 },
   .kvAttend hdr0 { attendArgs0 with qOff := 2 ^ 64 }, .kvAttend hdr0 { attendArgs0 with outFmt := 2 ^ 8 },
   .kvAttend hdr0 { attendArgs0 with opts := 2 ^ 8 }, .kvAttend hdr0 { attendArgs0 with polder := 2 ^ 8 },
   .kvAttend hdr0 { attendArgs0 with rOff := 2 ^ 64 }, .kvAttend hdr0 { attendArgs0 with ret := 2 ^ 8 },
   .kvAttend hdr0 { attendArgs0 with port := 2 ^ 8 }, .kvFork { hdr0 with q := 8192 } 0 0 0 0 0, .kvFork hdr0 0 (2 ^ 32) 0 0 0,
   .kvFork hdr0 0 0 (2 ^ 32) 0 0, .kvFork hdr0 0 0 0 (2 ^ 32) 0, .kvEvictRelease { hdr0 with q := 8192 } 0 0 0, .kvEvictRelease hdr0 0 (2 ^ 32) 0,
   .kvEvictTruncate { hdr0 with q := 8192 } 0 0 0 0, .kvEvictTruncate hdr0 0 (2 ^ 32) 0 0, .kvEvictTruncate hdr0 0 0 (2 ^ 32) 0,
   .kvEvictFormat { hdr0 with q := 8192 } 0 0 0, .kvEvictFormat hdr0 0 (2 ^ 32) 0, .fenceSignal { hdr0 with q := 8192 },
   .fenceWait { hdr0 with q := 8192 } 0 0, .fenceNotify { hdr0 with q := 8192 } 0 0 0, .fenceReset { hdr0 with q := 8192 } 0 0,
   .ctxSetSlowdown { hdr0 with q := 8192 } 0, .ctxSetSlowdown hdr0 (2 ^ 16),
   .dispatch hdr0 { dispArgs0 with binds := [{ obj := 0, index := 0, off := 2 ^ 64 }] }] : List Instr).all (fun i => !i.wf) = true := by decide

/-- WellFormed accepts: transaction, query and slice packets. -/
theorem test_wf_accepts_transaction_query_and_slice_packets : ([
  .txnBegin hdr0, .txnCommit hdr0 0, .txnAbort hdr0 0, .queryAlmanac hdr0 0 0, .queryFence hdr0 0, .queryContext hdr0 0 0 0, .queryMo hdr0 0,
   .queryQueue hdr0 0, .queryDigest hdr0 0 0 0, .sliceCreate hdr0 sliceArgs0, .sliceDestroy hdr0 0, .sliceSetQuota hdr0 0 0 0,
   .sliceSetShare hdr0 0 0 0, .polderShape hdr0 0 0 0, .polderCalendar hdr0 0 0 0, .polderAdmit hdr0 0 0 0 0 0, .linkShape hdr0 shapeArgs0,
   .pdFramesBacked hdr0 0 0, .sliceDirtyLog hdr0 0 0 0 0 none, .sliceQuiesce hdr0 0, .sliceResume hdr0 0, .sluiceSet hdr0 0 0, .embankmentSet hdr0 0,
   .placementMode hdr0 0] : List Instr).all Instr.wf = true := by decide

/-- WellFormed refuses: transaction, query and slice packets. -/
theorem test_wf_refuses_transaction_query_and_slice_packets_1 : ([
  .txnBegin { hdr0 with q := 8192 }, .txnCommit { hdr0 with q := 8192 } 0, .txnAbort { hdr0 with q := 8192 } 0,
   .queryAlmanac { hdr0 with q := 8192 } 0 0, .queryAlmanac hdr0 0 (2 ^ 64), .queryFence { hdr0 with q := 8192 } 0,
   .queryContext { hdr0 with q := 8192 } 0 0 0, .queryContext hdr0 0 0 (2 ^ 64), .queryMo { hdr0 with q := 8192 } 0,
   .queryQueue { hdr0 with q := 8192 } 0, .queryDigest { hdr0 with q := 8192 } 0 0 0, .queryDigest hdr0 0 0 (2 ^ 64),
   .sliceCreate { hdr0 with q := 8192 } sliceArgs0, .sliceCreate hdr0 { sliceArgs0 with pasid := 2 ^ 32 },
   .sliceCreate hdr0 { sliceArgs0 with port := 2 ^ 8 }, .sliceCreate hdr0 { sliceArgs0 with mode := 2 ^ 8 },
   .sliceCreate hdr0 { sliceArgs0 with qCtx := 2 ^ 32 }, .sliceCreate hdr0 { sliceArgs0 with qQueue := 2 ^ 32 },
   .sliceCreate hdr0 { sliceArgs0 with qFence := 2 ^ 32 }, .sliceCreate hdr0 { sliceArgs0 with qFrame := 2 ^ 64 },
   .sliceCreate hdr0 { sliceArgs0 with hostBw := 2 ^ 32 }, .sliceCreate hdr0 { sliceArgs0 with linkBw := 2 ^ 32 },
   .sliceCreate hdr0 { sliceArgs0 with evtAddr := 2 ^ 64 }, .sliceCreate hdr0 { sliceArgs0 with evtLog2 := 2 ^ 8 },
   .sliceCreate hdr0 { sliceArgs0 with vector := 2 ^ 16 }, .sliceCreate hdr0 { sliceArgs0 with ringAddr := 2 ^ 64 },
   .sliceCreate hdr0 { sliceArgs0 with ringLog2 := 2 ^ 8 }, .sliceCreate hdr0 { sliceArgs0 with weight := 2 ^ 32 },
   .sliceCreate hdr0 { sliceArgs0 with replyAddr := 2 ^ 64 }, .sliceDestroy { hdr0 with q := 8192 } 0, .sliceSetQuota { hdr0 with q := 8192 } 0 0 0,
   .sliceSetQuota hdr0 0 (2 ^ 8) 0, .sliceSetQuota hdr0 0 0 (2 ^ 64)] : List Instr).all (fun i => !i.wf) = true := by decide

/-- WellFormed refuses: transaction, query and slice packets. -/
theorem test_wf_refuses_transaction_query_and_slice_packets_2 : ([
  .sliceSetShare { hdr0 with q := 8192 } 0 0 0, .sliceSetShare hdr0 0 (2 ^ 8) 0, .sliceSetShare hdr0 0 0 (2 ^ 32),
   .polderShape { hdr0 with q := 8192 } 0 0 0, .polderShape hdr0 (2 ^ 8) 0 0, .polderShape hdr0 0 0 (2 ^ 32),
   .polderCalendar { hdr0 with q := 8192 } 0 0 0, .polderCalendar hdr0 (2 ^ 8) 0 0, .polderAdmit { hdr0 with q := 8192 } 0 0 0 0 0,
   .polderAdmit hdr0 0 (2 ^ 8) 0 0 0, .polderAdmit hdr0 0 0 (2 ^ 8) 0 0, .linkShape { hdr0 with q := 8192 } shapeArgs0,
   .linkShape hdr0 { shapeArgs0 with link := 2 ^ 8 }, .linkShape hdr0 { shapeArgs0 with overhead := 2 ^ 16 },
   .linkShape hdr0 { shapeArgs0 with weight := 2 ^ 32 }, .linkShape hdr0 { shapeArgs0 with rate := 2 ^ 32 },
   .linkShape hdr0 { shapeArgs0 with burst := 2 ^ 32 }, .pdFramesBacked { hdr0 with q := 8192 } 0 0, .pdFramesBacked hdr0 (2 ^ 64) 0,
   .pdFramesBacked hdr0 0 (2 ^ 16), .sliceDirtyLog { hdr0 with q := 8192 } 0 0 0 0 none, .sliceDirtyLog hdr0 0 (2 ^ 8) 0 0 none,
   .sliceDirtyLog hdr0 0 0 (2 ^ 64) 0 none, .sliceDirtyLog hdr0 0 0 0 (2 ^ 64) none, .sliceQuiesce { hdr0 with q := 8192 } 0,
   .sliceResume { hdr0 with q := 8192 } 0, .sluiceSet { hdr0 with q := 8192 } 0 0, .sluiceSet hdr0 (2 ^ 8) 0, .sluiceSet hdr0 0 (2 ^ 16),
   .embankmentSet { hdr0 with q := 8192 } 0, .embankmentSet hdr0 (2 ^ 8), .placementMode { hdr0 with q := 8192 } 0, .placementMode hdr0 (2 ^ 8)] : List Instr).all (fun i => !i.wf) = true := by decide

/-- WellFormed accepts: security packets and register commands. -/
theorem test_wf_accepts_security_packets_and_register_commands : ([
  .keyRotate hdr0 0, .keyPolicy hdr0 0 0 0, .attestReport hdr0 0 (List.replicate 32 0), .resetRequestEngine hdr0 0, .resetRequestCluster hdr0 0,
   .resetRequestPolder hdr0 0, .innerReset hdr0 0 (List.replicate 20 kat0), .katRun hdr0 0 kat0, .stackRetire hdr0 0, .unassignedOpcode hdr0 raw0, .unassignedOpcode hdr0 { raw0 with op := 0xE0 },
   .qeDbTailWrite .mmc 0 0, .qeDbEvtConsWrite .mmc 0 0, .back .mmc, .table .mmc, .untable .mmc, .query .mmc, .pleInvGo .mmc, .invalidationDone,
   .pleReqDoneWrite .mmc 8 0, .hubS0Go .mmc false, .sliceRebind .mmc 0 .bind 0, .hubHpwinWrite .mmc 0 0 0 0, .msixVectorUnmask 0 0, .evcClaimRead 0,
   .evcEoiWrite 0 0, .evcPendSetWrite .mmc 0 0, .evcPendClrWrite .mmc 0 0, .evcMaskSetWrite .mmc 0 0, .evcMaskClrWrite .mmc 0 0,
   .mbxSend .control 0 8 0, .mbxRecv .control 0 8, .pdAttach, .pdDetach, .lnkCtrlRetrain .mmc 0, .lnkCtrlWidthGo .mmc 0, .lnkCtrlRekey .mmc 0,
   .lnkCtrlDown .mmc 0, .lnkCfgEnableWrite .mmc 0 false, .lnkTopoLock .mmc, .pwrCcsleepReq .mmc, .registerReadClear .mmc 0 0,
   .registerWrite .mmc 0 0 4 0, .debugTokenLoad token0, .dbgCtrlClose, .debugLifetimeExpiry] : List Instr).all Instr.wf = true := by decide

/-- WellFormed refuses: security packets and register commands. -/
theorem test_wf_refuses_security_packets_and_register_commands_1 : ([
  .keyRotate { hdr0 with q := 8192 } 0, .keyPolicy { hdr0 with q := 8192 } 0 0 0, .keyPolicy hdr0 0 (2 ^ 64) 0, .keyPolicy hdr0 0 0 (2 ^ 16),
   .attestReport { hdr0 with q := 8192 } 0 (List.replicate 32 0), .attestReport hdr0 0 [], .resetRequestEngine { hdr0 with q := 8192 } 0,
   .resetRequestEngine hdr0 (2 ^ 32), .resetRequestCluster { hdr0 with q := 8192 } 0, .resetRequestCluster hdr0 (2 ^ 32),
   .resetRequestPolder { hdr0 with q := 8192 } 0, .resetRequestPolder hdr0 (2 ^ 32), .innerReset { hdr0 with q := 8192 } 0 (List.replicate 20 kat0),
   .innerReset hdr0 (2 ^ 32) (List.replicate 20 kat0), .innerReset hdr0 0 [], .katRun { hdr0 with q := 8192 } 0 kat0, .katRun hdr0 (2 ^ 8) kat0,
   .stackRetire { hdr0 with q := 8192 } 0, .stackRetire hdr0 (2 ^ 8), .unassignedOpcode { hdr0 with q := 8192 } raw0, .unassignedOpcode hdr0 { raw0 with op := 2 ^ 8 },
   .unassignedOpcode hdr0 { raw0 with op := 0xE0, sel := 3 }, .unassignedOpcode hdr0 { raw0 with op := 0x40 }, .unassignedOpcode hdr0 { raw0 with op := 0x4B, sel := 2 },
   .qeDbTailWrite (.core 8) 0 0, .qeDbTailWrite .mmc (2 ^ 13) 0, .qeDbEvtConsWrite (.core 8) 0 0, .qeDbEvtConsWrite .mmc (2 ^ 12) 0, .back (.core 8),
   .table (.core 8), .untable (.core 8), .query (.core 8), .pleInvGo (.core 8), .pleReqDoneWrite (.core 8) 8 0, .pleReqDoneWrite .mmc 3 0,
   .hubS0Go (.core 8) false, .sliceRebind (.core 8) 0 .bind 0, .sliceRebind .mmc (2 ^ 9) .bind 0, .hubHpwinWrite (.core 8) 0 0 0 0,
   .hubHpwinWrite .mmc 4 0 0 0, .hubHpwinWrite .mmc 0 16 0 0, .hubHpwinWrite .mmc 0 0 4 0, .msixVectorUnmask 4 0] : List Instr).all (fun i => !i.wf) = true := by decide

/-- WellFormed refuses: security packets and register commands. -/
theorem test_wf_refuses_security_packets_and_register_commands_2 : ([
  .msixVectorUnmask 0 (2 ^ 11), .evcClaimRead 8, .evcEoiWrite 8 0, .evcEoiWrite 0 (2 ^ 32), .evcPendSetWrite (.core 8) 0 0,
   .evcPendSetWrite .mmc (2 ^ 6) 0, .evcPendClrWrite (.core 8) 0 0, .evcPendClrWrite .mmc (2 ^ 6) 0, .evcMaskSetWrite (.core 8) 0 0,
   .evcMaskSetWrite .mmc (2 ^ 6) 0, .evcMaskClrWrite (.core 8) 0 0, .evcMaskClrWrite .mmc (2 ^ 6) 0, .mbxSend (.csq 20) 0 8 0,
   .mbxSend .control 64 8 0, .mbxSend .control 0 3 0, .mbxRecv (.csq 20) 0 8, .mbxRecv .control 64 8, .mbxRecv .control 0 3,
   .lnkCtrlRetrain (.core 8) 0, .lnkCtrlRetrain .mmc 48, .lnkCtrlWidthGo (.core 8) 0, .lnkCtrlWidthGo .mmc 48, .lnkCtrlRekey (.core 8) 0,
   .lnkCtrlRekey .mmc 48, .lnkCtrlDown (.core 8) 0, .lnkCtrlDown .mmc 48, .lnkCfgEnableWrite (.core 8) 0 false, .lnkCfgEnableWrite .mmc 48 false,
   .lnkTopoLock (.core 8), .pwrCcsleepReq (.core 8), .registerReadClear (.core 8) 0 0, .registerReadClear .mmc 3 0,
   .registerReadClear .mmc 0 (2 ^ 32), .registerReadClear .mmc 0 2, .registerWrite (.core 8) 0 0 4 0, .registerWrite .mmc 3 0 4 0,
   .registerWrite .mmc 0 (2 ^ 32) 4 0, .registerWrite .mmc 0 0 3 0, .registerWrite .mmc 0 2 4 0, .debugTokenLoad { token0 with version := 2 ^ 16 },
   .debugTokenLoad { token0 with lifetime := 2 ^ 32 }] : List Instr).all (fun i => !i.wf) = true := by decide

/-- WellFormed accepts: engine, timer and link commands. -/
theorem test_wf_accepts_engine_timer_and_link_commands : ([
  .bundleIssue 0 0, .barrierRelease 0 0, .moverOpComplete 0 0 0, .dispatchStart 0, .dispatchComplete 0, .kvOpComplete 0, .contextFaulted 0,
   .preemptFullStop 0 0, .preemptSaveStart 0, .preemptSaveDone 0, .dayBoundary 0, .eveStart 0 0, .shareDeficitCharge 0, .slowdownEpoch [], .pleEpoch,
   .moveStart 0, .moveCopyDone 0, .rateUpdate (List.replicate 20 0), .txnTimeout 0, .backRequestTimeout 0, .sweepComplete 0, .autoKeyRotate 0,
   .stackPhyTrainingLoss 0 false, .uncorrectableRead 0 0 0, .sramUncorrectableError .hub 0 boot0, .entropyHealthFail, .entropyRecover,
   .linkTrainingStart 0 far0, .dataFlitReceived 0 flit0, .controlFlitReceived 0 ctl0, .idleFlitReceived 0, .controlFlitSend 0, .replayTimeout 0,
   .rekey 0 false, .retrain 0 far0, .widthChange 0 8, .linkDown 0 .protocol, .memRd 0 msg0, .memWr 0 msg0, .cpl 0 msg0, .resultStoreTimeout 0,
   .pathLost 0 msg0, .doorbell 0 msg0, .rdispSend 0, .rdispDone 0 msg0, .rdispTimeout 0 0, .secured 0 msg0, .reservedMtype 0 msg0,
   .messageForward 0 msg0] : List Instr).all Instr.wf = true := by decide

/-- WellFormed refuses: engine, timer and link commands. -/
theorem test_wf_refuses_engine_timer_and_link_commands : ([
  .bundleIssue 0 (2 ^ 9), .barrierRelease 0 (2 ^ 4), .moverOpComplete 0 (2 ^ 9) 0, .moverOpComplete 0 0 (2 ^ 4), .dispatchStart 16,
   .contextFaulted (2 ^ 12), .preemptFullStop 0 (2 ^ 9), .dayBoundary 16, .eveStart 16 0, .eveStart 0 (2 ^ 12), .shareDeficitCharge 16,
   .slowdownEpoch [(4096, 0)], .moveStart 20, .rateUpdate [], .txnTimeout (2 ^ 6), .backRequestTimeout (2 ^ 48), .sweepComplete (2 ^ 12),
   .autoKeyRotate (2 ^ 12), .stackPhyTrainingLoss 20 false, .uncorrectableRead 20 0 0, .uncorrectableRead 0 0 (2 ^ 8),
   .sramUncorrectableError .hub 0 { boot0 with stepping := 65536 }, .linkTrainingStart 48 far0, .dataFlitReceived 48 flit0,
   .dataFlitReceived 0 { flit0 with vc := 2 ^ 3 }, .dataFlitReceived 0 { flit0 with fill := 2 ^ 3 }, .controlFlitReceived 48 ctl0,
   .controlFlitReceived 0 { ctl0 with freed := [] }, .idleFlitReceived 48, .controlFlitSend 48, .replayTimeout 48, .rekey 48 false, .retrain 48 far0,
   .widthChange 48 8, .widthChange 0 3, .linkDown 48 .protocol, .memRd 48 msg0, .memRd 0 { msg0 with units := 65536 }, .memWr 48 msg0,
   .memWr 0 { msg0 with units := 65536 }, .cpl 48 msg0, .cpl 0 { msg0 with units := 65536 }, .pathLost 48 msg0,
   .pathLost 0 { msg0 with units := 65536 }, .doorbell 48 msg0, .doorbell 0 { msg0 with units := 65536 }, .rdispSend 48, .rdispDone 48 msg0,
   .rdispDone 0 { msg0 with units := 65536 }, .rdispTimeout 48 0, .rdispTimeout 0 (2 ^ 8), .secured 48 msg0, .secured 0 { msg0 with units := 65536 },
   .reservedMtype 48 msg0, .reservedMtype 0 { msg0 with units := 65536 }, .messageForward 48 msg0, .messageForward 0 { msg0 with units := 65536 }] : List Instr).all (fun i => !i.wf) = true := by decide

/-- WellFormed accepts: port, session, reset and power commands. -/
theorem test_wf_accepts_port_session_reset_and_power_commands : ([
  .cxlMemRead 0 0 0, .cxlMemWrite 0 0 [], .hostPortLoss 0 .perst, .atsInvalidation 0 0 0 0, .priResponse 0 0 .success, .priTimeout 0 0,
   .startInterface 0 0 iface0, .lockInterface 0 0 iface0, .stopInterface 0 0 iface0, .bindClaim 0 0 0 0 iface0 0, .ideKmKeyProg 0 0 .link 0 false false,
   .ideIntegrityFailure 0 0,
   .getMeasurements .mgmt none .version, .keyExchange .mgmt none (0, 0) false 0 0 false, .mctpControl 64 .getEid, .pldmFirmwareUpdate 0 .types, .claimSlot 0 0,
   .burnSlot 0 0 0 0 false, .revokeSlot 0 0 0 false, .burnSvn 0 0 0 false, .resetBlock 0 boot0, .resetCold 0 boot0, .coldReset,
   .coldResetRelease boot0, .blockReset 0 boot0, .watchdogExpiry 0 boot0, .fatalInternalError boot0, .supplyWarn, .dipEnd 0 0, .supplyClear,
   .supplyReset 0 0 boot0, .powerMeasurement 0 0 false, .thermalCeilingStep (List.replicate 5 0), .thermalTrip 0 boot0, .wiredInputChange 0 false 0,
   .clusterNapEntry 0, .clusterDeepEntry 0, .clusterWake 0, .controlClusterDown, .controlClusterWake, .moFillCopyWorkEnd 0,
   .hostPortLinkUp 0 1 1 false, .sessionEnd 0, .trainingFlitReceived 0] : List Instr).all Instr.wf = true := by decide

/-- WellFormed refuses: port, session, reset and power commands. -/
theorem test_wf_refuses_port_session_reset_and_power_commands : ([
  .cxlMemRead 4 0 0, .cxlMemRead 0 (2 ^ 64) 0, .cxlMemRead 0 0 65, .cxlMemWrite 4 0 [], .cxlMemWrite 0 (2 ^ 64) [],
   .cxlMemWrite 0 0 (List.replicate 65 0), .hostPortLoss 4 .perst, .atsInvalidation 4 0 0 0, .atsInvalidation 0 (2 ^ 20) 0 0,
   .priResponse 4 0 .success, .priTimeout 4 0, .startInterface 4 0 iface0, .lockInterface 4 0 iface0, .stopInterface 4 0 iface0,
   .bindClaim 4 0 0 0 iface0 0, .bindClaim 0 0 (2 ^ 16) 0 iface0 0, .bindClaim 0 0 0 (2 ^ 16) iface0 0, .ideKmKeyProg 4 0 .link 0 false false,
   .ideIntegrityFailure 4 0, .getMeasurements (.hostPort 4) none .version, .keyExchange (.hostPort 4) none (0, 0) false 0 0 false, .mctpControl 257 .getEid,
   .claimSlot 0 (2 ^ 384), .burnSlot 0 (2 ^ 8) 0 0 false, .burnSlot 0 0 (2 ^ 384) 0 false, .revokeSlot 0 (2 ^ 8) 0 false,
   .resetBlock 0 { boot0 with stepping := 65536 }, .resetCold 0 { boot0 with stepping := 65536 }, .coldResetRelease { boot0 with stepping := 65536 },
   .blockReset (2 ^ 8) boot0, .blockReset 0 { boot0 with stepping := 65536 }, .watchdogExpiry 8 boot0,
   .watchdogExpiry 0 { boot0 with stepping := 65536 }, .fatalInternalError { boot0 with stepping := 65536 }, .dipEnd (2 ^ 10) 0,
   .supplyReset (2 ^ 10) 0 boot0, .supplyReset 0 0 { boot0 with stepping := 65536 }, .thermalCeilingStep [], .thermalTrip 5 boot0,
   .thermalTrip 0 { boot0 with stepping := 65536 }, .wiredInputChange (2 ^ 5) false 0, .clusterNapEntry 20, .clusterDeepEntry 20, .clusterWake 20,
   .hostPortLinkUp 4 1 1 false, .hostPortLinkUp 0 7 1 false, .hostPortLinkUp 0 1 3 false, .lnkTopoLock (.hostOdd 4), .trainingFlitReceived 48, .txnBegin { hdr0 with cont := 256 }, .lnkTopoLock (.host 4 none false),
   .keyExchange (.link (2 ^ 32)) none (0, 0) false 0 0 false, .memRd 0 { msg0 with sealCtr := 2 ^ 64 }, .memRd 0 { msg0 with mtype := 2 ^ 8 }, .memRd 0 { msg0 with tag := 2 ^ 16 },
   .memRd 0 { msg0 with binding := 2 ^ 16 }, .memRd 0 { msg0 with src := 2 ^ 32 }, .memRd 0 { msg0 with dst := 2 ^ 32 },
   .memRd 0 { msg0 with len := 2 ^ 32 }, .fatalInternalError { boot0 with fuseGood := [] }, .fatalInternalError { boot0 with kat := [] },
   .fatalInternalError { boot0 with far := [(48, far0)] }, .fatalInternalError { boot0 with slots := [2 ^ 384] }] : List Instr).all (fun i => !i.wf) = true := by decide
/-! ## A small world -/

/-- A pool leaf, a table entry and a host leaf of the page tables (R215). -/
def pte (lpf : Nat) : Nat := 2 + 4 + 65536 * lpf
def tbe (lpf : Nat) : Nat := 1 + 65536 * lpf
def hpe (iova : Nat) : Nat := 3 + 4 + 8 * 0xFFFF + 2 ^ 19 * (iova / 65536)

/-- Memory that holds these bytes. -/
def memOf (l : List (Nat × List Byte)) : List Host.Cell := l.foldl (fun m e => memPut m e.1 e.2) []

def ring0 : Ring := { addr := 0x100000, obj := 0, log2 := 6 }
def slice0 : Slice :=
  { Slice.new 1 0 0 false 0 { sliceArgs0 with qCtx := 4, qQueue := 8, qFence := 8 } with vecCount := 16, qFrame := none, root := 0, shares := [(0, 1)] }
def ctx0 : Ctx := Ctx.new 1 0 true { ring0 with addr := 0x200000 } 0 77 0
def queue0 : Queue := { Queue.new 1 0 0 1 ring0 { ring0 with addr := 0x300000 } with tail := 40, state := .running }
def defect0 : Defect := { good := 0x1FFFF, spareFor := 0, spareUsed := false, failed := false, active := true, cause := 0, bad := 0 }
def stack0 : Stack := { inSvc := true, retiring := false, wait := false, cap := 100, fails := 0, uncorr := [], smp := 0, evac := 0, reply := none }
def polder0 : Polder :=
  { units := 3, dayUs := 1000, feast := 0, excl := 0, nFeast := 0, nExcl := 0, dayStart := 10 ^ 9 - 10, day := 0, rot := 0, owner := none, claimant := none
    resv := [], susp := false }

/-- The table frames 1, 2, 3 of context 0: page 0 is host pages, page i is frame 100 + i. -/
def tables0 : List (Nat × List Byte) :=
  [(65536 * 1, leBytes 8 (tbe 2)), (65536 * 2, leBytes 8 (tbe 3)), (65536 * 3, leBytes 8 (hpe 0x400000))] ++
    (List.range 16).map fun i => (65536 * 3 + 8 * (i + 1), leBytes 8 (pte (101 + i)))

/-- The tag of a sector of context 0's page. -/
def tag0 (page sec : Nat) : Tag := { nonce := 77, season := 0, cva := 256 * page + sec }

/-- A memory object of context 0. -/
def mo0 (page frames ty : Nat) (fl : BitVec 8) : Mo := Mo.new 1 0 (65536 * page) (65536 * frames) ty fl false

/-- The memory objects: 0 host pages, 1 a buffer, 2 measured and not sealed, 3 a sealed image, 4 a save area, 5 a KV_CACHE, 6 not measured. -/
def mos0 : Tab Mo :=
  [(0, { mo0 0 1 0 1 with len := 65536 }), (1, mo0 1 1 0 2), (2, mo0 2 1 3 0x0C), (3, { mo0 3 1 2 0x0C with isSealed := true }),
   (4, mo0 256 1056 4 2), (5, { mo0 5 8 1 2 with formatted := true }), (6, mo0 4 1 0 4)]

/-- Frame 101 + i: those of pages 1 and 3 to 7 are bound. -/
def frameOf (i : Nat) : Frame := { Frame.new (some 0) 1 0 0 with st := if i ∈ [0, 2, 3, 4, 5, 6] then .bound 0 else .fresh }

def fence0 : Fence := Fence.new 1 0 5

/-- A KV_CACHE header of one layer, one head of 32, with this many sequences (R183). -/
def kvHdr0 (slots : Nat) : List Byte :=
  leBytes 4 0x4B564F42 ++ leBytes 1 3 ++ leBytes 1 1 ++ leBytes 2 1 ++ leBytes 2 1 ++ leBytes 2 32 ++ leBytes 2 1 ++ leBytes 2 992 ++ leBytes 4 slots ++
    leBytes 4 1000 ++ leBytes 4 2 ++ leBytes 4 1 ++ leBytes 4 4 ++ leBytes 4 4 ++ leBytes 1 1
/-- A brient image of one empty bundle (R143 to R147). -/
def image1 : List (Nat × List Byte) :=
  [(0, leBytes 4 0x544E5242), (4, leBytes 2 0x0200), (6, leBytes 2 128), (20, leBytes 4 256), (24, leBytes 4 128), (28, leBytes 4 1), (46, leBytes 2 1),
   (54, leBytes 2 16), (56, leBytes 4 192), (60, leBytes 2 1), (196, leBytes 4 1)]
/-- The image at the end of page 3, the KV_CACHE's header on page 5, sequence 0 of ten tokens without a block on page 6. -/
def contents0 : List (Nat × List Byte) :=
  (image1.map fun e => (65536 * 103 + 65280 + e.1, e.2)) ++ [(65536 * 105, kvHdr0 2049), (65536 * 106, [1]), (65536 * 106 + 4, leBytes 4 0xFFFFFFFF),
    (65536 * 106 + 8, leBytes 4 10)]

/-- Slice 0 with its root context 0 and a second context 1, one running queue each; context 0's tables, objects and fences. -/
def world : State :=
  { State.reset with
    now := 10 ^ 9
    objs := { Objs.empty with
      ctxs := [(0, ctx0), (1, { ctx0 with root := false })], queues := [(0, queue0), (1, { queue0 with ctx := 1 })], mos := mos0
      fences := [(0, fence0), (1, { fence0 with faulted := true }), (2, { fence0 with value := BitVec.allOnes 64 })] }
    slices := { Slices.empty with tab := [(0, slice0)] }
    sched := { Sched.empty with polders := [(0, polder0)] }
    brg := { Brg.empty with ready := true, stage := 11, defects := [(0, defect0)], lPorts := 16 }
    pool := { Pool.empty with
      frozen := false
      mem := memOf (tables0 ++ contents0)
      tags := ([1, 2, 3].map fun l => (256 * l, { nonce := 2 ^ 128, season := 0, cva := 256 * l })) ++ 
        [(256 * 101, tag0 1 0), (256 * 103 + 255, tag0 3 255), (256 * 104, tag0 4 0), (256 * 105, tag0 5 0), (256 * 106, tag0 6 0), (256 * 107, tag0 7 0)]
      frames := ([1, 2, 3].map fun l => (l, { Frame.new none 0 1 0 with st := .bound 0 })) ++ (List.range 16).map (fun i => (101 + i, frameOf i))
      stks := [(0, stack0), (1, stack0)]
      roots := [(0, (1, true))] }
    mbx := { boxes := [], mmcAbort := false, mmcDrop := 0, attached := true } }

/-- A header of context 0's queue. -/
def hdr1 : Hdr := { hdr0 with context := mkHandle 1 1 0 }
/-- The same with a fence. -/
def hdr2 : Hdr := { hdr1 with fence := mkHandle 4 1 0, fval := 6 }

/-- Where some slot is free, one is picked, whatever the free value. -/
theorem pick_ex {n : Nat} {ok : Nat → Bool} {d : Nat} (j : Nat) (hj : j < n) (hf : ok j = true) : ∃ k, pickSlot n ok d = some k := by
  unfold pickSlot
  split
  · exact ⟨_, rfl⟩
  · exact Option.isSome_iff_exists.mp (List.find?_isSome.mpr ⟨j, List.mem_range.mpr hj, hf⟩)

/-- An option that holds something, and its value. -/
theorem some_of {α : Type} {o : Option α} (h : o.isSome = true) : o = some (o.get h) := (Option.some_get h).symm

/-- The value of an access that succeeds. -/
def okVal {α : Type} (d : α) : Except AccErr α → α
  | .ok a => a
  | .error _ => d

/-- Whether an access succeeds. -/
def okRes {α : Type} (r : State × Except AccErr α) : Bool := match r.2 with | .ok _ => true | .error _ => false

/-- An access that succeeds, and what it gives. -/
theorem ok_of {α : Type} (d : α) {r : State × Except AccErr α} (h : okRes r = true) : r = (r.1, .ok (okVal d r.2)) := by
  obtain ⟨s, e | a⟩ := r
  · cases h
  · rfl

def disp0 : Disp := { world.blankDisp hdr1 0 0 (.fill 1 0 0 0) with polder := 0 }
def txn0 : Txn := { gen := 1, ctx := 0, beginSeq := 0, settings := [], last := 10 ^ 9, left := none }

/-- A second slice, ACTIVE, with the contexts and queues of slice 0 left as they are. -/
def slice1 : Slice := { slice0 with pasid := 9, vecBase := 16 }
def World.slices (x : Slice) : State := { world with slices := { world.slices with tab := [(0, slice0), (1, x)] } }
def back0 : Back := { req := 7, queue := 1, count := 0, tag := 0, fence := none, fval := 0, mo := 1, frames := 1, backed := 1, since := 9 * 10 ^ 8 }
def code0 : List (BitVec 256) := [0]
def prog0 : Program :=
  { gen := 1, ctx := 0, obj := 3, freed := false, refs := 1, fmtMask := 0, engMin := 1, engMax := 16, codeBase := 0, codeOff := 65408, bundles := 1
    constBase := 0x10000, constOff := 0, constLen := 0
    bufs := [{ index := 2, ty := 255, rd := true, wr := true, optional := false, hostOk := false, align := 5, minLen := 64 }]
    blocks := [{ first := 0, count := 1, wcHs := 10, loopMax := 0 }], cheaps := [], digest := 5 }
def World.prog (b : List (BitVec 256)) : State := { world with objs := { world.objs with progs := [(0, { prog0 with bundles := b.length })] } }
/-- An engine whose store holds these bundles as its code. -/
def Engine.codeIs (e : Engine) (b : List (BitVec 256)) : Engine := { e with store := memPut e.store 0 (b.flatMap fun x => leBytes 32 x.toNat) }
def link0 : Link := { Link.reset 0 with enable := true, state := 3, lanes := 8, full := 8, rdisp := true, vcs := 1 }

/-- Link 0 with this state, a binding of context 0 on it, remote dispatches licensed. -/
def World.link (x : Link) : State :=
  { world with
    brg := { world.brg with lRemote := true }
    links := { world.links with
      tab := [(0, x)]
      binds := [(3, { ctx := mkHandle 1 1 0, src := BitVec.ofNat 32 (world.address 0), valid := true, notify := false, strict := true, ended := false })] } }
/-- A header with NOTIFY. -/
def hdr4 : Hdr := { hdr2 with flags := 1 }
def src1 : Src := { prio := 0, target := 1, masked := false, pend := true, active := false, cond := false }

/-- With source 5 alone pending, it is first. -/
theorem claim_only (j : Nat) (h : State.eligible { world with evc := { world.evc with srcs := [(5, { src1 with prio := 3 })] } } 0 j = true) :
    (State.src { world with evc := { world.evc with srcs := [(5, { src1 with prio := 3 })] } } j).prio <
      (State.src { world with evc := { world.evc with srcs := [(5, { src1 with prio := 3 })] } } 5).prio ∨
    (State.src { world with evc := { world.evc with srcs := [(5, { src1 with prio := 3 })] } } j).prio =
      (State.src { world with evc := { world.evc with srcs := [(5, { src1 with prio := 3 })] } } 5).prio ∧ 5 ≤ j := by
  by_cases hj : j = 5
  · subst hj; exact .inr ⟨rfl, le_refl _⟩
  · exfalso
    have hs : State.src { world with evc := { world.evc with srcs := [(5, { src1 with prio := 3 })] } } j = Src.reset := by
      simp [State.src, tgetD, tget, Ne.symm hj]
    simp [State.eligible, hs, Src.reset] at h

/-- Context 0's dispatch of the program with these bundles, running on engine 0, which stands so. -/
def World.run (b : List (BitVec 256)) (e : Engine) : State :=
  { World.prog b with
    sched := { world.sched with
      disps := [{ disp0 with ref := 0, work := .program 0 0 0, state := .running, count := 1, engines := [0], started := true, engs := [(0, Engine.codeIs e b)] }] } }

/-- A load that has read its source and has nothing left to land. -/
def mv0 : MvOp :=
  { op := 1, tag := 3, buf := 0, loc := 0, rem := 0, row := 32, rows := 1, strL := 0, strR := 0, peer := 0, rid := 0, todo := [], late := [] }

def start0 : Engine := Engine.start prog0 0 [] none []
/-- A dispatch of the program on engine 0, with the save area of object 4. -/
def run0 : Disp :=
  { disp0 with ref := 0, work := .program 0 0 4, state := .running, count := 1, engines := [0], started := true, engs := [(0, start0)] }
/-- The dispatch stands at the second block of a program whose third block is its entry and whose other blocks are still to be loaded. -/
def World.three : State :=
  { World.run [0, 0, 0] { start0 with pc := 1, code := [0, 1] } with
    objs := { world.objs with
      progs := [(0, { prog0 with bundles := 3, blocks := (List.range 3).map fun i => { first := i, count := 1, wcHs := 10, loopMax := 0 } })] } }
/-- The program's image lies on a page that nothing maps. -/
def World.lost : State :=
  { World.run [0] { start0 with code := [0] } with objs := { world.objs with progs := [(0, { prog0 with obj := 4 })] } }

/-- An access that fails, and how. -/
def errRes {α : Type} : Except AccErr α → Option AccErr
  | .ok _ => none
  | .error e => some e
theorem err_of {α : Type} {r : State × Except AccErr α} (h : (errRes r.2).isSome = true) : r = (r.1, .error ((errRes r.2).get h)) := by
  obtain ⟨s, e | a⟩ := r
  · rfl
  · cases h

def World.disps (l : List Disp) : State := { World.prog code0 with sched := { world.sched with disps := l } }
/-- Object 0 is the KV_CACHE of this operation. -/
def World.kv (d : Disp) : State := { World.disps [d] with objs := { world.objs with mos := [(0, mo0 1 1 1 2)] } }
def World.adm : State :=
  { world with
    sched := { world.sched with
      polders := [(0, { polder0 with dayStart := 10 ^ 9 - 90000, nFeast := 2 })]
      adms := [{ ctx := 0, polder := 0, feast := true, days := 2, prog := none, last := [] }] } }

def pend0 (n : Nat) : Disp := { run0 with state := .pending, count := n, engs := [], started := false, engines := [] }
def move0 : Move := { lpf := 101, dst := 1, evac := false, prio := 0 }
def sess0 : Sess := { id := 1, at_ := .link 0, slice := none, claim := false, root := 0, leaf := 0, secret := [], updates := 0, beat := 0 }

/-- Link 0 in this state, with a remote dispatch that waits for it. -/
def World.remote (x : Link) : State :=
  { World.link x with sched := { world.sched with disps := [{ disp0 with work := .remote remoteArgs0, state := .pending }] } }

theorem ex_of {α : Type} {r : Except α Nat} {n : Nat} (h : (match r with | .ok m => m == n | .error _ => false) = true) : r = .ok n := by
  cases r with
  | ok m => simpa using h
  | error _ => cases h
theorem er_of {α : Type} {r : Except Nat α} {n : Nat} (h : (match r with | .error m => m == n | .ok _ => false) = true) : r = .error n := by
  cases r with
  | error m => simpa using h
  | ok _ => cases h

/-- Decoder 7 of port 0 takes the second 256 MiB for the window that maps context 0 from page 1 on, decoder 0 the tables from 2^38; port 0 runs CXL. -/
def World.win : State :=
  world.modPort 0 fun x => { x with cxl := true, hdm := [(0, (1024, 16384)), (7, (1, 1))], wins := [(7, { ctx := mkHandle 1 1 0, cva := 65536, valid := true, err := false })] }
def tdi0 : Tdi := Tdi.none
def conf0 : Slice := { slice1 with conf := true }
/-- Slice 1 is confidential, its interface stands so, and session 4 of port 0 is open. -/
def World.iface (t : Tdi) (x : Slice) : State :=
  { World.slices x with sen := { world.sen with tdi := [(1, t)], sessions := [{ sess0 with id := 4, at_ := .hostPort 0 }] } }
/-- Management session 2, a claim session or not, with these slots burnt; the management port has its address. -/
def World.mgmt (claim : Bool) (burnt : BitVec 4) : State :=
  { world with
    sen := { world.sen with burnt := burnt, sessions := [{ sess0 with id := 2, at_ := .mgmt, claim := claim, root := 5 }] }
    mmc := { world.mmc with addr := some 9 } }
/-- The interface of slice 1. -/
def id1 : IfaceId := { iface0 with slice := mkHandle 5 1 1 }
/-- Both directions of the stream run. -/
def ide1 : Ide := { progd := [(1, true)], tx := some 0, rx := some 0 }

def nextVal (d : State) : Result → State
  | .next t => t
  | _ => d
def isNext : Result → Bool
  | .next _ => true
  | _ => false
/-- A step that answers a next state, and which. -/
theorem next_of (d : State) {r : Result} (h : isNext r = true) : r = .next (nextVal d r) := by
  cases r with
  | next t => rfl
  | fault _ => cases h
  | refused _ => cases h
/-- A packet that waits for the control cluster. -/
def wait0 : FwWait := { queue := 0, count := 0, code := 0x0B, hdr := hdr1, cmd := .fenceCreate hdr1 0 }
/-- The control cluster sleeps, and a wake request stands. -/
def World.asleep : State := (world.modMbox 1 fun x => { x with wake := true }).onPwr fun p => { p with ccUp := false }

/-- A query of sequence 0 with visible length 10 stands at the start of object 1. -/
def World.query : State := world.onPool fun p => { p with mem := memPut p.mem (65536 * 101 + 4) [10] }

def kvVal {α : Type} (d : α) : EStateM.Result KvStop State α → α
  | .ok a _ => a
  | .error _ _ => d
def kvSt {α : Type} : EStateM.Result KvStop State α → State
  | .ok _ s => s
  | .error _ s => s
def kvIsOk {α : Type} : EStateM.Result KvStop State α → Bool
  | .ok _ _ => true
  | .error _ _ => false

/-- A KV computation that succeeds, and what it gives. -/
theorem kv_of {α : Type} (d : α) {r : EStateM.Result KvStop State α} (h : kvIsOk r = true) : r = .ok (kvVal d r) (kvSt r) := by
  cases r with
  | ok _ _ => rfl
  | error _ _ => cases h

/-- The two writes of a FORMAT, to the pages of the header and of the directory. -/
theorem format_ok {m : Mo} {s : State} {v1 v2 l1 l2 : Nat} (h1 : v1 < 2 ^ 64) (e1 : leafOf v1 = some (.pool l1 true)) (h2 : v2 < 2 ^ 64)
    (e2 : leafOf v2 = some (.pool l2 true)) (hb : m.base % 65536 = 0) (m1 : Maps s m.ctx (m.base / 65536) v1) (o1 : Owns s m.ctx l1)
    (m2 : Maps s m.ctx ((m.base + 65536) / 65536) v2) (o2 : Owns s m.ctx l2) (head : List Byte) (hl : head.length = 65536) :
    ∃ t, s.writeMo m .hub 0 head = (t, .ok ()) ∧ ∀ (k : KvEnv) (b : Bool) (x : EStateM.Result KvStop State Unit) (n : Nat), k.mo = m → b = false →
      n = 65536 → ∃ u, (if b = true then x else kvDo (k.wr 65536 (List.replicate n 0)) t) = .ok () u := by
  obtain ⟨t, a1, -, a3, a4, a5⟩ := write_whole (who := .hub) (pref := none) h1 e1 (head.length / 256 + 2) s (m.base + 0) head m1 o1 (by omega) (by omega)
    (by omega)
  refine ⟨t, a1, ?_⟩
  rintro k b x n rfl rfl rfl
  obtain ⟨f, j, x, g1, g2, g3, -⟩ := o2
  obtain ⟨-, -, y, -, -, -, hy⟩ := a3
  obtain ⟨u, b1, -⟩ := write_whole (who := k.who) (pref := none) h2 e2 ((List.replicate 65536 (0 : Byte)).length / 256 + 2) t (k.mo.base + 65536)
    (List.replicate 65536 0) (a4 _ _ (by omega) m2) ⟨f, j, y, by unfold State.frame?; rw [a5]; exact g1, g2, g3, hy⟩ (by omega)
    (by rw [List.length_replicate]) (by rw [List.length_replicate]; omega)
  exact ⟨u, by rw [if_neg (by decide)]; exact kvDo_ok (by unfold KvEnv.wr kvIo State.writeMo State.writeCtx; simp only [b1])⟩

/-- Object 5 is not formatted yet; its header asks for 2,048 sequences. -/
def World.fmt : State :=
  { world.onPool fun p => { p with mem := memPut p.mem (65536 * 105) (kvHdr0 2048) } with
    objs := { world.objs with mos := tset mos0 5 (mo0 5 8 1 2) } }

/-- A link that has counted no corrected symbols is not noisy after one flit. -/
theorem quiet_link {x : Link} (h : x.symErr = []) (a v now : Nat) : (x.noteSyms a (v % 16) now).noisy = false := by
  have h1 : v % 16 < 16 := Nat.mod_lt _ (by decide)
  simp only [Link.noisy, Link.noteSyms, h, tset, tgetD, tget, Option.getD_none]
  split <;> simp <;> omega

theorem witness_FillCopyPackets_1 :
    ∃ (h : Hdr) (obj : Handle) (v : Byte) (off len : Nat) (s s1 : State) (c : Nat) (n : Word) (f : Option Nat) (k : Nat) (m : Mo),
    s.served (moFillInfo obj v off len) h = some (s1, c, n, f) ∧ s1.findMo c obj = some (k, m) ∧ s1.brg.maint = false ∧ off + len ≤ m.len ∧
    m.isSealed = false ∧ m.formatted = false ∧ m.saving = false :=
  ⟨hdr1, (mkHandle 3 1 1), 7, 65535, 1, world, _, _, _, _, _, _, rfl, rfl, by decide +kernel⟩

theorem witness_FillCopyPackets_2 :
    ∃ (h : Hdr) (src dst : Handle) (so dO len : Nat) (s s1 : State) (c : Nat) (n : Word) (f : Option Nat) (a b : Nat) (x y : Mo),
    s.served (moCopyInfo src dst so dO len) h = some (s1, c, n, f) ∧ s1.findMo c src = some (a, x) ∧ s1.findMo c dst = some (b, y) ∧
    s1.brg.maint = false ∧ so + len ≤ x.len ∧ dO + len ≤ y.len ∧ y.isSealed = false ∧ y.formatted = false ∧ y.saving = false :=
  ⟨hdr1, (mkHandle 3 1 0), (mkHandle 3 1 1), 0, 0, 65536, world, _, _, _, _, _, _, _, _, rfl, rfl, rfl, by decide +kernel⟩

theorem witness_FillCopyPackets_3 :
    ∃ (h : Hdr) (obj : Handle) (p : Nat) (s s1 : State) (c : Nat) (n : Word) (f : Option Nat) (k : Nat) (m : Mo),
    s.served (moPlaceHintInfo obj p) h = some (s1, c, n, f) ∧ s1.findMo c obj = some (k, m) ∧ p ≤ 2 ∧ m.ty ≠ 1 :=
  ⟨hdr1, (mkHandle 3 1 1), 2, world, _, _, _, _, _, _, rfl, rfl, by decide +kernel⟩

theorem witness_FillCopyPackets_4 :
    ∃ (h : Hdr) (obj : Handle) (p : Nat) (s s1 : State) (c : Nat) (n : Word) (f : Option Nat) (k : Nat) (m : Mo),
    s.served (moPlaceHintInfo obj p) h = some (s1, c, n, f) ∧ s1.findMo c obj = some (k, m) ∧ p ≤ 2 ∧ m.ty = 1 :=
  ⟨hdr1, (mkHandle 3 1 5), 1, world, _, _, _, _, _, _, rfl, rfl, by decide +kernel⟩

theorem witness_FillCopyPackets_5 :
    ∃ (ref : DWord) (s s1 : State) (d : Disp) (o off len : Nat) (v : Byte) (m : Mo),
    s.disp? ref = some d ∧ d.state = .running ∧ d.work = .fill o v off len ∧ s.ontoKv d.work = false ∧ s.mo? o = some m ∧
    s.writeMo m d.who off (List.replicate len v) = (s1, .ok ()) :=
  ⟨disp0.ref, { world with sched := { world.sched with disps := [{ disp0 with work := .fill 1 7 0 1, state := .running }] } }, _, _, _, _, _, _, _,
    rfl, by decide +kernel, rfl, by decide +kernel, rfl, ok_of () (by decide +kernel)⟩

theorem witness_FillCopyPackets_6 :
    ∃ (ref : DWord) (s s1 s2 : State) (d : Disp) (a b so dO len : Nat) (x y : Mo) (bs : List Byte),
    s.disp? ref = some d ∧ d.state = .running ∧ d.work = .copy a b so dO len ∧ s.ontoKv d.work = false ∧ s.mo? a = some x ∧ s.mo? b = some y ∧
    s.readMo x d.who so len = (s1, .ok bs) ∧ s1.writeMo y d.who dO bs = (s2, .ok ()) :=
  ⟨disp0.ref, { world with brg := { world.brg with defects := [] }, sched := { world.sched with disps := [{ disp0 with work := .copy 1 6 0 0 16, state
    := .running }] } }, _, _, _, _, _, _, _, _, _, _, _, rfl, by decide +kernel, rfl, by decide +kernel, rfl, rfl, ok_of [] (by decide +kernel), ok_of
    () (by decide +kernel)⟩

theorem witness_FillCopyPackets_7 :
    ∃ (ref : DWord) (s : State) (d : Disp),
    s.disp? ref = some d ∧ d.state = .running ∧ s.ontoKv d.work = true :=
  ⟨disp0.ref, { world with sched := { world.sched with disps := [{ disp0 with work := .fill 5 7 0 1, state := .running }] } }, _, rfl,
    by decide +kernel⟩

theorem witness_TransactionCommands_1 :
    ∃ (h : Hdr) (s s1 : State) (c : Nat) (n : Word) (f : Option Nat) (k : Nat),
    s.served txnBeginInfo h = some (s1, c, n, f) ∧ s1.txnOf c = none ∧
    pickSlot 64 (fun j => s1.objs.tMgr.freeAt s1.objs.txns j && (s1.sliceOf c == 0 || decide (4 ≤ j))) s1.peek = some k :=
  ⟨hdr1, world, _, _, _, _, _, rfl, by decide +kernel, (pick_ex 5 (by decide) (by decide +kernel)).choose_spec⟩

theorem witness_TransactionCommands_2 :
    ∃ (h : Hdr) (t : Handle) (s s1 s2 : State) (c : Nat) (n : Word) (f : Option Nat) (k : Nat) (x : Txn),
    s.served (txnCommitInfo t) h = some (s1, c, n, f) ∧ s1.findTxn c t = .ok (k, x) ∧
    x.settings.any (fun y => s1.objs.keySeq.any (fun e => e.1 == y.key && decide (x.beginSeq < e.2))) = false ∧
    (s1.endTxn k c).commitAll c x.settings = .ok s2 :=
  ⟨hdr1, (mkHandle 7 1 4), { world with objs := { world.objs with txns := [(4, { txn0 with settings := [.qweight (mkHandle 2 1 0) 3] })] } }, _, _, _,
    _, _, _, _, rfl, rfl, by decide +kernel, rfl⟩

theorem witness_TransactionCommands_3 :
    ∃ (h : Hdr) (t : Handle) (s s1 : State) (c : Nat) (n : Word) (f : Option Nat) (k : Nat) (x : Txn),
    s.served (txnCommitInfo t) h = some (s1, c, n, f) ∧ s1.findTxn c t = .ok (k, x) ∧
    x.settings.any (fun y => s1.objs.keySeq.any (fun e => e.1 == y.key && decide (x.beginSeq < e.2))) = true :=
  ⟨hdr1, (mkHandle 7 1 4), { world with objs := { world.objs with txns := [(4, { txn0 with settings := [.embankment 5] })], keySeq :=
    [((Setting.embankment 5).key, 9)] } }, _, _, _, _, _, _, rfl, rfl, by decide +kernel⟩

theorem witness_TransactionCommands_4 :
    ∃ (h : Hdr) (t : Handle) (s s1 : State) (c : Nat) (n : Word) (f : Option Nat) (k : Nat) (x : Txn),
    s.served (txnAbortInfo t) h = some (s1, c, n, f) ∧ s1.findTxn c t = .ok (k, x) :=
  ⟨hdr1, (mkHandle 7 1 4), { world with objs := { world.objs with txns := [(4, txn0)] } }, _, _, _, _, _, _, rfl, rfl⟩

theorem witness_TransactionCommands_5 :
    ∃ (k : Nat) (s : State) (t : Txn),
    tget s.objs.txns k = some t ∧ t.left = none ∧ t.last + 10000000 ≤ s.now :=
  ⟨4, { world with objs := { world.objs with txns := [(4, { txn0 with last := 10 ^ 9 - 10000000 })] } }, _, rfl, by decide +kernel⟩

theorem witness_QueryPackets_2 :
    ∃ (h : Hdr) (fh : Handle) (s s1 : State) (c : Nat) (n : Word) (f : Option Nat) (k : Nat) (x : Fence),
    s.served (queryFenceInfo fh) h = some (s1, c, n, f) ∧ s1.findFence c fh = some (k, x) :=
  ⟨hdr1, (mkHandle 4 1 0), world, _, _, _, _, _, _, rfl, rfl⟩

theorem witness_QueryPackets_4 :
    ∃ (h : Hdr) (obj : Handle) (s s1 : State) (c : Nat) (n : Word) (f : Option Nat) (k : Nat) (m : Mo),
    s.served (queryMoInfo obj) h = some (s1, c, n, f) ∧ s1.findMo c obj = some (k, m) :=
  ⟨hdr1, (mkHandle 3 1 1), world, _, _, _, _, _, _, rfl, rfl⟩

theorem witness_QueryPackets_5 :
    ∃ (h : Hdr) (queue : Handle) (s s1 : State) (c : Nat) (n : Word) (f : Option Nat) (k : Nat) (x : Queue),
    s.served (queryQueueInfo queue) h = some (s1, c, n, f) ∧ s1.findQueue queue = some (k, x) ∧ s1.sliceOf x.ctx = s1.sliceOf c :=
  ⟨hdr1, (mkHandle 2 1 1), world, _, _, _, _, _, _, rfl, rfl, by decide +kernel⟩

theorem witness_SecurityPackets_1 :
    ∃ (h : Hdr) (target : Handle) (s s1 : State) (c : Nat) (n : Word) (f : Option Nat) (k : Nat) (x : Ctx),
    s.served (keyRotateInfo target) h = some (s1, c, n, f) ∧ s1.findCtxIn (s1.sliceOf c) target = some (k, x) ∧ x.sweep ≠ .running ∧
    x.sweep ≠ .paused ∧ x.state = .active ∧ x.season < 2 ^ 32 - 1 :=
  ⟨hdr1, (mkHandle 1 1 1), world, _, _, _, _, _, _, rfl, rfl, by decide +kernel⟩

theorem witness_SecurityPackets_3 :
    ∃ (h : Hdr) (a : RawArgs) (s s1 s2 : State) (x : Queue),
    assignedOps.contains a.op = false ∧ s.queue? h.q = some x ∧ (∀ e ∈ s.objs.fwQ, e.queue ≠ h.q) ∧ s.stands (unassignedInfo a) h x = true ∧
    s.canIssue h.q x h = true ∧ s.fetchMiss h.q x (needOf h) = some (s1, false) ∧ (isHw a.op || s1.pwr.ccUp) = true ∧ h.cont ≤ 15 ∧
    (s1.takeTurn h.q x).fetchRing h.q x (needOf h) = (s2, true) ∧ h.context = s2.ctxHandle x.ctx :=
  ⟨hdr1, { raw0 with op := 0x10 }, world, _, _, _, by decide +kernel, rfl, by decide +kernel, by decide +kernel, (by decide +kernel), rfl,
    by decide +kernel, by decide +kernel, rfl, by decide +kernel⟩

theorem witness_SecurityPackets_4 :
    ∃ (h : Hdr) (a : RawArgs) (s s1 : State) (c : Nat) (n : Word) (f : Option Nat),
    a.op = 0xE0 ∧ 4 ≤ a.sel ∧ s.served (resetRequestInfo a.sel a.seq) h = some (s1, c, n, f) :=
  ⟨hdr1, { raw0 with op := 0xE0 }, world, _, _, _, _, by decide +kernel, by decide +kernel, rfl⟩

theorem witness_SecurityPackets_5 :
    ∃ (h : Hdr) (a : RawArgs) (s s1 s2 : State) (c : Nat) (n : Word) (f : Option Nat) (k : Nat) (m : Mo) (hd : List Byte),
    a.op = 0x4B ∧ 3 ≤ a.sel ∧ s.served (kvEvictInfo a.obj a.seq a.sel (num 4 a.newLen) a.cookie) h = some (s1, c, n, f) ∧
    s1.findMo c a.obj = some (k, m) ∧ s1.brg.maint = false ∧ m.ty = 1 ∧ s1.readMo m .hub 0 48 = (s2, .ok hd) ∧ imgNat hd 40 1 = 1 :=
  ⟨hdr1, { raw0 with op := 0x4B, obj := mkHandle 3 1 5 }, world, _, _, _, _, _, _, _, _, by decide +kernel, by decide +kernel, rfl, rfl,
    by decide +kernel, by decide +kernel, rfl, by decide +kernel⟩

theorem witness_MaintenancePackets_1 :
    ∃ (h : Hdr) (e : Nat) (s s1 : State) (c : Nat) (n : Word) (f : Option Nat),
    s.served (resetRequestInfo 0 e) h = some (s1, c, n, f) ∧ s1.active (e / 16) = true ∧ s1.inReset (fun u => u == e / 8) = false :=
  ⟨hdr1, 15, world, _, _, _, _, rfl, by decide +kernel⟩

theorem witness_MaintenancePackets_2 :
    ∃ (h : Hdr) (k : Nat) (s s1 : State) (c : Nat) (n : Word) (f : Option Nat),
    s.served (resetRequestInfo 1 k) h = some (s1, c, n, f) ∧ s1.active k = true ∧ s1.inReset (fun u => u / 2 == k) = false :=
  ⟨hdr1, 0, world, _, _, _, _, rfl, by decide +kernel⟩

theorem witness_MaintenancePackets_3 :
    ∃ (h : Hdr) (k : Nat) (s s1 : State) (c : Nat) (n : Word) (f : Option Nat) (x : Polder),
    s.served (resetRequestInfo 2 k) h = some (s1, c, n, f) ∧ s1.polder? k = some x ∧ s1.inReset (fun u => x.units.getLsbD u) = false ∧
    thas s1.sched.resets k = false :=
  ⟨hdr1, 0, world, _, _, _, _, _, rfl, rfl, by decide +kernel⟩

theorem witness_MaintenancePackets_4 :
    ∃ (h : Hdr) (s s1 : State) (c : Nat) (n : Word) (f : Option Nat),
    s.served (resetRequestInfo 3 0) h = some (s1, c, n, f) ∧ s1.sched.resets = [] :=
  ⟨hdr1, world, _, _, _, _, rfl, by decide +kernel⟩

theorem witness_MaintenancePackets_5 :
    ∃ (h : Hdr) (k : Nat) (s s1 : State) (c : Nat) (n : Word) (f : Option Nat),
    s.served (katRunInfo k) h = some (s1, c, n, f) ∧ s1.brg.maint = false ∧ s1.active k = true ∧ s1.carries k = false ∧
    s1.inReset (fun u => u / 2 == k) = false :=
  ⟨hdr1, 0, world, _, _, _, _, rfl, by decide +kernel⟩

theorem witness_MaintenancePackets_6 :
    ∃ (h : Hdr) (k : Nat) (s s1 : State) (c : Nat) (n : Word) (f : Option Nat) (x : Stack),
    s.served (stackRetireInfo k) h = some (s1, c, n, f) ∧ s1.stack? k = some x ∧ x.inSvc = true ∧ x.retiring = false ∧ x.wait = false ∧
    2 ≤ s1.lasting.length :=
  ⟨hdr1, 0, world, _, _, _, _, _, rfl, rfl, by decide +kernel⟩

theorem witness_FenceAndProgramPackets_4 :
    ∃ (h : Hdr) (prog : Handle) (s s1 : State) (c : Nat) (n : Word) (f : Option Nat) (k : Nat) (x : Program),
    s.served (programFreeInfo prog) h = some (s1, c, n, f) ∧ s1.findProg c prog = some (k, x) :=
  ⟨hdr1, (mkHandle 6 1 0), World.prog code0, _, _, _, _, _, _, rfl, rfl⟩

theorem witness_QueryPackets_6 :
    ∃ (h : Hdr) (src dst : Handle) (off : Nat) (s s1 s2 : State) (c : Nat) (n : Word) (f : Option Nat) (k d : Nat) (m : Mo),
    s.served (queryDigestInfo src dst off) h = some (s1, c, n, f) ∧ s1.digestOf c src = .ok d ∧ s1.findMo c dst = some (k, m) ∧
    m.destOk off 48 = .ok () ∧ s1.writeMo m .hub off (leBytes 48 d) = (s2, .ok ()) :=
  ⟨hdr1, (mkHandle 6 1 0), (mkHandle 3 1 0), 0, World.prog code0, _, _, _, _, _, _, _, _, rfl, rfl, rfl, by decide +kernel, ok_of ()
    (by decide +kernel)⟩

theorem witness_SlicePackets_2 :
    ∃ (h : Hdr) (slice : Handle) (s s1 : State) (c : Nat) (n : Word) (f : Option Nat) (l : Nat) (x : Slice),
    s.served (sliceDestroyInfo slice) h = some (s1, c, n, f) ∧ s1.findSlice slice = some (l, x) ∧ l ≠ 0 :=
  ⟨hdr1, (mkHandle 5 1 1), World.slices slice1, _, _, _, _, _, _, rfl, rfl, by decide +kernel⟩

theorem witness_SlicePackets_3 :
    ∃ (h : Hdr) (req status : Nat) (s s1 : State) (c : Nat) (n : Word) (f : Option Nat) (b : Back),
    s.served (pdFramesBackedInfo req status) h = some (s1, c, n, f) ∧ (status = 0 ∨ status = 0x10) ∧
    s1.pool.backs.find? (fun x => x.req == req) = some b :=
  ⟨hdr1, 7, 0, world.onPool fun p => { p with backs := [back0] }, _, _, _, _, _, rfl, by decide +kernel, rfl⟩

theorem witness_SlicePackets_4 :
    ∃ (h : Hdr) (slice : Handle) (hostMap poolMap : Nat) (r : Option (List (Nat × Nat × Nat))) (s s1 : State) (c : Nat) (n : Word) (f : Option Nat) (l
      : Nat) (x : Slice),
    s.served (sliceDirtyLogInfo slice 1 hostMap poolMap) h = some (s1, c, n, f) ∧ s1.findSlice slice = some (l, x) ∧ hostMap % 4096 = 0 ∧
    poolMap % 4096 = 0 ∧ (hostMap = 0 ∨ ∃ d, r = some d ∧ rangesOk d = true) ∧ (poolMap = 0 ∨ x.conf = false) ∧ (s1.tdi l).scrubbed = false :=
  ⟨hdr1, (mkHandle 5 1 1), 4096, 0, some [(0, 64, 8)], World.slices slice1, _, _, _, _, _, _, rfl, rfl, by decide +kernel, by decide +kernel, .inr ⟨_,
    rfl, by decide +kernel⟩, by decide +kernel⟩

theorem witness_SlicePackets_5 :
    ∃ (h : Hdr) (slice : Handle) (hostMap poolMap : Nat) (s s1 : State) (c : Nat) (n : Word) (f : Option Nat) (l : Nat) (x : Slice),
    s.served (sliceDirtyLogInfo slice 0 hostMap poolMap) h = some (s1, c, n, f) ∧ s1.findSlice slice = some (l, x) ∧ (s1.tdi l).scrubbed = false :=
  ⟨hdr1, (mkHandle 5 1 1), 4096, 0, World.slices slice1, _, _, _, _, _, _, rfl, rfl, by decide +kernel⟩

theorem witness_SlicePackets_6 :
    ∃ (h : Hdr) (slice : Handle) (s s1 : State) (c : Nat) (n : Word) (f : Option Nat) (l : Nat) (x : Slice),
    s.served (sliceQuiesceInfo slice) h = some (s1, c, n, f) ∧ s1.findSlice slice = some (l, x) ∧ l ≠ 0 ∧ x.state = .active ∧
    (s1.tdi l).scrubbed = false :=
  ⟨hdr1, (mkHandle 5 1 1), World.slices slice1, _, _, _, _, _, _, rfl, rfl, by decide +kernel⟩

theorem witness_SlicePackets_7 :
    ∃ (h : Hdr) (slice : Handle) (s s1 : State) (c : Nat) (n : Word) (f : Option Nat) (l : Nat) (x : Slice),
    s.served (sliceResumeInfo slice) h = some (s1, c, n, f) ∧ s1.findSlice slice = some (l, x) ∧ x.state = .quiesced ∧
    (x.conf = true → (s1.tdi l).state = 3) :=
  ⟨hdr1, (mkHandle 5 1 1), World.slices { slice1 with state := .quiesced }, _, _, _, _, _, _, rfl, rfl, by decide +kernel⟩

theorem witness_SlicePackets_8 :
    ∃ (req : Nat) (s : State) (b : Back),
    s.pool.backs.find? (fun x => x.req == req) = some b ∧ b.since + 10000000 ≤ s.now :=
  ⟨7, world.onPool fun p => { p with backs := [back0] }, _, rfl, by decide +kernel⟩

theorem witness_DispatchPackets_1 :
    ∃ (h : Hdr) (a : DispArgs) (s s1 s2 : State) (c : Nat) (n : Word) (f : Option Nat) (g sv : Nat) (x : Program) (m : Mo) (bs : List (Bind × Mo)) (p
      : Polder) (t : Tab Desc),
    s.served (dispatchInfo a) h = some (s1, c, n, f) ∧ s1.findProg c a.program = some (g, x) ∧ a.save ≠ 0 ∧ s1.findMo c a.save = some (sv, m) ∧
    s1.bindMos c a.binds = .ok bs ∧ s1.brg.maint = false ∧ s1.actives ≠ [] ∧ s1.polder? a.polder = some p ∧ 1 ≤ a.count ∧ a.count ≤ p.eCount ∧
    s1.classOk ((s1.queue? h.q).elim 0 (·.cls)) c a.polder (some g) = true ∧ x.engMin ≤ a.count ∧ a.count ≤ x.engMax ∧ a.entry < x.blocks.length ∧
    (x.fmtMask.getLsbD 9 = true → s1.brg.lCq4 = true) ∧ m.ty = 4 ∧ saveSlot * a.count ≤ m.len ∧ bindAll x bs [] = .ok t ∧
    (∀ e ∈ x.bufs, e.optional = false → thas t e.index = true) ∧ s1.notify h c a.cookie = .ok s2 :=
  ⟨hdr4, { dispArgs0 with program := mkHandle 6 1 0, count := 16, save := mkHandle 3 1 4, binds := [{ index := 2, obj := mkHandle 3 1 1, off := 65472
    }] }, World.prog code0, _, _, _, _, _, _, _, _, _, _, _, _, rfl, rfl, by decide +kernel, rfl, rfl, by decide +kernel, by decide +kernel, rfl,
    by decide +kernel, by decide +kernel, (by decide +kernel), by decide +kernel, by decide +kernel, (by decide +kernel), by decide +kernel,
    by decide +kernel, (by decide +kernel), rfl, by decide +kernel, rfl⟩

theorem witness_DispatchPackets_2 :
    ∃ (h : Hdr) (a : RemoteArgs) (s s1 s2 : State) (c : Nat) (n : Word) (f : Option Nat) (i j : Nat) (x y : Mo) (l : Link) (b : Nat × Binding),
    s.served (dispatchRemoteInfo a) h = some (s1, c, n, f) ∧ s1.findMo c a.arg = some (i, x) ∧ s1.findMo c a.result = some (j, y) ∧
    s1.brg.lRemote = true ∧ s1.link? a.link = some l ∧ l.up = true ∧ l.rdisp = true ∧ a.argLen ≤ x.len ∧ y.flags.getLsbD 1 = true ∧
    s1.bindOn a.link (s1.ctxHandle c) = some b ∧ (s1.confSlice (s1.sliceOf c) = true → s1.sealSession (s1.address a.link) = true) ∧
    s1.notify h c a.cookie = .ok s2 :=
  ⟨hdr4, { remoteArgs0 with arg := mkHandle 3 1 1, result := mkHandle 3 1 1, argLen := 65536 }, World.link { link0 with attach := true }, _, _, _, _,
    _, _, _, _, _, _, _, rfl, rfl, rfl, by decide +kernel, rfl, by decide +kernel, by decide +kernel, (by decide +kernel), by decide +kernel, rfl,
    by decide +kernel, rfl⟩

theorem witness_MemoryObjectPackets_6 :
    ∃ (h : Hdr) (obj : Handle) (s s1 s2 : State) (c : Nat) (n : Word) (f : Option Nat) (k : Nat) (m : Mo) (b : List Byte),
    s.served (moSealInfo obj) h = some (s1, c, n, f) ∧ s1.findMo c obj = some (k, m) ∧ m.flags.getLsbD 2 = true ∧ m.isSealed = false ∧
    s1.writers k = false ∧ m.flags.getLsbD 3 = true ∧ s1.readMo m .hub 0 m.len = (s2, .ok b) :=
  ⟨hdr1, (mkHandle 3 1 2), world, _, _, _, _, _, _, _, _, rfl, rfl, by decide +kernel, by decide +kernel, (by decide +kernel), by decide +kernel,
    (read_fresh (v := pte 102) (by decide) rfl _ _ _ _ ⟨by decide +kernel, by decide +kernel⟩ rfl rfl rfl rfl (by decide +kernel)).choose_spec.choose_spec⟩

theorem witness_FenceAndProgramPackets_3 :
    ∃ (h : Hdr) (obj : Handle) (off : Nat) (s s1 s2 : State) (c : Nat) (n : Word) (f : Option Nat) (k p : Nat) (m : Mo) (d : List Byte),
    s.served (programLoadInfo obj off) h = some (s1, c, n, f) ∧ s1.findMo c obj = some (k, m) ∧ m.isSealed = true ∧
    (s1.confSlice (s1.sliceOf c) = false ∨ m.flags.getLsbD 3 = true) ∧ m.ty = 2 ∧ off ≤ m.len ∧
    s1.readMo m .hub off (min (m.len - off) 524288) = (s2, .ok d) ∧ imgCheck d (m.len - off) = .ok () ∧
    s2.slotFor (slotCount 6) s2.objs.pMgr s2.objs.progs = some p :=
  ⟨hdr1, (mkHandle 3 1 3), 65280, world, _, _, _, _, _, _, _, _, _, rfl, rfl, by decide +kernel, by decide +kernel, (by decide +kernel),
    by decide +kernel, ok_of [] (by decide +kernel), by decide +kernel, (pick_ex 9 (by decide) (by decide +kernel)).choose_spec⟩

theorem witness_QueryPackets_1 :
    ∃ (h : Hdr) (obj : Handle) (off : Nat) (s s1 s2 : State) (c : Nat) (n : Word) (f : Option Nat) (k : Nat) (m : Mo),
    s.served (queryAlmanacInfo obj off) h = some (s1, c, n, f) ∧ s1.findMo c obj = some (k, m) ∧ 16384 ≤ m.len ∧
    let d := s1.almBytes (some (s1.sliceOf c))
    m.destOk off d.length = .ok () ∧ (s1.drew 1).writeMo m .hub off d = (s2, .ok ()) :=
  ⟨hdr1, (mkHandle 3 1 0), 0, world, _, _, _, _, _, _, _, rfl, rfl, by decide +kernel, by decide +kernel,
    (write_host (v := hpe 0x400000) (by decide) rfl (by decide) _ _ _ _ ⟨by decide +kernel, by decide +kernel⟩ (by decide +kernel) (by decide +kernel)).choose_spec⟩

theorem witness_QueryPackets_3 :
    ∃ (h : Hdr) (target obj : Handle) (off : Nat) (s s1 s2 : State) (c : Nat) (n : Word) (f : Option Nat) (j k : Nat) (x : Ctx) (m : Mo),
    s.served (queryContextInfo target obj off) h = some (s1, c, n, f) ∧ s1.findCtxIn (s1.sliceOf c) target = some (j, x) ∧
    s1.findMo c obj = some (k, m) ∧ m.destOk off 256 = .ok () ∧
    s1.writeMo m .hub off (x.fault.bytes ++ { x.acct with engineNs := x.acct.engineNs + BitVec.ofNat 64 ((s1.sched.disps.filter (fun d : Disp => d.ctx == j)).map s1.owed).sum }.bytes s1.now) = (s2, .ok ()) :=
  ⟨hdr1, (mkHandle 1 1 1), (mkHandle 3 1 0), 65280, world, _, _, _, _, _, _, _, _, _, rfl, rfl, rfl, by decide +kernel, ok_of () (by decide +kernel)⟩

theorem witness_KvRecordPackets_1 :
    ∃ (h : Hdr) (a : AppendArgs) (s s1 s2 s3 s4 s5 s6 : State) (c : Nat) (n : Word) (f : Option Nat) (k j : Nat) (m src : Mo) (hd : List Byte) (st len
      t : Nat),
    s.served (kvAppendInfo a) h = some (s1, c, n, f) ∧ s1.findMo c a.obj = some (k, m) ∧ s1.findMo c a.source = some (j, src) ∧ s1.brg.maint = false ∧
    s1.actives ≠ [] ∧ (s1.polder? a.polder).isSome = true ∧ s1.classOk ((s1.queue? h.q).elim 0 (·.cls)) c a.polder none = true ∧ m.ty = 1 ∧
    src.ty = 0 ∧ m.flags.getLsbD 1 = true ∧ m.isSealed = false ∧ s1.readMo m .hub 0 48 = (s2, .ok hd) ∧ imgNat hd 40 1 = 1 ∧
    let e := s1.kvAt h n k m hd
    let x := e.geo
    let last := x.idx ((a.pos + a.count - 1) / x.tpb) (a.layer0 + a.nlay - 1) (x.ng - 1)
    let need := ((a.pos + a.count - 1) / x.tpb - a.pos / x.tpb + 1) * a.nlay * x.ng + t
    1 ≤ a.nlay ∧ a.layer0 + a.nlay ≤ x.layers ∧ a.seq < x.slots ∧ 1 ≤ a.count ∧ a.count ≤ 65535 ∧ a.form ≤ 1 ∧ a.srcOff % 64 = 0 ∧
    a.srcOff + a.nlay * a.count * x.srcTok a.form ≤ src.len ∧ e.seqLen a.seq s2 = .ok (st, len) s3 ∧ a.pos ≤ len ∧ a.pos + a.count ≤ x.maxLen ∧
    e.lacks a.seq (last + 1) s3 = .ok t s4 ∧ need ≤ s4.kvAvail k (imgNat hd 36 4) x.pool ∧ s4.notify h c a.cookie = .ok s5 ∧
    e.setSeq a.seq 1 (max len (a.pos + a.count)) s5 = .ok () s6 :=
  ⟨hdr1, { appendArgs0 with obj := mkHandle 3 1 5, source := mkHandle 3 1 1, pos := 10, count := 990 }, { world with sched := { world.sched with disps
    := [{ disp0 with work := .append { appendArgs0 with obj := mkHandle 3 1 5 } }] } }, _, _, _, _, _, _, _, _, _, _, _, _, _, _, _, _, _, rfl, rfl,
    rfl, by decide +kernel, by decide +kernel, (by decide +kernel), by decide +kernel, by decide +kernel, (by decide +kernel), by decide +kernel,
    by decide +kernel, rfl, by decide +kernel, by decide +kernel, (by decide +kernel), by decide +kernel, by decide +kernel, (by decide +kernel),
    by decide +kernel, by decide +kernel, (by decide +kernel), rfl, by decide +kernel, by decide +kernel,
    (lacks_none (v := pte 106) (lpf := 106) (by decide) rfl ⟨by decide +kernel, by decide +kernel⟩ ⟨_, _, _, rfl, rfl, rfl, rfl⟩ (by decide +kernel) ⟨_, rfl, by decide +kernel⟩ (by decide +kernel)).choose_spec.1,
    by unfold State.kvAvail; rw [(lacks_none (v := pte 106) (lpf := 106) (by decide) rfl ⟨by decide +kernel, by decide +kernel⟩ ⟨_, _, _, rfl, rfl, rfl, rfl⟩ (by decide +kernel) ⟨_, rfl, by decide +kernel⟩ (by decide +kernel)).choose_spec.2.2.2.2]; decide +kernel,
    rfl,
    (setSeq_ok (v := pte 106) (lpf := 106) (by decide) rfl (lacks_none (v := pte 106) (lpf := 106) (by decide) rfl ⟨by decide +kernel, by decide +kernel⟩ ⟨_, _, _, rfl, rfl, rfl, rfl⟩ (by decide +kernel) ⟨_, rfl, by decide +kernel⟩ (by decide +kernel)).choose_spec.2.1 (lacks_none (v := pte 106) (lpf := 106) (by decide) rfl ⟨by decide +kernel, by decide +kernel⟩ ⟨_, _, _, rfl, rfl, rfl, rfl⟩ (by decide +kernel) ⟨_, rfl, by decide +kernel⟩ (by decide +kernel)).choose_spec.2.2.1 (by decide +kernel) (lacks_none (v := pte 106) (lpf := 106) (by decide) rfl ⟨by decide +kernel, by decide +kernel⟩ ⟨_, _, _, rfl, rfl, rfl, rfl⟩ (by decide +kernel) ⟨_, rfl, by decide +kernel⟩ (by decide +kernel)).choose_spec.2.2.2.1).choose_spec⟩

theorem witness_KvDirectoryPackets_1 :
    ∃ (h : Hdr) (obj : Handle) (parent child pfx : Nat) (cookie : DWord) (s s1 s2 s3 s4 s5 s6 : State) (c : Nat) (n : Word) (f : Option Nat) (k : Nat)
      (m : Mo) (hd : List Byte) (len qlen : Nat),
    s.served (kvForkInfo obj parent child pfx cookie) h = some (s1, c, n, f) ∧ s1.findMo c obj = some (k, m) ∧ s1.brg.maint = false ∧ m.ty = 1 ∧
    m.flags.getLsbD 1 = true ∧ m.isSealed = false ∧ s1.readMo m .hub 0 48 = (s2, .ok hd) ∧ imgNat hd 40 1 = 1 ∧
    let e := s1.kvAt h n k m hd
    let x := e.geo
    let need := x.ng * x.layers + tableFrames (ceilDiv pfx x.tpb * x.layers * x.ng)
    parent < x.slots ∧ child < x.slots ∧ e.seqLen parent s2 = .ok (1, len) s3 ∧ e.seqLen child s3 = .ok (0, qlen) s4 ∧ parent ≠ child ∧ pfx ≤ len ∧
    need ≤ s4.kvAvail k (imgNat hd 36 4) x.pool ∧ s4.notify h c cookie = .ok s5 ∧ e.setSeq child 1 pfx s5 = .ok () s6 :=
  ⟨hdr1, (mkHandle 3 1 5), 0, 2048, 10, 0, world, _, _, _, _, _, _, _, _, _, _, _, _, _, _, rfl, rfl, by decide +kernel, by decide +kernel,
    (by decide +kernel), by decide +kernel, rfl, by decide +kernel, by decide +kernel, (by decide +kernel), rfl, rfl, by decide +kernel,
    by decide +kernel, (by decide +kernel), rfl,
    (setSeq_ok (v := pte 107) (lpf := 107) (by decide) rfl ⟨by decide +kernel, by decide +kernel⟩ ⟨_, _, _, rfl, rfl, rfl, rfl⟩ (by decide +kernel) ⟨_, rfl, by decide +kernel⟩).choose_spec⟩

theorem witness_KvDirectoryPackets_2 :
    ∃ (h : Hdr) (obj : Handle) (seq : Nat) (cookie : DWord) (s s1 s2 s3 s4 s5 : State) (c : Nat) (n : Word) (f : Option Nat) (k : Nat) (m : Mo) (hd :
      List Byte) (len : Nat),
    s.served (kvEvictInfo obj seq 0 (.any 4) cookie) h = some (s1, c, n, f) ∧ s1.findMo c obj = some (k, m) ∧ s1.brg.maint = false ∧ m.ty = 1 ∧
    s1.readMo m .hub 0 48 = (s2, .ok hd) ∧ imgNat hd 40 1 = 1 ∧
    let e := s1.kvAt h n k m hd
    seq < e.geo.slots ∧ e.seqLen seq s2 = .ok (1, len) s3 ∧ s3.notify h c cookie = .ok s4 ∧ e.setSeq seq 0 0 s4 = .ok () s5 :=
  ⟨hdr1, (mkHandle 3 1 5), 0, 0, world, _, _, _, _, _, _, _, _, _, _, _, _, rfl, rfl, by decide +kernel, by decide +kernel, rfl, by decide +kernel,
    by decide +kernel, rfl, rfl,
    (setSeq_ok (v := pte 106) (lpf := 106) (by decide) rfl ⟨by decide +kernel, by decide +kernel⟩ ⟨_, _, _, rfl, rfl, rfl, rfl⟩ (by decide +kernel) ⟨_, rfl, by decide +kernel⟩).choose_spec⟩

theorem witness_KvDirectoryPackets_3 :
    ∃ (h : Hdr) (obj : Handle) (seq newLen : Nat) (cookie : DWord) (s s1 s2 s3 s4 s5 : State) (c : Nat) (n : Word) (f : Option Nat) (k : Nat) (m : Mo)
      (hd : List Byte) (len : Nat),
    s.served (kvEvictInfo obj seq 1 (num 4 newLen) cookie) h = some (s1, c, n, f) ∧ s1.findMo c obj = some (k, m) ∧ s1.brg.maint = false ∧ m.ty = 1 ∧
    s1.readMo m .hub 0 48 = (s2, .ok hd) ∧ imgNat hd 40 1 = 1 ∧
    let e := s1.kvAt h n k m hd
    seq < e.geo.slots ∧ e.seqLen seq s2 = .ok (1, len) s3 ∧ newLen ≤ len ∧ s3.notify h c cookie = .ok s4 ∧ e.setSeq seq 1 newLen s4 = .ok () s5 :=
  ⟨hdr1, (mkHandle 3 1 5), 0, 10, 0, world, _, _, _, _, _, _, _, _, _, _, _, _, rfl, rfl, by decide +kernel, by decide +kernel, rfl,
    by decide +kernel, by decide +kernel, rfl, by decide +kernel, rfl,
    (setSeq_ok (v := pte 106) (lpf := 106) (by decide) rfl ⟨by decide +kernel, by decide +kernel⟩ ⟨_, _, _, rfl, rfl, rfl, rfl⟩ (by decide +kernel) ⟨_, rfl, by decide +kernel⟩).choose_spec⟩

theorem witness_FrameCommands_1 :
    ∃ (p : Path) (s : State) (b : Back) (m : Mo),
    p.wf = true ∧ s.reaches p 0x34008 true = true ∧ s.pool.frozen = false ∧ s.fcmdInRange = true ∧
    s.pool.backs.find? (fun b => BitVec.ofNat 32 b.req == s.pool.fReq) = some b ∧ s.mo? b.mo = some m ∧ b.backed + s.fcmdCount ≤ b.frames ∧
    (∀ k ∈ s.fcmdFrames, thas s.pool.frames k = false) ∧ s.backed + s.fcmdCount ≤ s.placeable s.pool.embank :=
  ⟨.host 0 none false, { world with pool := { world.pool with fLpf := 200, fReq := 7, backs := [{ back0 with backed := 0 }] } }, _, _,
    by decide +kernel, by decide +kernel, (by decide +kernel), by decide +kernel, rfl, rfl, by decide +kernel⟩

theorem witness_FrameCommands_2 :
    ∃ (p : Path) (s : State),
    p.wf = true ∧ s.reaches p 0x34008 true = true ∧ s.pool.frozen = false ∧ s.fcmdInRange = true ∧
    (∀ k ∈ s.fcmdFrames, thas s.pool.frames k = false) ∧ s.backed + s.fcmdCount ≤ s.placeable s.pool.embank :=
  ⟨.host 0 none false, { world with pool := { world.pool with fLpf := 200, fReq := 7, backs := [{ back0 with backed := 0 }] } }, by decide +kernel⟩

theorem witness_FrameCommands_3 :
    ∃ (p : Path) (s : State),
    p.wf = true ∧ s.reaches p 0x34008 true = true ∧ s.fcmdInRange = true ∧ (∀ k ∈ s.fcmdFrames, ∃ f, s.frame? k = some f ∧ f.owner = none) :=
  ⟨.host 0 none false, { world with pool := { world.pool with fLpf := 1, fReq := 7, backs := [{ back0 with backed := 0 }] } }, by decide +kernel,
    by decide +kernel, (by decide +kernel), fun k hk =>
    by rw [(by decide +kernel : ∀ k ∈ State.fcmdFrames ({ world with pool := { world.pool with fLpf := 1, fReq := 7, backs := [{ back0 with backed := 0 }] } }), k = 1) k hk]; exact ⟨_, rfl, rfl⟩⟩

theorem witness_FrameCommands_4 :
    ∃ (p : Path) (s : State) (f : Frame) (c a : Nat),
    p.wf = true ∧ s.reaches p 0x34008 true = true ∧ s.pool.fCount = 1 ∧ s.fcmdInRange = true ∧ s.frame? s.pool.fLpf = some f ∧ f.owner = some c ∧
    f.st = .bound a ∧ s.sen.sec = 0 :=
  ⟨.host 0 none false, { world with pool := { world.pool with fLpf := 101, fReq := 7, backs := [{ back0 with backed := 0 }] } }, _, _, _,
    by decide +kernel, by decide +kernel, (by decide +kernel), by decide +kernel, rfl, rfl, rfl, by decide +kernel⟩

theorem witness_FrameCommands_5 :
    ∃ (p : Path) (s : State) (f : Frame),
    p.wf = true ∧ s.reaches p 0x34008 true = true ∧ s.pool.fCount = 1 ∧ s.fcmdInRange = true ∧ s.frame? s.pool.fLpf = some f ∧ f.owner = none :=
  ⟨.host 0 none false, { world with pool := { world.pool with fLpf := 1, fReq := 7, backs := [{ back0 with backed := 0 }] } }, _, by decide +kernel,
    by decide +kernel, (by decide +kernel), by decide +kernel, rfl, by decide +kernel⟩

theorem witness_TailDoorbell_1 :
    ∃ (port : Nat) (ps : Option Nat) (tee : Bool) (k : Nat) (s : State) (l : Nat) (x : Queue),
    port < 4 ∧ (∀ i, ps = some i → i < 2 ^ 20) ∧ s.queue? k = some x ∧ s.sliceBy port ps = some l ∧ s.sliceOf x.ctx = l ∧ s.brg.ready = true ∧
    s.teeOk l tee = true :=
  ⟨0, none, false, 0, world, _, _, by decide +kernel, nofun, rfl, rfl, by decide +kernel⟩

theorem witness_TailDoorbell_2 :
    ∃ (h : Hdr) (s : State),
    (∀ e ∈ s.objs.fwQ, e.queue ≠ h.q) ∧ (∀ x, s.queue? h.q = some x → x.state ≠ .running) :=
  ⟨hdr1, world.modQueue 0 fun x => { x with state := .stopped }, by decide +kernel⟩

theorem witness_ConsumerDoorbell_1 :
    ∃ (port : Nat) (ps : Option Nat) (tee : Bool) (c : Nat) (s : State) (l : Nat) (x : Ctx),
    port < 4 ∧ (∀ i, ps = some i → i < 2 ^ 20) ∧ s.ctx? c = some x ∧ s.sliceBy port ps = some l ∧ x.slice = l ∧ s.brg.ready = true ∧
    s.teeOk l tee = true :=
  ⟨0, none, false, 0, world, _, _, by decide +kernel, nofun, rfl, rfl, by decide +kernel⟩

theorem witness_ClaimRead_1 :
    ∃ (n i : Nat) (s : State),
    n < 8 ∧ s.pwr.ccUp = true ∧ (∃ e ∈ s.evc.srcs, e.1 = i) ∧ s.eligible n i = true ∧
    (∀ j, s.eligible n j = true → (s.src j).prio < (s.src i).prio ∨ (s.src j).prio = (s.src i).prio ∧ i ≤ j) :=
  ⟨0, 5, { world with evc := { world.evc with srcs := [(5, { src1 with prio := 3 })] } }, by decide +kernel, by decide +kernel, ⟨_, .head _, rfl⟩,
    by decide +kernel, claim_only⟩

theorem witness_ClaimRead_2 :
    ∃ (n : Nat) (s : State),
    n < 8 ∧ s.pwr.ccUp = true ∧ (∀ i, s.eligible n i = false) :=
  ⟨7, world, by decide +kernel, by decide +kernel, fun _ => rfl⟩

theorem witness_EndOfInterrupt_1 :
    ∃ (n i r : Nat) (t : List (Nat × Nat)) (s : State),
    n < 8 ∧ s.pwr.ccUp = true ∧ i < 2048 ∧ (s.core n).stack = (i, r) :: t :=
  ⟨0, 5, _, _, { world with evc := { world.evc with cores := [(0, { Core.reset with run := 3, stack := [(5, 0)] })] } }, by decide +kernel,
    by decide +kernel, (by decide +kernel), rfl⟩

theorem witness_EndOfInterrupt_2 :
    ∃ (n i : Nat) (s : State),
    n < 8 ∧ s.pwr.ccUp = true ∧ i < 2048 ∧ (∀ e, (s.core n).stack.head? = some e → e.1 ≠ i) :=
  ⟨0, 6, { world with evc := { world.evc with cores := [(0, { Core.reset with run := 3, stack := [(5, 0)] })] } }, by decide +kernel,
    by decide +kernel, (by decide +kernel), fun _ h => by cases h; decide⟩

theorem witness_WiredInputs_1 :
    ∃ (i : Nat),
    i < 32 :=
  ⟨31, by decide +kernel⟩

theorem witness_MailboxCommands_1 :
    ∃ (m : Nat) (s : State),
    m < 64 ∧ (mbxSender m).wf = true ∧ s.partyReaches (mbxSender m) = true ∧ (s.mbox m).msgs.length < 8 ∧ s.mbxDead m = false :=
  ⟨0, world, by decide +kernel⟩

theorem witness_MailboxCommands_2 :
    ∃ (who : Party) (m width : Nat) (s : State),
    m < 64 ∧ who.wf = true ∧ s.partyReaches who = true ∧ (who ≠ mbxSender m ∨ width ≠ 8 ∨ 8 ≤ (s.mbox m).msgs.length ∨ s.mbxDead m = true) :=
  ⟨.mmc, 0, 8, world, by decide +kernel⟩

theorem witness_MailboxCommands_3 :
    ∃ (m : Nat) (w : DWord) (r : List DWord) (s : State),
    m < 64 ∧ (mbxReceiver m).wf = true ∧ s.partyReaches (mbxReceiver m) = true ∧ (s.mbox m).msgs = w :: r :=
  ⟨3, _, _, world.modMbox 3 fun x => { x with msgs := [9] }, by decide +kernel, by decide +kernel, (by decide +kernel), rfl⟩

theorem witness_MailboxCommands_4 :
    ∃ (who : Party) (m width : Nat) (s : State),
    m < 64 ∧ who.wf = true ∧ s.partyReaches who = true ∧ (who ≠ mbxReceiver m ∨ width ≠ 8 ∨ (s.mbox m).msgs = []) :=
  ⟨.control, 63, 4, world, by decide +kernel⟩

theorem witness_MailboxCommands_5 :
    ∃ (cmd : Instr) (w : DWord) (s : State),
    (cmd = .pdAttach ∧ w = 0x81 ∨ cmd = .pdDetach ∧ w = 0x82) ∧ s.brg.ready = true ∧ s.pwr.ccUp = true ∧ (s.mbox 1).msgs.length < 8 ∧
    ((s.mbxPush 1 w).pwr.ccUp = true) :=
  ⟨.pdAttach, 0x81, world, by decide +kernel⟩

theorem witness_RegisterAccess_1 :
    ∃ (p : Path) (off width : Nat),
    p.wf = true ∧ (width ≠ 4 ∧ width ≠ 8 ∨ off % width ≠ 0) :=
  ⟨.host 0 none false, 0x34008, 2, by decide +kernel⟩

theorem witness_RegisterAccess_2 :
    ∃ (p : Path) (off width : Nat),
    p.wf = true ∧ (width = 4 ∨ width = 8) ∧ off % width = 0 :=
  ⟨.host 0 none false, 0x34008, 8, by decide +kernel⟩

theorem witness_DebugAndEntropy_1 :
    ∃ (t : Token) (s : State),
    s.sen.entropy = false ∧ s.tokenOk t = true :=
  ⟨token0, world, by decide +kernel⟩

theorem witness_DebugAndEntropy_2 :
    ∃ (t : Token) (s : State),
    s.sen.entropy = false ∧ s.tokenOk t = false :=
  ⟨{ token0 with lifetime := 0 }, world, by decide +kernel⟩

theorem witness_DebugAndEntropy_3 :
    ∃ (s : State),
    s.sen.entropy = true :=
  ⟨{ world with sen := { world.sen with entropy := true } }, by decide +kernel⟩

theorem witness_DebugAndEntropy_4 :
    ∃ (s : State),
    s.sen.dbg.unlocked = true :=
  ⟨{ world with sen := { world.sen with dbg := { Debug.empty with unlocked := true } } }, by decide +kernel⟩

theorem witness_DebugAndEntropy_5 :
    ∃ (s : State),
    s.sen.dbg.unlocked = true ∧ s.sen.dbg.expiry ≤ s.now :=
  ⟨{ world with sen := { world.sen with dbg := { Debug.empty with unlocked := true, expiry := 10 ^ 9 } } }, by decide +kernel⟩

theorem witness_EngineCommands_1 :
    ∃ (ref : DWord) (k : Nat) (s s1 : State) (d : Disp) (g : Program) (e e0 e1 : Engine),
    s.disp? ref = some d ∧ s.dispProg d = some g ∧ tget d.engs k = some e ∧ d.issues e = true ∧ e.pc < g.bundles ∧
    s.fetchCode g (d.clusterOf k) e = (s1, .ok e0) ∧ e0.resident g = true ∧
    let b := e0.bundle g
    let hdr := bits b 0 16
    (d.state = .running ∨ d.state = .stopping ∧ bits hdr 0 1 = 0 ∧ s1.now < d.preAt + 4000) ∧ hdr &&& 0xE020 = 0 ∧
    e0.ready hdr (if bits hdr 1 1 = 1 then bits b 16 4 else 0) = true ∧ ¬(bits hdr 4 1 = 1 ∧ bits b 192 6 = 0x13) ∧
    bundleWhole (s1.env d g k) s1 e0 b = .ok (e1, none) :=
  ⟨0, 0, World.run code0 start0, _, _, _, _, _, _, rfl, rfl, rfl, by decide +kernel, by decide +kernel, rfl, rfl, by decide +kernel,
    by decide +kernel, (by decide +kernel), by decide +kernel, rfl⟩

theorem witness_EngineCommands_2 :
    ∃ (ref : DWord) (k : Nat) (s s1 : State) (d : Disp) (g : Program) (e e0 : Engine) (f : EFault),
    s.disp? ref = some d ∧ s.dispProg d = some g ∧ tget d.engs k = some e ∧ d.issues e = true ∧ e.pc < g.bundles ∧
    s.fetchCode g (d.clusterOf k) e = (s1, .ok e0) ∧ e0.resident g = true ∧
    let b := e0.bundle g
    let hdr := bits b 0 16
    (d.state = .running ∨ d.state = .stopping ∧ bits hdr 0 1 = 0 ∧ s1.now < d.preAt + 4000) ∧ hdr &&& 0xE020 = 0 ∧
    e0.ready hdr (if bits hdr 1 1 = 1 then bits b 16 4 else 0) = true ∧ ¬(bits hdr 4 1 = 1 ∧ bits b 192 6 = 0x13) ∧
    bundleWhole (s1.env d g k) s1 e0 b = .error f :=
  ⟨0, 0, World.run [0x10 + 2 ^ 192 * 0x3F] start0, _, _, _, _, _, _, rfl, rfl, rfl, by decide +kernel, by decide +kernel, rfl, rfl, by decide +kernel,
    by decide +kernel, (by decide +kernel), by decide +kernel, rfl⟩

theorem witness_EngineCommands_3 :
    ∃ (ref : DWord) (k : Nat) (s s1 : State) (d : Disp) (g : Program) (e e0 : Engine),
    s.disp? ref = some d ∧ s.dispProg d = some g ∧ tget d.engs k = some e ∧ d.issues e = true ∧ e.pc < g.bundles ∧
    s.fetchCode g (d.clusterOf k) e = (s1, .ok e0) ∧ e0.resident g = false :=
  ⟨0, 0, World.three, _, _, _, _, _, rfl, rfl, rfl, by decide +kernel, by decide +kernel, ok_of start0 (by decide +kernel), by decide +kernel⟩

theorem witness_EngineCommands_4 :
    ∃ (ref : DWord) (k : Nat) (s s1 : State) (d : Disp) (g : Program) (e : Engine) (a : AccErr),
    s.disp? ref = some d ∧ s.dispProg d = some g ∧ tget d.engs k = some e ∧ d.issues e = true ∧ e.pc < g.bundles ∧
    s.fetchCode g (d.clusterOf k) e = (s1, .error a) :=
  ⟨0, 0, World.lost, _, _, _, _, _, rfl, rfl, rfl, by decide +kernel, by decide +kernel, err_of (by decide +kernel)⟩

theorem witness_EngineCommands_5 :
    ∃ (ref : DWord) (k : Nat) (s : State) (d : Disp) (g : Program) (e : Engine),
    s.disp? ref = some d ∧ s.dispProg d = some g ∧ tget d.engs k = some e ∧ d.issues e = true ∧ g.bundles ≤ e.pc :=
  ⟨0, 0, World.run [] start0, _, _, _, rfl, rfl, rfl, by decide +kernel⟩

theorem witness_EngineCommands_6 :
    ∃ (ref : DWord) (k : Nat) (s s1 : State) (d : Disp) (g : Program) (e e0 : Engine),
    s.disp? ref = some d ∧ s.dispProg d = some g ∧ tget d.engs k = some e ∧ d.issues e = true ∧ d.state = .running ∧ e.pc < g.bundles ∧
    s.fetchCode g (d.clusterOf k) e = (s1, .ok e0) ∧ e0.resident g = true ∧
    let b := e0.bundle g
    let hdr := bits b 0 16
    hdr &&& 0xE020 = 0 ∧ e0.ready hdr (if bits hdr 1 1 = 1 then bits b 16 4 else 0) = true ∧ bits hdr 4 1 = 1 ∧ bits b 192 6 = 0x13 ∧
    ctlCheck (s1.env d g k) e0 (bits b 192 32) (bits b 224 32) e0.pc = .ok () :=
  ⟨0, 0, World.run [0x10 + 2 ^ 192 * 0x13] start0, _, _, _, _, _, rfl, rfl, rfl, by decide +kernel, by decide +kernel, (by decide +kernel), rfl,
    by decide +kernel, by decide +kernel, (by decide +kernel), by decide +kernel, by decide +kernel, rfl⟩

theorem witness_EngineCommands_7 :
    ∃ (ref : DWord) (k : Nat) (s s1 : State) (d : Disp) (g : Program) (e e0 : Engine),
    s.disp? ref = some d ∧ s.dispProg d = some g ∧ tget d.engs k = some e ∧ d.issues e = true ∧ e.pc < g.bundles ∧
    s.fetchCode g (d.clusterOf k) e = (s1, .ok e0) ∧ e0.resident g = true ∧ bits (e0.bundle g) 0 16 &&& 0xE020 ≠ 0 ∧
    (d.state = .running ∨ d.state = .stopping ∧ bits (e0.bundle g) 0 1 = 0 ∧ s1.now < d.preAt + 4000) :=
  ⟨0, 0, World.run [0x20] start0, _, _, _, _, _, rfl, rfl, rfl, by decide +kernel, by decide +kernel, rfl, rfl, by decide +kernel⟩

theorem witness_EngineCommands_9 :
    ∃ (ref : DWord) (id : Nat) (s : State) (d : Disp) (g : Program),
    s.disp? ref = some d ∧ s.dispProg d = some g ∧ d.waitingAt id ≠ [] ∧ (∀ e ∈ d.engs, e.2.halted = false) ∧ d.state = .running ∧
    (d.waitingAt id).length = d.count :=
  ⟨0, 0, World.run [0x10 + 2 ^ 192 * 0x13] { start0 with barrier := some 0 }, _, _, rfl, rfl, by decide +kernel⟩

theorem witness_EngineCommands_10 :
    ∃ (ref : DWord) (id k : Nat) (s : State) (d : Disp) (g : Program) (e : Engine),
    s.disp? ref = some d ∧ s.dispProg d = some g ∧ (d.waitingAt id).head? = some k ∧ tget d.engs k = some e ∧ (∃ x ∈ d.engs, x.2.halted = true) :=
  ⟨0, 0, _, World.disps [{ run0 with count := 2, engs := [(0, { start0 with barrier := some 0 }), (1, { start0 with halted := true })] }], _, _, _,
    rfl, rfl, rfl, rfl, ⟨_, .tail _ (.head _), rfl⟩⟩

theorem witness_EngineCommands_11 :
    ∃ (ref : DWord) (k tag i : Nat) (s s1 : State) (d : Disp) (e : Engine) (m : MvOp),
    s.disp? ref = some d ∧ tget d.engs k = some e ∧
    let l := e.mv.zipIdx.filter (fun m => m.1.tag == tag && s.mvCanEnd d k e m.1)
    l[s.peek % l.length]? = some (m, i) ∧ (s.drew 1).mvFinish d k i e m = (s1, none) :=
  ⟨0, 0, 3, 0, World.run code0 { start0 with mv := [mv0] }, _, _, _, mv0, rfl, rfl, by show [(mv0, 0)][_ % 1]? = some (mv0, 0); rw [Nat.mod_one]; rfl,
    rfl⟩

theorem witness_DispatchEvents_1 :
    ∃ (k : Nat) (s : State) (p : Polder) (d : Disp) (es : List Nat),
    thas s.sched.resets k = false ∧ s.polder? k = some p ∧ s.nextStart k p = some (d, some es) ∧ (∀ e ∈ es, s.clusterUp (e / 16) = true) :=
  ⟨0, World.disps [pend0 1], polder0, pend0 1, [0], by decide +kernel⟩

theorem witness_DispatchEvents_2 :
    ∃ (k : Nat) (s : State) (p : Polder) (d : Disp),
    thas s.sched.resets k = false ∧ s.polder? k = some p ∧ s.nextStart k p = some (d, none) :=
  ⟨0, World.disps [pend0 17], polder0, pend0 17, by decide +kernel⟩

theorem witness_DispatchEvents_3 :
    ∃ (ref : DWord) (s : State) (d : Disp) (m : Nat),
    s.disp? ref = some d ∧ (d.state = .running ∨ d.state = .stopping) ∧ d.saveObj = some m ∧ (∀ e ∈ d.engs, e.2.halted = true ∧ e.2.mv = []) ∧
    d.engs.length = d.count :=
  ⟨0, World.disps [{ run0 with engs := [(0, { start0 with halted := true })] }], _, _, rfl, by decide +kernel, rfl, by decide +kernel⟩

theorem witness_DispatchEvents_4 :
    ∃ (c : Nat) (s : State) (x : Ctx),
    s.ctx? c = some x ∧ x.owesFault = true :=
  ⟨0, world.modCtx 0 fun x => { x with owesFault := true }, _, rfl, by decide +kernel⟩

theorem witness_DispatchEvents_5 :
    ∃ (ref : DWord) (k : Nat) (s : State) (d : Disp) (e : Engine),
    s.disp? ref = some d ∧ tget d.engs k = some e ∧ d.state = .stopping ∧ d.preAt + 4000 ≤ s.now ∧ e.halted = false ∧ e.stop = .run :=
  ⟨0, 0, World.disps [{ run0 with state := .stopping, preAt := 10 ^ 9 - 4000 }], _, _, rfl, rfl, by decide +kernel⟩

theorem witness_DispatchEvents_6 :
    ∃ (ref : DWord) (s s1 : State) (d : Disp) (m : Nat),
    s.disp? ref = some d ∧ d.state = .stopping ∧ (∀ e ∈ d.engs, e.2.stopped = true) ∧ d.saveObj = some m ∧ (∃ e ∈ d.engs, e.2.halted = false) ∧
    (s.mo? m).any (·.isSealed) = false ∧ s.restAll d = (s1, none) :=
  ⟨0, World.disps [{ run0 with state := .stopping, engs := [(0, { start0 with stop := .full })] }], _, _, _, rfl, by decide +kernel,
    by decide +kernel, rfl, ⟨_, .head _, rfl⟩, by decide +kernel, rfl⟩

theorem witness_DispatchEvents_7 :
    ∃ (ref : DWord) (s : State) (d : Disp) (m : Nat) (x : Mo),
    s.disp? ref = some d ∧ d.state = .stopping ∧ (∀ e ∈ d.engs, e.2.stopped = true) ∧ d.saveObj = some m ∧ (∃ e ∈ d.engs, e.2.halted = false) ∧
    s.mo? m = some x ∧ x.isSealed = true :=
  ⟨0, { World.disps [{ run0 with state := .stopping, engs := [(0, { start0 with stop := .full })] }] with objs := { world.objs with mos := [(4, { mo0
    256 1056 4 2 with isSealed := true })] } }, _, _, _, rfl, by decide +kernel, by decide +kernel, rfl, ⟨_, .head _, rfl⟩, rfl, by decide +kernel⟩

theorem witness_DispatchEvents_8 :
    ∃ (ref : DWord) (s : State) (d : Disp),
    s.disp? ref = some d ∧ d.state = .stopping ∧ (∀ e ∈ d.engs, e.2.stopped = true) ∧ d.saveObj = none :=
  ⟨disp0.ref, World.disps [{ disp0 with state := .stopping }], _, rfl, by decide +kernel⟩

theorem witness_DispatchEvents_9 :
    ∃ (ref : DWord) (s s1 : State) (d : Disp) (g : Program) (m : Nat) (x : Mo),
    s.disp? ref = some d ∧ d.state = .saving ∧ s.dispProg d = some g ∧ d.saveObj = some m ∧ s.mo? m = some x ∧ s.saveAll d g x = (s1, none) :=
  ⟨0, World.disps [{ run0 with state := .saving, engs := [] }], _, _, _, _, _, rfl, by decide +kernel, rfl, rfl, rfl, rfl⟩

theorem witness_KvCompletion_1 :
    ∃ (ref : DWord) (s t : State) (d : Disp) (m : Nat) (k : KvEnv) (r : List Byte),
    s.disp? ref = some d ∧ d.work.kvObj = some m ∧ s.kvEnv d m = some k ∧ (d.state = .running ∨ d.state = .stopping) ∧ s.kvBlocked d = false ∧
    d.sent = false ∧ (∀ a qs, d.work ≠ .attend a qs) ∧ k.work d.work s = .ok r t :=
  ⟨0, World.kv ({ run0 with work := .append appendArgs0, engs := [], count := 0 }), _, _, _, _, _, rfl, rfl, rfl, .inl rfl, by decide +kernel,
    by decide +kernel, by nofun, rfl⟩

theorem witness_KvCompletion_2 :
    ∃ (ref : DWord) (s t u : State) (d : Disp) (a : AttendArgs) (qs : List (Nat × Nat)) (m : Nat) (k : KvEnv) (r : List Byte),
    s.disp? ref = some d ∧ d.work = .attend a qs ∧ d.work.kvObj = some m ∧ s.kvEnv d m = some k ∧ (d.state = .running ∨ d.state = .stopping) ∧
    s.kvBlocked d = false ∧ d.sent = false ∧ a.ret = 0 ∧ k.work d.work s = .ok r t ∧ kvStoreResults k a r t = .ok () u :=
  ⟨0, World.kv ({ run0 with work := .attend { attendArgs0 with ret := 0 } [], engs := [], count := 0 }), _, _, _, _, _, _, _, _, rfl, rfl, rfl, rfl,
    .inl rfl, by decide +kernel, by decide +kernel, (by decide +kernel), rfl, rfl⟩

theorem witness_KvCompletion_3 :
    ∃ (ref : DWord) (s t : State) (d : Disp) (a : AttendArgs) (qs : List (Nat × Nat)) (m : Nat) (k : KvEnv) (r : List Byte),
    s.disp? ref = some d ∧ d.work = .attend a qs ∧ d.work.kvObj = some m ∧ s.kvEnv d m = some k ∧ (d.state = .running ∨ d.state = .stopping) ∧
    s.kvBlocked d = false ∧ d.sent = false ∧ a.ret = 1 ∧ k.work d.work s = .ok r t ∧
    let u := (t.account d.ctx fun y => { y with progressHs := y.progressHs + BitVec.ofNat 64 t.peek }).drew 1
    (u.confSlice (u.sliceOf d.ctx) = false ∨ (u.ensureSeal d.ctx (u.address a.port)).isSome = true) :=
  ⟨0, World.kv ({ run0 with work := .attend { attendArgs0 with ret := 1 } [], engs := [], count := 0 }), _, _, _, _, _, _, _, rfl, rfl, rfl, rfl, .inl
    rfl, by decide +kernel, by decide +kernel, (by decide +kernel), rfl, by decide +kernel⟩

theorem witness_KvCompletion_4 :
    ∃ (ref : DWord) (s : State) (d : Disp) (m : Nat) (k : KvEnv),
    s.disp? ref = some d ∧ d.work.kvObj = some m ∧ s.kvEnv d m = some k ∧ (d.state = .running ∨ d.state = .stopping) ∧ s.kvBlocked d = false ∧
    d.sent = true ∧ d.stores = 0 :=
  ⟨0, World.kv ({ run0 with work := .attend { attendArgs0 with ret := 1 } [], engs := [], count := 0, sent := true }), _, _, _, rfl, rfl, rfl, .inl
    rfl, by decide +kernel⟩

theorem witness_SchedulerTimers_1 :
    ∃ (k : Nat) (s : State) (p : Polder),
    s.polder? k = some p ∧ p.dayStart + p.dayTicks ≤ s.now :=
  ⟨0, world.modPolder 0 fun p => { p with dayStart := 0 }, _, rfl, by decide +kernel⟩

theorem witness_SchedulerTimers_2 :
    ∃ (k c : Nat) (s : State) (p : Polder) (a : Adm) (d n : Nat),
    s.polder? k = some p ∧ s.feastAdm k c = some a ∧
    let start (m : Nat) : Nat := p.dayStart + m * p.dayTicks
    (d, n) ∈ laterRuns (a.days &&& p.nFeast) p.day ∧ s.now < start n ∧ start n ≤ s.now + p.eve (s.admEngines p a) ∧
    (∀ r ∈ p.resv, r.ctx = c → r.at_ ≠ start n) ∧
    (∀ e ∈ laterRuns (a.days &&& p.nFeast) p.day, e.2 < n → start e.2 ≤ s.now ∨ ∃ r ∈ p.resv, r.ctx = c ∧ r.at_ = start e.2) :=
  ⟨0, 0, World.adm, _, _, 1, 1, rfl, rfl, by decide +kernel⟩

theorem witness_KeyTimers_1 :
    ∃ (c : Nat) (s : State) (x : Ctx),
    s.ctx? c = some x ∧ x.state = .active ∧ x.sweep = .none ∧ x.keyIval ≠ 0 ∧ (∀ l, s.slice? x.slice = some l → l.state = .active) ∧
    x.lastRot + x.keyIval ≤ s.now ∧ x.season < 2 ^ 32 - 1 :=
  ⟨0, world.modCtx 0 fun x => { x with keyIval := 10 ^ 8 }, _, rfl, by decide +kernel, by decide +kernel, (by decide +kernel),
    by intro l (h : some slice0 = some l); rw [← Option.some.inj h]; rfl, by decide +kernel⟩

theorem witness_KeyTimers_2 :
    ∃ (c : Nat) (s : State) (x : Ctx),
    s.ctx? c = some x ∧ x.sweep = .running ∧ s.sweepHeld c = false ∧ (∀ i ∈ s.oldSectors c x, i ∉ s.pool.bad) :=
  ⟨0, world.modCtx 0 fun x => { x with sweep := .running, season := 1, prevLive := true }, _, rfl, by decide +kernel⟩

theorem witness_PlacementEvents_2 :
    ∃ (k : Nat) (s : State) (q m : Move),
    let s0 := s.evacRoom
    s0.nextMove k = some (q, m) :=
  ⟨1, world.onPool fun p => { p with moveQ := [move0] }, _, move0, rfl⟩

theorem witness_PlacementEvents_3 :
    ∃ (lpf : Nat) (s : State) (m : Move),
    s.pool.moves.find? (fun m => m.lpf == lpf) = some m ∧ m.evac = false ∧ s.anyBad lpf = false ∧ s.copyHeld m = false :=
  ⟨101, world.onPool fun p => { p with moves := [move0] }, _, rfl, by decide +kernel⟩

theorem witness_PlacementEvents_4 :
    ∃ (s : State) (c b n : Nat),
    s.pool.invJob = some (c, b, n) :=
  ⟨world.onPool fun p => { p with invJob := some (0, 0, 0) }, _, _, _, rfl⟩

theorem witness_PlacementEvents_5 :
    ∃ (k : Nat) (s : State) (x : Stack),
    s.stack? k = some x :=
  ⟨0, world, _, rfl⟩

theorem witness_PlacementEvents_6 :
    ∃ (k : Nat) (s : State) (x : Stack),
    s.stack? k = some x ∧ 2 ≤ x.fails :=
  ⟨0, world.modStack 0 fun x => { x with fails := 2 }, _, rfl, by decide +kernel⟩

theorem witness_PlacementEvents_7 :
    ∃ (k lpf i : Nat) (s : State) (x : Stack) (f : Frame),
    i < 256 ∧ s.stack? k = some x ∧ s.frame? lpf = some f ∧ f.st = .bound k ∧ s.pool.bad.contains (256 * lpf + i) = false ∧
    s.pool.moves.find? (fun m => m.lpf == lpf) = none :=
  ⟨0, 101, 255, world, _, _, by decide +kernel, rfl, rfl, by decide +kernel⟩

theorem witness_LinkEvents_1 :
    ∃ (l n : Nat) (far : FarEnd) (s : State) (x : Link),
    s.link? l = some x ∧ x.up = false ∧ s.mayTrain l x = true ∧ (∀ t, x.retry = some t → t ≤ s.now) ∧ s.trainCheck l x far = .ok n :=
  ⟨0, 4, { far0 with vcs := 4 }, { World.link { link0 with attach := true, state := 1 } with sen := { world.sen with linkOk := true } }, _, rfl,
    by decide +kernel, by decide +kernel, nofun, ex_of (by decide +kernel)⟩

theorem witness_LinkEvents_2 :
    ∃ (l r : Nat) (far : FarEnd) (s : State) (x : Link),
    s.link? l = some x ∧ x.up = false ∧ s.mayTrain l x = true ∧ (∀ t, x.retry = some t → t ≤ s.now) ∧ s.trainCheck l x far = .error r :=
  ⟨0, 2, { far0 with signal := false }, World.link { link0 with attach := true, state := 1 }, _, rfl, by decide +kernel, by decide +kernel, nofun,
    er_of (by decide +kernel)⟩

theorem witness_LinkEvents_3 :
    ∃ (l : Nat) (f : Flit) (s : State) (x : Link),
    s.link? l = some x ∧ x.up = true ∧ f.fecOk = true ∧ x.tagGood f = true ∧ f.seq = x.expSeq ∧ x.unrep + 1 < 64 ∧ (x.accept f).freedDue = false ∧
    let y := x.noteSyms (s.peek / 16 % max x.lanes 1) (s.peek % 16) s.now
    y.noisy = false :=
  ⟨0, flit0, World.link { link0 with attach := true }, _, rfl, by decide +kernel, by decide +kernel, (by decide +kernel), by decide +kernel,
    by decide +kernel, (by decide +kernel), quiet_link rfl _ _ _⟩

theorem witness_LinkEvents_4 :
    ∃ (l : Nat) (f : Flit) (s : State) (x : Link),
    s.link? l = some x ∧ x.up = true ∧ f.fecOk = false :=
  ⟨0, { flit0 with fecOk := false }, World.link { link0 with attach := true }, _, rfl, by decide +kernel⟩

theorem witness_LinkEvents_5 :
    ∃ (l d : Nat) (f : CtlFlit) (s : State) (x : Link),
    s.link? l = some x ∧ x.up = true ∧ f.tagOk = true ∧ x.keyHeld f.kph = true ∧ f.ackValid = true ∧ f.nak = false ∧ x.ackCount f.ack = some d ∧
    f.reqKind = 0 ∧ f.reply = 0 ∧ x.owed = [] :=
  ⟨0, 0, { ctl0 with ack := 0xFFFF, ackValid := true }, World.link { link0 with attach := true }, _, rfl, by decide +kernel⟩

theorem witness_LinkEvents_6 :
    ∃ (l : Nat) (f : CtlFlit) (s : State) (x : Link),
    s.link? l = some x ∧ x.up = true ∧ f.tagOk = true ∧ x.keyHeld f.kph = true ∧ (f.ackValid = true ∨ f.nak = true) ∧ x.ackCount f.ack = none :=
  ⟨0, { ctl0 with ackValid := true }, World.link { link0 with attach := true }, _, rfl, by decide +kernel⟩

theorem witness_LinkEvents_7 :
    ∃ (l : Nat) (f : CtlFlit) (s : State) (x : Link),
    s.link? l = some x ∧ x.up = true ∧ (f.tagOk = false ∨ x.keyHeld f.kph = false) :=
  ⟨0, { ctl0 with tagOk := false }, World.link { link0 with attach := true }, _, rfl, by decide +kernel, .inl rfl⟩

theorem witness_LinkEvents_7_key :
    ∃ (l : Nat) (f : CtlFlit) (s : State) (x : Link),
    s.link? l = some x ∧ x.up = true ∧ (f.tagOk = false ∨ x.keyHeld f.kph = false) :=
  ⟨0, { ctl0 with kph := true }, World.link { link0 with attach := true }, _, rfl, by decide +kernel, .inr rfl⟩

theorem witness_LinkEvents_9 :
    ∃ (l : Nat) (s : State) (x : Link),
    s.link? l = some x ∧ x.up = true ∧ x.reportDue s.now = true :=
  ⟨0, World.link { link0 with attach := true, unrep := 64 }, _, rfl, by decide +kernel⟩

theorem witness_LinkEvents_10 :
    ∃ (l : Nat) (s : State) (x : Link),
    s.link? l = some x ∧ x.up = true ∧ x.flits ≠ [] ∧ x.lastAck + 800 ≤ s.now :=
  ⟨0, World.link { link0 with attach := true, flits := [{ seq := 0, vc := 0, fill := 0, kph := false, ctr := 0, fin := none, bytes := [] }] }, _, rfl,
    by decide +kernel⟩

theorem witness_LinkEvents_11 :
    ∃ (l : Nat) (s : State) (x : Link),
    s.link? l = some x ∧ x.up = true :=
  ⟨0, World.link { link0 with attach := true, secTx := some [7] }, _, rfl, by decide +kernel⟩

theorem witness_LinkEvents_13 :
    ∃ (l : Nat) (far : FarEnd) (s : State) (x : Link),
    s.link? l = some x ∧ x.up = true ∧ far.signal = true ∧ far.phy = true ∧ lanesFor x.full (min far.lanes (x.goal.getD 8)) ≠ 0 :=
  ⟨0, far0, World.link { link0 with attach := true }, _, rfl, by decide +kernel⟩

theorem witness_LinkEvents_14 :
    ∃ (l : Nat) (far : FarEnd) (s : State) (x : Link),
    s.link? l = some x ∧ x.up = true ∧ (far.signal = false ∨ far.phy = false) :=
  ⟨0, { far0 with phy := false }, World.link { link0 with attach := true }, _, rfl, by decide +kernel, .inr rfl⟩

theorem witness_LinkEvents_15 :
    ∃ (l w : Nat) (s : State) (x : Link),
    s.link? l = some x ∧ x.up = true ∧ (w = 2 ∨ w = 4 ∨ w = 8) ∧ w ≤ x.full :=
  ⟨0, 8, World.link { link0 with attach := true }, _, rfl, by decide +kernel⟩

theorem witness_LinkMemoryRequests_1 :
    ∃ (l : Nat) (m q2 : Msg) (s s0 s1 s2 s3 : State) (x : Link) (c : Nat) (y : Ctx) (b : Binding) (st : Bool) (d : List Byte),
    s.link? l = some x ∧ x.up = true ∧
    let q := s.taken l 0x01 x m
    msgAgrees q = true ∧ q.dst = s.address 0xFF ∧ s.strictNow l x q = (s0, st) ∧ s0.bindingOf q = .ok (c, y, b) ∧
    (∀ z, s0.slice? y.slice = some z → z.state = .active) ∧ s0.police l y.slice q = some s1 ∧ s1.sealCheck c q = .ok (s2, q2) ∧
    (s2.confSlice (s2.sliceOf c) = true → (s2.tdi (s2.sliceOf c)).state = 3) ∧ s2.readCtx c (.edge (l % 16)) q2.addr.toNat q2.len = (s3, .ok d) :=
  ⟨0, { msg0 with binding := 3, dst := 0xFF000000, addr := 0x20000, len := 32 }, _, World.link { link0 with attach := true }, _, _, _, _, _, _, _, _,
    _, _, rfl, by decide +kernel, by decide +kernel, (by decide +kernel), rfl, rfl,
    by intro z (h : some slice0 = some z); rw [← Option.some.inj h]; rfl, rfl, rfl, by decide +kernel, ok_of [] (by decide +kernel)⟩

theorem witness_LinkMemoryRequests_2 :
    ∃ (l : Nat) (m q2 : Msg) (s s0 s1 s2 s3 : State) (x : Link) (c : Nat) (y : Ctx) (b : Binding) (st : Bool),
    s.link? l = some x ∧ x.up = true ∧
    let q := s.taken l 0x02 x m
    msgAgrees q = true ∧ q.dst = s.address 0xFF ∧ s.strictNow l x q = (s0, st) ∧ s0.bindingOf q = .ok (c, y, b) ∧
    (∀ z, s0.slice? y.slice = some z → z.state = .active) ∧ s0.police l y.slice q = some s1 ∧ s1.sealCheck c q = .ok (s2, q2) ∧
    (s2.confSlice (s2.sliceOf c) = true → (s2.tdi (s2.sliceOf c)).state = 3) ∧ s2.writable c q2.addr.toNat q2.len = true ∧
    s2.writeCtx c (.edge (l % 16)) none q2.addr.toNat q2.data = (s3, .ok ()) :=
  ⟨0, { msg0 with binding := 3, dst := 0xFF000000, addr := 0x10000, len := 32, units := 1, data := List.replicate 32 7 }, _, World.link { link0 with
    attach := true }, _, _, _, _, _, _, _, _, _, rfl, by decide +kernel, by decide +kernel, (by decide +kernel), rfl, rfl,
    by intro z (h : some slice0 = some z); rw [← Option.some.inj h]; rfl, rfl, rfl, by decide +kernel, by decide +kernel, ok_of ()
    (by decide +kernel)⟩

theorem witness_LinkMemoryRequests_3 :
    ∃ (l : Nat) (m q2 : Msg) (s s0 s1 s2 : State) (x : Link) (c : Nat) (y : Ctx) (b : Binding) (st : Bool),
    s.link? l = some x ∧ x.up = true ∧
    let q := s.taken l 0x02 x m
    msgAgrees q = true ∧ q.dst = s.address 0xFF ∧ s.strictNow l x q = (s0, st) ∧ s0.bindingOf q = .ok (c, y, b) ∧
    (∀ z, s0.slice? y.slice = some z → z.state = .active) ∧ s0.police l y.slice q = some s1 ∧ s1.sealCheck c q = .ok (s2, q2) ∧
    s2.confSlice (s2.sliceOf c) = false ∧ s2.writable c q2.addr.toNat q2.len = false :=
  ⟨0, { msg0 with binding := 3, dst := 0xFF000000, addr := 0x30000, len := 32, units := 1, data := List.replicate 32 7 }, _, World.link { link0 with
    attach := true }, _, _, _, _, _, _, _, _, rfl, by decide +kernel, by decide +kernel, (by decide +kernel), rfl, rfl,
    by intro z (h : some slice0 = some z); rw [← Option.some.inj h]; rfl, rfl, rfl, by decide +kernel⟩

theorem witness_LinkMessages_1 :
    ∃ (l : Nat) (m q2 : Msg) (s s1 : State) (x : Link) (c k : Nat) (y : Ctx) (b : Binding) (z : Queue),
    s.link? l = some x ∧ x.up = true ∧
    let q := s.taken l 0x10 x m
    msgAgrees q = true ∧ q.dst = s.address 0xFF ∧ s.bindingOf q = .ok (c, y, b) ∧ s.sealCheck c q = .ok (s1, q2) ∧
    s1.findQueue (BitVec.ofNat 32 q.addr.toNat) = some (k, z) ∧ z.ctx = c :=
  ⟨0, { msg0 with binding := 3, dst := 0xFF000000, addr := (mkHandle 2 1 0).zeroExtend 64 }, _, World.link { link0 with attach := true }, _, _, _, _,
    _, _, _, rfl, by decide +kernel, by decide +kernel, (by decide +kernel), rfl, rfl, rfl, by decide +kernel⟩

theorem witness_LinkMessages_3 :
    ∃ (l : Nat) (m : Msg) (s : State) (x : Link) (ref : DWord),
    s.link? l = some x ∧ x.up = true ∧
    let q := s.taken l 0x08 x m
    msgAgrees q = true ∧ q.dst = s.address 0xFF ∧ s.storeOf l q.tag = some ref ∧ Status.ofCode (q.addr.toNat % 65536) = .ok :=
  ⟨0, { msg0 with binding := 3, dst := 0xFF000000, tag := 9 }, World.link { link0 with attach := true, rstores := [(9, (0, 0))] }, _, _, rfl,
    by decide +kernel, by decide +kernel, (by decide +kernel), rfl, by decide +kernel⟩

theorem witness_LinkMessages_4 :
    ∃ (ref : DWord) (s : State) (l tag : Nat),
    s.links.tab.findSome? (fun e => (e.2.rstores.find? (fun r => r.2.1 == ref && decide (r.2.2 + 100000 * e.2.rdto ≤ s.now))).map fun r => (e.1, r.1))
      = some (l, tag) :=
  ⟨5, World.link { link0 with attach := true, rstores := [(9, (5, 0))] }, _, _, rfl⟩

theorem witness_LinkMessages_5 :
    ∃ (l : Nat) (m : Msg) (s : State) (x : Link) (ref : DWord),
    s.link? l = some x ∧ x.up = true ∧
    let q := s.taken l 0x09 x m
    msgAgrees q = true ∧ q.dst = s.address 0xFF ∧ s.storeOf l (q.addr.toNat % 65536) = some ref :=
  ⟨0, { msg0 with binding := 3, dst := 0xFF000000, addr := 9 }, World.link { link0 with attach := true, rstores := [(9, (0, 0))] }, _, _, rfl,
    by decide +kernel, by decide +kernel, (by decide +kernel), rfl⟩

theorem witness_LinkMessages_6 :
    ∃ (l k : Nat) (s : State) (x : Link) (d : Disp) (a : RemoteArgs),
    s.link? l = some x ∧ x.up = true ∧ s.heldRemote l = some d ∧ (List.range 256).find? (fun k => !thas x.slots k) = some k ∧ d.work = .remote a :=
  ⟨0, 0, World.remote { link0 with attach := true }, _, _, _, rfl, by decide +kernel, rfl, rfl, rfl⟩

theorem witness_LinkMessages_7 :
    ∃ (l c : Nat) (m q2 : Msg) (s s0 s1 s2 : State) (x : Link) (y : Ctx) (b : Binding) (st : Bool) (e : DWord × Nat) (d : Disp),
    s.link? l = some x ∧ x.up = true ∧
    let q := s.taken l 0x19 x m
    msgAgrees q = true ∧ q.dst = s.address 0xFF ∧ s.strictNow l x q = (s0, st) ∧ s0.bindingOf q = .ok (c, y, b) ∧
    (∀ z, s0.slice? y.slice = some z → z.state = .active) ∧ s0.police l y.slice q = some s1 ∧ s1.sealCheck c q = .ok (s2, q2) ∧
    tget x.slots q.tag = some e ∧ s2.disp? e.1 = some d ∧ d.ctx = c :=
  ⟨0, _, { msg0 with binding := 3, dst := 0xFF000000, len := 32, units := 1, data := List.replicate 32 0 }, _,
    World.remote { link0 with attach := true, slots := [(0, (disp0.ref, 0))] }, _, _, _, _, _, _, _, _, _, rfl, by decide +kernel, by decide +kernel,
    (by decide +kernel), rfl, rfl, by intro z (h : some slice0 = some z); rw [← Option.some.inj h]; rfl, rfl, rfl, rfl, rfl, by decide +kernel⟩

theorem witness_LinkMessages_8 :
    ∃ (l k t : Nat) (s : State) (x : Link) (ref : DWord),
    s.link? l = some x ∧ tget x.slots k = some (ref, t) ∧ (∀ d z, s.disp? ref = some d → s.slice? (s.sliceOf d.ctx) = some z → z.state = .active) ∧
    t + 100000 * x.rdto ≤ s.now :=
  ⟨0, 0, _, World.remote { link0 with attach := true, slots := [(0, (disp0.ref, 0))] }, _, _, rfl, rfl, by intro d z h1 h2; cases h1; cases h2; rfl,
    by decide +kernel⟩

theorem witness_LinkMessages_9 :
    ∃ (l : Nat) (m : Msg) (s : State) (x : Link),
    s.link? l = some x ∧ x.up = true ∧
    let q := s.taken l 0x20 x m
    msgAgrees q = true ∧ q.dst = s.address 0xFF :=
  ⟨0, { msg0 with binding := 3, dst := 0xFF000000, mtype := 0x20 }, { World.link { link0 with attach := true } with sen := { world.sen with sessions
    := [sess0] } }, _, rfl, by decide +kernel⟩

theorem witness_LinkMessages_10 :
    ∃ (l : Nat) (m : Msg) (s s0 : State) (x : Link) (st : Bool),
    s.link? l = some x ∧ x.up = true ∧
    let q := s.taken l m.mtype x m
    msgAgrees q = true ∧ q.dst = s.address 0xFF ∧ s.strictNow l x q = (s0, st) :=
  ⟨0, { msg0 with binding := 3, dst := 0xFF000000, mtype := 0x30 }, World.link { link0 with attach := true }, _, _, _, rfl, by decide +kernel,
    by decide +kernel, (by decide +kernel), rfl⟩

theorem witness_LinkMessages_11 :
    ∃ (l : Nat) (m : Msg) (s s1 : State) (x : Link) (sent : Bool),
    s.link? l = some x ∧ x.up = true ∧
    let q := s.taken l m.mtype x m
    msgAgrees q = true ∧ q.dst ≠ s.address 0xFF ∧ (q.mtype ≠ 0x09 ∨ s.isHere q.dst = false) ∧
    let b := if q.flags.getLsbD 0 = true ∧ isCpl q.mtype = false then s.strictBudget l x q else (s, true)
    b.1.sendMsg 0 q (!b.2) = (s1, sent) :=
  ⟨0, { msg0 with mtype := 0x10, dst := 0 }, World.link { link0 with attach := true }, _, _, _, rfl, by decide +kernel, by decide +kernel,
    (by decide +kernel), by decide +kernel, rfl⟩

theorem witness_LinkMessages_12 :
    ∃ (l : Nat) (m : Msg) (s : State) (x : Link),
    s.link? l = some x ∧ x.up = true ∧
    let q := s.taken l 0x09 x m
    msgAgrees q = true ∧ q.dst ≠ s.address 0xFF ∧ s.isHere q.dst = true :=
  ⟨0, { msg0 with mtype := 0x09, dst := 0 }, World.link { link0 with attach := true }, _, rfl, by decide +kernel⟩

theorem witness_CxlMemory_1 :
    ∃ (q hpa n k base size : Nat) (s : State),
    (s.port q).cxl = true ∧ hpa % 256 + n ≤ 256 ∧ k < 8 ∧ (k, base, size) ∈ (s.port q).hdm ∧ base * 2 ^ 28 ≤ hpa ∧ hpa < (base + size) * 2 ^ 28 ∧
    (∀ e ∈ (s.port q).hdm, e.1 ≠ k → hpa < e.2.1 * 2 ^ 28 ∨ (e.2.1 + e.2.2) * 2 ^ 28 ≤ hpa) ∧ (∀ e ∈ (s.port q).hdm, e.1 = k → e = (k, base, size)) :=
  ⟨0, 2 ^ 28, 64, 7, 1, 1, World.win, by decide +kernel⟩

theorem witness_CxlMemory_2 :
    ∃ (q hpa n k off c base : Nat) (s s1 : State) (d : List Byte),
    q < 4 ∧ s.brg.ready = true ∧ s.hdmHit q hpa n = some (k, off) ∧ k ≠ 0 ∧ s.winCtx q k = some (c, base) ∧ s.confSlice (s.sliceOf c) = false ∧
    s.readCtx c (.edge (16 + q)) (base + off) n = (s1, .ok d) :=
  ⟨0, 2 ^ 28 + 65536, 64, 7, 65536, _, _, World.win, _, _, by decide +kernel, by decide +kernel, (by decide +kernel), by decide +kernel, rfl,
    by decide +kernel, ok_of [] (by decide +kernel)⟩

theorem witness_CxlMemory_3 :
    ∃ (q hpa off n : Nat) (s : State) (d : List Byte),
    q < 4 ∧ s.brg.ready = true ∧ s.hdmHit q hpa n = some (0, off) ∧ s.adminPort q = true ∧ off < 2 ^ 42 ∧
    s.readTable (off / 65536) (off % 65536) n = some d :=
  ⟨0, 2 ^ 38 + 65536, 65536, 64, World.win, _, by decide +kernel, by decide +kernel, (by decide +kernel), by decide +kernel, by decide +kernel,
    some_of (by decide +kernel)⟩

theorem witness_CxlMemory_4 :
    ∃ (q : Nat) (s : State),
    q < 4 ∧ s.brg.ready = true :=
  ⟨3, world, by decide +kernel⟩

theorem witness_CxlMemory_5 :
    ∃ (q hpa k off c base : Nat) (s s1 : State) (d : List Byte),
    q < 4 ∧ s.brg.ready = true ∧ s.hdmHit q hpa d.length = some (k, off) ∧ k ≠ 0 ∧ s.winCtx q k = some (c, base) ∧ s.confSlice (s.sliceOf c) = false ∧
    s.writable c (base + off) d.length = true ∧ s.writeCtx c (.edge (16 + q)) none (base + off) d = (s1, .ok ()) :=
  ⟨0, 2 ^ 28 + 192, 7, 192, _, _, World.win, _, List.replicate 64 1, by decide +kernel, by decide +kernel, (by decide +kernel), by decide +kernel,
    rfl, by decide +kernel, by decide +kernel, ok_of () (by decide +kernel)⟩

theorem witness_CxlMemory_6 :
    ∃ (q hpa off : Nat) (s s1 : State) (d : List Byte) (g : Frame),
    q < 4 ∧ s.brg.ready = true ∧ s.hdmHit q hpa d.length = some (0, off) ∧ s.adminPort q = true ∧ off < 2 ^ 42 ∧ s.frame? (off / 65536) = some g ∧
    g.owner = none ∧ s.writeTable (.edge (16 + q)) (off / 65536) (off % 65536) d = (s1, true) :=
  ⟨0, 2 ^ 38 + 65536, 65536, World.win, _, List.replicate 64 1, _, by decide +kernel, by decide +kernel, (by decide +kernel), by decide +kernel,
    by decide +kernel, rfl, by decide +kernel, Prod.ext rfl (by decide +kernel)⟩

theorem witness_CxlMemory_7 :
    ∃ (q : Nat) (s : State),
    q < 4 ∧ s.brg.ready = false :=
  ⟨3, State.reset, by decide +kernel⟩

theorem witness_HostPortCommands_1 :
    ∃ (q v : Nat) (s : State),
    q < 4 ∧ v < 2048 ∧ s.brg.ready = true ∧ (s.port q).unmask.contains v = false ∧ s.lockedVec q v = none :=
  ⟨3, 2047, world.modPort 3 fun x => { x with msixPnd := [2047] }, by decide +kernel⟩

theorem witness_HostPortCommands_2 :
    ∃ (q : Nat),
    q < 4 :=
  ⟨3, by decide +kernel⟩

theorem witness_HostPortCommands_3 :
    ∃ (q rate width : Nat),
    q < 4 ∧ 1 ≤ rate ∧ rate ≤ 6 ∧ (width = 1 ∨ width = 2 ∨ width = 4 ∨ width = 8 ∨ width = 16) :=
  ⟨3, 6, 16, by decide +kernel, by decide +kernel, (by decide +kernel), .inr (.inr (.inr (.inr rfl)))⟩

theorem witness_HostPortCommands_4 :
    ∃ (q : Nat),
    q < 4 :=
  ⟨3, by decide +kernel⟩

theorem witness_HostPortCommands_5 :
    ∃ (q id : Nat) (r : Pri) (s : State),
    q < 4 ∧ (s.port q).pri.find? (fun r => r.id == id) = some r :=
  ⟨1, 2, _, world.modPort 1 fun x => { x with pri := [{ id := 2, pasid := 9, addr := none, data := [], who := .fetch 0, since := 0 }] },
    by decide +kernel, rfl⟩

theorem witness_HostPortCommands_6 :
    ∃ (q id : Nat) (r : Pri) (s : State),
    q < 4 ∧ (s.port q).pri.find? (fun r => r.id == id) = some r ∧ r.since + 100000 * (s.port q).toMs ≤ s.now :=
  ⟨1, 2, _, world.modPort 1 fun x => { x with pri := [{ id := 2, pasid := 9, addr := none, data := [], who := .fetch 0, since := 0 }] },
    by decide +kernel, rfl, by decide +kernel⟩

theorem witness_InterfaceCommands_1 :
    ∃ (q k l : Nat) (id : IfaceId) (s : State),
    s.sessOn q k = true ∧
    let s1 := s.raiseEdge (928 + 8 * q + 3)
    s1.iface q id = some l ∧ (s1.tdi l).state = 1 ∧ (s1.tdi l).scrubbed = false ∧ (s1.tdi l).ide.tx.isSome = true ∧ (s1.tdi l).ide.rx.isSome = true :=
  ⟨0, 4, _, id1, World.iface { tdi0 with state := 1, ide := ide1 } conf0, by decide +kernel, rfl, by decide +kernel⟩

theorem witness_InterfaceCommands_2 :
    ∃ (q k l : Nat) (id : IfaceId) (s : State),
    s.sessOn q k = true ∧ s.sen.entropy = false ∧
    let s1 := s.raiseEdge (928 + 8 * q + 3)
    s1.iface q id = some l ∧ (s1.tdi l).state = 2 ∧ (s1.tdi l).sess = some k :=
  ⟨0, 4, _, id1, World.iface { tdi0 with state := 2, sess := some 4 } conf0, by decide +kernel, by decide +kernel, rfl, by decide +kernel⟩

theorem witness_InterfaceCommands_3 :
    ∃ (q k : Nat) (s : State),
    s.sessOn q k = true ∧ s.sen.entropy = true :=
  ⟨0, 4, (World.iface { tdi0 with state := 2 } conf0).onSen fun x => { x with entropy := true }, by decide +kernel⟩

theorem witness_InterfaceCommands_4 :
    ∃ (q k l : Nat) (id : IfaceId) (s : State),
    s.sessOn q k = true ∧
    let s1 := s.raiseEdge (928 + 8 * q + 3)
    s1.iface q id = some l ∧ (s1.tdi l).sess = some k ∧ ((s1.tdi l).state = 2 ∨ (s1.tdi l).state = 3) :=
  ⟨0, 4, _, id1, World.iface { tdi0 with state := 3, sess := some 4 } conf0, by decide +kernel, rfl, by decide +kernel⟩

theorem witness_InterfaceCommands_5 :
    ∃ (q k : Nat) (id : IfaceId) (cmd : Instr) (s : State),
    s.sessOn q k = true ∧ (cmd = .lockInterface q k id ∨ cmd = .startInterface q k id ∧ s.sen.entropy = false ∨ cmd = .stopInterface q k id) ∧
    let s1 := s.raiseEdge (928 + 8 * q + 3)
    s1.iface q id = none :=
  ⟨0, 4, iface0, .lockInterface 0 4 iface0, World.iface { tdi0 with state := 1 } conf0, by decide +kernel, .inl rfl, by decide +kernel⟩

theorem witness_InterfaceCommands_6 :
    ∃ (q k l : Nat) (id : IfaceId) (s : State) (x : Slice),
    s.sessOn q k = true ∧
    let s1 := s.raiseEdge (928 + 8 * q + 3)
    let t := s1.tdi l
    id.func = 0 ∧ id.rest = 0 ∧ s1.findSlice id.slice = some (l, x) ∧ x.conf = true ∧ x.port ≠ q :=
  ⟨0, 4, _, id1, World.iface { tdi0 with state := 3, binding := 8 } { conf0 with port := 1, state := .quiesced }, _, by decide +kernel,
    by decide +kernel, (by decide +kernel), rfl, by decide +kernel⟩

theorem witness_InterfaceCommands_7 :
    ∃ (q k l ks : Nat) (id : IfaceId) (s : State),
    s.sessOn q k = true ∧
    let s1 := s.raiseEdge (928 + 8 * q + 3)
    s1.iface q id = some l ∧ ks < 2 ∧ (s1.tdi l).state = 1 :=
  ⟨0, 4, _, 1, id1, World.iface { tdi0 with state := 1, ide := ide1 } conf0, by decide +kernel, rfl, by decide +kernel⟩

theorem witness_InterfaceCommands_8 :
    ∃ (q k l ks : Nat) (id : IfaceId) (s : State),
    s.sessOn q k = true ∧
    let s1 := s.raiseEdge (928 + 8 * q + 3)
    s1.iface q id = some l ∧ ks < 2 ∧ ((s1.tdi l).state = 2 ∨ (s1.tdi l).state = 3) ∧ (s1.tdi l).sess ≠ some k :=
  ⟨0, 4, _, 1, id1, World.iface { tdi0 with state := 3, sess := some 5 } conf0, by decide +kernel, rfl, by decide +kernel⟩

theorem witness_InterfaceCommands_9 :
    ∃ (q k ks : Nat) (s : State),
    s.sessOn q k = true ∧ ks < 2 :=
  ⟨0, 4, 1, World.iface { tdi0 with state := 1 } conf0, by decide +kernel⟩

theorem witness_InterfaceCommands_10 :
    ∃ (q l : Nat) (h : Handle) (s : State),
    s.iface q { func := 0, slice := h, rest := 0 } = some l :=
  ⟨0, _, (mkHandle 5 1 1), World.iface { tdi0 with state := 3 } conf0, rfl⟩

theorem witness_SessionsAndManagement_1 :
    ∃ (q : Nat) (k : Option Nat) (s : State),
    q < 4 ∧ s.brg.ready = true ∧ (∀ j, k = some j → ∃ x, s.inSess (.hostPort q) j = some x) :=
  ⟨0, some 4, World.iface { tdi0 with state := 1 } conf0, by decide +kernel, by decide +kernel, fun j hj => by cases hj; exact ⟨_, rfl⟩⟩

theorem witness_SessionsAndManagement_2 :
    ∃ (j : Nat) (x : Sess) (s : State),
    s.mmcFailed = false ∧ s.brg.stage ≠ 0 ∧ s.mmc.addr.isSome = true ∧ s.inSess .mgmt j = some x ∧ x.claim = true :=
  ⟨2, _, World.mgmt true 0, by decide +kernel, by decide +kernel, (by decide +kernel), rfl, by decide +kernel⟩

theorem witness_SessionsAndManagement_3 :
    ∃ (s : State),
    s.mmcFailed = false ∧ s.brg.stage ≠ 0 ∧ s.mmc.addr.isSome = true :=
  ⟨World.mgmt true 0, by decide +kernel⟩

theorem witness_SessionsAndManagement_4 :
    ∃ (self chain : Bool) (leaf root : Nat) (s : State),
    s.sessOk .mgmt none self leaf root chain = true ∧ s.mmcFailed = false ∧ s.brg.stage ≠ 0 ∧ s.mmc.addr.isSome = true ∧ s.sen.entropy = false :=
  ⟨true, true, 0, 5, (World.mgmt true 0).onSen fun x => { x with certOk := true }, by decide +kernel⟩

theorem witness_SessionsAndManagement_5 :
    ∃ (k : Nat) (x : Sess) (s : State),
    s.sen.sessions.find? (fun x => x.id == k) = some x ∧ (∀ l, x.at_ ≠ .link l) :=
  ⟨4, _, World.iface { tdi0 with state := 1 } conf0, rfl, nofun⟩

theorem witness_SessionsAndManagement_6 :
    ∃ (unit : Nat) (s : State),
    s.brg.stage ≠ 0 ∧ unit ≤ 256 :=
  ⟨256, World.mgmt true 0, by decide +kernel⟩

theorem witness_SessionsAndManagement_7 :
    ∃ (k : Nat) (s : State),
    s.mmcFailed = false ∧ s.mgmt k false = true :=
  ⟨2, World.mgmt false 1, by decide +kernel⟩

theorem witness_SessionsAndManagement_8 :
    ∃ (i : Image) (s : State),
    s.mmcFailed = true ∧ s.sen.containerOk i 3 = true :=
  ⟨{ image0 with component := 3 }, { world with brg := { world.brg with stage := 1, fail := true } }, by decide +kernel⟩

theorem witness_SessionsAndManagement_9 :
    ∃ (k digest : Nat) (s : State),
    s.mgmt k true = true ∧ s.sen.burnt = 0 ∧ (∃ x ∈ s.sen.sessions, x.id = k ∧ x.root = digest) :=
  ⟨2, 5, World.mgmt true 0, by decide +kernel, by decide +kernel, ⟨_, .head _, rfl, rfl⟩⟩

theorem witness_SessionsAndManagement_10 :
    ∃ (k slot signer : Nat) (s : State),
    s.mgmt k false = true ∧ slot < 4 ∧ s.liveSlot signer = true ∧ s.sen.burnt.getLsbD slot = false :=
  ⟨2, 3, 0, World.mgmt false 1, by decide +kernel⟩

theorem witness_SessionsAndManagement_11 :
    ∃ (k slot signer : Nat) (s : State),
    s.mgmt k false = true ∧ slot < 4 ∧ s.liveSlot signer = true ∧ s.liveSlots ≠ [slot] :=
  ⟨2, 3, 0, World.mgmt false 1, by decide +kernel⟩

theorem witness_SessionsAndManagement_12 :
    ∃ (k svn signer : Nat) (s : State),
    s.mgmt k false = true ∧ svn ≤ s.brg.fwSvn ∧ s.liveSlot signer = true :=
  ⟨2, 0, 0, World.mgmt false 1, by decide +kernel⟩

theorem witness_WholeResets_1 :
    ∃ (k : Nat) (s : State),
    s.mgmt k false = true :=
  ⟨2, World.mgmt false 1, by decide +kernel⟩

theorem witness_WholeResets_2 :
    ∃ (k : Nat) (s : State),
    s.mgmt k false = true :=
  ⟨2, World.mgmt false 1, by decide +kernel⟩

theorem witness_WholeResets_4 :
    ∃ (s : State),
    s.brg.stage = 0 :=
  ⟨State.reset, by decide +kernel⟩

theorem witness_WholeResets_6 :
    ∃ (n : Nat),
    (n = 2 ∨ n = 3) :=
  ⟨3, by decide +kernel⟩

theorem witness_WholeResets_8 :
    ∃ (s : State),
    s.brg.stage ≠ 0 :=
  ⟨world, by decide +kernel⟩

theorem witness_WholeResets_9 :
    ∃ (die t : Nat) (s : State),
    die < 5 ∧ tget s.pwr.hot die = some t ∧ t + 100000 ≤ s.now :=
  ⟨4, 0, world.onPwr fun p => { p with hot := [(4, 0)] }, by decide +kernel⟩

theorem witness_WholeResets_10 :
    ∃ (n : Nat),
    n < 8 :=
  ⟨7, by decide +kernel⟩

theorem witness_PowerEvents_1 :
    ∃ (s : State),
    s.pwr.inDip = false ∧ s.pwr.warn = false :=
  ⟨world, by decide +kernel⟩

theorem witness_PowerEvents_2 :
    ∃ (s : State),
    s.pwr.inDip = false ∧ s.pwr.warn = true :=
  ⟨world.onPwr fun p => { p with warn := true }, by decide +kernel⟩

theorem witness_PowerEvents_3 :
    ∃ (s : State),
    s.pwr.inDip = true :=
  ⟨world.onPwr fun p => { p with inDip := true }, by decide +kernel⟩

theorem witness_PowerEvents_4 :
    ∃ (s : State),
    s.pwr.warn = true ∧ s.pwr.inDip = false ∧ s.pwr.hyst + 10000 ≤ s.now :=
  ⟨world.onPwr fun p => { p with warn := true }, by decide +kernel⟩

theorem witness_PowerEvents_5 :
    ∃ (mv ma : Nat) (s : State),
    s.pwr.plim * 1000000 < mv * ma :=
  ⟨1000, 2000000, world, by decide +kernel⟩

theorem witness_PowerEvents_7 :
    ∃ (mhz : List Nat) (m : Nat) (s : State),
    s.sen.sec = 0 ∧ ((s.actives.filter (fun c => decide ((s.clu c).st ≤ 1))).map (fun c => mhz.getD c 0)).min? = some m :=
  ⟨[900], _, world, by decide +kernel, rfl⟩

theorem witness_PowerEvents_8 :
    ∃ (c : Nat) (s : State),
    (s.clu c).st ≤ 1 ∧ s.mayNap c = true ∧ s.pwr.napDly ≠ 0 ∧ (s.clu c).since + 100 * s.pwr.napDly ≤ s.now :=
  ⟨0, world, by decide +kernel⟩

theorem witness_PowerEvents_9 :
    ∃ (c : Nat) (s : State),
    (s.clu c).st = 2 ∧ s.mayNap c = true ∧ s.pwr.deepDly ≠ 0 ∧ (s.clu c).since + 100000 * s.pwr.deepDly ≤ s.now :=
  ⟨0, world.onPwr fun p => { p with clus := [(0, { st := 2, since := 0 })] }, by decide +kernel⟩

theorem witness_PowerEvents_10 :
    ∃ (c k : Nat) (d : Disp) (p : Polder) (es : List Nat) (s : State),
    s.active c = true ∧ s.pwr.warn = false ∧ s.brg.maint = false ∧
    ((s.mbox (12 + c)).wake = true ∨ (k, p) ∈ s.sched.polders ∧ thas s.sched.resets k = false ∧ s.nextStart k p = some (d, some es) ∧ (∃ e ∈ es, e /
      16 = c)) :=
  ⟨0, 0, disp0, polder0, [], (world.modMbox 12 fun x => { x with wake := true }), by decide +kernel, by decide +kernel, (by decide +kernel), .inl rfl⟩

theorem witness_PowerEvents_10_starts :
    ∃ (c k : Nat) (d : Disp) (p : Polder) (es : List Nat) (s : State),
    s.active c = true ∧ s.pwr.warn = false ∧ s.brg.maint = false ∧
    ((s.mbox (12 + c)).wake = true ∨ (k, p) ∈ s.sched.polders ∧ thas s.sched.resets k = false ∧ s.nextStart k p = some (d, some es) ∧ (∃ e ∈ es, e /
      16 = c)) :=
  ⟨0, 0, pend0 1, polder0, [0], World.disps [pend0 1], by decide +kernel, by decide +kernel, (by decide +kernel), .inr ⟨.head _, rfl, rfl, 0, .head _,
    rfl⟩⟩

theorem witness_PowerEvents_11 :
    ∃ (s : State),
    s.pwr.ccReq = true ∧ s.pwr.ccUp = true ∧ (∀ c ∈ s.actives, 2 ≤ (s.clu c).st) ∧
    (∀ e ∈ s.objs.queues, e.2.fwBusy = none ∨ ∃ w ∈ s.objs.fwQ, w.queue = e.1) :=
  ⟨world.onPwr fun p => { p with ccReq := true, clus := [(0, { st := 2, since := 0 })] }, by decide +kernel⟩

theorem witness_PowerEvents_12 :
    ∃ (s : State),
    s.pwr.ccUp = false ∧ s.ccWakes = true ∧ s.objs.fwQ = [] :=
  ⟨World.asleep, by decide +kernel⟩

theorem witness_PowerEvents_13 :
    ∃ (s t : State) (e : FwWait),
    s.pwr.ccUp = false ∧ s.ccWakes = true ∧ s.objs.fwQ = [e] ∧ s.ccUp.fwHead = some e ∧ firmware e.cmd s.ccUp = .next t :=
  ⟨{ World.asleep with objs := { world.objs with fwQ := [wait0] } }, _, wait0, by decide +kernel, by decide +kernel, (by decide +kernel),
    by decide +kernel, next_of world (by decide +kernel)⟩

theorem witness_PowerEvents_14 :
    ∃ (h : Hdr) (s s1 s2 : State) (x : Queue) (i : OpInfo),
    s.pwr.ccUp = false ∧ isHw i.code = false ∧ h.cont ≤ 15 ∧ s.queue? h.q = some x ∧ s.stands i h x = true ∧ s.canIssue h.q x h = true ∧
    s.fetchMiss h.q x (h.cont + 1) = some (s1, false) ∧ s1.pwr.ccUp = false ∧ (s1.takeTurn h.q x).fetchRing h.q x (h.cont + 1) = (s2, true) :=
  ⟨hdr1, world.onPwr fun p => { p with ccUp := false }, _, _, _, { code := 0x0B }, by decide +kernel, by decide +kernel, (by decide +kernel), rfl,
    by decide +kernel, by decide +kernel, rfl, by decide +kernel, rfl⟩

theorem witness_SramErrors_1 :
    ∃ (e : Nat),
    e < 320 :=
  ⟨319, by decide +kernel⟩

theorem witness_SramErrors_2 :
    ∃ (c : Nat),
    c < 20 :=
  ⟨19, by decide +kernel⟩

theorem witness_SramErrors_3 :
    ∃ (c : Nat),
    c < 20 :=
  ⟨19, by decide +kernel⟩

theorem witness_SramErrors_4 :
    ∃ (c : Nat),
    c < 20 :=
  ⟨19, by decide +kernel⟩

theorem witness_SramErrors_5 :
    ∃ (c : Nat),
    c < 20 :=
  ⟨19, by decide +kernel⟩

theorem witness_SramErrors_6 :
    ∃ (w : EccWhere),
    (w = .hub ∨ w = .keyStore) :=
  ⟨.hub, by decide +kernel⟩

theorem witness_SramErrors_6_keys :
    ∃ (w : EccWhere),
    (w = .hub ∨ w = .keyStore) :=
  ⟨.keyStore, by decide +kernel⟩

theorem witness_StepRunsCommand_1 :
    ∃ (c : Instr) (r : List Instr) (s : State),
    s.pending = c :: r :=
  ⟨.supplyWarn, _, { world with pending := [.supplyWarn] }, rfl⟩

theorem witness_QueueLeftAlone_1 :
    ∃ (c : Instr) (s t : State),
    exec c s = .next t :=
  ⟨.entropyRecover, world, _, rfl⟩

theorem witness_InvKept_1 :
    ∃ (s t : State),
    Inv s ∧ step s = .next t :=
  ⟨{ world with pending := [.supplyWarn] }, _, ⟨by decide +kernel, by decide +kernel, by decide +kernel, ⟨by decide +kernel, by decide +kernel⟩,
    by decide +kernel⟩, rfl⟩

theorem witness_HeaderChecks_1 :
    ∃ (i : OpInfo) (h : Hdr) (s s1 s2 : State) (x : Queue),
    s.queue? h.q = some x ∧ (∀ e ∈ s.objs.fwQ, e.queue ≠ h.q) ∧ s.stands i h x = true ∧ s.canIssue h.q x h = true ∧
    let n := if h.cont ≤ 15 then h.cont + 1 else 1
    s.fetchMiss h.q x n = some (s1, false) ∧ (isHw i.code = true ∨ s1.pwr.ccUp = true ∨ 15 < h.cont) ∧
    (s1.takeTurn h.q x).fetchRing h.q x n = (s2, true) :=
  ⟨{ code := 0x01 }, hdr1, world, _, _, _, rfl, by decide +kernel, by decide +kernel, (by decide +kernel), rfl, by decide +kernel, rfl⟩

theorem witness_EventRecord_1 :
    ∃ (s : State) (c : Nat) (r : EvRec) (x : Ctx) (l : Slice),
    s.ctx? c = some x ∧ x.state ≠ .destroying ∧ x.held = [] ∧ (x.prod - x.cons).toNat ≠ 2 ^ x.ring.log2 ∧ x.ring.obj = 0 ∧ s.slice? x.slice = some l ∧
    (s.port l.port).atsOn = false ∧ s.dmaOk x.slice = true ∧ s.ports.any (fun p => p.2.pri.any (fun r => r.who == .record c)) = false ∧
    s.ringBad.any (fun e => e.1 == c) = false :=
  ⟨world, 0, mkEv 7 .badParam 0 0 0 0, _, _, rfl, by decide +kernel, by decide +kernel, (by decide +kernel), by decide +kernel, rfl,
    by decide +kernel⟩

theorem witness_FenceSignal_1 :
    ∃ (s : State) (f : Nat) (x : Fence),
    s.fence? f = some x :=
  ⟨world, 0, _, rfl⟩

theorem witness_SectorAccess_1 :
    ∃ (s : State) (c : Nat) (lpf : Nat) (f : Frame) (x : Ctx),
    s.ctx? c = some x ∧ s.frame? lpf = some f ∧ f.owner ≠ some c :=
  ⟨world, 1, 101, _, _, rfl, rfl, by decide +kernel⟩

theorem witness_SectorAccess_2 :
    ∃ (s : State) (c : Nat) (lpf : Nat) (f : Frame) (x : Ctx),
    s.ctx? c = some x ∧ s.frame? lpf = some f ∧ f.owner = some c ∧ f.st = .fresh :=
  ⟨world, 0, 102, _, _, rfl, rfl, by decide +kernel⟩

theorem witness_PoolIsolation_1 :
    ∃ (s t : State) (c : Nat) (who : By) (pref : Option Nat) (cva : Nat) (d : List Byte) (r : Except AccErr Unit),
    s.writeCtx c who pref cva d = (t, r) :=
  ⟨world, _, 0, .hub, none, 0x10040, [1, 2], _, rfl⟩

theorem witness_PoolIsolation_2 :
    ∃ (s t : State) (c : Nat) (who : By) (cva n : Nat) (r : Except AccErr (List Byte)),
    s.readCtx c who cva n = (t, r) :=
  ⟨world, _, 0, .hub, 0x10040, 2, _, rfl⟩

theorem witness_SlotGenerations_2 :
    ∃ (m : SlotMgr) (k : Nat),
    m.gen k ≠ 255 :=
  ⟨SlotMgr.empty, 8191, by decide +kernel⟩

theorem witness_SlotGenerations_3 :
    ∃ (m : SlotMgr) (k : Nat),
    m.gen k = 255 :=
  ⟨{ SlotMgr.empty with gens := [(3, 255)] }, 3, by decide +kernel⟩

theorem witness_SlotGenerations_4 :
    ∃ (m : SlotMgr) (k o : Nat),
    (k, o) ∈ m.parked :=
  ⟨{ SlotMgr.empty with parked := [(3, 1)] }, 3, 1, by decide +kernel⟩

theorem witness_SecurityFrame_1 :
    ∃ (c : Instr) (s t : State),
    exec c s = .next t :=
  ⟨.entropyRecover, world, _, rfl⟩

theorem witness_PowerFrame_1 :
    ∃ (c : Instr) (s t : State),
    exec c s = .next t :=
  ⟨.supplyWarn, world, _, rfl⟩

theorem witness_KvRecordPackets_2 :
    ∃ (h : Hdr) (a : AttendArgs) (s s1 s2 s3 s4 : State) (c : Nat) (n : Word) (f : Option Nat) (k j : Nat) (m src : Mo) (res : Option (Nat × Mo)) (hd
      : List Byte) (qs : List (Nat × Nat)),
    s.served (kvAttendInfo a) h = some (s1, c, n, f) ∧ s1.findMo c a.obj = some (k, m) ∧ s1.findMo c a.queries = some (j, src) ∧
    s1.findMoOpt c a.results = .ok res ∧ s1.brg.maint = false ∧ s1.actives ≠ [] ∧ (s1.polder? a.polder).isSome = true ∧
    s1.classOk ((s1.queue? h.q).elim 0 (·.cls)) c a.polder none = true ∧ m.ty = 1 ∧ src.ty = 0 ∧
    (∀ r, res = some r → r.2.ty = 0 ∧ r.2.flags.getLsbD 1 = true) ∧ s1.readMo m .hub 0 48 = (s2, .ok hd) ∧ imgNat hd 40 1 = 1 ∧
    let e := s1.kvAt h n k m hd
    let x := e.geo
    a.layer < x.layers ∧ 1 ≤ a.nq ∧ a.nq ≤ 1024 ∧ a.qOff % 64 = 0 ∧ a.rOff % 64 = 0 ∧ a.ret ≤ 1 ∧ a.opts ≤ 1 ∧ 6 ≤ a.outFmt ∧ a.outFmt ≤ 8 ∧
    (f32 a.sigma).special = false ∧ (f32 a.sigma).isZero = false ∧ a.qOff + a.nq * pad64 x.qBytes ≤ src.len ∧ (a.ret = 1 ↔ a.results = 0) ∧
    (∀ r, res = some r → a.rOff + a.nq * x.rs a.outFmt a.opts ≤ r.2.len) ∧ e.queries a src s2 = .ok qs s3 ∧ (a.ret = 0 ∨ s3.attachUp a.port = true) ∧
    s3.notify h c a.cookie = .ok s4 :=
  ⟨{ hdr1 with cont := 1 }, { attendArgs0 with obj := mkHandle 3 1 5, queries := mkHandle 3 1 1, results := mkHandle 3 1 1 }, World.query, _, _, _, _,
    _, _, _, _, _, _, _, _, _, _, rfl, rfl, rfl, rfl, by decide +kernel, by decide +kernel, (by decide +kernel), by decide +kernel, by decide +kernel,
    (by decide +kernel), fun r hr => by cases hr; decide +kernel, rfl, by decide +kernel, by decide +kernel, (by decide +kernel), by decide +kernel,
    by decide +kernel, (by decide +kernel), by decide +kernel, by decide +kernel, (by decide +kernel), by decide +kernel, by decide +kernel,
    (by decide +kernel), by decide +kernel, by decide +kernel, fun r hr => by cases hr; decide +kernel, kv_of [] (by decide +kernel),
    by decide +kernel, rfl⟩

theorem witness_KvDirectoryPackets_4 :
    ∃ (h : Hdr) (obj : Handle) (cookie : DWord) (s s1 s2 s3 s4 s5 : State) (c : Nat) (n : Word) (f : Option Nat) (k : Nat) (m : Mo) (hd : List Byte),
    s.served (kvEvictInfo obj noFrame 2 (.any 4) cookie) h = some (s1, c, n, f) ∧ s1.findMo c obj = some (k, m) ∧ s1.brg.maint = false ∧ m.ty = 1 ∧
    s1.readMo m .hub 0 48 = (s2, .ok hd) ∧ imgNat hd 40 1 ≤ 1 ∧
    let e := s1.kvAt h n k m hd
    let x := e.geo
    let free := if m.formatted then imgNat hd 36 4 else x.pool
    let head := hd.take 14 ++ leBytes 2 x.tpb ++ (hd.drop 16).take 8 ++ leBytes 4 x.dirFrames ++ leBytes 4 x.mapFrames ++ leBytes 4 x.first ++
      leBytes 4 free ++ leBytes 1 1 ++ List.replicate 65495 0
    x.magic = 0x4B564F42 ∧ x.ok = true ∧ x.first ≤ x.frames ∧ s2.notify h c cookie = .ok s3 ∧ s3.writeMo m .hub 0 head = (s4, .ok ()) ∧
    (if m.formatted then ((List.range x.slots).forM fun q => e.setSeq q 0 0) s4 else kvDo (e.wr 65536 (List.replicate (65536 * x.dirFrames) 0)) s4) =
      .ok () s5 :=
  ⟨hdr1, (mkHandle 3 1 5), 0, World.fmt, _, _, _, _, _, _, _, _, _, _, _, rfl, rfl, by decide +kernel, by decide +kernel, rfl, by decide +kernel,
    by decide +kernel, (by decide +kernel), by decide +kernel, rfl,
    (format_ok (v1 := pte 105) (v2 := pte 106) (by decide) rfl (by decide) rfl rfl ⟨by decide +kernel, by decide +kernel⟩ ⟨_, _, _, rfl, rfl, rfl, rfl⟩ ⟨by decide +kernel, by decide +kernel⟩ ⟨_, _, _, rfl, rfl, rfl, rfl⟩ _ (by decide +kernel)).choose_spec.1,
    ((format_ok (v1 := pte 105) (v2 := pte 106) (by decide) rfl (by decide) rfl rfl ⟨by decide +kernel, by decide +kernel⟩ ⟨_, _, _, rfl, rfl, rfl, rfl⟩ ⟨by decide +kernel, by decide +kernel⟩ ⟨_, _, _, rfl, rfl, rfl, rfl⟩ _ (by decide +kernel)).choose_spec.2 _ _ _ _ rfl rfl (by decide +kernel)).choose_spec⟩

/-- A context can be made where the entropy source works, the quota has room and a slot is free. -/
theorem makeCtx_ok {s : State} {l quota vec k : Nat} {root : Bool} {ring : Ring} (h1 : s.sen.entropy = false) (h2 : (s.ctxsOf l).length < quota)
    (h3 : s.slotFor (slotCount 1) s.objs.ctxMgr s.objs.ctxs = some k) :
    ∃ r, s.makeCtx l root quota ring vec = .ok (r, k) ∧ r.objs.queues = s.objs.queues ∧ r.objs.qMgr = s.objs.qMgr := by
  unfold State.makeCtx
  rw [h3, check_pos _ (by rw [h1]; rfl), check_pos _ (decide_eq_true h2)]
  exact ⟨_, rfl, rfl, rfl⟩

theorem makeQueue_ok {s : State} {c cls weight k : Nat} {ring rring : Ring} (h3 : s.slotFor (slotCount 2) s.objs.qMgr s.objs.queues = some k) :
    ∃ r, s.makeQueue c cls weight ring rring = .ok (r, k) := by
  unfold State.makeQueue
  rw [h3]
  exact ⟨_, rfl⟩

def newSlice0 : SliceArgs := { sliceArgs0 with pasid := 2, qCtx := 3 }
def World.up : State := world.modPort 0 fun x => { x with up := true }

theorem witness_SlicePackets_1 :
    ∃ (h : Hdr) (a : SliceArgs) (s s1 t : State) (c : Nat) (n : Word) (f : Option Nat) (b l k q : Nat) (r u : State),
    s.served (sliceCreateInfo a) h = some (s1, c, n, f) ∧ a.port ≤ 3 ∧ a.mode ≤ 1 ∧
    (a.mode = 1 → s1.brg.lConf = true) ∧ 1 ≤ a.pasid ∧ a.pasid < 2 ^ 20 ∧ (∀ e ∈ s1.slices.tab, e.1 ≠ 0 → e.2.port = a.port → e.2.pasid ≠ a.pasid) ∧
    (s1.port a.port).up = true ∧ 6 ≤ a.evtLog2 ∧ a.evtLog2 ≤ 16 ∧ a.evtAddr % (32 * 2 ^ a.evtLog2) = 0 ∧ a.vector < 16 ∧ 4 ≤ a.ringLog2 ∧
    a.ringLog2 ≤ 16 ∧ 1 ≤ a.weight ∧ a.weight ≤ 65535 ∧ s1.ringOk 0 a.ringAddr 0 (64 * 2 ^ a.ringLog2) 4096 = .ok () ∧
    s1.ringOk 0 a.replyAddr 0 (32 * 2 ^ a.ringLog2) 4096 = .ok () ∧ s1.quotaSum 0 + a.qCtx ≤ slotCount 1 ∧ s1.quotaSum 1 + a.qQueue ≤ slotCount 2 ∧
    s1.quotaSum 2 + a.qFence ≤ slotCount 4 ∧ 1 ≤ a.qCtx ∧ 1 ≤ a.qQueue ∧ s1.freeWindow a.port = some b ∧
    (a.mode = 1 → (s1.slices.tab.filter (fun e => e.2.conf && e.2.port == a.port)).length < 64) ∧
    s1.slotFor (slotCount 5) s1.slices.mgr s1.slices.tab = some l ∧
    let g := s1.slices.mgr.gen l
    let s2 := (s1.drew 1).onSlices fun x =>
      { x with tab := tset x.tab l (Slice.new g a.pasid a.port (a.mode == 1) b a), mgr := { x.mgr with gens := tset x.mgr.gens l g } }
    let s3 := if a.mode = 1 then s2.secUpdate.modTdi l (fun _ => { Tdi.none with state := 1 }) else s2.modTdi l (fun _ => Tdi.none)
    (s3.onSched fun x => { x with jobs := tset x.jobs l 0 }).makeCtx l true a.qCtx { addr := a.evtAddr, obj := 0, log2 := a.evtLog2 } a.vector =
      .ok (r, k) ∧
    r.makeQueue k 0 a.weight { addr := a.ringAddr, obj := 0, log2 := a.ringLog2 } { addr := a.replyAddr, obj := 0, log2 := a.ringLog2 } = .ok (u, q) ∧
    t = (u.modSlice l fun x => { x with root := k, tokTime := s1.now }).almanac := by
  obtain ⟨⟨s1, c, n, f⟩, hs⟩ : ∃ v, World.up.served (sliceCreateInfo newSlice0) { hdr1 with cont := 1 } = some v := ⟨_, rfl⟩
  have hs1 : s1 = ((World.up.served (sliceCreateInfo newSlice0) { hdr1 with cont := 1 }).get (by decide +kernel)).1 := by
    simp only [hs, Option.get_some]
  obtain ⟨l, hl⟩ : ∃ l, s1.slotFor (slotCount 5) s1.slices.mgr s1.slices.tab = some l := by
    rw [hs1]; exact pick_ex 5 (by decide) (by decide +kernel)
  let s2 := (s1.drew 1).onSlices fun x =>
    { x with tab := tset x.tab l (Slice.new (s1.slices.mgr.gen l) 2 0 false 16 newSlice0), mgr := { x.mgr with gens := tset x.mgr.gens l (s1.slices.mgr.gen l) } }
  let s4 := (s2.modTdi l (fun _ => Tdi.none)).onSched fun x => { x with jobs := tset x.jobs l 0 }
  obtain ⟨k, hk⟩ : ∃ k, s4.slotFor (slotCount 1) s4.objs.ctxMgr s4.objs.ctxs = some k := by
    have : s4.objs = s1.objs := rfl
    rw [this, hs1]; exact pick_ex 5 (by decide) (by decide +kernel)
  have hq : (s4.ctxsOf l).length < 3 := by
    have h1 : (s4.ctxsOf l).length ≤ s1.objs.ctxs.length := by
      unfold State.ctxsOf tkeys
      rw [List.length_map]
      exact List.length_filter_le _ _
    refine lt_of_le_of_lt h1 ?_
    rw [hs1]; decide +kernel
  have he : s4.sen.entropy = false := by
    show s1.sen.entropy = false
    rw [hs1]; decide +kernel
  obtain ⟨r, hr, hr1, hr2⟩ := makeCtx_ok (root := true) (ring := { addr := 0, obj := 0, log2 := 6 }) (vec := 0) he hq hk
  obtain ⟨q, hqq⟩ : ∃ q, r.slotFor (slotCount 2) r.objs.qMgr r.objs.queues = some q := by
    rw [hr1, hr2]
    have : s4.objs = s1.objs := rfl
    rw [this, hs1]; exact pick_ex 5 (by decide) (by decide +kernel)
  obtain ⟨u, hu⟩ := makeQueue_ok (c := k) (cls := 0) (weight := 1) (ring := { addr := 0, obj := 0, log2 := 4 }) (rring := { addr := 0, obj := 0, log2 := 4 }) hqq
  refine ⟨{ hdr1 with cont := 1 }, newSlice0, World.up, s1, _, c, n, f, 16, l, k, q, r, u, hs, by decide, by decide, fun h => absurd h (by decide), by decide,
    by decide, ?_, ?_,
    by decide, by decide, by decide, by decide, by decide, by decide, by decide, by decide, ?_, ?_, ?_, ?_, ?_, by decide, by decide, ?_,
    fun h => absurd h (by decide), hl, hr,
    hu, rfl⟩
  · rw [hs1]; decide +kernel
  · rw [hs1]; decide +kernel
  · exact rfl
  · exact rfl
  · rw [hs1]; decide +kernel
  · rw [hs1]; decide +kernel
  · rw [hs1]; decide +kernel
  · rw [hs1]; decide +kernel

theorem witness_FusesOneWay_1 : ∃ (s t : State), step s = .next t ∧ s.sen.burnt = 1 := ⟨{ World.mgmt false 1 with pending := [.entropyRecover] }, _, rfl, rfl⟩

theorem witness_SectorAccess_3 :
    ∃ (s t : State) (c : Nat) (who : By) (pref : Option Nat) (lpf cva : Nat) (w : Bool) (d : List Byte),
    s.pool.bad.contains (lpf * 256 + bits cva 8 8) = false ∧ cva % 256 + d.length ≤ 256 ∧ s.writePiece c who pref (.pool lpf w) cva d = (t, .ok ()) :=
  ⟨world, _, 0, .hub, none, 101, 0x10040, true, [1, 2], by decide +kernel, by decide +kernel, ok_of () (by decide +kernel)⟩

theorem witness_QuietEnd_2 : ∃ s : State, Quiet s ∧ s.pending = [] ∧ (s.now + 1) % 10000 ≠ 0 := ⟨world, ⟨rfl, rfl, by decide +kernel, by decide +kernel, by decide +kernel⟩, rfl, by decide +kernel⟩

theorem witness_SlotGenerations_5 :
    ∃ (m : SlotMgr) (t : Tab Ctx) (k o : Nat), thas t k = false ∧ ∀ e ∈ m.parked, e.1 = k → e.2 = o :=
  ⟨{ SlotMgr.empty with parked := [(3, 1)] }, [], 3, 1, rfl, by decide⟩

/-- A write of context 0 that changes a byte. -/
theorem witness_WriteReach_1 :
    ∃ (s t : State) (c : Nat) (who : By) (pref : Option Nat) (cva : Nat) (d : List Byte) (r : Except AccErr Unit) (a : Nat),
    s.writeCtx c who pref cva d = (t, r) ∧ memGet t.pool.mem a ≠ memGet s.pool.mem a :=
  ⟨world, _, 0, .hub, none, 0x10040, [7], _, 65536 * 101 + 64, rfl, by decide +kernel⟩
/-- The rows of RegisterRows: a path that reaches each row's register, at the first and the last place of its range. -/
theorem witness_RegisterRows :
    (([0x2018, 0, 16 * 511, 16 * 511 + 4, 0x10040, 0x10040 + 0x400 * 3 + 16 * 15 + 4 * 3, 0x34034, 0x34040, 0x52000, 0x52000 + 4 * 63, 0x52100,
       0x52100 + 4 * 63, 0x52200, 0x52200 + 4 * 63, 0x52300, 0x52300 + 4 * 63, 0x80008, 0x80008 + 256 * 47, 0x80000, 0x80000 + 256 * 47, 0x84004,
       0xB0034] : List Nat).all fun off =>
      (Path.host 0 none false).wf && world.reaches (.host 0 none false) off true && (Path.core 7).wf && world.reaches (.core 7) off true) = true ∧
    (∀ l < 48, world.linkLicensed l = true) := by decide +kernel

/-- One row of RegisterRows with all its hypotheses. -/
theorem witness_RegisterRows_1 : ∃ (p : Path) (s : State) (cmd : Instr) (off : Nat) (f : State → State),
    (cmd = .pwrCcsleepReq p ∧ off = 0xB0034 ∧ f = fun s => s.onPwr fun x => { x with ccReq := true }) ∧ p.wf = true ∧ s.reaches p off true = true :=
  ⟨.core 7, world, _, _, _, ⟨rfl, rfl, rfl⟩, by decide, by decide +kernel⟩

/-- The rows of DeniedRegisterRows: a path of a guest, and the MMC, which reach none of their registers. -/
theorem witness_DeniedRegisterRows :
    (([0x34008, 0x2018, 0x34034, 0x34040, 0x80008 + 256 * 47, 0x84004, 0xB0034] : List Nat).all fun off =>
      (Path.host 3 (some 9) false).wf && !world.reaches (.host 3 (some 9) false) off true && (Path.hostOdd 3).wf && !world.reaches (.hostOdd 3) off true) = true ∧ world.reaches .mmc 0x34008 true = false := by
  decide +kernel

def okE : Except Status Unit → Bool
  | .ok _ => true
  | .error _ => false

/-- A slice, an ACTIVE context, a polder, nothing admitted, placement thawed. -/
def World.settings : State := World.slices slice1

/-- The twelve packets that stage, with a setting that passes. -/
def settings0 : List (OpInfo × Setting) :=
  [(queueSetWeightInfo (mkHandle 2 1 0) 65535, .qweight (mkHandle 2 1 0) 65535),
   (ctxSetSlowdownInfo 0x100, .slowdown (mkHandle 1 1 0) 0x100),
   (sliceSetQuotaInfo (mkHandle 5 1 1) 0 4, .quota (mkHandle 5 1 1) 0 4),
   (sliceSetShareInfo (mkHandle 5 1 1) 0 65535, .share (mkHandle 5 1 1) 0 65535),
   (polderShapeInfo 0 3 10000, .shape 0 3 10000),
   (polderCalendarInfo 0 1 2, .calendar 0 1 2),
   (polderAdmitInfo (mkHandle 1 1 0) 0 2 0 0, .admission (mkHandle 1 1 0) 0 2 0 0),
   (linkShapeInfo { shapeArgs0 with overhead := 255 }, .link { shapeArgs0 with overhead := 255 }),
   (sluiceSetInfo 19 500, .sluice 19 500),
   (embankmentSetInfo 20, .embankment 20),
   (placementModeInfo 0, .mode 0),
   (keyPolicyInfo (mkHandle 1 1 0) 100 500, .keyPolicy (mkHandle 1 1 0) 100 500)]

/-- Alone: each is served, and its setting passes as staged and as committed. -/
theorem witness_SettingPackets_1 : (settings0.all fun e => match World.settings.served e.1 hdr1 with
    | some (s1, c, _, _) => hdr1.flags.getLsbD 2 == false && okE (s1.stageOk c [] e.2) && okE ((s1.applyAll [e.2]).settingFits e.2)
    | none => false) = true := by decide +kernel

/-- In a transaction: each is served, the context has a transaction with room, and the setting passes as staged. -/
theorem witness_SettingPackets_2 : (settings0.all fun e =>
    match State.served { World.settings with objs := { world.objs with txns := [(4, txn0)] } } e.1 { hdr1 with flags := 4 } with
    | some (s1, c, _, _) => (s1.txnOf c == some (4, txn0)) && okE (s1.stageOk c [] e.2)
    | none => false) = true := by decide +kernel

def inState (st : QState) : State := world.modQueue 0 fun x => { x with state := st }

/-- The clauses of TailDoorbell: in every state the write is the owner's, and a value falls in each case (TAIL 40, HEAD 0, 64 slots). -/
theorem witness_TailDoorbell_1_clauses :
    (∀ st ∈ [QState.destroying, .halted, .running, .stopped, .waiting], (inState st).queue? 0 = some { queue0 with state := st } ∧
      (inState st).sliceBy 0 none = some 0 ∧ (inState st).sliceOf queue0.ctx = 0 ∧ (inState st).brg.ready = true ∧ (inState st).teeOk 0 false = true) ∧
    (let ahead (v : Word) := (v - queue0.tail).toNat
     let ahead31 (v : Word) := ahead v ≠ 0 ∧ ahead v < 2 ^ 31
     ¬ahead31 40 ∧ ¬ahead31 (40 + 0x80000000#32) ∧ (ahead31 65 ∧ 2 ^ queue0.ring.log2 < (65#32 - queue0.head).toNat) ∧
      (ahead31 64 ∧ (64#32 - queue0.head).toNat ≤ 2 ^ queue0.ring.log2)) := by decide +kernel

/-- The clauses of ConsumerDoorbell: PROD 8, CONS 3. -/
theorem witness_ConsumerDoorbell_1_clauses :
    let s := world.modCtx 0 fun x => { x with prod := 8, cons := 3 }
    ∃ x : Ctx, s.ctx? 0 = some x ∧ s.sliceBy 0 none = some 0 ∧ x.slice = 0 ∧ s.teeOk 0 false = true ∧ (8 : Word) = x.prod ∧
      ((3 : Word) ≠ x.prod ∧ (x.prod - 3).toNat ≤ (x.prod - x.cons).toNat) ∧ (x.prod - x.cons).toNat < (x.prod - 2).toNat :=
  ⟨_, rfl, rfl, rfl, by decide +kernel, rfl, by decide +kernel, by decide +kernel⟩

/-- The clauses of WiredInputs: each mode with a filter that passes and one that does not, and both edges. -/
theorem witness_WiredInputs_1_clauses :
    (∀ m < 4, ((world.modWire 31 fun x => { x with mode := m }).wire 31).filt = 16 ∧ ((world.modWire 31 fun x => { x with mode := m }).wire 31).mode = m) ∧
    ((world.modWire 31 fun x => { x with filtered := true }).wire 31).filtered = true ∧ (world.wire 31).filtered = false ∧ 15 < 16 ∧
    (∀ m < 4, ((world.modWire 31 fun x => { x with mode := m, filt := 0 }).wire 31).filt = 0) := by decide +kernel

/-- The clauses of HeaderChecks: a header that fails each check first. -/
theorem witness_HeaderChecks_1_clauses :
    let s := world
    let i : OpInfo := { code := 0x01 }
    let a : OpInfo := { code := 0xA1, admin := true }
    (15 < 16) ∧ hdr0.context ≠ s.ctxHandle 0 ∧ hdr1.context = s.ctxHandle 0 ∧ ({ i with assigned := false } : OpInfo).assigned = false ∧
      ¬(i.contMin ≤ 1 ∧ 1 ≤ i.contMax) ∧ i.notify = false ∧ s.sliceOf 0 = 0 ∧ a.admin = true ∧
      (World.slices { slice1 with root := 1 }).sliceOf 0 = 0 ∧ (world.modCtx 1 fun x => { x with slice := 1 }).sliceOf 1 ≠ 0 ∧
      s.findFence 0 (mkHandle 4 2 0) = none ∧ mkHandle 4 2 0 ≠ 0 := by decide +kernel

/-- The clauses of FenceSignal: a fence at 5, a FAULTED one, one at its top; and the three ranges of values. -/
theorem witness_FenceSignal_1_clauses :
    world.fence? 1 = some { fence0 with faulted := true } ∧ world.fence? 0 = some fence0 ∧ fence0.faulted = false ∧ (5 : DWord) ≤ fence0.value ∧
      (fence0.value < (6 : DWord) ∧ (6 : DWord).toNat ≤ fence0.value.toNat + 2 ^ 48) ∧
      min (fence0.value.toNat + 2 ^ 48) (2 ^ 64 - 1) < (BitVec.ofNat 64 (6 + 2 ^ 48)).toNat ∧
      world.objs.queues.all (fun e => e.2.wait.all (fun w => w.fence != 0)) = true ∧ world.objs.notes.all (fun n => n.fence != 0) = true := by
  decide +kernel

/-- The clauses of EventRecord: an armed ring, whose vector is unmasked, and one that is not armed. -/
theorem witness_EventRecord_1_clauses :
    ctx0.armed = true ∧ ((world.modPort 0 fun x => { x with unmask := [slice0.vecBase + ctx0.vector] }).port 0).unmask.contains
      (slice0.vecBase + ctx0.vector) = true ∧ ∃ x, (world.modCtx 0 fun x => { x with armed := false }).ctx? 0 = some x ∧ x.armed = false :=
  ⟨by decide, by decide +kernel, _, rfl, rfl⟩

/-- The commands of EventFrame, SecurityFrame and PowerFrame that the frames name all answer a next state in some state. -/
theorem witness_frames :
    (([.evcClaimRead 7, .evcEoiWrite 7 5, .wiredInputChange 31 true 16, .debugTokenLoad token0, .dbgCtrlClose, .debugLifetimeExpiry, .entropyHealthFail,
       .entropyRecover, .getMeasurements .mgmt (some 2) .heartbeat, .keyExchange .mgmt none (0, 0) true 5 5 true, .mctpControl 64 .getEid, .pldmFirmwareUpdate 2 .types,
       .claimSlot 2 5, .burnSlot 2 3 5 0 true, .revokeSlot 2 3 0 true, .burnSvn 2 0 0 true, .thermalCeilingStep [90, 90, 90, 90, 90], .rateUpdate [900],
       .powerMeasurement 750 900 true, .supplyWarn, .supplyClear, .clusterNapEntry 0, .clusterDeepEntry 0, .clusterWake 0, .controlClusterDown] :
      List Instr).all fun c => match exec c (World.mgmt false 1) with | .next _ => true | _ => false) = true := by decide +kernel

theorem witness_MailboxCommands_5_detach : (.pdDetach : Instr) = .pdDetach ∧ (0x82 : DWord) = 0x82 ∧ world.brg.ready = true ∧ world.pwr.ccUp = true ∧
    (world.mbox 1).msgs.length < 8 ∧ (world.mbxPush 1 0x82).pwr.ccUp = true := by decide +kernel

/-- Object 0 is a writable page of host pages. -/
def World.report : State := { world with objs := { world.objs with mos := tset mos0 0 { mo0 0 1 0 3 with len := 65536 } } }

theorem leBytes_length (n : Nat) : ∀ v, (leBytes n v).length = n := by
  induction n with
  | zero => intro v; rfl
  | succ n ih => intro v; simp [leBytes, ih]

theorem reportBody_le {s : State} {l : Nat} {x : Slice} {nonce : List Byte} (h : x.log = []) :
    (s.reportBody l x nonce).length ≤ 384 + (s.certLen + 7) / 8 * 8 + 2688 := by
  have hp : s.peerTable.length = 2688 := by
    unfold State.peerTable
    simp [List.length_flatMap, leBytes_length]
  unfold State.reportBody certBytes
  simp only [List.length_append, hp, h, List.flatMap_nil, List.length_nil, List.length_take, leBytes_length, List.length_map, List.length_range]
  omega

theorem beBytes_len (n v : Nat) : (beBytes n v).length = n := by simp [beBytes, leBytes_length]

theorem signs_length (s : State) (text : List Byte) : (s.signs text).length = 96 := by
  unfold State.signs signText ecdsa
  rw [List.length_append, beBytes_len, beBytes_len]

/-- What fits the page of host pages that it is written to. -/
theorem report_write {s : State} {m : Mo} {v iova mask : Nat} {d : List Byte} (hd : d.length ≤ 65536) (hv : v < 2 ^ 64)
    (hl : leafOf v = some (.host iova mask true)) (hk : ∀ i < 16, mask.testBit i = true) (hb : m.base % 65536 = 0)
    (hm : Maps s m.ctx (m.base / 65536) v) (hn : NoAts s m.ctx) : ∃ t, s.writeMo m .hub 0 d = (t, .ok ()) := by
  refine write_host hv hl hk _ s (m.base + 0) _ hm hn ?_
  omega

theorem witness_SecurityPackets_2 :
    ∃ (h : Hdr) (obj : Handle) (nonce : List Byte) (s s1 s2 : State) (c : Nat) (n : Word) (f : Option Nat) (k : Nat) (m : Mo) (x : Slice),
    s.served (attestReportInfo obj nonce) h = some (s1, c, n, f) ∧ s1.findMo c obj = some (k, m) ∧ s1.slice? (s1.sliceOf c) = some x ∧
    m.flags.getLsbD 1 = true ∧ s1.sen.entropy = false ∧ m.destOk 0 (reportLen s1.certLen x.log.length) = .ok () ∧ reportLen s1.certLen x.log.length ≤ m.len ∧
    let body := s1.reportBody (s1.sliceOf c) x nonce
    ((s1.drew 1).asked 1).writeMo m .hub 0 (body ++ s1.signs body) = (s2, .ok ()) := by
  have hl : reportLen 0 0 ≤ 65536 := by decide
  obtain ⟨⟨s1, c, n, f⟩, hs⟩ : ∃ v, World.report.served (attestReportInfo (mkHandle 3 1 0) []) hdr1 = some v := ⟨_, rfl⟩
  have hv : (s1, c, n, f) = (World.report.served (attestReportInfo (mkHandle 3 1 0) []) hdr1).get (by decide +kernel) := by simp only [hs, Option.get_some]
  have hs1 : s1 = ((World.report.served (attestReportInfo (mkHandle 3 1 0) []) hdr1).get (by decide +kernel)).1 := by rw [← hv]
  have hc0 : c = 0 := by
    have : c = ((World.report.served (attestReportInfo (mkHandle 3 1 0) []) hdr1).get (by decide +kernel)).2.1 := by rw [← hv]
    rw [this]; decide +kernel
  have hc : s1.certLen = 0 := by rw [hs1]; rfl
  obtain ⟨m, hm, hm1, hm2, hm3, hm4, hm5⟩ : ∃ m, s1.findMo c (mkHandle 3 1 0) = some (0, m) ∧ m.ctx = 0 ∧ m.base = 0 ∧ m.len = 65536 ∧
      m.flags.getLsbD 1 = true ∧ (!m.isSealed && !m.formatted && !m.saving) = true := by
    rw [hc0, hs1]; exact ⟨_, rfl, rfl, rfl, rfl, rfl, rfl⟩
  obtain ⟨x, hx, hlog, hp⟩ : ∃ x, s1.slice? (s1.sliceOf c) = some x ∧ x.log = [] ∧ (s1.port x.port).atsOn = false := by
    rw [hc0, hs1]; exact ⟨_, rfl, rfl, by decide +kernel⟩
  have hmap : Maps s1 m.ctx (m.base / 65536) (hpe 0x400000) := by
    rw [hm1, hm2, hs1]; exact ⟨by decide +kernel, by decide +kernel⟩
  have hat : NoAts s1 m.ctx := by
    intro y hy
    rw [hm1, ← hc0, hx] at hy
    cases hy; exact hp
  have hlen : (s1.reportBody (s1.sliceOf c) x [] ++ s1.signs (s1.reportBody (s1.sliceOf c) x [])).length ≤ 65536 := by
    have h1 := reportBody_le (s := s1) (l := s1.sliceOf c) (nonce := []) hlog
    rw [hc] at h1
    rw [List.length_append, signs_length]; omega
  obtain ⟨t, ht⟩ := report_write (s := (s1.drew 1).asked 1) (iova := 0x400000) (mask := 0xFFFF) hlen (by decide) (by decide +kernel) (by decide)
    (by rw [hm2]) hmap hat
  refine ⟨hdr1, mkHandle 3 1 0, [], World.report, s1, t, c, n, f, 0, m, x, hs, hm, hx, hm4, ?_, ?_, ?_, ht⟩
  · rw [hs1]; decide +kernel
  · rw [hlog]
    unfold Mo.destOk
    rw [List.length_nil, hc, hm3, check_pos _ (decide_eq_true (by omega)), check_pos _ hm5]
    rfl
  · rw [hlog, hc, hm3]; exact hl
/-- TailDoorbell's last statement: queue 1 is ready, of class 1, or of queue 0's class with its turn first. -/
theorem witness_TailDoorbell_3 :
    let s1 := world.modQueue 1 fun x => { x with cls := 1 }
    let s2 : State := { world with objs := { world.objs with rr := [(0, 1)] } }
    (∃ y, (1, y) ∈ s1.objs.queues ∧ s1.ready 1 y = true ∧ y.cls = 1 ∧ s1.queue? hdr1.q = some queue0 ∧ queue0.cls ≠ 1) ∧
    (∃ y, (1, y) ∈ s2.objs.queues ∧ s2.ready 1 y = true ∧ y.cls = queue0.cls ∧ s2.queue? hdr1.q = some queue0 ∧
      s2.roundPos queue0.cls 1 < s2.roundPos queue0.cls hdr1.q) ∧ (∀ e ∈ s1.objs.fwQ, e.queue ≠ hdr1.q) ∧ ∀ e ∈ s2.objs.fwQ, e.queue ≠ hdr1.q :=
  ⟨⟨_, .tail _ (.head _), by decide +kernel, rfl, rfl, by decide⟩, ⟨_, .tail _ (.head _), by decide +kernel, rfl, rfl, by decide +kernel⟩, by decide, by decide⟩

/-- RegisterAccess, the granted pages: queue 1's, word 0 and 0x18, and context 1's block, which belong to slice 0. -/
theorem witness_RegisterAccess_3 :
    world.sliceBy 0 none = some 0 ∧ world.brg.ready = true ∧ world.teeOk 0 false = true ∧
    (∃ x, world.queue? (0x1018 / 4096) = some x ∧ world.sliceOf x.ctx = 0) ∧ 0x1018 % 8 = 0 ∧ 0x1018 % 4096 = 0x18 ∧
    (∃ x, world.ctx? ((0x40050 - 0x40000) / 64) = some x ∧ x.slice = 0) ∧ 0x40050 % 64 = 0x10 ∧ 0x40050 % 8 = 0 :=
  ⟨rfl, rfl, by decide +kernel, ⟨_, rfl, rfl⟩, by decide, by decide, ⟨_, rfl, rfl⟩, by decide, by decide⟩

/-- RegisterAccess, the pages that turn a request away: no slice, a block that is not ready, an interface that runs, another owner. -/
theorem witness_RegisterAccess_4 :
    world.sliceBy 0 (some 5) = none ∧
    (let s : State := { world with brg := { world.brg with ready := false } }; s.sliceBy 0 none = some 0 ∧ s.brg.ready = false) ∧
    (let s := World.iface { tdi0 with state := 3 } conf0; s.sliceBy 0 (some 9) = some 1 ∧ s.brg.ready = true ∧ s.teeOk 1 false = false) ∧
    (let s := World.slices slice1; s.sliceBy 0 (some 9) = some 1 ∧ s.brg.ready = true ∧ s.teeOk 1 false = true ∧
      ((s.queue? (0x1000 / 4096)).map fun x => s.sliceOf x.ctx) ≠ some 1) := by decide +kernel

/-- RegisterAccess on BAR4 outside the event rings, writes and reads: the administration port, another one, a block that is not ready. -/
theorem witness_RegisterAccess_5_8 :
    world.brg.ready = true ∧ world.adminPort 0 = true ∧ world.adminPort 3 = false ∧
    ([0x3FFF8, 0x80000, 0x87FF8, 0x88000, 0x880F8, 0x88100, 0xFFFF8] : List Nat).all (fun off => off % 8 == 0) = true ∧
    ({ world with brg := { world.brg with ready := false } } : State).brg.ready = false := by decide +kernel

/-- RegisterAccess on BAR0, reads: a path that does not reach; plain registers by a port, by debug; a claim by its core and by another; a receive. -/
theorem witness_RegisterAccess_7 :
    world.reaches (.host 3 none false) 0x34010 false = false ∧ world.reaches (.host 0 none false) 0x34010 false = true ∧
    State.reaches { world with sen := { world.sen with dbg := { Debug.empty with unlocked := true } } } .debug 0x34010 false = true ∧
    world.reaches (.core 7) (0x53000 + 64 * 7) false = true ∧ (0x53000 + 64 * 7) % 4 = 0 ∧
    (∀ n, Path.core 6 = .core n → 0x53000 + 64 * 7 ≠ 0x53000 + 64 * n) ∧ world.reaches (.core 6) (0x53000 + 64 * 7) false = true ∧
    world.reaches .mmc 0x60008 false = true ∧ world.reaches .mmc 0x60FCC false = true ∧ 0x60FCC % 64 = 12 :=
  ⟨by decide +kernel, by decide +kernel, by decide +kernel, by decide +kernel, by decide, by rintro n ⟨⟩; decide, by decide +kernel, by decide +kernel,
    by decide +kernel, by decide⟩

/-- RegisterAccess, the paths that are no host port. -/
theorem witness_RegisterAccess_10 :
    ([.core 0, .mmc, .debug] : List Path).all Path.wf = true ∧ (∀ q ps tee, Path.core 0 ≠ .host q ps tee) ∧ (∀ q, Path.core 0 ≠ .hostOdd q) ∧ world.pwr.ccUp = true ∧
    ({ world with pwr := { world.pwr with ccUp := false } } : State).pwr.ccUp = false := ⟨rfl, nofun, nofun, rfl, rfl⟩

/-- The clauses of ReplyRecord: a slice the block writes for, and a QUIESCED one. -/
theorem witness_ReplyRecord_1 :
    let s := world.modSlice 0 fun x => { x with state := .quiesced }
    queue0.rring.obj = 0 ∧ world.ports.any (fun p => p.2.pri.any (fun r => r.who == .record queue0.ctx)) = false ∧
    s.ports.any (fun p => p.2.pri.any (fun r => r.who == .record queue0.ctx)) = false ∧ (∃ x, world.queue? 0 = some x ∧ x.rring.obj = 0 ∧ ∃ l, world.slice? (world.sliceOf x.ctx) = some l ∧
      (world.port l.port).atsOn = false ∧ world.dmaOk (world.sliceOf x.ctx) = true) ∧
    ∃ x, s.queue? 0 = some x ∧ x.rring.obj = 0 ∧ ∃ l, s.slice? (s.sliceOf x.ctx) = some l ∧ (s.port l.port).atsOn = false ∧
      s.dmaOk (s.sliceOf x.ctx) = false :=
  ⟨rfl, rfl, rfl, ⟨_, rfl, rfl, _, rfl, by decide +kernel, by decide +kernel⟩, ⟨_, rfl, rfl, _, rfl, by decide +kernel, by decide +kernel⟩⟩

theorem witness_QuietEnd_1 : Quiet world := ⟨rfl, rfl, by decide +kernel, by decide +kernel, by decide +kernel⟩

/-- Nothing waits, 10 ns before a boundary of 100 us. -/
theorem witness_QuietEnd_3 : ∃ s : State, Quiet s ∧ s.pending = [] ∧ (s.now + 1) % 10000 = 0 :=
  ⟨{ world with now := 10 ^ 9 - 1 }, ⟨rfl, rfl, by decide +kernel, by decide +kernel, by decide +kernel⟩, rfl, by decide⟩

/-- RegisterAccess, the ports' HDM decoders: one that holds base and size, at the ends of their ranges. -/
theorem witness_RegisterAccess_13 :
    let s := world.modPort 3 fun x => { x with hdm := [(7, (2 ^ 36 - 1, 0))] }
    s.brg.ready = true ∧ tgetD (s.port 3).hdm 7 (0, 0) = (2 ^ 36 - 1, 0) ∧ tgetD (world.port 0).hdm 0 (0, 0) = (0, 0) := by decide +kernel

/-- EngineCommands, the bundles of a dispatch that is to stop: a checkpoint at the limit of 40 us, and one that is no checkpoint. -/
theorem witness_EngineCommands_8 : ([1, 0] : List (BitVec 256)).all (fun b =>
    let s : State := { World.run [b] start0 with
      sched := { world.sched with disps := [{ run0 with work := .program 0 0 0, state := .stopping, preAt := 10 ^ 9 - 4000, engs := [(0, Engine.codeIs start0 [b])] }] } }
    match s.disp? 0 with
    | some d => match s.dispProg d, tget d.engs 0 with
      | some g, some e => match s.fetchCode g (d.clusterOf 0) e with
        | (s1, .ok e0) => d.issues e && d.state == .stopping && decide (e.pc < g.bundles) && e0.resident g && decide (s1.now = d.preAt + 4000) &&
          decide (bits (bits (e0.bundle g) 0 16) 0 1 = b.toNat)
        | _ => false
      | _, _ => false
    | none => false) = true := by decide +kernel

def sliceIn0 (st : SliceState) : State := (World.link { link0 with attach := true }).modSlice 0 fun x => { x with state := st }

/-- LinkMemoryRequests' answers to what a check refuses: a header that disagrees, an unknown binding, a slice that is not ACTIVE, an empty bucket, an
unsealed request of a confidential slice. -/
theorem witness_LinkMemoryRequests_4 :
    let x : Link := { link0 with attach := true }
    let m : Msg := { msg0 with binding := 3, dst := 0xFF000000, addr := 0x20000, len := 32 }
    let s := World.link x
    let s1 := sliceIn0 .quiesced
    let s2 := s.modSlice 0 fun x => { x with linkBw := 1, tokens := 0, tokTime := s.now }
    let s3 := s.modSlice 0 fun x => { x with conf := true }
    s.link? 0 = some x ∧ x.up = true ∧ msgAgrees (s.taken 0 0x01 x { m with len := 33 }) = false ∧ msgAgrees (s.taken 0 0x01 x m) = true ∧
      m.dst = s.address 0xFF ∧ (∃ s0 st e, s.strictNow 0 x (s.taken 0 0x01 x m) = (s0, st) ∧ s0.bindingOf { s.taken 0 0x01 x m with binding := 4 } = .error e) ∧
      (∃ s0 st c y b, s1.strictNow 0 x (s1.taken 0 0x01 x m) = (s0, st) ∧ s0.bindingOf (s1.taken 0 0x01 x m) = .ok (c, y, b) ∧
        ∃ z, s0.slice? y.slice = some z ∧ z.state ≠ .active) ∧
      s2.police 0 0 (s2.taken 0 0x01 x m) = none ∧ s3.sealCheck 0 (s3.taken 0 0x01 x m) = .error (.denied, true) :=
  ⟨rfl, rfl, by decide +kernel, by decide +kernel, by decide +kernel, ⟨_, _, _, rfl, rfl⟩, ⟨_, _, _, _, _, rfl, rfl, _, rfl, by decide⟩, by decide +kernel,
    by decide +kernel⟩

/-- LinkMessages' doorbells that are ignored: one without a binding, and one of a confidential slice without a seal. -/
theorem witness_LinkMessages_2 :
    let x : Link := { link0 with attach := true }
    let m : Msg := { msg0 with binding := 3, dst := 0xFF000000, addr := (mkHandle 2 1 0).zeroExtend 64 }
    let s := World.link x
    let s3 := s.modSlice 0 fun x => { x with conf := true }
    s.link? 0 = some x ∧ x.up = true ∧ msgAgrees (s.taken 0 0x10 x m) = true ∧ m.dst = s.address 0xFF ∧
      (∃ e, s.bindingOf { s.taken 0 0x10 x m with binding := 4 } = .error e) ∧
      ∃ c y b, s3.bindingOf (s3.taken 0 0x10 x m) = .ok (c, y, b) ∧ s3.sealCheck c (s3.taken 0 0x10 x m) = .error (.denied, true) :=
  ⟨rfl, rfl, by decide +kernel, by decide +kernel, ⟨_, rfl⟩, ⟨_, _, _, rfl, by decide +kernel⟩⟩

/-- R293: a signed answer draws a secret number, a heartbeat does not. -/
theorem test_needs_draw : needsDraw (.challenge 0) = true ∧ needsDraw .heartbeat = false := ⟨rfl, rfl⟩

theorem witness_SessionsAndManagement_13 :
    ∃ (q k : Nat) (x : Sess) (s : State), q < 4 ∧ s.brg.ready = true ∧ s.inSess (.hostPort q) k = some x :=
  ⟨0, 4, _, World.iface { tdi0 with state := 1 } conf0, by decide +kernel, by decide +kernel, rfl⟩

theorem witness_SessionsAndManagement_14 : ∃ (q : Nat) (s : State), q < 4 ∧ s.brg.ready = false := ⟨0, State.reset, by decide, rfl⟩

theorem witness_SessionsAndManagement_15 :
    ∃ (q i : Nat) (d : List Byte) (s : State), q < 4 ∧ s.brg.ready = true ∧ s.sen.certOk = true ∧ s.measures none i = some d :=
  ⟨0, 0, _, { World.iface { tdi0 with state := 1 } conf0 with sen := { (World.iface { tdi0 with state := 1 } conf0).sen with certOk := true } },
    by decide +kernel, by decide +kernel, rfl, rfl⟩

theorem witness_SessionsAndManagement_16 :
    ∃ (k n v : Nat) (s : State), s.mmcFailed = false ∧ s.mgmt k false = true ∧ s.sensor n = some v :=
  ⟨2, 0, _, World.mgmt false 0, by decide +kernel, by decide +kernel, rfl⟩

/-! ## Small results, worked out by hand from the rules named -/

/-- One command leaves a next state with this property. -/
def Gives (i : Instr) (s : State) (p : State → Bool) : Bool := match exec i s with | .next t => p t | _ => false

/-- The table gives no row any bits. -/
theorem test_no_row_has_bits : decodeTableWord 64 0 = none := rfl

/-- With no command waiting, one tick passes (log entry 1). -/
theorem test_step_idle : (match step world with | .next t => t.now == 10 ^ 9 + 1 | _ => false) = true := by decide +kernel

/-- R134: 1 + 2 = 3; a sum of half a unit in the last place goes to the even neighbour; opposite zeros give +0. -/
theorem test_fp_add : addW 0x3F800000 0x40000000 = 0x40400000 ∧ addW 0x3F800000 0x33800000 = 0x3F800000 ∧ addW 0x80000000 0 = 0 := by decide +kernel

/-- R110: the largest finite values of the small formats are 6, 7.5, 28, 448 and 57344; E4M3 has one NaN. -/
theorem test_fp_top :
    Fmt.e2m1.decode 7 = .num false 3 1 ∧ Fmt.e2m3.decode 31 = .num false 15 (-1) ∧ Fmt.e3m2.decode 31 = .num false 7 2 ∧
    Fmt.e4m3.decode 0x7E = .num false 14 5 ∧ Fmt.e5m2.decode 0x7B = .num false 7 13 ∧ Fmt.e4m3.decode 0x7F = .nan := by decide +kernel

/-- R134: 1/3 and the square root of 2, correctly rounded. -/
theorem test_fp_div_sqrt : divF32 0 (f32 0x3F800000) (f32 0x40400000) = 0x3EAAAAAB ∧ sqrtF32 0 (f32 0x40000000) = 0x3FB504F3 := by decide +kernel

/-- R131: the scale of a block whose largest magnitude is 448 is 2^0 in MXFP8; its element is the largest finite one, 500 saturates to it. -/
theorem test_mx_quantise :
    quantMx 3 0 (fun _ => 0) [.num false 448 0, .num true 1 0] = (127, [0x7E, 0xB8]) ∧
    (quantMx 3 0 (fun _ => 0) [.num false 500 0]) = (127, [0x7E]) := by decide +kernel

/-- R57: a larger value becomes the fence's value, an equal one counts as stale. -/
theorem test_fence_signal :
    (Gives (.fenceSignal hdr2) world fun t => (t.fence? 0).any fun f => f.value == 6 && f.stale == 0) = true ∧
    (Gives (.fenceSignal { hdr2 with fval := 5 }) world fun t => (t.fence? 0).any fun f => f.value == 5 && f.stale == 1) = true := by decide +kernel

/-- R58: FENCE_RESET at 2^64 - 1 stores the value given; below it, nothing is stored. -/
theorem test_fence_reset :
    (Gives (.fenceReset hdr1 (mkHandle 4 1 2) 9) world fun t => (t.fence? 2).any fun f => f.value == 9) = true ∧
    (Gives (.fenceReset hdr1 (mkHandle 4 1 0) 9) world fun t => (t.fence? 0).any fun f => f.value == 5) = true := by decide +kernel

/-- R421: bit b of word w stands for source 32w + b. -/
theorem test_evc_pend :
    (Gives (.evcPendSetWrite (.core 0) 2 0x8) State.reset fun t => (t.src 67).pend && !(t.src 66).pend) = true ∧
    (Gives (.evcPendClrWrite (.core 0) 0 0x20) { world with evc := { world.evc with srcs := [(5, { src1 with prio := 3 })] } } fun t =>
      !(t.src 5).pend) = true := by decide +kernel

/-- R421: the mask bits, both ways. -/
theorem test_evc_mask :
    (Gives (.evcMaskClrWrite (.core 1) 0 0x20) State.reset fun t => !(t.src 5).masked && (t.src 6).masked) = true ∧
    (Gives (.evcMaskSetWrite (.core 1) 0 0x20) { world with evc := { world.evc with srcs := [(5, src1)] } } fun t => (t.src 5).masked) = true := by
  decide +kernel

/-- R423: an end of interrupt that is not the top of the stack sets EOI_ERR and pops nothing. -/
theorem test_evc_eoi :
    (Gives (.evcEoiWrite 0 6) { world with evc := { world.evc with cores := [(0, { Core.reset with run := 3, stack := [(5, 0)] })] } } fun t =>
      (t.core 0).eoiErr && (t.core 0).run == 3) = true ∧
    (Gives (.evcEoiWrite 0 5) { world with evc := { world.evc with cores := [(0, { Core.reset with run := 3, stack := [(5, 0)] })] } } fun t =>
      !(t.core 0).eoiErr && (t.core 0).run == 0 && (t.core 0).stack.isEmpty) = true := by decide +kernel

/-- R430, R431: mailbox 2 is the control cluster's to send, mailbox 3 is not; the messages come out in the order sent. -/
theorem test_mbx_send :
    (Gives (.mbxSend .control 2 8 7) world fun t => (t.mbox 2).msgs == [7] && !(t.mbox 2).serr) = true ∧
    (Gives (.mbxSend .control 3 8 7) world fun t => (t.mbox 3).msgs.isEmpty && (t.mbox 3).serr) = true := by decide +kernel

/-- R431: a receive takes the oldest; one from an empty mailbox sets RERR. -/
theorem test_mbx_recv :
    (Gives (.mbxRecv .mmc 2 8) { world with mbx := { world.mbx with boxes := [(2, { Mbox.reset with msgs := [7, 8] })] } } fun t =>
      (t.mbox 2).msgs == [8]) = true ∧
    (Gives (.mbxRecv .mmc 2 8) world fun t => (t.mbox 2).rerr) = true := by decide +kernel

/-- R435: PD_DETACH and PD_ATTACH. -/
theorem test_pd : (Gives .pdDetach world fun t => !t.mbx.attached) = true := by decide +kernel

/-- R51: MO_FREE of an object nothing refers to takes it out of its slot, and the slot's generation rises (R38). -/
theorem test_mo_free : (Gives (.moFree hdr1 (mkHandle 3 1 6)) world fun t => (t.mo? 6).isNone && t.objs.moMgr.gen 6 == 2) = true := by decide +kernel
/-! ## The algorithms, by the published examples of their standards -/

/-- FIPS 180-4: SHA-384 of "abc". -/
theorem test_sha384 : beNat (sha384Bytes [97, 98, 99]) =
    0xcb00753f45a35e8bb5a03d699ac65007272c32ab0eded1631a8b605a43ff5bed8086072ba1e7cc2358baeca134c825a7 := by decide +kernel

/-- RFC 4231, case 1: HMAC-SHA-384 of "Hi There". -/
theorem test_hmac384 : beNat (hmac384 (List.replicate 20 0x0B) (ascii "Hi There")) =
    0xafd03944d84895626b0825f4ab46907f15f9dadbe4101ec682aa034c7cebc59cfaea9ea9076ede7f4af152e8b2fa9cb6 := by decide +kernel

/-- FIPS 197, C.3: AES-256. -/
theorem test_aes256 : beNat (aes256 ((List.range 32).map (BitVec.ofNat 8)) (beBytes 16 0x00112233445566778899AABBCCDDEEFF)) =
    0x8EA2B7CA516745BFEAFC49904B496089 := by decide +kernel

/-- IEEE 1619, vector 10: the first block of data unit 0xFF. -/
theorem test_xts : beNat (xtsSeal (beBytes 64 0x27182818284590452353602874713526624977572470936999595749669676273141592653589793238462643383279502884197169399375105820974944592)
    0xFF ((List.range 16).map (BitVec.ofNat 8))) = 0x1C3B3A102F770386E4836C99E370CF9B := by decide +kernel

/-- The GCM specification, cases 13 and 14: AES-256 under a zero key, with no plaintext and with a zero block. -/
theorem test_gcm :
    ((gcmSeal (List.replicate 32 0) (List.replicate 12 0) [] []).1, beNat (gcmSeal (List.replicate 32 0) (List.replicate 12 0) [] []).2) =
      (([] : List Byte), 0x530F8AFBC74536B9A963B4F1C4CB738B) ∧
    (beNat (gcmSeal (List.replicate 32 0) (List.replicate 12 0) [] (List.replicate 16 0)).1,
      beNat (gcmSeal (List.replicate 32 0) (List.replicate 12 0) [] (List.replicate 16 0)).2) =
      (0xCEA7403D4D606B6E074EC5D3BAF39D18, 0xD0D1C8A799996BF0265B98B5D48AB919) := by decide +kernel

/-- P-384: twice the base point. -/
theorem test_p384 : (publicKey 2).1 = 0x08D999057BA3D2D969260045C55B97F089025959A6F434D651D207D19FB96E9E4FE0E86EBE0E64F85B96A9C75295DF61 := by
  decide +kernel

end Sys2Proof.Tests
end

section
/-!
SUPPORT. What a register access does, by the region its offset lies in (spec/17): BAR0, the doorbell pages of BAR2, BAR4's almanac, event-ring blocks,
MSI-X table and reserved rest, and the spaces beside the BARs. REGISTER_WRITE and REGISTER_READ_CLEAR have one lemma for each region.
-/

namespace Sys2Proof.Machine

open Sys2Proof

/-! ## Paths -/

/-- A control core, the MMC or the debug port: a path that is no host port's. -/
def innerPath : Path → Bool
  | .host .. => false
  | .hostOdd _ => false
  | _ => true

theorem innerPath_of_not_host {p : Path} (h : ∀ q ps tee, p ≠ .host q ps tee) (ho : ∀ q, p ≠ .hostOdd q) : innerPath p = true := by
  cases p with
  | host q ps tee => exact absurd rfl (h q ps tee)
  | hostOdd q => exact absurd rfl (ho q)
  | core _ => rfl
  | mmc => rfl
  | debug => rfl

theorem deny_inner {p : Path} {s : State} (h : innerPath p = true) : s.deny p = s := by
  cases p with
  | host | hostOdd => cases h
  | core | mmc | debug => rfl

theorem denyRead_inner {p : Path} {s : State} (h : innerPath p = true) : s.denyRead p = s.emit (.value p 0) := by
  cases p with
  | host | hostOdd => cases h
  | core | mmc | debug => rfl

theorem denyRead_hostOdd {q : Nat} {s : State} : s.denyRead (.hostOdd q) = s.deny (.hostOdd q) := rfl

theorem wf_host {q : Nat} {ps : Option Nat} {tee : Bool} (h : q < 4) : Path.wf (.host q ps tee) = true := decide_eq_true h
theorem wf_hostOdd {q : Nat} (h : q < 4) : Path.wf (.hostOdd q) = true := decide_eq_true h

/-! ## What a path reaches of BAR4 -/

/-- The parts of BAR4 that are no slice's are reached by no request with a PASID. -/
theorem reaches4_pasid {s : State} {q i off : Nat} {tee wr : Bool} : s.reaches4 (.host q (some i) tee) off wr = false := by
  unfold State.reaches4; split_ifs <;> rfl

theorem reaches4_hostOdd {s : State} {q off : Nat} {wr : Bool} : s.reaches4 (.hostOdd q) off wr = false := by
  unfold State.reaches4; split_ifs <;> rfl

theorem reaches4_inner_msix {p : Path} {s : State} {off : Nat} {wr : Bool} (h : innerPath p = true) (ho : 0x40000 ≤ off ∧ off < 0x88100) :
    s.reaches4 p off wr = false := by
  unfold State.reaches4
  rw [if_neg (by omega), if_pos ho.2]
  cases p with
  | host | hostOdd => cases h
  | core | mmc | debug => rfl

/-- The MSI-X table and its pending bits are reached by every ready port. -/
theorem reaches4_host_msix {s : State} {q off : Nat} {tee wr : Bool} (h1 : 0x80000 ≤ off) (h2 : off < 0x88100) :
    s.reaches4 (.host q none tee) off wr = s.brg.ready := by
  unfold State.reaches4; rw [if_neg (by omega), if_pos h2]

/-- The almanac and the reserved rest are reached by the administration port, once ready. -/
theorem reaches4_host_admin {s : State} {q off : Nat} {tee wr : Bool} (h : off < 0x40000 ∨ 0x88100 ≤ off) :
    s.reaches4 (.host q none tee) off wr = (s.brg.ready && s.adminPort q) := by
  unfold State.reaches4
  rcases h with h | h
  · rw [if_pos h]
  · rw [if_neg (by omega), if_neg (by omega)]; rfl

theorem reaches4_admin {s : State} {q off : Nat} {tee wr : Bool} (h : off < 0x40000 ∨ 0x88100 ≤ off) (hr : s.brg.ready = true)
    (hq : s.adminPort q = true) : s.reaches4 (.host q none tee) off wr = true := by
  rw [reaches4_host_admin h, hr, hq]; rfl

/-- The MMC, and the cores while their domain is up, read the almanac. -/
theorem reaches4_almanac_reads {p : Path} {s : State} {off : Nat} (ho : off < 0x40000) (h : p = .mmc ∨ (∃ n, p = .core n) ∧ s.pwr.ccUp = true) :
    s.reaches4 p off false = true := by
  unfold State.reaches4
  rw [if_pos ho]
  rcases h with rfl | ⟨⟨n, rfl⟩, h⟩
  · rfl
  · simp [h]

/-- The debug port does not, nor a core while its domain is down. -/
theorem reaches4_almanac_hidden {p : Path} {s : State} {off : Nat} (ho : off < 0x40000)
    (h : p = .debug ∨ (∃ n, p = .core n) ∧ s.pwr.ccUp = false) : s.reaches4 p off false = false := by
  unfold State.reaches4
  rw [if_pos ho]
  rcases h with rfl | ⟨⟨n, rfl⟩, h⟩
  · rfl
  · simp [h]

/-- A port that is not ready, or that is not the administration port and asks for what is no MSI-X table, reaches nothing of BAR4's own parts. -/
theorem reaches4_host_denied {s : State} {q off : Nat} {tee wr : Bool} (hoff : off < 0x40000 ∨ 0x80000 ≤ off)
    (h : s.brg.ready = false ∨ (off < 0x80000 ∨ 0x88100 ≤ off) ∧ s.adminPort q = false) : s.reaches4 (.host q none tee) off wr = false := by
  by_cases hm : 0x80000 ≤ off ∧ off < 0x88100
  · rw [reaches4_host_msix hm.1 hm.2]
    exact h.resolve_right fun hr => by omega
  · rw [reaches4_host_admin (by omega)]
    rcases h with h | ⟨-, h⟩ <;> simp [h]

/-! ## Pages (R272, R318) -/

theorem onPage_inner {p : Path} {s : State} {o : Option Nat} {f : State → State} (h : innerPath p = true) : s.onPage p o f = .next s := by
  cases p with
  | host | hostOdd => cases h
  | core | mmc | debug => exact congrArg Host.Outcome.next (ite_self s)

section
variable {q l : Nat} {ps : Option Nat} {tee : Bool} {s : State} {o : Option Nat} {f : State → State} (hq : q < 4)
include hq

theorem onPage_noSlice (hl : s.sliceBy q ps = none) : s.onPage (.host q ps tee) o f = .next (s.deny (.host q ps tee)) := by
  simp [State.onPage, wf_host hq, hl]

theorem onPage_notReady (hl : s.sliceBy q ps = some l) (hr : s.brg.ready = false) :
    s.onPage (.host q ps tee) o f = .next (s.deny (.host q ps tee)) := by
  simp [State.onPage, wf_host hq, hl, hr]

/-- A request outside the interface's stream is counted too (R318). -/
theorem onPage_rejected (hl : s.sliceBy q ps = some l) (hr : s.brg.ready = true) (ht : s.teeOk l tee = false) : s.onPage (.host q ps tee) o f =
    .next ((s.modTdi l fun x => { x with rejects := min 65535 (x.rejects + 1) }).deny (.host q ps tee)) := by
  simp [State.onPage, wf_host hq, hl, hr, ht]

theorem onPage_notOwner (hl : s.sliceBy q ps = some l) (hr : s.brg.ready = true) (ht : s.teeOk l tee = true) (ho : o ≠ some l) :
    s.onPage (.host q ps tee) o f = .next (s.deny (.host q ps tee)) := by
  simp [State.onPage, wf_host hq, hl, hr, ht, ho]

end

theorem onPage_hostOdd {q : Nat} {s : State} {o : Option Nat} {f : State → State} (h : q < 4) :
    s.onPage (.hostOdd q) o f = .next (s.deny (.hostOdd q)) := by
  simp [State.onPage, wf_hostOdd h]

/-- A host port's read of a page is a page access that shows the word. -/
theorem readPage_host {q : Nat} {ps : Option Nat} {tee : Bool} {s : State} {o : Option Nat} {w : Nat} :
    s.readPage (.host q ps tee) o w = s.onPage (.host q ps tee) o fun s => s.emit (.value (.host q ps tee) w) := by
  unfold State.readPage; rfl

theorem readPage_inner {p : Path} {s : State} {o : Option Nat} {v : Nat} (h : innerPath p = true) :
    s.readPage p o v = .next (s.emit (.value p 0)) := by
  cases p with
  | host | hostOdd => cases h
  | core | mmc | debug => rfl

/-! ## The words of a write -/

section
variable {α : Type} {g : α → Nat × Nat → α} {a : α} {off width : Nat} {v : DWord}

theorem foldl_wordsOf : (wordsOf off width v).foldl g a =
    if width = 8 then g (g a (off, half v.toNat 0)) (off + 4, half v.toNat 1) else g a (off, half v.toNat 0) := by
  unfold wordsOf
  split
  · rfl
  · rfl

/-- A write whose second word the registers ignore is that of its first word. -/
theorem foldl_wordsOf_first (h : width = 8 → ∀ b w, g b (off + 4, w) = b) : (wordsOf off width v).foldl g a = g a (off, half v.toNat 0) := by
  rw [foldl_wordsOf]
  split
  · next hw => exact h hw _ _
  · rfl

end

/-! ## REGISTER_WRITE, by region -/

section
variable {p : Path} {bar off width : Nat} {v : DWord} {s : State}

/-- A write that is not naturally aligned, or not of 4 or 8 bytes, is refused (R509). -/
theorem registerWrite_refused (hp : p.wf = true) (h : width ≠ 4 ∧ width ≠ 8 ∨ off % width ≠ 0) :
    exec (.registerWrite p bar off width v) s = .next (s.deny p) := by
  rw [exec_registerWrite]; unfold execRegisterWrite
  rw [if_neg (by simp [hp]), if_pos h]

variable (hp : p.wf = true) (hw : width = 4 ∨ width = 8) (ha : off % width = 0)
include hp hw ha

/-- A write of a space beside the BARs is made word by word. -/
theorem registerWrite_side (hb : 5 ≤ bar) : exec (.registerWrite p bar off width v) s =
    .next ((wordsOf off width v).foldl (fun a e => a.writeSide p bar e.1 e.2) s).finish := by
  rw [exec_registerWrite]; unfold execRegisterWrite
  rw [if_neg (by simp [hp]), if_neg (by omega), if_pos hb]

/-- A write past the end of its BAR is turned away. -/
theorem registerWrite_past (hb : bar < 5) (ho : barSize bar ≤ off) : exec (.registerWrite p bar off width v) s = .next (s.deny p) := by
  rw [exec_registerWrite]; unfold execRegisterWrite
  rw [if_neg (by simp [hp]), if_neg (by omega), if_neg (Nat.not_le.mpr hb), if_pos ho]

theorem registerWrite_bar0 : exec (.registerWrite p 0 off width v) s =
    .next (if off < 2 ^ 24 ∧ s.reaches p off true = true then (s.writeBar0 p off width v).finish else s.deny p) := by
  by_cases h : off < 2 ^ 24
  · rw [exec_registerWrite]; unfold execRegisterWrite
    rw [if_neg (by simp [hp]), if_neg (by omega), if_neg (by decide), if_neg (by simp only [barSize]; omega), if_pos rfl]
    simp only [h, true_and]
  · rw [registerWrite_past (bar := 0) hp hw ha (by decide) (Nat.not_lt.mp h), if_neg fun hc => h hc.1]

/-- A write of a doorbell page: the first word of the page is TAIL, that at 0x18 the consumer count (R49). Both lie at multiples of 8, so the second
word of a write is never one of them. -/
theorem registerWrite_doorbellPage (ho : off < 2 ^ 25) :
    exec (.registerWrite p 2 off width v) s = s.onPage p ((s.queue? (off / 4096)).map fun x => s.sliceOf x.ctx) fun s =>
      if off % 4096 = 0 then s.doorbell (off / 4096) (BitVec.ofNat 32 (half v.toNat 0))
      else if off % 4096 = 0x018 then
        (match s.queue? (off / 4096) with | some x => s.evtCons x.ctx (BitVec.ofNat 32 (half v.toNat 0)) | none => s)
      else s := by
  rw [exec_registerWrite]; unfold execRegisterWrite
  rw [if_neg (by simp [hp]), if_neg (by omega), if_neg (by decide), if_neg (by simp only [barSize]; omega), if_neg (by decide), if_pos rfl]
  refine congrArg (s.onPage p _) (funext fun t => foldl_wordsOf_first ?_)
  rintro rfl b w
  dsimp only
  rw [if_neg (by omega), if_neg (by omega)]

/-- A write of an event-ring block: the word at 0x10 is the consumer count (R396). -/
theorem registerWrite_ringBlock (h1 : 0x40000 ≤ off) (h2 : off < 0x80000) :
    exec (.registerWrite p 4 off width v) s = s.onPage p ((s.ctx? ((off - 0x40000) / 64)).map (·.slice)) fun s =>
      if off % 64 = 0x10 then s.evtCons ((off - 0x40000) / 64) (BitVec.ofNat 32 (half v.toNat 0)) else s := by
  rw [exec_registerWrite]; unfold execRegisterWrite
  rw [if_neg (by simp [hp]), if_neg (by omega), if_neg (by decide), if_neg (by simp only [barSize]; omega), if_neg (by decide),
    if_neg (by decide), if_neg (by omega), if_pos h2]
  refine congrArg (s.onPage p _) (funext fun t => foldl_wordsOf_first ?_)
  rintro rfl b w
  exact if_neg (by dsimp only; omega)

/-- The almanac keeps its bytes, and the reserved rest of BAR4 ignores writes. -/
theorem registerWrite_ignored (h : off < 0x40000 ∨ 0x88100 ≤ off ∧ off < 2 ^ 20) :
    exec (.registerWrite p 4 off width v) s = .next (if s.reaches4 p off true then s else s.deny p) := by
  rw [exec_registerWrite]; unfold execRegisterWrite
  rw [if_neg (by simp [hp]), if_neg (by omega), if_neg (by decide), if_neg (by simp only [barSize]; omega), if_neg (by decide), if_neg (by decide)]
  rcases h with h | ⟨h, -⟩
  · rw [if_pos h]
  · rw [if_neg (by omega), if_neg (by omega), if_pos h]

/-- The same for a path that reaches them. -/
theorem registerWrite_ignored_reached (h : off < 0x40000 ∨ 0x88100 ≤ off ∧ off < 2 ^ 20) (hr : s.reaches4 p off true = true) :
    exec (.registerWrite p 4 off width v) s = .next s := by
  rw [registerWrite_ignored hp hw ha h, if_pos hr]

/-- A write of BAR4 outside the event-ring blocks that its path does not reach is turned away. -/
theorem registerWrite_bar4_denied (ho : off < 0x40000 ∨ 0x80000 ≤ off) (hr : s.reaches4 p off true = false) :
    exec (.registerWrite p 4 off width v) s = .next (s.deny p) := by
  by_cases hs : 2 ^ 20 ≤ off
  · exact registerWrite_past (bar := 4) hp hw ha (by decide) hs
  by_cases hm : off < 0x40000 ∨ 0x88100 ≤ off
  · rw [registerWrite_ignored hp hw ha (by omega), hr, if_neg (by decide)]
  rw [exec_registerWrite]; unfold execRegisterWrite
  rw [if_neg (by simp [hp]), if_neg (by omega), if_neg (by decide), if_neg (by simp only [barSize]; omega), if_neg (by decide),
    if_neg (by decide), if_neg (by omega), if_neg (by omega), if_neg (by omega)]
  split
  · rw [hr, if_neg (by decide)]
  · rfl

/-- A path that is no host port's changes nothing by a write of BAR2 or BAR4. -/
theorem registerWrite_inner (hi : innerPath p = true) (hb : bar = 2 ∨ bar = 4) : exec (.registerWrite p bar off width v) s = .next s := by
  rcases hb with rfl | rfl
  · by_cases ho : off < 2 ^ 25
    · rw [registerWrite_doorbellPage hp hw ha ho, onPage_inner hi]
    · rw [registerWrite_past (bar := 2) hp hw ha (by decide) (Nat.not_lt.mp ho), deny_inner hi]
  · by_cases hb : 0x40000 ≤ off ∧ off < 0x80000
    · rw [registerWrite_ringBlock hp hw ha hb.1 hb.2, onPage_inner hi]
    by_cases hr : s.reaches4 p off true = false
    · rw [registerWrite_bar4_denied hp hw ha (by omega) hr, deny_inner hi]
    by_cases hs : 2 ^ 20 ≤ off
    · rw [registerWrite_past (bar := 4) hp hw ha (by decide) hs, deny_inner hi]
    · rw [registerWrite_ignored hp hw ha (by have := mt (reaches4_inner_msix hi) hr; omega), deny_inner hi, ite_self]

end

/-- A write of the MSI-X table by a request without a PASID is made word by word; the pending bits ignore it (R395). -/
theorem registerWrite_msix {q off width : Nat} {tee : Bool} {v : DWord} {s : State} (hq : q < 4) (hw : width = 4 ∨ width = 8)
    (ha : off % width = 0) (h1 : 0x80000 ≤ off) (h2 : off < 0x88100) (hr : s.brg.ready = true) :
    exec (.registerWrite (.host q none tee) 4 off width v) s =
      .next (if off < 0x88000 then (wordsOf (off - 0x80000) width v).foldl (fun a e => a.wrMsix q e.1 e.2) s else s).finish := by
  rw [exec_registerWrite]; unfold execRegisterWrite
  rw [if_neg (by simp [wf_host hq]), if_neg (by omega), if_neg (by decide),
    if_neg (by simp only [barSize]; omega), if_neg (by decide), if_neg (by decide), if_neg (by omega), if_neg (by omega), if_neg (by omega)]
  dsimp only
  rw [reaches4_host_msix h1 h2, if_pos hr]

/-- A host port's request that is an AtomicOp, or that sets Execute or Privileged Mode, is turned away by every BAR (R393). -/
theorem registerWrite_hostOdd {q bar off width : Nat} {v : DWord} {s : State} (hq : q < 4) (hb : bar < 5) :
    exec (.registerWrite (.hostOdd q) bar off width v) s = .next (s.deny (.hostOdd q)) := by
  rw [exec_registerWrite]; unfold execRegisterWrite
  rw [if_neg (by simp [wf_hostOdd hq]), if_neg (Nat.not_le.mpr hb)]
  simp only [onPage_hostOdd hq, reaches4_hostOdd, State.reaches, Bool.false_eq_true, if_false, ite_self]

/-! ## REGISTER_READ_CLEAR, by region -/

section
variable {p : Path} {bar off : Nat} {s : State}

/-- A read that is not aligned to its word is refused. -/
theorem registerReadClear_refused (hp : p.wf = true) (hb : bar < 5) (h : off % 4 ≠ 0) :
    exec (.registerReadClear p bar off) s = .next (s.deny p) := by
  rw [exec_registerReadClear]; unfold execRegisterReadClear
  rw [if_neg (by simp [hp]), if_neg (Nat.not_le.mpr hb), if_pos h]

/-- A read of a space beside the BARs. -/
theorem registerReadClear_side (hp : p.wf = true) (hb : 5 ≤ bar) :
    exec (.registerReadClear p bar off) s = .next (s.readSide p bar off).finish := by
  rw [exec_registerReadClear]; unfold execRegisterReadClear
  rw [if_neg (by simp [hp]), if_pos hb]

variable (hp : p.wf = true) (ha : off % 4 = 0)
include hp ha

/-- A read past the end of its BAR is turned away. -/
theorem registerReadClear_past (hb : bar < 5) (ho : barSize bar ≤ off) : exec (.registerReadClear p bar off) s = .next (s.denyRead p) := by
  rw [exec_registerReadClear]; unfold execRegisterReadClear
  rw [if_neg (by simp [hp]), if_neg (Nat.not_le.mpr hb), if_neg (by omega), if_pos ho]

/-- A read of BAR0 on a path that does not reach it, or past its end, is turned away. -/
theorem registerReadClear_bar0_denied (h : 2 ^ 24 ≤ off ∨ s.reaches p off false = false) :
    exec (.registerReadClear p 0 off) s = .next (s.denyRead p) := by
  by_cases ho : 2 ^ 24 ≤ off
  · exact registerReadClear_past hp ha (by decide) ho
  · rw [exec_registerReadClear]; unfold execRegisterReadClear
    rw [if_neg (by simp [hp]), if_neg (by decide), if_neg (by omega), if_neg (by simp only [barSize]; omega), if_pos rfl,
      h.resolve_left ho, if_neg (by decide)]

/-- A core's read of its own EVC_CLAIM claims (R422). -/
theorem registerReadClear_claim {n : Nat} (ho : off < 2 ^ 24) (hr : s.reaches p off false = true) (hc : claimOf p off = some n) :
    exec (.registerReadClear p 0 off) s = .next (s.claim n).finish := by
  rw [exec_registerReadClear]; unfold execRegisterReadClear
  rw [if_neg (by simp [hp]), if_neg (by decide), if_neg (by omega), if_neg (by simp only [barSize]; omega),
    if_pos rfl, if_pos hr, hc]

/-- Every other read of BAR0 that its path reaches gives one word. -/
theorem registerReadClear_bar0 (ho : off < 2 ^ 24) (hr : s.reaches p off false = true) (hc : claimOf p off = none) :
    exec (.registerReadClear p 0 off) s = .next (((s.readBar0 p off).1.drew 1).emit (.value p (s.readBar0 p off).2)).finish := by
  rw [exec_registerReadClear]; unfold execRegisterReadClear
  rw [if_neg (by simp [hp]), if_neg (by decide), if_neg (by omega), if_neg (by simp only [barSize]; omega),
    if_pos rfl, if_pos hr, hc]

/-- A read of a doorbell page. -/
theorem registerReadClear_doorbellPage (ho : off < 2 ^ 25) : exec (.registerReadClear p 2 off) s =
    s.readPage p ((s.queue? (off / 4096)).map fun x => s.sliceOf x.ctx)
      (match s.queue? (off / 4096) with | some x => s.rdPage x (off % 4096) | none => 0) := by
  rw [exec_registerReadClear]; unfold execRegisterReadClear
  rw [if_neg (by simp [hp]), if_neg (by decide), if_neg (by omega), if_neg (by simp only [barSize]; omega),
    if_neg (by decide), if_pos rfl] <;> rfl

/-- A read of an event-ring block. -/
theorem registerReadClear_ringBlock (h1 : 0x40000 ≤ off) (h2 : off < 0x80000) : exec (.registerReadClear p 4 off) s =
    s.readPage p ((s.ctx? ((off - 0x40000) / 64)).map (·.slice))
      (match s.ctx? ((off - 0x40000) / 64) with | some x => x.rdEvr (off % 64) | none => 0) := by
  rw [exec_registerReadClear]; unfold execRegisterReadClear
  rw [if_neg (by simp [hp]), if_neg (by decide), if_neg (by omega),
    if_neg (by simp only [barSize]; omega), if_neg (by decide), if_neg (by decide), if_neg (by omega), if_pos h2] <;> rfl

/-- A read of the almanac. -/
theorem registerReadClear_almanac (h : off < 0x40000) : exec (.registerReadClear p 4 off) s =
    .next (if s.reaches4 p off false then (s.drew 1).emit (.value p (wordOf (s.almBytes none) off)) else s.denyRead p) := by
  rw [exec_registerReadClear]; unfold execRegisterReadClear
  rw [if_neg (by simp [hp]), if_neg (by decide), if_neg (by omega),
    if_neg (by simp only [barSize]; omega), if_neg (by decide), if_neg (by decide), if_pos h]

/-- A read of the reserved rest of BAR4 is 0 (R512). -/
theorem registerReadClear_rest (h1 : 0x88100 ≤ off) (h2 : off < 2 ^ 20) : exec (.registerReadClear p 4 off) s =
    .next (if s.reaches4 p off false then s.emit (.value p 0) else s.denyRead p) := by
  have hr : s.reaches4 p off false = s.reachesRest p false := by
    unfold State.reaches4
    rw [if_neg (by omega), if_neg (by omega)]
  rw [exec_registerReadClear]; unfold execRegisterReadClear
  rw [if_neg (by simp [hp]), if_neg (by decide), if_neg (by omega),
    if_neg (by simp only [barSize]; omega), if_neg (by decide), if_neg (by decide), if_neg (by omega), if_neg (by omega), if_neg (by omega), hr]

/-- A read of BAR4 outside the event-ring blocks that its path does not reach is turned away. -/
theorem registerReadClear_bar4_denied (ho : off < 0x40000 ∨ 0x80000 ≤ off) (hr : s.reaches4 p off false = false) :
    exec (.registerReadClear p 4 off) s = .next (s.denyRead p) := by
  by_cases hs : 2 ^ 20 ≤ off
  · exact registerReadClear_past (bar := 4) hp ha (by decide) hs
  by_cases h1 : off < 0x40000
  · rw [registerReadClear_almanac hp ha h1, hr, if_neg (by decide)]
  by_cases h2 : 0x88100 ≤ off
  · rw [registerReadClear_rest hp ha h2 (by omega), hr, if_neg (by decide)]
  rw [exec_registerReadClear]; unfold execRegisterReadClear
  rw [if_neg (by simp [hp]), if_neg (by decide), if_neg (by omega), if_neg (by simp only [barSize]; omega), if_neg (by decide),
    if_neg (by decide), if_neg h1, if_neg (by omega), if_pos (by omega)]
  split
  · rw [hr, if_neg (by decide)]
  · rfl

/-- A path that is no host port's reads 0 of BAR2 and BAR4, but for the almanac. -/
theorem registerReadClear_inner (hi : innerPath p = true) (hb : bar = 2 ∨ bar = 4) (hn : ¬(bar = 4 ∧ off < 0x40000)) :
    exec (.registerReadClear p bar off) s = .next (s.emit (.value p 0)) := by
  rcases hb with rfl | rfl
  · by_cases ho : off < 2 ^ 25
    · rw [registerReadClear_doorbellPage hp ha ho, readPage_inner hi]
    · rw [registerReadClear_past (bar := 2) hp ha (by decide) (Nat.not_lt.mp ho), denyRead_inner hi]
  · by_cases hb : off < 0x80000
    · rw [registerReadClear_ringBlock hp ha (by omega) hb, readPage_inner hi]
    by_cases hr : s.reaches4 p off false = false
    · rw [registerReadClear_bar4_denied hp ha (by omega) hr, denyRead_inner hi]
    by_cases hs : 2 ^ 20 ≤ off
    · rw [registerReadClear_past (bar := 4) hp ha (by decide) hs, denyRead_inner hi]
    · rw [registerReadClear_rest hp ha (by have := mt (reaches4_inner_msix hi) hr; omega) (by omega), denyRead_inner hi, ite_self]

end

/-- A read of the MSI-X table and its pending bits by a request without a PASID. -/
theorem registerReadClear_msix {q off : Nat} {tee : Bool} {s : State} (hq : q < 4) (ha : off % 4 = 0) (h1 : 0x80000 ≤ off) (h2 : off < 0x88100)
    (hr : s.brg.ready = true) : exec (.registerReadClear (.host q none tee) 4 off) s =
      .next ((s.drew 1).emit (.value (.host q none tee) (s.rdMsix q (off - 0x80000)))) := by
  rw [exec_registerReadClear]; unfold execRegisterReadClear
  rw [if_neg (by simp [wf_host hq]), if_neg (by decide), if_neg (by omega),
    if_neg (by simp only [barSize]; omega), if_neg (by decide), if_neg (by decide), if_neg (by omega), if_neg (by omega), if_pos h2]
  dsimp only
  rw [reaches4_host_msix h1 h2, if_pos hr]

/-- A host port's request that is an AtomicOp, or that sets Execute or Privileged Mode, reads nothing of a BAR (R393). -/
theorem registerReadClear_hostOdd {q bar off : Nat} {s : State} (hq : q < 4) (hb : bar < 5) :
    exec (.registerReadClear (.hostOdd q) bar off) s = .next (s.deny (.hostOdd q)) := by
  rw [exec_registerReadClear]; unfold execRegisterReadClear
  rw [if_neg (by simp [wf_hostOdd hq]), if_neg (Nat.not_le.mpr hb)]
  simp only [State.readPage, denyRead_hostOdd, reaches4_hostOdd, State.reaches, State.reachesRest, Bool.false_eq_true, if_false, ite_self]

/-! ## The pages that a slice owns -/

/-- The slice that owns the page of BAR2, or the event-ring block of BAR4, at `off` (R272). -/
def State.pageOwner (s : State) (bar off : Nat) : Option Nat :=
  if bar = 2 then (s.queue? (off / 4096)).map fun x => s.sliceOf x.ctx else (s.ctx? ((off - 0x40000) / 64)).map (·.slice)

/-- An aligned access of a page of BAR2 or an event-ring block of BAR4 is granted or turned away by the page's owner. -/
theorem pageAccess_onPage {q bar off width : Nat} {ps : Option Nat} {tee : Bool} {cmd : Instr} {v : DWord} {s : State} (hq : q < 4)
    (hc : cmd = .registerWrite (.host q ps tee) bar off width v ∧ (width = 4 ∨ width = 8) ∧ off % width = 0 ∨
      cmd = .registerReadClear (.host q ps tee) bar off ∧ off % 4 = 0)
    (hb : bar = 2 ∧ off < 2 ^ 25 ∨ bar = 4 ∧ 0x40000 ≤ off ∧ off < 0x80000) :
    ∃ f, exec cmd s = s.onPage (.host q ps tee) (s.pageOwner bar off) f := by
  have hp := wf_host (ps := ps) (tee := tee) hq
  rcases hc with ⟨rfl, hw, ha⟩ | ⟨rfl, ha⟩ <;> rcases hb with ⟨rfl, ho⟩ | ⟨rfl, h1, h2⟩
  · exact ⟨_, registerWrite_doorbellPage hp hw ha ho⟩
  · exact ⟨_, registerWrite_ringBlock hp hw ha h1 h2⟩
  · exact ⟨_, (registerReadClear_doorbellPage hp ha ho).trans readPage_host⟩
  · exact ⟨_, (registerReadClear_ringBlock hp ha h1 h2).trans readPage_host⟩

section
variable {q off width l : Nat} {ps : Option Nat} {tee : Bool} {v : DWord} {s : State} (hq : q < 4) (hps : ∀ i, ps = some i → i < 2 ^ 20)
  (hl : s.sliceBy q ps = some l) (hr : s.brg.ready = true) (ht : s.teeOk l tee = true)
include hq hps hl hr ht

/-- The owner of a page reads its word. -/
theorem readPage_owner {w : Nat} : s.readPage (.host q ps tee) (some l) w = .next (s.emit (.value (.host q ps tee) w)).finish := by
  rw [readPage_host, onPage_owner hq hps hl hr ht]

theorem registerWrite_ownDoorbellPage {x : Queue} (hx : s.queue? (off / 4096) = some x) (hxl : s.sliceOf x.ctx = l) (ho : off < 2 ^ 25)
    (hw : width = 4 ∨ width = 8) (ha : off % width = 0) : exec (.registerWrite (.host q ps tee) 2 off width v) s =
      .next (if off % 4096 = 0 then s.doorbell (off / 4096) (BitVec.ofNat 32 (half v.toNat 0))
        else if off % 4096 = 0x018 then s.evtCons x.ctx (BitVec.ofNat 32 (half v.toNat 0)) else s).finish := by
  rw [registerWrite_doorbellPage (wf_host hq) hw ha ho, hx, Option.map_some, hxl, onPage_owner hq hps hl hr ht, hx]

theorem registerReadClear_ownDoorbellPage {x : Queue} (hx : s.queue? (off / 4096) = some x) (hxl : s.sliceOf x.ctx = l) (ho : off < 2 ^ 25)
    (ha : off % 4 = 0) : exec (.registerReadClear (.host q ps tee) 2 off) s =
      .next (s.emit (.value (.host q ps tee) (s.rdPage x (off % 4096)))).finish := by
  rw [registerReadClear_doorbellPage (wf_host hq) ha ho, hx, Option.map_some, hxl, readPage_owner hq hps hl hr ht]

theorem registerWrite_ownRingBlock {x : Ctx} (hx : s.ctx? ((off - 0x40000) / 64) = some x) (hxl : x.slice = l) (h1 : 0x40000 ≤ off)
    (h2 : off < 0x80000) (hw : width = 4 ∨ width = 8) (ha : off % width = 0) : exec (.registerWrite (.host q ps tee) 4 off width v) s =
      .next (if off % 64 = 0x10 then s.evtCons ((off - 0x40000) / 64) (BitVec.ofNat 32 (half v.toNat 0)) else s).finish := by
  rw [registerWrite_ringBlock (wf_host hq) hw ha h1 h2, hx, Option.map_some, hxl, onPage_owner hq hps hl hr ht]

theorem registerReadClear_ownRingBlock {x : Ctx} (hx : s.ctx? ((off - 0x40000) / 64) = some x) (hxl : x.slice = l) (h1 : 0x40000 ≤ off)
    (h2 : off < 0x80000) (ha : off % 4 = 0) : exec (.registerReadClear (.host q ps tee) 4 off) s =
      .next (s.emit (.value (.host q ps tee) (x.rdEvr (off % 64)))).finish := by
  rw [registerReadClear_ringBlock (wf_host hq) ha h1 h2, hx, Option.map_some, hxl, readPage_owner hq hps hl hr ht]

end

/-! ## The words that a read of BAR0 gives -/

/-- A core claims at its own EVC_CLAIM (R422). -/
theorem claimOf_core {n : Nat} : claimOf (.core n) (0x53000 + 64 * n) = some n := if_pos rfl

theorem claimOf_eq_none {p : Path} {off : Nat} (h : ∀ n, p = .core n → off ≠ 0x53000 + 64 * n) : claimOf p off = none := by
  cases p with
  | core n => exact if_neg (h n rfl)
  | host | hostOdd | mmc | debug => rfl

/-- A core's own EVC_CLAIM is one of the eight. -/
theorem claim_offset {n off : Nat} (hp : Path.wf (.core n) = true) (h : off = 0x53000 + 64 * n) :
    0x53000 ≤ off ∧ off < 0x53200 ∧ off % 64 = 0 := by
  have hn : n < 8 := of_decide_eq_true hp
  omega

/-- An EVC_CLAIM that the path does not claim at reads 0 (R422). -/
theorem readBar0_claims {p : Path} {off : Nat} {s : State} (h : 0x53000 ≤ off ∧ off < 0x53200 ∧ off % 64 = 0) : s.readBar0 p off = (s, 0) := if_pos h

/-- A receive narrower than 8 bytes changes no message, and sets RERR (R431). -/
theorem mbxRecv_narrow {s : State} {who : Party} {m width : Nat} (h : width ≠ 8) :
    s.mbxRecv who m width = (s.modMbox m fun x => { x with rerr := true }, 0) := by
  unfold State.mbxRecv
  split
  · exact if_pos (.inr h)
  · rfl

theorem readBar0_receives {p : Path} {off : Nat} {s : State} (h : 0x60000 ≤ off ∧ off < 0x61000 ∧ (off % 64 = 8 ∨ off % 64 = 12)) :
    s.readBar0 p off = (s.modMbox ((off - 0x60000) / 64) fun x => { x with rerr := true }, 0) := by
  unfold State.readBar0
  rw [if_neg (by omega), if_pos h, mbxRecv_narrow (by decide)]

/-- Every other register: its word, and what an RC field is left as (R13, R511). -/
theorem readBar0_plain {p : Path} {off : Nat} {s : State} (hc : ¬(0x53000 ≤ off ∧ off < 0x53200 ∧ off % 64 = 0))
    (hr : ¬(0x60000 ≤ off ∧ off < 0x61000 ∧ (off % 64 = 8 ∨ off % 64 = 12))) :
    s.readBar0 p off = (if p == .debug then s.liveRate off else (s.liveRate off).clearRc off, (s.liveRate off).read0 (p == .mmc) off) := by
  unfold State.readBar0
  rw [if_neg hc, if_neg hr]

section
variable {p : Path} {off : Nat} {s : State} (hp : p.wf = true) (ha : off % 4 = 0) (hr : s.reaches p off false = true)
include hp ha hr

/-- A core's own EVC_CLAIM is claimed by its read. -/
theorem registerReadClear_ownClaim {n : Nat} (hn : p = .core n) (ho : off = 0x53000 + 64 * n) :
    exec (.registerReadClear p 0 off) s = .next (s.claim n).finish := by
  subst hn
  obtain ⟨-, hlt, -⟩ := claim_offset hp ho
  exact registerReadClear_claim hp ha (by omega) hr (ho ▸ claimOf_core)

theorem registerReadClear_otherClaim (hc : 0x53000 ≤ off ∧ off < 0x53200 ∧ off % 64 = 0) (hn : ∀ n, p = .core n → off ≠ 0x53000 + 64 * n) :
    exec (.registerReadClear p 0 off) s = .next ((s.drew 1).emit (.value p 0)).finish := by
  rw [registerReadClear_bar0 hp ha (by omega) hr (claimOf_eq_none hn), readBar0_claims hc]

theorem registerReadClear_receive (hm : 0x60000 ≤ off ∧ off < 0x61000 ∧ (off % 64 = 8 ∨ off % 64 = 12)) : exec (.registerReadClear p 0 off) s =
    .next (((s.modMbox ((off - 0x60000) / 64) fun x => { x with rerr := true }).drew 1).emit (.value p 0)).finish := by
  have hc : claimOf p off = none := claimOf_eq_none fun n hn ho => by
    subst hn
    obtain ⟨-, hlt, -⟩ := claim_offset hp ho
    omega
  rw [registerReadClear_bar0 hp ha (by omega) hr hc, readBar0_receives hm]

/-- A register that is neither, by a path that clears and by the debug port. -/
theorem registerReadClear_plain (ho : off < 2 ^ 24) (hc : ¬(0x53000 ≤ off ∧ off < 0x53200 ∧ off % 64 = 0))
    (hm : ¬(0x60000 ≤ off ∧ off < 0x61000 ∧ (off % 64 = 8 ∨ off % 64 = 12))) : exec (.registerReadClear p 0 off) s =
      .next (((if p == .debug then s.liveRate off else (s.liveRate off).clearRc off).drew 1).emit
        (.value p ((s.liveRate off).read0 (p == .mmc) off))).finish := by
  have hn : claimOf p off = none := claimOf_eq_none fun n hn ho => by
    subst hn
    exact hc (claim_offset hp ho)
  rw [registerReadClear_bar0 hp ha ho hr hn, readBar0_plain hc hm]

end

/-! ## The configuration space (R392, R456) -/

section
variable {q off : Nat} {tee : Bool} {v : DWord} {s : State} (hq : q < 4)
include hq

theorem registerReadClear_cfg (hr : s.brg.ready = true) : exec (.registerReadClear (.host q none tee) 6 off) s =
    .next (s.emit (.value (.host q none tee) ((s.port q).cfg off))).finish := by
  rw [registerReadClear_side (wf_host hq) (by decide)]
  simp [State.readSide, State.onCfg, hr]

theorem registerReadClear_cfg_retry (hr : s.brg.ready = false) : exec (.registerReadClear (.host q none tee) 6 off) s =
    .next (s.emit (.retryStatus q)).finish := by
  rw [registerReadClear_side (wf_host hq) (by decide)]
  simp [State.readSide, State.onCfg, hr]

theorem registerWrite_cfg (ha : off % 4 = 0) (hr : s.brg.ready = true) : exec (.registerWrite (.host q none tee) 6 off 4 v) s =
    .next (s.cfgWrite q off (half v.toNat 0)).finish := by
  rw [registerWrite_side (wf_host hq) (.inl rfl) ha (by decide)]
  simp [wordsOf, State.writeSide, State.onCfg, hr]

theorem registerWrite_cfg_retry (ha : off % 4 = 0) (hr : s.brg.ready = false) : exec (.registerWrite (.host q none tee) 6 off 4 v) s =
    .next (s.emit (.retryStatus q)).finish := by
  rw [registerWrite_side (wf_host hq) (.inl rfl) ha (by decide)]
  simp [wordsOf, State.writeSide, State.onCfg, hr]

end

/-! ## HDM decoders (R404) -/

theorem half_zero {v : Nat} : half v 0 = v % 2 ^ 32 := congrArg (· % 2 ^ 32) (Nat.div_one v)
theorem half_one {v : Nat} : half v 1 = v / 2 ^ 32 % 2 ^ 32 := rfl
theorem withHalf_zero {d v : Nat} : withHalf d 0 v = half d 1 * 2 ^ 32 + v := rfl
theorem withHalf_one {d v : Nat} : withHalf d 1 v = v * 2 ^ 32 + half d 0 := rfl

/-- A value in units of 256 MiB that is written over another by halves, low half first, is what the decoder then holds. -/
theorem withHalf_both {a b : Nat} (hb : b < 2 ^ 36) :
    withHalf (2 ^ 28 * (withHalf (2 ^ 28 * a) 0 (half (2 ^ 28 * b) 0) / 2 ^ 28)) 1 (half (2 ^ 28 * b) 1) / 2 ^ 28 = b := by
  rw [withHalf_one, withHalf_zero, half_zero, half_zero, half_one, half_one]
  omega

theorem tgetD_setHdm_base {p : Port} {k w v base size : Nat} (hk : k < 8) (hw : w < 2) (h : tgetD p.hdm k (0, 0) = (base, size)) :
    tgetD (p.setHdm k w v).hdm k (0, 0) = (withHalf (2 ^ 28 * base) w v / 2 ^ 28, size) := by
  unfold Port.setHdm
  simp only [h]
  rw [if_neg (by omega), if_pos hw]
  simp [tgetD]

theorem tgetD_setHdm_size {p : Port} {k w v base size : Nat} (hk : k < 8) (hw : 2 ≤ w ∧ w < 4) (h : tgetD p.hdm k (0, 0) = (base, size)) :
    tgetD (p.setHdm k w v).hdm k (0, 0) = (base, withHalf (2 ^ 28 * size) (w - 2) v / 2 ^ 28) := by
  unfold Port.setHdm
  simp only [h]
  rw [if_neg (by omega), if_neg (by omega)]
  simp [tgetD]

theorem tgetD_setHdm_base_both {p : Port} {k v base size : Nat} (hk : k < 8) (hv : v < 2 ^ 36) (h : tgetD p.hdm k (0, 0) = (base, size)) :
    tgetD ((p.setHdm k 0 (half (2 ^ 28 * v) 0)).setHdm k 1 (half (2 ^ 28 * v) 1)).hdm k (0, 0) = (v, size) := by
  rw [tgetD_setHdm_base hk (by decide) (tgetD_setHdm_base hk (by decide) h), withHalf_both hv]

theorem tgetD_setHdm_size_both {p : Port} {k v base size : Nat} (hk : k < 8) (hv : v < 2 ^ 36) (h : tgetD p.hdm k (0, 0) = (base, size)) :
    tgetD ((p.setHdm k 2 (half (2 ^ 28 * v) 0)).setHdm k 3 (half (2 ^ 28 * v) 1)).hdm k (0, 0) = (base, v) := by
  rw [tgetD_setHdm_size hk (by decide) (tgetD_setHdm_size hk (by decide) h), withHalf_both hv]

theorem hdmWord_base {p : Port} {k w base size : Nat} (hw : w < 2) (h : tgetD p.hdm k (0, 0) = (base, size)) :
    p.hdmWord k w = half (2 ^ 28 * base) w := by
  unfold Port.hdmWord
  rw [if_pos hw, h]

/-- An aligned 8-byte write of a decoder of a ready port sets two words of it, low half first. -/
theorem registerWrite_hdm {q k w : Nat} {tee : Bool} {v : DWord} {s : State} (hq : q < 4) (hr : s.brg.ready = true) (hw : w = 0 ∨ w = 2) :
    exec (.registerWrite (.host q none tee) 7 (32 * k + 4 * w) 8 v) s =
      .next ((s.modPort q fun x => x.setHdm k w (half v.toNat 0)).modPort q fun x => x.setHdm k (w + 1) (half v.toNat 1)).finish := by
  have e1 : (32 * k + 4 * w) / 32 = k := by omega
  have e2 : 4 * w % 32 / 4 = w := by omega
  have e3 : (32 * k + 4 * w + 4) / 32 = k := by omega
  have e4 : (32 * k + 4 * w + 4) % 32 / 4 = w + 1 := by omega
  rw [registerWrite_side (wf_host hq) (.inr rfl) (by omega) (by decide)]
  simp [wordsOf, State.writeSide, State.onOwn, hr, e1, e2, e3, e4]

section
variable {q k v base size : Nat} {tee : Bool} {s : State} (hq : q < 4) (hk : k < 8) (hv : v < 2 ^ 36) (hr : s.brg.ready = true)
  (h : tgetD (s.port q).hdm k (0, 0) = (base, size))
include hq hk hv hr h

/-- A decoder holds the base that is written. -/
theorem registerWrite_hdm_base : ∃ t : State,
    exec (.registerWrite (.host q none tee) 7 (32 * k) 8 (BitVec.ofNat 64 (2 ^ 28 * v))) s = .next t.finish ∧
      tgetD (t.port q).hdm k (0, 0) = (v, size) := by
  refine ⟨_, registerWrite_hdm (w := 0) hq hr (.inl rfl), ?_⟩
  simp only [State.port_modPort, if_true, BitVec.toNat_ofNat, Nat.mod_eq_of_lt (show 2 ^ 28 * v < 2 ^ 64 by omega)]
  exact tgetD_setHdm_base_both hk hv h

/-- A decoder holds the size that is written. -/
theorem registerWrite_hdm_size : ∃ t : State,
    exec (.registerWrite (.host q none tee) 7 (32 * k + 8) 8 (BitVec.ofNat 64 (2 ^ 28 * v))) s = .next t.finish ∧
      tgetD (t.port q).hdm k (0, 0) = (base, v) := by
  refine ⟨_, registerWrite_hdm (w := 2) hq hr (.inr rfl), ?_⟩
  simp only [State.port_modPort, if_true, BitVec.toNat_ofNat, Nat.mod_eq_of_lt (show 2 ^ 28 * v < 2 ^ 64 by omega)]
  exact tgetD_setHdm_size_both hk hv h

end

/-- A word of a decoder of a ready port is read. -/
theorem registerReadClear_hdm {q k w : Nat} {tee : Bool} {s : State} (hq : q < 4) (hr : s.brg.ready = true) (hw : w < 8) :
    exec (.registerReadClear (.host q none tee) 7 (32 * k + 4 * w)) s =
      .next (s.emit (.value (.host q none tee) ((s.port q).hdmWord k w))).finish := by
  have e1 : (32 * k + 4 * w) / 32 = k := by omega
  have e2 : 4 * w % 32 / 4 = w := by omega
  rw [registerReadClear_side (wf_host hq) (by decide)]
  simp [State.readSide, State.onOwn, hr, e1, e2]

/-! ## The debug port (R416, R513) -/

theorem registerReadClear_challenge {s : State} : exec (.registerReadClear .debug 5 0x18) s =
    .next (s.emit (.value .debug s.sen.dbg.challenge.toNat)).finish := registerReadClear_side rfl (by decide)

theorem registerReadClear_dbgStat {s : State} : exec (.registerReadClear .debug 5 0x20) s =
    .next (s.emit (.value .debug s.dbgStat)).finish := registerReadClear_side rfl (by decide)

/-- EXTEST drives the pins in scope bit 3, while the block is Open. -/
theorem registerWrite_extest {v : DWord} {s : State} : exec (.registerWrite .debug 5 0x10 4 v) s =
    .next (if s.scoped 3 = true ∧ s.sen.sec = 0 then s.emit (.pins (half v.toNat 0)) else s).finish := by
  rw [registerWrite_side rfl (.inl rfl) (by decide) (by decide), foldl_wordsOf, if_neg (by decide)]
  show Host.Outcome.next (if (s.scoped 3 && s.sen.sec == 0) = true then s.emit (.pins (half v.toNat 0)) else s).finish = _
  simp only [Bool.and_eq_true, beq_iff_eq]

/-- No other path reads the debug port's challenge. -/
theorem registerReadClear_notDebug {p : Path} {off : Nat} {s : State} (hp : p.wf = true) (hd : p ≠ .debug) :
    exec (.registerReadClear p 5 off) s = .next (s.denyRead p).finish := by
  rw [registerReadClear_side hp (by decide)]
  cases p with
  | debug => exact absurd rfl hd
  | host | hostOdd | core | mmc => rfl

/-! ## The statement -/

/-- Settles O25: the offset lies in one region of its BAR, and each region has its lemma above. -/
theorem registerAccess : Obligations.RegisterAccess := by
  unfold Obligations.RegisterAccess
  refine ⟨?_, ?_, ?_, ?_, ?_, ?_, ?_, ?_, ?_, ?_, ?_, ?_, ?_, ?_⟩
  · exact fun p bar off width v s hp h => registerWrite_refused hp h
  · exact fun p off width v s hp hw ha => registerWrite_bar0 hp hw ha
  · intro port ps tee off width v s l hq hps hl hr ht
    exact ⟨fun x => registerWrite_ownDoorbellPage hq hps hl hr ht, fun x => registerReadClear_ownDoorbellPage hq hps hl hr ht,
      fun x => registerWrite_ownRingBlock hq hps hl hr ht, fun x => registerReadClear_ownRingBlock hq hps hl hr ht⟩
  · intro port ps tee cmd bar off width v s hq hps hc hb
    obtain ⟨f, hf⟩ := pageAccess_onPage hq hc hb
    rw [hf]
    exact ⟨onPage_noSlice hq, fun l => onPage_notReady hq, fun l => onPage_rejected hq, fun l => onPage_notOwner hq⟩
  · intro q tee off width v s hq hw ha
    have hp := wf_host (ps := none) (tee := tee) hq
    refine ⟨fun ho hr had => ?_, fun h1 h2 hr => ?_, fun h1 h2 hr => ?_, fun h1 h2 hr had => ?_, fun ho h => ?_⟩
    · exact registerWrite_ignored_reached hp hw ha (.inl ho) (reaches4_admin (.inl ho) hr had)
    · rw [registerWrite_msix hq hw ha h1 (by omega) hr, if_pos h2, foldl_wordsOf]
    · rw [registerWrite_msix hq hw ha (by omega) h2 hr, if_neg (by omega)]
    · exact registerWrite_ignored_reached hp hw ha (.inr ⟨h1, h2⟩) (reaches4_admin (.inr h1) hr had)
    · exact registerWrite_bar4_denied hp hw ha ho (reaches4_host_denied ho h)
  · exact fun p bar off s hp hb h => registerReadClear_refused hp hb h
  · intro p off s hp ha claims receives
    refine ⟨fun h => registerReadClear_bar0_denied hp ha (.inl h), fun h => registerReadClear_bar0_denied hp ha (.inr h),
      fun hr ho hc hm hd => ?_, fun hr ho hc hm hd => ?_, fun n hr => registerReadClear_ownClaim hp ha hr,
      fun hr => registerReadClear_otherClaim hp ha hr, fun hr => registerReadClear_receive hp ha hr⟩
    · rw [registerReadClear_plain hp ha hr ho hc hm, if_neg (by simpa using hd)]
    · subst hd
      exact registerReadClear_plain hp ha hr ho hc hm
  · intro q tee off s hq ha
    have hp := wf_host (ps := none) (tee := tee) hq
    refine ⟨fun ho hr had => ?_, fun h1 h2 hr => registerReadClear_msix hq ha h1 h2 hr, fun h1 h2 hr had => ?_, fun ho h => ?_⟩
    · rw [registerReadClear_almanac hp ha ho, if_pos (reaches4_admin (.inl ho) hr had)]
    · rw [registerReadClear_rest hp ha h1 h2, if_pos (reaches4_admin (.inr h1) hr had)]
    · exact registerReadClear_bar4_denied hp ha ho (reaches4_host_denied ho h)
  · rintro q i tee cmd off width v s hq - ho (⟨rfl, hw, ha⟩ | ⟨rfl, ha⟩)
    · exact registerWrite_bar4_denied (wf_host hq) hw ha ho reaches4_pasid
    · exact registerReadClear_bar4_denied (wf_host hq) ha ho reaches4_pasid
  · intro p bar off width v s hp hh ho hb
    have hi := innerPath_of_not_host hh ho
    refine ⟨fun hw ha => registerWrite_inner hp hw ha hi hb, fun ha => registerReadClear_inner hp ha hi hb, ?_, ?_⟩
    · rintro ha rfl ho hr
      rw [registerReadClear_almanac hp ha ho, if_pos (reaches4_almanac_reads ho hr)]
    · rintro ha rfl ho hr
      rw [registerReadClear_almanac hp ha ho, reaches4_almanac_hidden ho hr, if_neg (by decide), denyRead_inner hi]
  · exact fun q bar off width v s hq hb _ _ => ⟨registerWrite_hostOdd hq hb, registerReadClear_hostOdd hq hb⟩
  · intro q off tee v s hq ha
    exact ⟨registerReadClear_cfg hq, registerWrite_cfg hq ha, registerReadClear_cfg_retry hq, registerWrite_cfg_retry hq ha⟩
  · intro q k base size tee s hq hk hbase hsize hr hd
    refine ⟨?_, ?_, fun v hv => ⟨registerWrite_hdm_base hq hk hv hr hd, registerWrite_hdm_size hq hk hv hr hd⟩⟩
    · rw [← hdmWord_base (by decide) hd]
      exact registerReadClear_hdm (w := 0) hq hr (by decide)
    · rw [← hdmWord_base (by decide) hd]
      exact registerReadClear_hdm (w := 1) hq hr (by decide)
  · exact fun v s => ⟨registerReadClear_challenge, registerReadClear_dbgStat, registerWrite_extest, fun p hd hp => registerReadClear_notDebug hp hd⟩

end Sys2Proof.Machine
end

section
/-!
SUPPORT. How far an access of a context reaches (R21, R212, R214 to R217): a write changes bytes, tags and binding of the context's own frames only,
so that it changes no walk, and its bytes land where the page's leaf says; a read changes no byte.
-/

namespace Sys2Proof.Machine

/-! ## What translation and the sectors' checks read -/

/-- Of the pool all that a translation or a sector's check reads, which leaves out the sampling, and the boot's nonce. -/
structure PoolView where
  roots  : Tab (Nat × Bool)
  frames : Tab Frame
  mem    : List Host.Cell
  tags   : Tab Tag
  bad    : List Nat
  tlb    : List TlbEnt
  nonce  : Nat

/-- The view of a state. -/
def State.view (s : State) : PoolView :=
  { roots := s.pool.roots, frames := s.pool.frames, mem := s.pool.mem, tags := s.pool.tags, bad := s.pool.bad, tlb := s.pool.tlb, nonce := s.sen.bootNonce }

@[simp] theorem State.account_view (s : State) (c : Nat) (f : Acct → Acct) : (s.account c f).view = s.view := rfl
@[simp] theorem State.dirtyFrame_view (s : State) (l lpf : Nat) : (s.dirtyFrame l lpf).view = s.view := rfl
@[simp] theorem State.dirtyHost_view (s : State) (l addr len : Nat) : (s.dirtyHost l addr len).view = s.view := rfl
@[simp] theorem State.drew_view (s : State) (n : Nat) : (s.drew n).view = s.view := rfl
@[simp] theorem State.emit_view (s : State) (o : Out) : (s.emit o).view = s.view := rfl
@[simp] theorem State.modPort_view (s : State) (p : Nat) (f : Port → Port) : (s.modPort p f).view = s.view := rfl

@[simp] theorem State.sampleAccess_view (s : State) (lpf k : Nat) (who : By) : (s.sampleAccess lpf k who).view = s.view := by
  obtain ⟨a, b, h⟩ := sampleAccess_eq s lpf k who
  rw [h]; rfl

@[simp] theorem State.integFail_view (s : State) (k i : Nat) : (s.integFail k i).view = s.view := by
  unfold State.integFail
  split <;> rfl

@[simp] theorem State.emits_view {α : Type} (f : α → Out) (l : List α) (s : State) : (l.foldl (fun a e => a.emit (f e)) s).view = s.view := by
  obtain ⟨o, h⟩ := emits_eq f l s
  rw [h]; rfl

@[simp] theorem State.hostMiss_view (s : State) (port pasid : Nat) (addr : Option Nat) (data : List Byte) (who : PriFor) :
    (s.hostMiss port pasid addr data who).1.view = s.view := by
  unfold State.hostMiss
  extract_lets p d s1
  split
  · rfl
  · split
    · cases addr <;> rfl
    · split <;> rfl

@[simp] theorem State.hostWrite_view (s : State) (c addr : Nat) (data : List Byte) (who : PriFor) : (s.hostWrite c addr data who).1.view = s.view := by
  unfold State.hostWrite
  extract_lets l
  split
  · rfl
  · rename_i x _
    have hv := s.hostMiss_view x.port x.pasid (some addr) data who
    split
    · rename_i s1 hs
      rw [hs] at hv
      simpa [State.hostPut] using hv
    · exact hv

@[simp] theorem State.hostRead_view (s : State) (c addr n : Nat) : (s.hostRead c addr n).1.view = s.view := by
  unfold State.hostRead State.askHost
  split <;> simp

/-- A read of a sector leaves the view as it was. -/
@[simp] theorem State.readPiece_view (s : State) (c : Nat) (who : By) (l : Leaf) (cva n : Nat) : (s.readPiece c who l cva n).1.view = s.view := by
  unfold State.readPiece
  split
  · split
    · exact s.hostRead_view ..
    · rfl
  · split
    · split
      · rfl
      · split
        · rfl
        · rfl
        · dsimp only
          split <;> simp
    · rfl

/-! ## What a write of a sector comes to -/

/-- Context `c` owns frame `k`. -/
def State.OwnedBy (s : State) (c k : Nat) : Prop := ∃ f, s.frame? k = some f ∧ f.owner = some c

/-- The bytes of a write put into their sector of frame `lpf`, under the writer's key (R301). -/
def State.putSector (s : State) (x : Ctx) (lpf cva : Nat) (d : List Byte) : State :=
  s.onPool fun p =>
    { p with mem := memPut p.mem (65536 * lpf + cva % 65536) d
             tags := tset p.tags (lpf * 256 + bits cva 8 8) { nonce := x.nonce, season := x.season, cva := cva / 256 }
             bad := if d.length = 256 then p.bad.filter (· != lpf * 256 + bits cva 8 8) else p.bad }

/-- The outcomes of a write of one sector's bytes: the view stays; the context's own frame finds no room and is lost (R221); or the bytes are put
into the context's own frame, which is first bound where it was FRESH (R210). -/
inductive PieceOutcome (s : State) (c cva : Nat) (d : List Byte) : Leaf → State → Prop where
  | same {l : Leaf} {t : State} (hv : t.view = s.view) : PieceOutcome s c cva d l t
  | lost {lpf : Nat} {t : State} (ho : s.OwnedBy c lpf) (hv : t.view = (s.modFrame lpf fun g => { g with st := .lost }).view) :
      PieceOutcome s c cva d (.pool lpf true) t
  | put {lpf : Nat} {x : Ctx} {t : State} (ho : s.OwnedBy c lpf) (hv : t.view = (s.putSector x lpf cva d).view) :
      PieceOutcome s c cva d (.pool lpf true) t
  | bound {lpf k : Nat} {x : Ctx} {f : Frame} {who : By} {pref : Option Nat} {s1 t : State} (ho : s.OwnedBy c lpf)
      (hb : s.bindFrame c x lpf (cva / 65536) f who pref = some (s1, k)) (hv : t.view = (s1.putSector x lpf cva d).view) :
      PieceOutcome s c cva d (.pool lpf true) t

theorem State.writePiece_outcome (s : State) (c : Nat) (who : By) (pref : Option Nat) (l : Leaf) (cva : Nat) (d : List Byte) :
    PieceOutcome s c cva d l (s.writePiece c who pref l cva d).1 := by
  unfold State.writePiece
  split
  case h_1 iova mask w =>
    split
    · have hv := s.hostWrite_view c (iova + cva % 65536) d (.write c)
      split <;> (rename_i hs; rw [hs] at hv; exact .same hv)
    · exact .same rfl
  case h_2 lpf w =>
    split
    case h_2 => exact .same rfl
    case h_1 f x hf hx =>
      split
      · exact .same rfl
      · rename_i hw
        simp only [Bool.or_eq_true, Bool.not_eq_true', bne_iff_ne, ne_eq, not_or, Bool.not_eq_false, not_not] at hw
        obtain ⟨rfl, ho⟩ := hw
        have how : s.OwnedBy c lpf := ⟨f, hf, ho⟩
        extract_lets i put
        have hput : ∀ s1 k, (put s1 k).view = (s1.putSector x lpf cva d).view := fun s1 k => by simp [put, State.putSector, i]
        split
        · exact .same rfl
        · split
          · rename_i s1 k hb
            exact .bound how hb (hput s1 k)
          · exact .lost how rfl
        · extract_lets k
          split
          · exact .put how (hput s k)
          · exact .same (by simp)

/-! ## What stays outside a context's own frames -/

/-- From `s` to `t` no frame changes its owner, and nothing that a translation or a sector's check reads changes but in frames of context `c`. -/
structure Confined (c : Nat) (s t : State) : Prop where
  roots : t.pool.roots = s.pool.roots
  nonce : t.sen.bootNonce = s.sen.bootNonce
  owner : ∀ k, (t.frame? k).map (·.owner) = (s.frame? k).map (·.owner)
  frame : ∀ k, ¬ s.OwnedBy c k → t.frame? k = s.frame? k
  mem : ∀ a, ¬ s.OwnedBy c (a / 65536) → memGet t.pool.mem a = memGet s.pool.mem a
  tag : ∀ i, ¬ s.OwnedBy c (i / 256) → tget t.pool.tags i = tget s.pool.tags i
  bad : ∀ i, ¬ s.OwnedBy c (i / 256) → t.pool.bad.contains i = s.pool.bad.contains i

theorem State.ownedBy_iff {s : State} {c k : Nat} : s.OwnedBy c k ↔ (s.frame? k).map (·.owner) = some (some c) := by
  simp [State.OwnedBy]

theorem Confined.ownedBy {c c' k : Nat} {s t : State} (h : Confined c s t) : t.OwnedBy c' k ↔ s.OwnedBy c' k := by
  rw [State.ownedBy_iff, State.ownedBy_iff, h.owner k]

theorem Confined.trans {c : Nat} {s t u : State} (h : Confined c s t) (h' : Confined c t u) : Confined c s u where
  roots := h'.roots.trans h.roots
  nonce := h'.nonce.trans h.nonce
  owner k := (h'.owner k).trans (h.owner k)
  frame k hk := (h'.frame k (mt h.ownedBy.mp hk)).trans (h.frame k hk)
  mem a ha := (h'.mem a (mt h.ownedBy.mp ha)).trans (h.mem a ha)
  tag i hi := (h'.tag i (mt h.ownedBy.mp hi)).trans (h.tag i hi)
  bad i hi := (h'.bad i (mt h.ownedBy.mp hi)).trans (h.bad i hi)

/-- States that agree in all but sampling and held translations. -/
theorem Confined.of_eq {c : Nat} {s t : State} (h1 : t.pool.roots = s.pool.roots) (h2 : t.pool.frames = s.pool.frames) (h3 : t.pool.mem = s.pool.mem)
    (h4 : t.pool.tags = s.pool.tags) (h5 : t.pool.bad = s.pool.bad) (h6 : t.sen.bootNonce = s.sen.bootNonce) : Confined c s t := by
  have hf : ∀ k, t.frame? k = s.frame? k := fun k => by simp only [State.frame?, h2]
  exact ⟨h1, h6, fun k => by rw [hf], fun k _ => hf k, fun _ _ => by rw [h3], fun _ _ => by rw [h4], fun _ _ => by rw [h5]⟩

theorem Confined.of_view {c : Nat} {s t : State} (h : t.view = s.view) : Confined c s t :=
  .of_eq (congrArg PoolView.roots h) (congrArg PoolView.frames h) (congrArg PoolView.mem h) (congrArg PoolView.tags h) (congrArg PoolView.bad h)
    (congrArg PoolView.nonce h)

/-- A change of stack of one of the context's frames. -/
theorem Confined.setSt {c lpf : Nat} {s : State} {st : FrSt} (ho : s.OwnedBy c lpf) :
    Confined c s (s.modFrame lpf fun f => { f with st := st }) where
  roots := rfl
  nonce := rfl
  owner k := by
    rw [State.frame?_modFrame]
    split
    · rename_i hk
      subst hk
      simp [Option.map_map, Function.comp_def]
    · rfl
  frame k hk := by rw [State.frame?_modFrame, if_neg (by rintro rfl; exact hk ho)]
  mem _ _ := rfl
  tag _ _ := rfl
  bad _ _ := rfl

/-- Tags put in the sectors of one frame leave those of the others. -/
theorem tget_foldl_tset {lpf i : Nat} (g : Nat → Tag) (hi : i / 256 ≠ lpf) : ∀ (l : List Nat) (t : Tab Tag), (∀ j ∈ l, j < 256) →
    tget (l.foldl (fun t j => tset t (lpf * 256 + j) (g j)) t) i = tget t i
  | [], _, _ => rfl
  | j :: l, t, h => by
    have hj := h j (by simp)
    rw [List.foldl_cons, tget_foldl_tset g hi l _ fun k hk => h k (by simp [hk]), tget_tset, if_neg (by omega)]

/-- A binding sets tags of its own frame and the frame's stack, and is accounted for. -/
theorem State.bindFrame_eq {s s1 : State} {c lpf page k : Nat} {x : Ctx} {f : Frame} {who : By} {pref : Option Nat}
    (h : s.bindFrame c x lpf page f who pref = some (s1, k)) : ∃ tags g, (∀ i, i / 256 ≠ lpf → tget tags i = tget s.pool.tags i) ∧
      s1 = ((s.onPool fun p => { p with tags := tags }).modFrame lpf fun f => { f with st := .bound k }).account c g := by
  unfold State.bindFrame at h
  split at h
  · cases h
  · extract_lets tags at h
    simp only [Option.some.injEq, Prod.mk.injEq] at h
    obtain ⟨rfl, rfl⟩ := h
    exact ⟨tags, _, fun i hi => tget_foldl_tset _ hi _ _ fun j hj => List.mem_range.mp hj, rfl⟩

theorem State.bindFrame_mem {s s1 : State} {c lpf page k : Nat} {x : Ctx} {f : Frame} {who : By} {pref : Option Nat}
    (h : s.bindFrame c x lpf page f who pref = some (s1, k)) : s1.pool.mem = s.pool.mem ∧ s1.pool.tlb = s.pool.tlb := by
  obtain ⟨tags, g, -, rfl⟩ := State.bindFrame_eq h
  exact ⟨rfl, rfl⟩

theorem State.bindFrame_confined {s s1 : State} {c lpf page k : Nat} {x : Ctx} {f : Frame} {who : By} {pref : Option Nat} (ho : s.OwnedBy c lpf)
    (h : s.bindFrame c x lpf page f who pref = some (s1, k)) : Confined c s s1 := by
  obtain ⟨tags, g, htags, rfl⟩ := State.bindFrame_eq h
  have hc : Confined c s (s.onPool fun p => { p with tags := tags }) :=
    { roots := rfl, nonce := rfl, owner := fun _ => rfl, frame := fun _ _ => rfl, mem := fun _ _ => rfl, bad := fun _ _ => rfl
      tag := fun i hi => htags i (by rintro rfl; exact hi ho) }
  exact (hc.trans (.setSt ho)).trans (.of_view (State.account_view ..))

/-- The bytes of a write that stays in its sector, put into one of the context's frames. -/
theorem State.putSector_confined {s : State} {c lpf cva : Nat} {x : Ctx} {d : List Byte} (ho : s.OwnedBy c lpf) (hle : cva % 256 + d.length ≤ 256) :
    Confined c s (s.putSector x lpf cva d) where
  roots := rfl
  nonce := rfl
  owner _ := rfl
  frame _ _ := rfl
  mem a ha := by
    have hne : a / 65536 ≠ lpf := by rintro rfl; exact ha ho
    exact memGet_memPut_out _ (by omega)
  tag i hi := by
    have hne : i / 256 ≠ lpf := by rintro rfl; exact hi ho
    have hb : bits cva 8 8 < 256 := by unfold bits; omega
    exact (tget_tset ..).trans (if_neg (by omega))
  bad i hi := by
    have hne : i / 256 ≠ lpf := by rintro rfl; exact hi ho
    have hb : bits cva 8 8 < 256 := by unfold bits; omega
    have hi' : i ≠ lpf * 256 + bits cva 8 8 := by omega
    show (if d.length = 256 then s.pool.bad.filter (· != lpf * 256 + bits cva 8 8) else s.pool.bad).contains i = _
    split
    · simp [List.contains_eq_mem, hi']
    · rfl

/-! ## A write of one sector -/

section
variable {s t : State} {c cva : Nat} {l : Leaf} {d : List Byte}

theorem PieceOutcome.confined (h : PieceOutcome s c cva d l t) (hle : cva % 256 + d.length ≤ 256) : Confined c s t := by
  cases h with
  | same hv => exact .of_view hv
  | lost ho hv => exact (Confined.setSt ho).trans (.of_view hv)
  | put ho hv => exact (State.putSector_confined ho hle).trans (.of_view hv)
  | bound ho hb hv =>
    have hc := State.bindFrame_confined ho hb
    exact (hc.trans (State.putSector_confined (hc.ownedBy.mpr ho) hle)).trans (.of_view hv)

theorem PieceOutcome.tlb (h : PieceOutcome s c cva d l t) : t.pool.tlb = s.pool.tlb := by
  cases h with
  | same hv => exact congrArg PoolView.tlb hv
  | lost _ hv => exact congrArg PoolView.tlb hv
  | put _ hv => exact congrArg PoolView.tlb hv
  | bound _ hb hv => exact (congrArg PoolView.tlb hv).trans (State.bindFrame_mem hb).2

/-- A byte that changes is one of those written, through a writable leaf. -/
theorem PieceOutcome.reach (h : PieceOutcome s c cva d l t) {a : Nat} (ha : memGet t.pool.mem a ≠ memGet s.pool.mem a) :
    ∃ lpf, l = .pool lpf true ∧ 65536 * lpf + cva % 65536 ≤ a ∧ a < 65536 * lpf + cva % 65536 + d.length := by
  have inside : ∀ lpf, t.pool.mem = memPut s.pool.mem (65536 * lpf + cva % 65536) d →
      65536 * lpf + cva % 65536 ≤ a ∧ a < 65536 * lpf + cva % 65536 + d.length := fun lpf hm => by
    by_contra hout
    exact ha (by rw [hm, memGet_memPut_out _ (by omega)])
  cases h with
  | same hv => exact absurd (congrArg (memGet · a) (congrArg PoolView.mem hv)) ha
  | lost _ hv => exact absurd (congrArg (memGet · a) (congrArg PoolView.mem hv)) ha
  | put _ hv => exact ⟨_, rfl, inside _ (congrArg PoolView.mem hv)⟩
  | @bound lpf _ _ _ _ _ s1 _ _ hb hv =>
    have hm : t.pool.mem = memPut s1.pool.mem (65536 * lpf + cva % 65536) d := congrArg PoolView.mem hv
    exact ⟨_, rfl, inside _ (by rw [hm, (State.bindFrame_mem hb).1])⟩

end

/-! ## Walks -/

/-- A table entry lies in a frame without an owner, so that what happens in a context's own frames does not change it. -/
theorem Confined.tableEntry {c k i cva : Nat} {s t : State} (h : Confined c s t) (hi : i < 8192) : t.tableEntry k i cva = s.tableEntry k i cva := by
  unfold State.tableEntry State.tableTag
  by_cases hk : s.OwnedBy c k
  · obtain ⟨f, hf, ho⟩ := hk
    obtain ⟨g, hg, ho'⟩ := h.ownedBy.mpr ⟨f, hf, ho⟩
    simp [hf, hg, ho, ho']
  · have hmem : memRead t.pool.mem (65536 * k + 8 * i) 8 = memRead s.pool.mem (65536 * k + 8 * i) 8 := by
      rw [memRead_eq, memRead_eq]
      refine List.map_congr_left fun j hj => h.mem _ ?_
      rw [show (65536 * k + 8 * i + j) / 65536 = k by have := List.mem_range.mp hj; omega]
      exact hk
    have hsec : (k * 256 + i / 32) / 256 = k := by omega
    simp only [h.frame k hk, hmem, h.nonce, h.tag _ (hsec ▸ hk), h.bad _ (hsec ▸ hk)]

/-- Nor does it change a walk. -/
theorem Confined.walk {c c' page : Nat} {s t : State} (h : Confined c s t) : t.walk c' page = s.walk c' page := by
  have e : ∀ k i, i < 8192 → t.tableEntry k i (page * 65536) = s.tableEntry k i (page * 65536) := fun k i hi => h.tableEntry hi
  unfold State.walk
  by_cases hp : 2 ^ 32 ≤ page
  · simp only [if_pos hp]
  · simp only [if_neg hp, h.roots, e _ (page / 2 ^ 26) (by omega), e _ (page / 2 ^ 13 % 8192) (by omega), e _ (page % 8192) (by omega)]

theorem leNat_lt (l : List Byte) : leNat l < 256 ^ l.length := by
  induction l with
  | nil => simp [leNat]
  | cons b l ih =>
    have hb : b.toNat < 256 := b.isLt
    simp only [leNat, List.length_cons, Nat.pow_succ]
    omega

theorem State.tableEntry_lt {s : State} {k i cva v : Nat} (h : s.tableEntry k i cva = .ok v) : v < 2 ^ 64 := by
  unfold State.tableEntry at h
  split at h
  · cases h
  · split at h
    · cases h
    · split at h
      · cases h; decide
      · cases h
      · extract_lets sec at h
        split at h
        · cases h
        · cases h
          exact (leNat_lt _).trans_le (by simp [memRead])

/-- A leaf that a walk finds is an entry of 8 bytes. -/
theorem State.walk_lt {s : State} {c page v : Nat} (h : s.walk c page = .ok v) : v < 2 ^ 64 := by
  unfold State.walk at h
  extract_lets cva at h
  split at h
  · cases h
  · split at h
    · split at h
      · cases h
      · split at h
        · cases h
        · split at h
          · cases h
          · split at h
            · cases h
            · exact State.tableEntry_lt h
    · cases h

/-! ## Translations -/

/-- The tables of context `c` map a page to leaf `e`, or a translation that the NI holds does. -/
def State.MapsTo (s : State) (ni c page e : Nat) : Prop := s.walk c page = .ok e ∨ ∃ y ∈ s.cached ni c page, y.leaf.toNat = e

theorem State.translate_confined (s : State) (who : By) (c page : Nat) : Confined c s (s.translate who c page).1 := by
  obtain ⟨n, a, b, tlb, pm, r, ht, -⟩ := translate_eq s who c page
  rw [ht]
  exact .of_eq rfl rfl rfl rfl rfl rfl

theorem State.translate_mem (s : State) (who : By) (c page : Nat) : (s.translate who c page).1.pool.mem = s.pool.mem := by
  obtain ⟨n, a, b, tlb, pm, r, ht, -⟩ := translate_eq s who c page
  rw [ht]

/-- The leaf that a translation gives is one that the page maps to. -/
theorem State.translate_leaf {s t : State} {who : By} {c page : Nat} {l : Leaf} (h : s.translate who c page = (t, .ok l)) :
    ∃ e, leafOf e = some l ∧ s.MapsTo who.ni c page e := by
  unfold State.translate at h
  extract_lets held at h
  generalize hq : (if held = [] then (s, none) else (s.drew 1, held[s.peek % (held.length + 1)]?)) = q at h
  obtain ⟨s1, hit⟩ := q
  have hw : s1.walk c page = s.walk c page := by
    split at hq <;> cases hq
    · rfl
    · exact walk_congr rfl rfl rfl rfl rfl rfl
  have hheld : ∀ y, hit = some y → y ∈ held := by
    rintro y rfl
    split at hq
    · cases hq
    · exact List.mem_of_getElem? (congrArg Prod.snd hq)
  cases hit with
  | some y =>
    dsimp only at h
    split at h <;> cases h
    exact ⟨_, by assumption, .inr ⟨y, hheld y rfl, rfl⟩⟩
  | none =>
    dsimp only at h
    split at h
    · cases h
    · rename_i v hv
      split at h <;> cases h
      exact ⟨v, by assumption, .inl (hw ▸ hv)⟩

/-- A translation makes no page map to another leaf: what the NI comes to hold is what the walk finds. -/
theorem State.translate_mapsTo {s : State} {who : By} {c page ni c' p e : Nat} (h : (s.translate who c page).1.MapsTo ni c' p e) : s.MapsTo ni c' p e := by
  obtain ⟨n, a, b, tlb, pm, r, ht, htlb, -⟩ := translate_eq s who c page
  rcases h with hw | ⟨y, hy, he⟩
  · exact .inl ((s.translate_confined who c page).walk ▸ hw)
  · simp only [ht, State.cached, List.mem_filter, Bool.and_eq_true, beq_iff_eq] at hy
    obtain ⟨hmem, ⟨hni, hctx⟩, hpage⟩ := hy
    rcases htlb y hmem with hold | ⟨hc, hp, v, hv, hleaf⟩
    · exact .inr ⟨y, by simp [State.cached, hold, hni, hctx, hpage], he⟩
    · refine .inl ?_
      rw [← hctx, hc, ← hpage, hp, hv, ← he, hleaf, BitVec.toNat_ofNat, Nat.mod_eq_of_lt (State.walk_lt hv)]

theorem PieceOutcome.mapsTo {s t : State} {c cva ni c' p e : Nat} {l : Leaf} {d : List Byte} (h : PieceOutcome s c cva d l t)
    (hle : cva % 256 + d.length ≤ 256) (hm : t.MapsTo ni c' p e) : s.MapsTo ni c' p e := by
  unfold State.MapsTo State.cached at hm ⊢
  rwa [(h.confined hle).walk, h.tlb] at hm

/-! ## Writes and reads of a context -/

/-- A write of a context goes through one sector and then on, unless it ends there or before. -/
theorem State.writeGo_cases (c : Nat) (who : By) (pref : Option Nat) (n : Nat) (s : State) (cva : Nat) (d : List Byte) :
    (State.writeGo c who pref (n + 1) s cva d).1 = s ∨
    (State.writeGo c who pref (n + 1) s cva d).1 = (s.translate who c (cva / 65536)).1 ∨
    ∃ s1 l s2 b, s.translate who c (cva / 65536) = (s1, .ok l) ∧ b = d.take (256 - cva % 256) ∧ PieceOutcome s1 c cva b l s2 ∧
      ((State.writeGo c who pref (n + 1) s cva d).1 = s2 ∨
        (State.writeGo c who pref (n + 1) s cva d).1 = (State.writeGo c who pref n s2 (cva + b.length) (d.drop b.length)).1) := by
  rw [State.writeGo]
  split
  · exact .inl rfl
  · extract_lets b
    split
    · rename_i s1 e ht
      exact .inr (.inl (by rw [ht]))
    · rename_i s1 l ht
      have ho := s1.writePiece_outcome c who pref l cva b
      split <;> (rename_i hp; rw [hp] at ho)
      · exact .inr (.inr ⟨s1, l, _, b, ht, rfl, ho, .inl rfl⟩)
      · exact .inr (.inr ⟨s1, l, _, b, ht, rfl, ho, .inr rfl⟩)

theorem sector_le (cva : Nat) (d : List Byte) : cva % 256 + (d.take (256 - cva % 256)).length ≤ 256 := by
  rw [List.length_take]; omega

/-- A context's write stays in its own frames. -/
theorem State.writeGo_confined (c : Nat) (who : By) (pref : Option Nat) (n : Nat) (s : State) (cva : Nat) (d : List Byte) :
    Confined c s (State.writeGo c who pref n s cva d).1 := by
  induction n generalizing s cva d with
  | zero => exact .of_view rfl
  | succ n ih =>
    have ht := s.translate_confined who c (cva / 65536)
    obtain h | h | ⟨s1, l, s2, b, htr, rfl, ho, h⟩ := State.writeGo_cases c who pref n s cva d
    · rw [h]; exact .of_view rfl
    · rw [h]; exact ht
    · rw [htr] at ht
      have h2 := ht.trans (ho.confined (sector_le cva d))
      rcases h with h | h <;> rw [h]
      · exact h2
      · exact h2.trans (ih ..)

/-- Byte `a` of the pool is the image, through a writable leaf that its page maps to, of one of `n` addresses from `cva` on. -/
def State.Image (s : State) (ni c cva n a : Nat) : Prop :=
  ∃ x lpf e, cva ≤ x ∧ x < cva + n ∧ a = 65536 * lpf + x % 65536 ∧ leafOf e = some (.pool lpf true) ∧ s.MapsTo ni c (x / 65536) e

/-- A byte that the write of a sector changes. -/
theorem State.piece_image {s s1 s2 : State} {who : By} {c cva a : Nat} {l : Leaf} {b : List Byte} (ht : s.translate who c (cva / 65536) = (s1, .ok l))
    (ho : PieceOutcome s1 c cva b l s2) (hle : cva % 256 + b.length ≤ 256) (ha : memGet s2.pool.mem a ≠ memGet s1.pool.mem a) :
    s.Image who.ni c cva b.length a := by
  obtain ⟨lpf, rfl, hlo, hhi⟩ := ho.reach ha
  obtain ⟨e, hl, hm⟩ := State.translate_leaf ht
  have hx : (a - 65536 * lpf - cva % 65536 + cva) / 65536 = cva / 65536 := by omega
  exact ⟨a - 65536 * lpf - cva % 65536 + cva, lpf, e, by omega, by omega, by omega, hl, hx ▸ hm⟩

/-- A byte that a context's write changes is the image of an address written. -/
theorem State.writeGo_image {c : Nat} {who : By} {pref : Option Nat} {a : Nat} (n : Nat) (s : State) (cva : Nat) (d : List Byte)
    (ha : memGet (State.writeGo c who pref n s cva d).1.pool.mem a ≠ memGet s.pool.mem a) : s.Image who.ni c cva d.length a := by
  induction n generalizing s cva d with
  | zero => exact absurd rfl ha
  | succ n ih =>
    have hmem := s.translate_mem who c (cva / 65536)
    obtain h | h | ⟨s1, l, s2, b, htr, hb, ho, h⟩ := State.writeGo_cases c who pref n s cva d
    · exact absurd (by rw [h]) ha
    · exact absurd (by rw [h, hmem]) ha
    · rw [htr] at hmem
      have hle : cva % 256 + b.length ≤ 256 := hb ▸ sector_le cva d
      have hbd : b.length ≤ d.length := by rw [hb, List.length_take]; omega
      by_cases h2 : memGet s2.pool.mem a = memGet s1.pool.mem a
      · have hgo : memGet (State.writeGo c who pref n s2 (cva + b.length) (d.drop b.length)).1.pool.mem a ≠ memGet s2.pool.mem a := by
          rw [h2, hmem]
          rcases h with h | h
          · exact absurd (by rw [h, h2, hmem]) ha
          · rwa [← h]
        obtain ⟨x, lpf, e, hlo, hhi, hx, hl, hm⟩ := ih _ _ _ hgo
        have hm1 : s1.MapsTo who.ni c (x / 65536) e := ho.mapsTo hle hm
        rw [List.length_drop] at hhi
        exact ⟨x, lpf, e, by omega, by omega, hx, hl, State.translate_mapsTo (who := who) (c := c) (page := cva / 65536) (by rwa [htr])⟩
      · obtain ⟨x, lpf, e, hlo, hhi, hrest⟩ := State.piece_image htr ho hle h2
        exact ⟨x, lpf, e, hlo, by omega, hrest⟩

/-- A context's read changes no byte. -/
theorem State.readGo_mem (c : Nat) (who : By) (n : Nat) (s : State) (cva len : Nat) : (State.readGo c who n s cva len).1.pool.mem = s.pool.mem := by
  induction n generalizing s cva len with
  | zero => rfl
  | succ n ih =>
    have hmem := s.translate_mem who c (cva / 65536)
    rw [State.readGo]
    split
    · rfl
    · extract_lets k
      split <;> (rename_i s1 _ ht; rw [ht] at hmem)
      · exact hmem
      · rename_i l
        have hp := congrArg PoolView.mem (s1.readPiece_view c who l cva k)
        split <;> (rename_i s2 _ hr; rw [hr] at hp; have h2 : s2.pool.mem = s.pool.mem := hp.trans hmem)
        · exact h2
        · have hgo := (ih s2 (cva + k) (len - k)).trans h2
          split <;> (rename_i hg; rw [hg] at hgo; exact hgo)

/-! ## The statements -/

/-- Settles O55: a write is confined to the context's own frames, sector by sector, and a read leaves the memory as it was. -/
theorem poolIsolation : Obligations.PoolIsolation := by
  unfold Obligations.PoolIsolation
  refine ⟨fun s t c who pref cva d r h => ?_, fun s t c who cva n r h => ?_⟩
  · have hc : Confined c s t := by
      have hgo := State.writeGo_confined c who pref (d.length / 256 + 2) s cva d
      rwa [show State.writeGo c who pref (d.length / 256 + 2) s cva d = (t, r) from h] at hgo
    exact ⟨fun a ha => hc.mem a fun ⟨f, hf, ho⟩ => ha f hf ho, hc.owner⟩
  · have hgo := State.readGo_mem c who (n / 256 + 2) s cva n
    rwa [show State.readGo c who (n / 256 + 2) s cva n = (t, r) from h] at hgo

/-- Settles O56: a byte that changes is the image of an address written, and no sector of the write changes what a page maps to. -/
theorem writeReach : Obligations.WriteReach := by
  unfold Obligations.WriteReach
  intro s t c who pref cva d r a h ha
  refine State.writeGo_image (pref := pref) (d.length / 256 + 2) s cva d ?_
  rwa [show State.writeGo c who pref (d.length / 256 + 2) s cva d = (t, r) from h]

end Sys2Proof.Machine
end

section
/-!
SUPPORT. The invariant: it holds at reset, and every step keeps it.
-/

namespace Sys2Proof.Machine

open Sys2Proof

/-- Every command keeps what `Keeps` names. -/
theorem exec_keeps (i : Instr) (s : State) : KeepsR s (exec i s) :=
  match i with
  | .ctxCreate .. => execCtxCreate_keeps (.refl s)
  | .ctxDestroy .. => execCtxDestroy_keeps (.refl s)
  | .queueCreate .. => execQueueCreate_keeps (.refl s)
  | .ctxSetRing .. => execCtxSetRing_keeps (.refl s)
  | .queueDestroy .. => execQueueDestroy_keeps (.refl s)
  | .queueStart .. => execQueueStart_keeps (.refl s)
  | .queueStop .. => execQueueStop_keeps (.refl s)
  | .moCreate .. => execMoCreate_keeps (.refl s)
  | .moFree .. => execMoFree_keeps (.refl s)
  | .moSeal .. => execMoSeal_keeps (.refl s)
  | .fenceCreate .. => execFenceCreate_keeps (.refl s)
  | .fenceFree .. => execFenceFree_keeps (.refl s)
  | .programLoad .. => execProgramLoad_keeps (.refl s)
  | .programFree .. => execProgramFree_keeps (.refl s)
  | .queueSetWeight .. => execQueueSetWeight_keeps (.refl s)
  | .moFill .. => execMoFill_keeps (.refl s)
  | .moCopy .. => execMoCopy_keeps (.refl s)
  | .moPlaceHint .. => execMoPlaceHint_keeps (.refl s)
  | .dispatch .. => execDispatch_keeps (.refl s)
  | .dispatchRemote .. => execDispatchRemote_keeps (.refl s)
  | .kvAppend .. => execKvAppend_keeps (.refl s)
  | .kvAttend .. => execKvAttend_keeps (.refl s)
  | .kvFork .. => execKvFork_keeps (.refl s)
  | .kvEvictRelease .. => execKvEvictRelease_keeps (.refl s)
  | .kvEvictTruncate .. => execKvEvictTruncate_keeps (.refl s)
  | .kvEvictFormat .. => execKvEvictFormat_keeps (.refl s)
  | .fenceSignal .. => execFenceSignal_keeps (.refl s)
  | .fenceWait .. => execFenceWait_keeps (.refl s)
  | .fenceNotify .. => execFenceNotify_keeps (.refl s)
  | .fenceReset .. => execFenceReset_keeps (.refl s)
  | .ctxSetSlowdown .. => execCtxSetSlowdown_keeps (.refl s)
  | .txnBegin .. => execTxnBegin_keeps (.refl s)
  | .txnCommit .. => execTxnCommit_keeps (.refl s)
  | .txnAbort .. => execTxnAbort_keeps (.refl s)
  | .queryAlmanac .. => execQueryAlmanac_keeps (.refl s)
  | .queryFence .. => execQueryFence_keeps (.refl s)
  | .queryContext .. => execQueryContext_keeps (.refl s)
  | .queryMo .. => execQueryMo_keeps (.refl s)
  | .queryQueue .. => execQueryQueue_keeps (.refl s)
  | .queryDigest .. => execQueryDigest_keeps (.refl s)
  | .sliceCreate .. => execSliceCreate_keeps (.refl s)
  | .sliceDestroy .. => execSliceDestroy_keeps (.refl s)
  | .sliceSetQuota .. => execSliceSetQuota_keeps (.refl s)
  | .sliceSetShare .. => execSliceSetShare_keeps (.refl s)
  | .polderShape .. => execPolderShape_keeps (.refl s)
  | .polderCalendar .. => execPolderCalendar_keeps (.refl s)
  | .polderAdmit .. => execPolderAdmit_keeps (.refl s)
  | .linkShape .. => execLinkShape_keeps (.refl s)
  | .pdFramesBacked .. => execPdFramesBacked_keeps (.refl s)
  | .sliceDirtyLog .. => execSliceDirtyLog_keeps (.refl s)
  | .sliceQuiesce .. => execSliceQuiesce_keeps (.refl s)
  | .sliceResume .. => execSliceResume_keeps (.refl s)
  | .sluiceSet .. => execSluiceSet_keeps (.refl s)
  | .embankmentSet .. => execEmbankmentSet_keeps (.refl s)
  | .placementMode .. => execPlacementMode_keeps (.refl s)
  | .keyRotate .. => execKeyRotate_keeps (.refl s)
  | .keyPolicy .. => execKeyPolicy_keeps (.refl s)
  | .attestReport .. => execAttestReport_keeps (.refl s)
  | .resetRequestEngine .. => execResetRequestEngine_keeps (.refl s)
  | .resetRequestCluster .. => execResetRequestCluster_keeps (.refl s)
  | .resetRequestPolder .. => execResetRequestPolder_keeps (.refl s)
  | .innerReset .. => execInnerReset_keeps (.refl s)
  | .katRun .. => execKatRun_keeps (.refl s)
  | .stackRetire .. => execStackRetire_keeps (.refl s)
  | .unassignedOpcode .. => execUnassignedOpcode_keeps (.refl s)
  | .qeDbTailWrite .. => execQeDbTailWrite_keeps (.refl s)
  | .qeDbEvtConsWrite .. => execQeDbEvtConsWrite_keeps (.refl s)
  | .back .. => execBack_keeps (.refl s)
  | .table .. => execTable_keeps (.refl s)
  | .untable .. => execUntable_keeps (.refl s)
  | .query .. => execQuery_keeps (.refl s)
  | .pleInvGo .. => execPleInvGo_keeps (.refl s)
  | .invalidationDone => execInvalidationDone_keeps (.refl s)
  | .pleReqDoneWrite .. => execPleReqDoneWrite_keeps (.refl s)
  | .hubS0Go .. => execHubS0Go_keeps (.refl s)
  | .sliceRebind .. => execSliceRebind_keeps (.refl s)
  | .hubHpwinWrite .. => execHubHpwinWrite_keeps (.refl s)
  | .msixVectorUnmask .. => execMsixVectorUnmask_keeps (.refl s)
  | .evcClaimRead .. => execEvcClaimRead_keeps (.refl s)
  | .evcEoiWrite .. => execEvcEoiWrite_keeps (.refl s)
  | .evcPendSetWrite .. => execEvcPendSetWrite_keeps (.refl s)
  | .evcPendClrWrite .. => execEvcPendClrWrite_keeps (.refl s)
  | .evcMaskSetWrite .. => execEvcMaskSetWrite_keeps (.refl s)
  | .evcMaskClrWrite .. => execEvcMaskClrWrite_keeps (.refl s)
  | .mbxSend .. => execMbxSend_keeps (.refl s)
  | .mbxRecv .. => execMbxRecv_keeps (.refl s)
  | .pdAttach => execPdAttach_keeps (.refl s)
  | .pdDetach => execPdDetach_keeps (.refl s)
  | .lnkCtrlRetrain .. => execLnkCtrlRetrain_keeps (.refl s)
  | .lnkCtrlWidthGo .. => execLnkCtrlWidthGo_keeps (.refl s)
  | .lnkCtrlRekey .. => execLnkCtrlRekey_keeps (.refl s)
  | .lnkCtrlDown .. => execLnkCtrlDown_keeps (.refl s)
  | .lnkCfgEnableWrite .. => execLnkCfgEnableWrite_keeps (.refl s)
  | .lnkTopoLock .. => execLnkTopoLock_keeps (.refl s)
  | .pwrCcsleepReq .. => execPwrCcsleepReq_keeps (.refl s)
  | .registerReadClear .. => execRegisterReadClear_keeps (.refl s)
  | .registerWrite .. => execRegisterWrite_keeps (.refl s)
  | .debugTokenLoad .. => execDebugTokenLoad_keeps (.refl s)
  | .dbgCtrlClose => execDbgCtrlClose_keeps (.refl s)
  | .debugLifetimeExpiry => execDebugLifetimeExpiry_keeps (.refl s)
  | .bundleIssue .. => execBundleIssue_keeps (.refl s)
  | .barrierRelease .. => execBarrierRelease_keeps (.refl s)
  | .moverOpComplete .. => execMoverOpComplete_keeps (.refl s)
  | .dispatchStart .. => execDispatchStart_keeps (.refl s)
  | .dispatchComplete .. => execDispatchComplete_keeps (.refl s)
  | .kvOpComplete .. => execKvOpComplete_keeps (.refl s)
  | .contextFaulted .. => execContextFaulted_keeps (.refl s)
  | .preemptFullStop .. => execPreemptFullStop_keeps (.refl s)
  | .preemptSaveStart .. => execPreemptSaveStart_keeps (.refl s)
  | .preemptSaveDone .. => execPreemptSaveDone_keeps (.refl s)
  | .dayBoundary .. => execDayBoundary_keeps (.refl s)
  | .eveStart .. => execEveStart_keeps (.refl s)
  | .shareDeficitCharge .. => execShareDeficitCharge_keeps (.refl s)
  | .slowdownEpoch .. => execSlowdownEpoch_keeps (.refl s)
  | .pleEpoch => execPleEpoch_keeps (.refl s)
  | .moveStart .. => execMoveStart_keeps (.refl s)
  | .moveCopyDone .. => execMoveCopyDone_keeps (.refl s)
  | .rateUpdate .. => execRateUpdate_keeps (.refl s)
  | .txnTimeout .. => execTxnTimeout_keeps (.refl s)
  | .backRequestTimeout .. => execBackRequestTimeout_keeps (.refl s)
  | .sweepComplete .. => execSweepComplete_keeps (.refl s)
  | .autoKeyRotate .. => execAutoKeyRotate_keeps (.refl s)
  | .stackPhyTrainingLoss .. => execStackPhyTrainingLoss_keeps (.refl s)
  | .uncorrectableRead .. => execUncorrectableRead_keeps (.refl s)
  | .sramUncorrectableError .. => execSramUncorrectableError_keeps (.refl s)
  | .entropyHealthFail => execEntropyHealthFail_keeps (.refl s)
  | .entropyRecover => execEntropyRecover_keeps (.refl s)
  | .linkTrainingStart .. => execLinkTrainingStart_keeps (.refl s)
  | .dataFlitReceived .. => execDataFlitReceived_keeps (.refl s)
  | .controlFlitReceived .. => execControlFlitReceived_keeps (.refl s)
  | .idleFlitReceived l => execIdleFlitReceived_keeps (_l := l) (.refl s)
  | .controlFlitSend .. => execControlFlitSend_keeps (.refl s)
  | .replayTimeout .. => execReplayTimeout_keeps (.refl s)
  | .rekey .. => execRekey_keeps (.refl s)
  | .retrain .. => execRetrain_keeps (.refl s)
  | .widthChange .. => execWidthChange_keeps (.refl s)
  | .linkDown .. => execLinkDown_keeps (.refl s)
  | .memRd .. => execMemRd_keeps (.refl s)
  | .memWr .. => execMemWr_keeps (.refl s)
  | .cpl .. => execCpl_keeps (.refl s)
  | .resultStoreTimeout .. => execResultStoreTimeout_keeps (.refl s)
  | .pathLost .. => execPathLost_keeps (.refl s)
  | .doorbell .. => execDoorbell_keeps (.refl s)
  | .rdispSend .. => execRdispSend_keeps (.refl s)
  | .rdispDone .. => execRdispDone_keeps (.refl s)
  | .rdispTimeout .. => execRdispTimeout_keeps (.refl s)
  | .secured .. => execSecured_keeps (.refl s)
  | .reservedMtype .. => execReservedMtype_keeps (.refl s)
  | .messageForward .. => execMessageForward_keeps (.refl s)
  | .cxlMemRead .. => execCxlMemRead_keeps (.refl s)
  | .cxlMemWrite .. => execCxlMemWrite_keeps (.refl s)
  | .hostPortLoss _ why => execHostPortLoss_keeps (_why := why) (.refl s)
  | .atsInvalidation .. => execAtsInvalidation_keeps (.refl s)
  | .priResponse .. => execPriResponse_keeps (.refl s)
  | .priTimeout .. => execPriTimeout_keeps (.refl s)
  | .startInterface .. => execStartInterface_keeps (.refl s)
  | .lockInterface .. => execLockInterface_keeps (.refl s)
  | .stopInterface .. => execStopInterface_keeps (.refl s)
  | .bindClaim .. => execBindClaim_keeps (.refl s)
  | .ideKmKeyProg .. => execIdeKmKeyProg_keeps (.refl s)
  | .ideIntegrityFailure .. => execIdeIntegrityFailure_keeps (.refl s)
  | .getMeasurements .. => execGetMeasurements_keeps (.refl s)
  | .keyExchange .. => execKeyExchange_keeps (.refl s)
  | .mctpControl .. => execMctpControl_keeps (.refl s)
  | .pldmFirmwareUpdate .. => execPldmFirmwareUpdate_keeps (.refl s)
  | .claimSlot .. => execClaimSlot_keeps (.refl s)
  | .burnSlot .. => execBurnSlot_keeps (.refl s)
  | .revokeSlot .. => execRevokeSlot_keeps (.refl s)
  | .burnSvn .. => execBurnSvn_keeps (.refl s)
  | .resetBlock .. => execResetBlock_keeps (.refl s)
  | .resetCold .. => execResetCold_keeps (.refl s)
  | .coldReset => execColdReset_keeps (.refl s)
  | .coldResetRelease .. => execColdResetRelease_keeps (.refl s)
  | .blockReset .. => execBlockReset_keeps (.refl s)
  | .watchdogExpiry .. => execWatchdogExpiry_keeps (.refl s)
  | .fatalInternalError .. => execFatalInternalError_keeps (.refl s)
  | .supplyWarn => execSupplyWarn_keeps (.refl s)
  | .dipEnd .. => execDipEnd_keeps (.refl s)
  | .supplyClear => execSupplyClear_keeps (.refl s)
  | .supplyReset .. => execSupplyReset_keeps (.refl s)
  | .powerMeasurement .. => execPowerMeasurement_keeps (.refl s)
  | .thermalCeilingStep .. => execThermalCeilingStep_keeps (.refl s)
  | .thermalTrip .. => execThermalTrip_keeps (.refl s)
  | .wiredInputChange .. => execWiredInputChange_keeps (.refl s)
  | .clusterNapEntry .. => execClusterNapEntry_keeps (.refl s)
  | .clusterDeepEntry .. => execClusterDeepEntry_keeps (.refl s)
  | .clusterWake .. => execClusterWake_keeps (.refl s)
  | .controlClusterDown => execControlClusterDown_keeps (.refl s)
  | .controlClusterWake => execControlClusterWake_keeps (.refl s)
  | .moFillCopyWorkEnd .. => execMoFillCopyWorkEnd_keeps (.refl s)
  | .hostPortLinkUp .. => execHostPortLinkUp_keeps (.refl s)
  | .sessionEnd .. => execSessionEnd_keeps (.refl s)
  | .trainingFlitReceived .. => execTrainingFlitReceived_keeps (.refl s)

/-- A step keeps it too, but for the command that it takes from the queue. -/
theorem step_keeps {s t : State} (h : step s = .next t) : ∃ r, Keeps { s with pending := r } t := by
  unfold step at h
  split at h
  · rw [← Host.Outcome.next.inj h]
    exact ⟨s.pending, State.tick_keeps (.refl s)⟩
  · exact ⟨_, (exec_keeps _ _).out t h⟩

/-- A nested stack of claims is no longer than its running priority. -/
theorem nested_length_le {st : List (Nat × Nat)} {run : Nat} (h : nested st run = true) : st.length ≤ run := by
  induction st generalizing run with
  | nil => exact Nat.zero_le _
  | cons e st ih =>
    obtain ⟨hlt, hn⟩ : e.2 < run ∧ nested st e.2 = true := by simpa [nested] using h
    exact (ih hn).trans_lt hlt

/-- Settles O47: `Keeps` gives the first four parts, and nested claims under a priority of at most 15 are at most 15. -/
theorem invKept : Obligations.InvKept := by
  unfold Obligations.InvKept
  intro s t hs h
  obtain ⟨hmem, halm, hbox, hevc, -⟩ := hs
  obtain ⟨r, kmem, kalm, kbox, -, -, -, -, kevc⟩ := step_keeps h
  have hevc' : EvcOk t := kevc hevc
  refine ⟨kmem hmem, kalm halm, kbox hbox, hevc', fun e he => ?_⟩
  obtain ⟨hrun, hnest⟩ := hevc'.2 e he
  exact (nested_length_le hnest).trans hrun

/-- Settles O46: the pool memory, the mailboxes and the cores are empty tables at reset, and GENERATION is 0. -/
theorem invAtReset : Obligations.InvAtReset := by
  refine ⟨rfl, rfl, ?_, ⟨?_, ?_⟩, ?_⟩ <;> (intro e he; cases he)

end Sys2Proof.Machine
end

section
/-!
SUPPORT. The packets of contexts and queues (R88): each opcode's checks in sequence, then its effect.
-/

namespace Sys2Proof.Machine

open Sys2Proof

/-! ## Checks in sequence -/

/-- A passing check drops out of a sequence of checks. -/
theorem check_bind {β : Type} {b : Bool} {st : Status} {k : Unit → Except Status β} (h : b = true) : (check b st >>= k) = k () := by
  rw [check_pos st h, ok_bind]

/-- A value that is there drops out of a sequence of checks. -/
theorem want_bind {α β : Type} {o : Option α} {a : α} {st : Status} {k : α → Except Status β} (h : o = some a) : (want o st >>= k) = k a := by
  rw [h, want_some, ok_bind]

/-- A part that succeeds drops out of a sequence of checks. -/
theorem except_bind {α β : Type} {o : Except Status α} {a : α} {k : α → Except Status β} (h : o = .ok a) : (o >>= k) = k a := by
  rw [h, ok_bind]

/-- A new context in a free slot, where the entropy source works and the quota allows it. -/
theorem State.makeCtx_ok {s : State} {l quota : Nat} {root : Bool} {ring : Ring} {vec k : Nat} (he : s.sen.entropy = false)
    (hq : (s.ctxsOf l).length < quota) (hk : s.slotFor (slotCount 1) s.objs.ctxMgr s.objs.ctxs = some k) :
    s.makeCtx l root quota ring vec = .ok (((((s.drew 2).asked 1).onObjs fun o =>
      { o with ctxs := tset o.ctxs k (Ctx.new (o.ctxMgr.gen k) l root ring vec (Config.free (s.free + 1) % 2 ^ 128) s.now)
               ctxMgr := { o.ctxMgr with gens := tset o.ctxMgr.gens k (o.ctxMgr.gen k) } }).installKey (.ctx k 0)).raiseEdge 41, k) := by
  unfold State.makeCtx
  rw [check_bind (by simp [he]), check_bind (by simpa using hq), want_bind hk]
  rfl

/-! ## Contexts -/

/-- Settles O1: the checks of each opcode pass, and its effect is the state of the statement. -/
theorem contextPackets : Obligations.ContextPackets := by
  unfold Obligations.ContextPackets
  refine ⟨?create, ?destroy, ?setRing⟩
  case create =>
    intro h ring log2 vec s s1 c n f x k hs h6 h16 hr hx hv he hq hk t
    refine State.packet_done _ hs ?_
    have hvec : s1.vecOk (s1.sliceOf c) vec = true := by simp [State.vecOk, hx, hv]
    simp only [opCtxCreate, hx]
    rw [check_bind (by simp [h6, h16]), check_bind (by simp [hr, hvec]), except_bind (State.makeCtx_ok he hq hk)]
    rfl
  case destroy =>
    intro h target s s1 c n f k x hs hx hr hk
    refine State.packet_done _ hs ?_
    rw [want_bind hx, check_bind (by simp [hr, hk])]
    rfl
  case setRing =>
    intro h addr obj log2 vec s s1 c n f x hs hx h6 h16 hv hr hp hh
    refine State.packet_done _ hs ?_
    unfold opCtxSetRing
    rw [want_bind hx, check_bind (by simp [h6, h16, hv]), except_bind hr, check_bind (by simp [hp, hh])]
    rfl

/-! ## Queues -/

/-- A new queue in a free slot. -/
theorem State.makeQueue_ok {s : State} {c cls weight k : Nat} {ring rring : Ring} (hk : s.slotFor (slotCount 2) s.objs.qMgr s.objs.queues = some k) :
    s.makeQueue c cls weight ring rring = .ok ((s.drew 1).onObjs fun o =>
      { o with queues := tset o.queues k (Queue.new (o.qMgr.gen k) c cls weight ring rring)
               qMgr := { o.qMgr with gens := tset o.qMgr.gens k (o.qMgr.gen k) } }, k) := by
  unfold State.makeQueue
  rw [want_bind hk]
  rfl

/-- Settles O2: the checks of each opcode pass, and its effect is the state of the statement. -/
theorem queuePackets : Obligations.QueuePackets := by
  unfold Obligations.QueuePackets
  refine ⟨?create, ?destroy, ?start, ?stop⟩
  case create =>
    intro h a s s1 c n f k x l q hs hx h4 h16 hcls h1 hw hobj hr hp hst hadm hl hu hq t
    refine State.packet_done _ hs ?_
    have hadm' : (decide (a.cls = 0) || s1.sched.adms.any (fun y => y.ctx == k && y.feast == (a.cls == 1))) = true := by
      simpa [List.any_eq_true] using hadm
    simp only [opQueueCreate, hl]
    rw [want_bind hx, check_bind (by simp [h4, h16, hcls, h1, hw]), check_bind (by simpa using hobj), except_bind hr, except_bind hp,
      check_bind (by simp [hst]), check_bind hadm', check_bind (by simpa using hu), except_bind (State.makeQueue_ok hq)]
    rfl
  case destroy =>
    intro h queue s s1 c n f k x hs hx hk
    refine State.packet_done _ hs ?_
    rw [want_bind hx, check_bind (by simp [hk])]
    rfl
  case start =>
    intro h queue s s1 c n f k x y hs hx hst hy hact
    refine State.packet_done _ hs ?_
    unfold opQueueStart
    rw [want_bind hx, check_bind (by simpa using hst), check_bind (by simp [hy, hact])]
    rfl
  case stop =>
    intro h queue s s1 c n f k x hs hx hst
    refine State.packet_done _ hs ?_
    unfold opQueueStop
    rw [want_bind hx, check_bind (by simpa using hst)]
    rfl

end Sys2Proof.Machine
end

section
/-!
SUPPORT. The packets of memory objects, fences and programs (R88, R93).
-/

namespace Sys2Proof.Machine

open Sys2Proof

/-! ## Memory objects -/

/-- The frames of a new pool-backed object stay within the slice's quota. -/
theorem frames_inQuota {x : Slice} {used : Nat} (h : ∀ q, x.qFrame = some q → used ≤ q) :
    x.qFrame.elim false (fun q => decide (q < used)) = false := by
  cases hq : x.qFrame with
  | none => rfl
  | some q => simpa using h q hq

/-- Settles O3: the three ways of MO_CREATE, and MO_SEAL without and with a digest. -/
theorem memoryObjectPackets : Obligations.MemoryObjectPackets := by
  unfold Obligations.MemoryObjectPackets
  refine ⟨?host, ?carved, ?asked, ?free, ?sealed, ?measured⟩
  case host =>
    intro h base len ty fl s s1 c n f k hs hp hfl hm hk t
    refine State.packet_done _ hs ?_
    simp only [opMoCreate, hp, hfl, hm, hk]
    rfl
  case carved =>
    intro h base len ty fl s s1 t c n f k p x hs hp hfl hx hq hk hz hc ht
    refine State.packet_done _ hs ?_
    simp only [opMoCreate, hp, hfl, hx, frames_inQuota hq, hk, hz, hc, Option.bind_some, ht]
    rfl
  case asked =>
    intro h base len ty fl s s1 c n f k x hs hp hfl hx hq hk hz hatt t b
    refine State.packet_putOff _ hs ?_
    simp only [opMoCreate, hp, hfl, hx, frames_inQuota hq, hk, hz, hatt]
    rfl
  case free =>
    intro h obj s s1 c n f k m hs hm
    refine State.packet_done _ hs ?_
    rw [want_bind hm]
    rfl
  case sealed =>
    intro h obj s s1 c n f k m hs hm h2 hsl hw h3
    refine State.packet_done _ hs ?_
    simp only [opMoSeal, hm, h2, hsl, hw, h3]
    rfl
  case measured =>
    intro h obj s s1 s2 c n f k m b hs hm h2 hsl hw h3 hr d
    refine State.packet_done _ hs ?_
    simp only [opMoSeal, hm, h2, hsl, hw, h3, hr]
    rfl

/-! ## Fences and programs -/

/-- Settles O4: the checks of each opcode pass, and its effect is the state of the statement. -/
theorem fenceAndProgramPackets : Obligations.FenceAndProgramPackets := by
  unfold Obligations.FenceAndProgramPackets
  refine ⟨?create, ?free, ?load, ?freeProgram⟩
  case create =>
    intro h init s s1 c n f x k hs hx hu hk t
    refine State.packet_done _ hs ?_
    simp only [opFenceCreate, hx]
    rw [check_bind (by simpa using hu), want_bind hk]
    rfl
  case free =>
    intro h fh s s1 c n f k x hs hx
    refine State.packet_done _ hs ?_
    rw [want_bind hx]
    rfl
  case load =>
    intro h obj off s s1 s2 c n f k p m d hs hm hsl hconf hty hoff hr hi hp dig g t
    refine State.packet_done _ hs ?_
    have hconf' : (s1.confSlice (s1.sliceOf c) && !m.flags.getLsbD 3) = false := by
      rcases hconf with hc | hc <;> simp [hc]
    simp only [opProgramLoad, hm, hsl, hconf', hty, Nat.not_lt.mpr hoff, hr, hi, hp]
    rfl
  case freeProgram =>
    intro h prog s s1 c n f k x hs hx
    refine State.packet_done _ hs ?_
    rw [want_bind hx]
    rfl

/-! ## Signals, waits, notifications -/

/-- The state that FENCE_NOTIFY leaves on an ACTIVE fence while a notification record is free. -/
theorem State.arm_ok {s : State} {c k : Nat} {target cookie : DWord} {y : Fence} (hy : s.fence? k = some y) (ha : y.faulted = false)
    (hu : s.noteUse < noteCount) :
    s.arm c k target cookie = .ok (if target ≤ y.value then s.postEvent c (mkNote 1 .ok (s.fenceHandle k) cookie y.value s.time)
      else (s.onObjs fun o => { o with notes := o.notes ++ [{ fence := k, target := target, cookie := cookie, ctx := c }] }).incFence k) := by
  unfold State.arm
  rw [want_bind hy, check_bind (by simp [ha]), check_bind (by simpa using hu)]
  split <;> rfl

/-- Settles O5: FENCE_WAIT by the fence's state and value, FENCE_NOTIFY by what `State.arm` does. -/
theorem fencePackets : Obligations.FencePackets := by
  unfold Obligations.FencePackets
  refine ⟨?signal, ?passes, ?waits, ?halts, ?posted, ?armed, ?reset⟩
  case signal =>
    intro h s s1 c n f k hs hf p
    refine State.packet_putOff _ hs ?_
    simp only [opFenceSignal, hf]
    rfl
  case passes =>
    intro h fh target s s1 c n f k x hs hx ha ht
    refine State.packet_done _ hs ?_
    simp only [opFenceWait, hx, ha, ht]
    rfl
  case waits =>
    intro h fh target s s1 c n f k x hs hx ha ht
    refine State.packet_putOff _ hs ?_
    simp only [opFenceWait, hx, ha, BitVec.not_le.mpr ht]
    rfl
  case halts =>
    intro h fh target s s1 c n f k x hs hx ha
    refine State.packet_putOff _ hs ?_
    simp only [opFenceWait, hx, ha]
    rfl
  case posted =>
    intro h fh target cookie s s1 c n f k x y hs hx hy ha ht hu
    refine State.packet_done _ hs ?_
    rw [want_bind hx, except_bind (State.arm_ok hy ha hu), if_pos ht]
    rfl
  case armed =>
    intro h fh target cookie s s1 c n f k x y hs hx hy ha ht hu
    refine State.packet_done _ hs ?_
    rw [want_bind hx, except_bind (State.arm_ok hy ha hu), if_neg (BitVec.not_le.mpr ht)]
    rfl
  case reset =>
    intro h fh v s s1 c n f k x hs hx ha hv hq hn
    refine State.packet_done _ hs ?_
    unfold opFenceReset
    rw [want_bind hx, check_bind (by simp [ha, hv]), check_bind (by simp [hq, hn])]
    rfl

end Sys2Proof.Machine
end

section
/-!
SUPPORT. The packets of fills and copies, settings and queries (R90, R95, R102).
-/

namespace Sys2Proof.Machine

open Sys2Proof

/-! ## Fills, copies and placement hints -/

/-- An object that a firmware packet may write passes its check. -/
theorem Mo.destOk_ok {m : Mo} {off len : Nat} (hl : off + len ≤ m.len) (hs : m.isSealed = false) (hf : m.formatted = false) (hv : m.saving = false) :
    m.destOk off len = .ok () := by
  unfold Mo.destOk
  rw [check_bind (by simpa using hl)]
  exact check_pos _ (by simp [hs, hf, hv])

/-- Settles O6: the work packets by `State.accept`, MO_PLACE_HINT by its policy and the object's type, the work's end by what it writes. -/
theorem fillCopyPackets : Obligations.FillCopyPackets := by
  unfold Obligations.FillCopyPackets
  refine ⟨?fill, ?copy, ?hint, ?hintKv, ?fillEnd, ?copyEnd, ?ontoKv⟩
  case fill =>
    intro h obj v off len s s1 c n f k m hs hm hma hl hse hf hv
    refine State.packet_done _ hs ?_
    unfold opMoFill
    rw [want_bind hm, check_bind (by simp [hma]), except_bind (Mo.destOk_ok hl hse hf hv)]
    rfl
  case copy =>
    intro h src dst so dO len s s1 c n f a b x y hs hx hy hma hl1 hl2 hse hf hv
    refine State.packet_done _ hs ?_
    unfold opMoCopy
    rw [want_bind hx, want_bind hy, check_bind (by simp [hma]), check_bind (by simpa using hl1), except_bind (Mo.destOk_ok hl2 hse hf hv)]
    rfl
  case hint =>
    intro h obj p s s1 c n f k m hs hm hp hty s2 s3 s4
    refine State.packet_done _ hs ?_
    unfold opMoPlaceHint
    rw [want_bind hm, check_bind (by simpa using hp)]
    simp only [hty, if_false]
    split <;> rfl
  case hintKv =>
    intro h obj p s s1 c n f k m hs hm hp hty
    refine State.packet_done _ hs ?_
    unfold opMoPlaceHint
    rw [want_bind hm, check_bind (by simpa using hp)]
    simp only [hty, if_true]
    rfl
  case fillEnd =>
    intro ref s s1 d o off len v m hd hst hw hkv hm hwr
    rw [hw] at hkv
    simp [execMoFillCopyWorkEnd, hd, hst, hw, hkv, hm, hwr]
  case copyEnd =>
    intro ref s s1 s2 d a b so dO len x y bs hd hst hw hkv hx hy hr hwr
    rw [hw] at hkv
    simp [execMoFillCopyWorkEnd, hd, hst, hw, hkv, hx, hy, hr, hwr]
  case ontoKv =>
    intro ref s d hd hst hkv
    simp [execMoFillCopyWorkEnd, hd, hst, hkv]

/-! ## Settings -/

/-- A setting that may be staged passes what it decides alone. -/
theorem State.settingOk_of_stageOk {s : State} {c : Nat} {before : List Setting} {x : Setting} (h : s.stageOk c before x = .ok ()) :
    s.settingOk c x = .ok () := by
  unfold State.stageOk at h
  cases ho : s.settingOk c x with
  | ok u => rfl
  | error e => rw [ho] at h; cases h

/-- A commit of one setting that passes its checks. -/
theorem State.commitAll_single {s : State} {c : Nat} {x : Setting} (h1 : s.settingOk c x = .ok ()) (h2 : (s.applyAll [x]).settingFits x = .ok ()) :
    s.commitAll c [x] = .ok (((s.applyAll [x]).restarts s).committed [x]) := by
  simp only [State.commitAll, firstBad, h1, h2]

/-- A setting packet without TXN that passes its checks is a commit of its own. -/
theorem State.settingPacket_alone {s s1 : State} {cmd : Instr} {i : OpInfo} {h : Hdr} {x : Setting} {c : Nat} {n : Word} {f : Option Nat}
    (hs : s.served i h = some (s1, c, n, f)) (ht : h.flags.getLsbD 2 = false) (h1 : s1.stageOk c [] x = .ok ())
    (h2 : (s1.applyAll [x]).settingFits x = .ok ()) :
    s.settingPacket cmd i h x = .next ((((s1.applyAll [x]).restarts s1).committed [x]).done i h n f []) := by
  refine State.packet_done _ hs ?_
  simp only [ht, h1, State.commitAll_single (State.settingOk_of_stageOk h1) h2]
  rfl

/-- A setting that is staged. -/
theorem State.stage_ok {s : State} {c k : Nat} {t : Txn} {x : Setting} (hk : s.txnOf c = some (k, t)) (hl : t.settings.length < 256)
    (h1 : s.stageOk c t.settings x = .ok ()) :
    s.stage c x =
      (s.onObjs fun o => { o with txns := tset o.txns k { t with settings := t.settings ++ [x], last := s.now } }, .staged t.settings.length) := by
  simp only [State.stage, hk, Nat.not_le.mpr hl, if_false, h1]

/-- A setting packet with TXN that passes its checks is staged. -/
theorem State.settingPacket_staged {s s1 : State} {cmd : Instr} {i : OpInfo} {h : Hdr} {x : Setting} {c k : Nat} {n : Word} {f : Option Nat} {t : Txn}
    (hs : s.served i h = some (s1, c, n, f)) (ht : h.flags.getLsbD 2 = true) (hk : s1.txnOf c = some (k, t)) (hl : t.settings.length < 256)
    (h1 : s1.stageOk c t.settings x = .ok ()) :
    s.settingPacket cmd i h x =
      .next (((s1.onObjs fun o => { o with txns := tset o.txns k { t with settings := t.settings ++ [x], last := s1.now } }).answer i h n f
        (.staged t.settings.length)).finish) := by
  refine (State.packet_served _ hs).trans ?_
  simp only [ht, if_true, State.stage_ok hk hl h1]

/-- Settles O7: every packet of the twelve is a setting packet, and a setting packet commits alone or is staged. -/
theorem settingPackets : Obligations.SettingPackets := by
  unfold Obligations.SettingPackets
  intro i h x cmd hcmd
  have hset : ∀ s, exec cmd s = s.settingPacket cmd i h x := by
    rcases hcmd with ⟨_, _, rfl, rfl, rfl⟩ | ⟨_, rfl, rfl, rfl⟩ | ⟨_, _, _, rfl, rfl, rfl⟩ | ⟨_, _, _, rfl, rfl, rfl⟩ | ⟨_, _, _, rfl, rfl, rfl⟩ |
      ⟨_, _, _, rfl, rfl, rfl⟩ | ⟨_, _, _, _, _, rfl, rfl, rfl⟩ | ⟨_, rfl, rfl, rfl⟩ | ⟨_, _, rfl, rfl, rfl⟩ | ⟨_, rfl, rfl, rfl⟩ |
      ⟨_, rfl, rfl, rfl⟩ | ⟨_, _, _, rfl, rfl, rfl⟩ <;> exact fun _ => rfl
  refine ⟨fun s s1 c n f hs ht h1 h2 => ?_, fun s s1 c n f k t hs ht hk hl h1 => ?_⟩
  · rw [hset]
    exact State.settingPacket_alone hs ht h1 h2
  · rw [hset]
    exact State.settingPacket_staged hs ht hk hl h1

/-! ## Queries -/

/-- A result that is written in full. -/
theorem State.putResult_ok {s s1 : State} {c off : Nat} {m : Mo} {d : List Byte} {res : List Nat} (h : s.writeMo m .hub off d = (s1, .ok ())) :
    s.putResult c m off d res = (s1, .ok res) := by
  unfold State.putResult
  rw [h]

/-- Settles O9: a query either reads the state alone or writes its record with `State.putResult`. -/
theorem queryPackets : Obligations.QueryPackets := by
  unfold Obligations.QueryPackets
  refine ⟨?almanac, ?fence, ?context, ?mo, ?queue, ?digest⟩
  case almanac =>
    intro h obj off s s1 s2 c n f k m hs hm hlen d hd hw
    refine State.packet_done _ hs ?_
    simp only [opQueryAlmanac, hm, Nat.not_lt.mpr hlen, if_false]
    rw [hd]
    exact State.putResult_ok hw
  case fence =>
    intro h fh s s1 c n f k x hs hx
    refine State.packet_done _ hs ?_
    rw [want_bind hx]
    rfl
  case context =>
    intro h target obj off s s1 s2 c n f j k x m hs hx hm hd hw
    refine State.packet_done _ hs ?_
    simp only [opQueryContext, hx, hm, hd]
    exact State.putResult_ok hw
  case mo =>
    intro h obj s s1 c n f k m hs hm
    refine State.packet_done _ hs ?_
    rw [want_bind hm]
    rfl
  case queue =>
    intro h queue s s1 c n f k x hs hx hsl
    refine State.packet_done _ hs ?_
    rw [want_bind (a := (k, x)) (by simp [hx, hsl])]
    rfl
  case digest =>
    intro h src dst off s s1 s2 c n f k d m hs hd hm hdest hw
    refine State.packet_done _ hs ?_
    simp only [opQueryDigest, hd, hm, hdest, want_some, ok_bind, pure]
    exact State.putResult_ok hw

end Sys2Proof.Machine
end

section
/-!
SUPPORT. The packets of slice administration and of the pool driver (R96, R209, R281 to R287).
-/

namespace Sys2Proof.Machine

open Sys2Proof

/-! ## Slice administration -/

/-- The ranges of SLICE_DIRTY_LOG pass their check. -/
theorem ranges_ok {hostMap : Nat} {r : Option (List (Nat × Nat × Nat))} (h : hostMap = 0 ∨ ∃ d, r = some d ∧ rangesOk d = true) :
    (decide (hostMap = 0) || r.any rangesOk) = true := by
  rcases h with h | ⟨d, rfl, hd⟩
  · simp [h]
  · simp [hd]

/-- No other slice has the port's PASID. -/
theorem pasid_unused {s : State} {port pasid : Nat} (h : ∀ e ∈ s.slices.tab, e.1 ≠ 0 → e.2.port = port → e.2.pasid ≠ pasid) :
    s.slices.tab.any (fun e => e.1 != 0 && e.2.port == port && e.2.pasid == pasid) = false := by
  simpa using h

/-- Settles O10: the checks of each opcode pass, and its effect is the state of the statement. -/
theorem slicePackets : Obligations.SlicePackets := by
  unfold Obligations.SlicePackets
  refine ⟨?create, ?destroy, ?backed, ?logOn, ?logOff, ?quiesce, ?resume, ?timeout⟩
  case create =>
    intro h a s s1 t c n f b l k q r u hs hport hmode hconf hp1 hp2 hpas hup he6 he16 hea hvec hr4 hr16 hw1 hw2 hring hreply hqc hqq hqf hc1 hq1 hb hn hl
      g s2 s3 hctx hque ht
    refine State.packet_done _ hs ?_
    have hlic : (decide (a.mode = 0) || s1.brg.lConf) = true := by
      rcases Nat.le_one_iff_eq_zero_or_eq_one.mp hmode with hm | hm <;> simp [hm, hconf]
    have hfew : (decide (a.mode = 0) || decide ((s1.slices.tab.filter (fun e => e.2.conf && e.2.port == a.port)).length < 64)) = true := by
      rcases Nat.le_one_iff_eq_zero_or_eq_one.mp hmode with hm | hm
      · simp [hm]
      · simpa [hm] using hn hm
    unfold opSliceCreate
    rw [check_bind (by simp [hmode, hport]), check_bind hlic, check_bind (by rw [pasid_unused hpas]; simpa using ⟨hp1, hp2⟩), check_bind hup,
      check_bind (by simp [he6, he16, hea, hvec]), check_bind (by simp [hr4, hr16, hw1, hw2]), except_bind hring, except_bind hreply,
      check_bind (by simp [hqc, hqq, hqf]), check_bind (by simp [hc1, hq1]), want_bind hb, check_bind hfew, want_bind hl]
    simp only []
    rw [except_bind hctx, except_bind hque]
    subst ht
    rfl
  case destroy =>
    intro h slice s s1 c n f l x hs hx hl
    refine State.packet_done _ hs ?_
    rw [want_bind hx, check_bind (by simp [hl])]
    rfl
  case backed =>
    intro h req status s s1 c n f b hs hst hb
    refine State.packet_done _ hs ?_
    rcases hst with rfl | rfl
    · by_cases hf : b.backed = b.frames <;> simp [opPdFramesBacked, hb, hf]
    · simp only [opPdFramesBacked, hb]
      rfl
  case logOn =>
    intro h slice hostMap poolMap r s s1 c n f l x hs hx hh hp hr hconf hscr
    refine State.packet_done _ hs ?_
    unfold opSliceDirtyLog
    rw [want_bind hx, check_bind (by decide), check_bind (by simp [hscr])]
    simp only [Nat.one_ne_zero, if_false]
    rw [check_bind (by simp [hh, hp]), check_bind (ranges_ok hr), check_bind (by simpa using hconf)]
    rfl
  case logOff =>
    intro h slice hostMap poolMap r s s1 c n f l x hs hx hscr
    refine State.packet_done _ hs ?_
    unfold opSliceDirtyLog
    rw [want_bind hx, check_bind (by decide), check_bind (by simp [hscr])]
    rfl
  case quiesce =>
    intro h slice s s1 c n f l x hs hx hl hst hscr
    refine State.packet_putOff _ hs ?_
    simp only [opSliceQuiesce, hx, hl, hst, hscr]
    cases s1.fenceOf h c <;> rfl
  case resume =>
    intro h slice s s1 c n f l x hs hx hst hconf
    have hp : State.resumePacket h slice s = .next ((s1.resume l).done (sliceResumeInfo slice) h n f []) := by
      refine State.packet_done _ hs ?_
      have hrun : (!x.conf || (s1.tdi l).state == 3) = true := by
        cases hc : x.conf with
        | false => rfl
        | true => simpa using hconf hc
      rw [want_bind hx, check_bind (by simp [hst]), check_bind hrun]
      rfl
    rw [exec_sliceResume, execSliceResume, hp]
    rfl
  case timeout =>
    intro req s b hb ht
    have hlate : ¬ s.now < b.since + txnLimit := Nat.not_lt.mpr ht
    simp only [exec_backRequestTimeout, execBackRequestTimeout, hb, hlate, if_false]

end Sys2Proof.Machine
end

section
/-!
SUPPORT. Generations of slots (R38), and the events of dispatches (R158, R178, R246).
-/

namespace Sys2Proof.Machine

open Sys2Proof

/-! ## Generations of slots -/

/-- Returning parked slots parks and unparks none. -/
theorem returnSlots_parked (l : List (Nat × Nat)) (m : SlotMgr) :
    (l.foldl (fun (a : SlotMgr) e => { a with gens := tset a.gens e.1 1 }) m).parked = m.parked := by
  induction l generalizing m with
  | nil => rfl
  | cons e l ih => exact ih _

/-- A slot that is returned, or has generation 1 already, has generation 1. -/
theorem returnSlots_gen {l : List (Nat × Nat)} {m : SlotMgr} {k : Nat} (h : (∃ o, (k, o) ∈ l) ∨ m.gen k = 1) :
    (l.foldl (fun (a : SlotMgr) e => { a with gens := tset a.gens e.1 1 }) m).gen k = 1 := by
  induction l generalizing m with
  | nil =>
    rcases h with ⟨o, ho⟩ | h
    · cases ho
    · exact h
  | cons e l ih =>
    apply ih
    by_cases hk : k = e.1
    · right
      simp [SlotMgr.gen, tgetD, hk]
    · rcases h with ⟨o, ho⟩ | h
      · rcases List.mem_cons.mp ho with rfl | ho
        · exact absurd rfl hk
        · exact .inl ⟨o, ho⟩
      · right
        simpa [SlotMgr.gen, tgetD, hk] using h

/-- The slots that stay parked when an owner ends. -/
theorem SlotMgr.release_parked (m : SlotMgr) (o : Nat) : (m.release o).parked = m.parked.filter (fun e => e.2 != o) := returnSlots_parked _ _

/-- The owner's slots return with generation 1. -/
theorem SlotMgr.release_gen {m : SlotMgr} {k o : Nat} (h : (k, o) ∈ m.parked) : (m.release o).gen k = 1 :=
  returnSlots_gen (.inl ⟨o, List.mem_filter.mpr ⟨h, beq_self_eq_true o⟩⟩)

/-- A slot below the last generation gets the next one. -/
theorem SlotMgr.retire_next {m : SlotMgr} {k : Nat} (o : Nat) (h : m.gen k ≠ 255) : m.retire k o = { m with gens := tset m.gens k (m.gen k + 1) } :=
  if_neg h

/-- A slot at the last generation is parked with its owner. -/
theorem SlotMgr.retire_last {m : SlotMgr} {k : Nat} (o : Nat) (h : m.gen k = 255) : m.retire k o = { m with parked := (k, o) :: m.parked } := if_pos h

/-- Settles O60: a slot gets the next generation or is parked when its object ends, and its owner's end returns it. -/
theorem slotGenerations : Obligations.SlotGenerations := by
  unfold Obligations.SlotGenerations
  refine ⟨fun k => rfl, fun m k o j hk => ?_, fun m t k o hk => ?_, fun m k o h => SlotMgr.release_gen h, fun m t k o ht hp => ?_⟩
  · rw [SlotMgr.retire_next o hk]
    refine ⟨by simp [SlotMgr.gen, tgetD], fun hj => by simp [SlotMgr.gen, tgetD, hj], rfl⟩
  · rw [SlotMgr.retire_last o hk]
    exact ⟨by simp [SlotMgr.freeAt], rfl⟩
  · have hnone : (m.parked.filter (fun e => e.2 != o)).any (fun e => e.1 == k) = false := by
      simp only [List.any_filter, List.any_eq_false, Bool.and_eq_true, bne_iff_ne, beq_iff_eq, not_and]
      exact fun e he hne hk => hne (hp e he hk)
    simp [SlotMgr.freeAt, ht, SlotMgr.release_parked, hnone]


/-! ## The dispatch events -/

/-- An engine of a work packet. -/
theorem State.eng?_of_disp {s : State} {ref : DWord} {k : Nat} {d : Disp} {e : Engine} (hd : s.disp? ref = some d) (he : tget d.engs k = some e) :
    s.eng? ref k = some e := by
  simp [State.eng?, hd, he]

/-- The saves of a work packet may begin: every engine has stopped, and one has still to be saved or there is no save area. -/
theorem savesReady {d : Disp} (hst : d.state = .stopping) (hstop : ∀ e ∈ d.engs, e.2.stopped = true)
    (hrun : d.saveObj = none ∨ ∃ e ∈ d.engs, e.2.halted = false) :
    d.state = .stopping ∧ d.engs.all (·.2.stopped) = true ∧ (d.saveObj = none ∨ d.engs.any (fun e => !e.2.halted) = true) :=
  ⟨hst, List.all_eq_true.mpr hstop, hrun.imp_right fun h => by simpa using h⟩

/-- Settles O28: each event's conditions hold, and its effect is the state of the statement. -/
theorem dispatchEvents : Obligations.DispatchEvents := by
  unfold Obligations.DispatchEvents
  refine ⟨?start, ?claimant, ?complete, ?faulted, ?fullStop, ?saveStart, ?sealedSave, ?kvSave, ?saveDone⟩
  case start =>
    intro k s p d es hr hp hn hup
    have hall : es.all (fun e => s.clusterUp (e / 16)) = true := List.all_eq_true.mpr hup
    simp [execDispatchStart, hr, hp, hn, hall]
  case claimant =>
    intro k s p d hr hp hn
    simp [execDispatchStart, hr, hp, hn]
  case complete =>
    intro ref s d m hd hst hm hall hlen
    have hrun : (d.state == .running || d.state == .stopping) = true := by simpa using hst
    have hhalt : d.engs.all (fun e => e.2.halted && e.2.mv.isEmpty) = true := by simpa using hall
    simp only [exec_dispatchComplete, execDispatchComplete, hd, hrun, hm, hhalt, hlen, beq_self_eq_true]
    rfl
  case faulted =>
    intro c s x hx ho
    simp [execContextFaulted, hx, ho]
  case fullStop =>
    intro ref k s d e hd he hst hpre hh hrun
    have h40 : d.preAt + usTicks 40 ≤ s.now := hpre
    simp [execPreemptFullStop, hd, State.eng?_of_disp hd he, hst, h40, hh, hrun]
  case saveStart =>
    intro ref s s1 d m hd hst hstop hm hrun hse hrest
    simp only [exec_preemptSaveStart, execPreemptSaveStart, hd]
    rw [if_pos (savesReady hst hstop (.inr hrun))]
    simp only [hm, hse, hrest]
    rfl
  case sealedSave =>
    intro ref s d m x hd hst hstop hm hrun hx hse
    simp only [exec_preemptSaveStart, execPreemptSaveStart, hd]
    rw [if_pos (savesReady hst hstop (.inr hrun))]
    simp only [hm, hx, Option.any_some, hse, if_true]
    rfl
  case kvSave =>
    intro ref s d hd hst hstop hm
    simp only [exec_preemptSaveStart, execPreemptSaveStart, hd]
    rw [if_pos (savesReady hst hstop (.inl hm))]
    simp only [hm]
  case saveDone =>
    intro ref s s1 d g m x hd hst hg hm hx hs
    simp only [exec_preemptSaveDone, execPreemptSaveDone, hd, hst, ne_eq, not_true_eq_false, if_false, hg, hm, Option.bind_some, hx, hs]

end Sys2Proof.Machine
end

section
/-!
SUPPORT. What the writing of event records and replies leaves as it is (R63 to R66, R78, R79, R375).
-/

namespace Sys2Proof.Machine

open Sys2Proof

/-! ## What stays beside a record -/

/-- What a context keeps while records of its rings are written. -/
def Ctx.standing (x : Ctx) : Nat × CtxState := (x.slice, x.state)

/-- What a queue keeps while records are written. -/
def Queue.standing (x : Queue) : Nat × QState × Status × Option Wait × Word := (x.ctx, x.state, x.halt, x.wait, x.tail)

/-- From `s` to `t` the standing of every context and queue, the slices' states, the fences and the notifications stay as they are. -/
structure Beside (s t : State) : Prop where
  ctx : ∀ c, (t.ctx? c).map Ctx.standing = (s.ctx? c).map Ctx.standing
  queue : ∀ q, (t.queue? q).map Queue.standing = (s.queue? q).map Queue.standing
  slice : ∀ l, (t.slice? l).map Slice.state = (s.slice? l).map Slice.state
  fences : t.objs.fences = s.objs.fences
  notes : t.objs.notes = s.objs.notes

theorem Beside.refl (s : State) : Beside s s := ⟨fun _ => rfl, fun _ => rfl, fun _ => rfl, rfl, rfl⟩

theorem Beside.trans {a b c : State} (h : Beside a b) (k : Beside b c) : Beside a c :=
  ⟨fun i => (k.ctx i).trans (h.ctx i), fun i => (k.queue i).trans (h.queue i), fun i => (k.slice i).trans (h.slice i), k.fences.trans h.fences,
    k.notes.trans h.notes⟩

/-- An update outside the objects and the slices. -/
theorem Beside.of_eq {s t : State} (ho : t.objs = s.objs) (hl : t.slices = s.slices) : Beside s t := by
  refine ⟨fun c => ?_, fun q => ?_, fun l => ?_, by rw [ho], by rw [ho]⟩
  · unfold State.ctx?; rw [ho]
  · unfold State.queue?; rw [ho]
  · unfold State.slice?; rw [hl]

/-- An entry of a table is changed within what `g` sees. -/
theorem map_tmod {α β : Type} {t : Tab α} {j i : Nat} {f : α → α} {g : α → β} (hf : ∀ x, g (f x) = g x) :
    (tget (tmod t j f) i).map g = (tget t i).map g := by
  rw [tget_tmod]
  split
  · rename_i hi
    rw [hi, Option.map_map]
    exact congrArg (Option.map · _) (funext hf)
  · rfl

theorem State.modCtx_beside {s : State} {c : Nat} {f : Ctx → Ctx} (hf : ∀ x, (f x).standing = x.standing) : Beside s (s.modCtx c f) :=
  ⟨fun _ => map_tmod hf, fun _ => rfl, fun _ => rfl, rfl, rfl⟩

theorem State.modQueue_beside {s : State} {q : Nat} {f : Queue → Queue} (hf : ∀ x, (f x).standing = x.standing) : Beside s (s.modQueue q f) :=
  ⟨fun _ => rfl, fun _ => map_tmod hf, fun _ => rfl, rfl, rfl⟩

theorem State.modSlice_beside {s : State} {l : Nat} {f : Slice → Slice} (hf : ∀ x, (f x).state = x.state) : Beside s (s.modSlice l f) :=
  ⟨fun _ => rfl, fun _ => rfl, fun _ => map_tmod hf, rfl, rfl⟩

theorem State.account_beside (s : State) (c : Nat) (f : Acct → Acct) : Beside s (s.account c f) := State.modCtx_beside fun _ => rfl

/-- A pair's state. -/
theorem Beside.of_fst {α : Type} {s t : State} {b : α} {p : State × α} (e : p = (t, b)) (h : Beside s p.1) : Beside s t := by rwa [e] at h

/-! ## Writes of host memory and of pool memory -/

theorem State.hostMiss_beside (s : State) (port pasid : Nat) (addr : Option Nat) (data : List Byte) (who : PriFor) :
    Beside s (s.hostMiss port pasid addr data who).1 := by
  unfold State.hostMiss
  extract_lets p d s1
  split
  · exact .refl s
  · split
    · cases addr <;> exact .of_eq rfl rfl
    · split <;> exact .of_eq rfl rfl

theorem State.hostPut_beside (s : State) (c l port pasid addr : Nat) (data : List Byte) : Beside s (s.hostPut c l port pasid addr data) := by
  obtain ⟨o, h⟩ := emits_eq (fun e : Nat × Nat => Out.host port pasid e.1 ((data.drop (e.1 - addr)).take e.2) (s.tee l)) (pieces 512 addr data.length) s
  unfold State.hostPut
  rw [h]
  exact (Beside.of_eq (by rfl) (by rfl)).trans ((State.modSlice_beside fun _ => by rfl).trans (State.account_beside ..))

theorem State.hostWrite_beside (s : State) (c addr : Nat) (data : List Byte) (who : PriFor) : Beside s (s.hostWrite c addr data who).1 := by
  unfold State.hostWrite
  extract_lets l
  split
  · exact .refl s
  · rename_i x _
    have hm := s.hostMiss_beside x.port x.pasid (some addr) data who
    split
    · rename_i s1 hs
      exact (hm.of_fst hs).trans (State.hostPut_beside ..)
    · exact hm

theorem State.sampleAccess_beside (s : State) (lpf k : Nat) (who : By) : Beside s (s.sampleAccess lpf k who) := by
  obtain ⟨a, b, h⟩ := sampleAccess_eq s lpf k who
  rw [h]
  exact .of_eq rfl rfl

theorem State.integFail_beside (s : State) (k i : Nat) : Beside s (s.integFail k i) := by
  unfold State.integFail
  split <;> exact .of_eq rfl rfl

theorem State.bindFrame_beside {s t : State} {c lpf page k : Nat} {x : Ctx} {f : Frame} {who : By} {pref : Option Nat}
    (h : s.bindFrame c x lpf page f who pref = some (t, k)) : Beside s t := by
  unfold State.bindFrame at h
  split at h
  · cases h
  · rw [← (Prod.mk.inj (Option.some.inj h)).1]
    refine Beside.trans (Beside.of_eq ?_ ?_) (State.account_beside ..)
    · rw [State.modFrame, State.onPool_objs, State.onPool_objs]
    · rw [State.modFrame, State.onPool_slices, State.onPool_slices]

theorem State.writePiece_beside (s : State) (c : Nat) (who : By) (pref : Option Nat) (l : Leaf) (cva : Nat) (d : List Byte) :
    Beside s (s.writePiece c who pref l cva d).1 := by
  unfold State.writePiece
  split
  case h_1 iova mask w =>
    split
    · have hw := s.hostWrite_beside c (iova + cva % 65536) d (.write c)
      split <;> (rename_i hs; exact hw.of_fst hs)
    · exact .refl s
  case h_2 lpf w =>
    split
    case h_2 => exact .refl s
    case h_1 f x hf hx =>
      split
      · exact .refl s
      · extract_lets i put
        have hput : ∀ s1 k, Beside s1 (put s1 k) := fun s1 k =>
          (Beside.of_eq (by rfl) (by rfl)).trans
            ((State.sampleAccess_beside ..).trans ((State.modSlice_beside fun _ => by rfl).trans (State.account_beside ..)))
        split
        · exact .refl s
        · split
          · rename_i s1 k hb
            exact (State.bindFrame_beside hb).trans (hput s1 k)
          · exact .of_eq rfl rfl
        · extract_lets k
          split
          · exact hput s k
          · exact (State.sampleAccess_beside ..).trans (State.integFail_beside ..)

theorem State.translate_beside (s : State) (who : By) (c page : Nat) : Beside s (s.translate who c page).1 := by
  obtain ⟨n, a, b, tlb, pm, r, h, -, -⟩ := translate_eq s who c page
  rw [h]
  exact .of_eq rfl rfl

theorem State.writeGo_beside (c : Nat) (who : By) (pref : Option Nat) (n : Nat) (s : State) (cva : Nat) (d : List Byte) :
    Beside s (State.writeGo c who pref n s cva d).1 := by
  induction n generalizing s cva d with
  | zero => exact .refl s
  | succ n ih =>
    have ht := s.translate_beside who c (cva / 65536)
    rw [State.writeGo]
    split
    · exact .refl s
    · extract_lets b
      split
      · rename_i he
        exact ht.of_fst he
      · rename_i s1 l he
        have hw := s1.writePiece_beside c who pref l cva b
        split
        · rename_i hp
          exact (ht.of_fst he).trans (hw.of_fst hp)
        · rename_i hp
          exact ((ht.of_fst he).trans (hw.of_fst hp)).trans (ih ..)

theorem State.writeRing_beside (s : State) (c : Nat) (r : Ring) (off : Nat) (d : List Byte) : Beside s (s.writeRing c r off d).1 := by
  unfold State.writeRing
  split
  · have hw := s.hostWrite_beside c (r.addr + off) d (.record c)
    split <;> (rename_i hs; exact hw.of_fst hs)
  · split
    · rename_i m _
      split
      · exact .refl s
      · have hw := State.writeGo_beside c .hub none (d.length / 256 + 2) s (m.base + r.addr + off) d
        split <;> (rename_i hs; exact hw.of_fst hs)
    · exact .refl s

/-! ## Messages on the links -/

/-- Only the links change, and outputs are added. -/
def LinksOnly (s t : State) : Prop := ∃ k o, t = { s with links := k, out := o ++ s.out }

theorem LinksOnly.refl (s : State) : LinksOnly s s := ⟨s.links, [], rfl⟩

theorem LinksOnly.trans {a b c : State} (h : LinksOnly a b) (h' : LinksOnly b c) : LinksOnly a c := by
  obtain ⟨k, o, rfl⟩ := h
  obtain ⟨k', o', rfl⟩ := h'
  exact ⟨k', o' ++ o, by simp⟩

theorem LinksOnly.beside {s t : State} (h : LinksOnly s t) : Beside s t := by
  obtain ⟨k, o, rfl⟩ := h
  exact .of_eq rfl rfl

theorem State.modLink_linksOnly (s : State) (l : Nat) (f : Link → Link) : LinksOnly s (s.modLink l f) := ⟨_, [], rfl⟩

theorem State.emit_linksOnly (s : State) (o : Out) : LinksOnly s (s.emit o) := ⟨s.links, [o], rfl⟩

theorem State.sendCtl_linksOnly (s : State) (l : Nat) (nak : Bool) (req arg : Nat) : LinksOnly s (s.sendCtl l nak req arg) := by
  unfold State.sendCtl
  split
  · exact .refl s
  · split
    · exact (State.modLink_linksOnly ..).trans (State.emit_linksOnly ..)
    · exact .refl s

theorem State.requestLink_linksOnly (s : State) (l kind arg : Nat) : LinksOnly s (s.requestLink l kind arg) := by
  unfold State.requestLink
  split
  · exact .refl s
  · split
    · exact (State.modLink_linksOnly ..).trans (State.sendCtl_linksOnly ..)
    · exact .refl s

theorem State.pumpLinkGo_linksOnly (l n : Nat) (s : State) : LinksOnly s (State.pumpLinkGo l n s) := by
  induction n generalizing s with
  | zero => exact .refl s
  | succ n ih =>
    rw [State.pumpLinkGo]
    split
    · exact .refl s
    · split
      · exact .refl s
      · rename_i x _ e _
        extract_lets r s1
        have h1 : LinksOnly s s1 := (State.modLink_linksOnly ..).trans (State.emit_linksOnly ..)
        refine LinksOnly.trans ?_ (ih _)
        split
        · exact h1.trans (State.emit_linksOnly ..)
        · exact h1

theorem State.rekeyDue_linksOnly (s : State) (l : Nat) : LinksOnly s (s.rekeyDue l) := by
  unfold State.rekeyDue
  split
  · exact State.requestLink_linksOnly ..
  · exact .refl s

theorem State.pumpLink_linksOnly (s : State) (l : Nat) : LinksOnly s (s.pumpLink l) := by
  unfold State.pumpLink
  split
  · exact (State.pumpLinkGo_linksOnly ..).trans (State.rekeyDue_linksOnly ..)
  · exact .refl s

theorem State.sendMsg_linksOnly (s : State) (flow : Nat) (m : Msg) (bulk : Bool) : LinksOnly s (s.sendMsg flow m bulk).1 := by
  unfold State.sendMsg
  split
  · simp only [State.egress]
    split
    · exact .refl s
    · split
      · exact (State.modLink_linksOnly ..).trans (State.pumpLink_linksOnly ..)
      · exact .refl s
  · exact .refl s

theorem State.notifyLinks_linksOnly (s : State) (l : Nat) (h : Handle) (prod : Word) : LinksOnly s (s.notifyLinks l h prod) := by
  unfold State.notifyLinks
  generalize s.links.binds.filter _ = bs
  induction bs generalizing s with
  | nil => exact .refl s
  | cons b bs ih => exact (State.sendMsg_linksOnly ..).trans (ih _)

/-! ## Events and replies -/

theorem State.raiseVec_beside (s : State) (l v : Nat) : Beside s (s.raiseVec l v) := by
  unfold State.raiseVec State.raisePort
  split
  · split <;> exact .of_eq rfl rfl
  · exact .refl s

theorem State.postRaw_beside (s : State) (c : Nat) (x : Ctx) (r : EvRec) : Beside s (s.postRaw c x r).1 := by
  unfold State.postRaw
  extract_lets m slot phase
  have hw := s.writeRing_beside c x.ring (32 * slot) (evBytes r phase)
  split
  · rename_i hs
    exact (hw.of_fst hs).trans (.of_eq rfl rfl)
  · rename_i hs
    exact hw.of_fst hs
  · rename_i s1 hs
    extract_lets s2
    have h2 : Beside s s2 := (hw.of_fst hs).trans ((Beside.of_eq (by rfl) (by rfl)).trans (State.modCtx_beside fun _ => by rfl))
    split
    · exact h2.trans ((State.raiseVec_beside ..).trans (State.notifyLinks_linksOnly ..).beside)
    · exact h2

theorem State.drainGo_beside (c n : Nat) (s : State) : Beside s (State.drainGo c n s) := by
  induction n generalizing s with
  | zero => exact .refl s
  | succ n ih =>
    rw [State.drainGo]
    split
    · exact .refl s
    · split
      · exact .refl s
      · rename_i x _ _ r l _
        split
        · exact .refl s
        · have hp := s.postRaw_beside c x r
          split
          · rename_i hs
            exact (hp.of_fst hs).trans ((State.modCtx_beside fun _ => by rfl).trans (ih _))
          · rename_i hs
            exact hp.of_fst hs

theorem State.drain_beside (s : State) (c : Nat) : Beside s (s.drain c) := by
  unfold State.drain
  split
  · exact State.drainGo_beside ..
  · exact .refl s

theorem State.postEvent_beside (s : State) (c : Nat) (r : EvRec) : Beside s (s.postEvent c r) := by
  unfold State.postEvent
  split
  · exact .refl s
  · split
    · exact .refl s
    · split
      · exact State.modCtx_beside fun _ => rfl
      · exact (State.modCtx_beside fun _ => by rfl).trans (State.drain_beside ..)

theorem State.reply_beside (s : State) (q : Nat) (n tag : Word) (op : Nat) (st : Status) (flags : Nat) (res : List Nat) :
    Beside s (s.reply q n tag op st flags res) := by
  unfold State.reply
  split
  · exact .refl s
  · rename_i x _
    extract_lets hold slot
    have hh : ∀ a, Beside a (hold a) := fun a => State.modQueue_beside fun _ => rfl
    split
    · exact hh s
    · have hw := s.writeRing_beside x.ctx x.rring (32 * slot) (replyBytes tag st op flags (n.toNat.testBit x.ring.log2) res)
      split <;> (rename_i hs)
      · exact (hw.of_fst hs).trans (.of_eq rfl rfl)
      · exact (hw.of_fst hs).trans (hh _)
      · exact (hw.of_fst hs).trans (.of_eq rfl rfl)

end Sys2Proof.Machine
end

section
/-!
SUPPORT. The doorbells (R47, R66), and when a queue issues nothing (R84, R86).
-/

namespace Sys2Proof.Machine

open Sys2Proof

/-! ## Queues that are halted -/

/-- A queue whose wait ends: where it was not being destroyed it takes the state and the status given, and its TAIL stays. -/
theorem State.endWait_standing {s : State} {q : Nat} {x : Queue} {w : Wait} {st : Status} {nxt : QState} {halt : Status} (hx : s.queue? q = some x)
    (hd : x.state ≠ .destroying) :
    ((s.endWait q x w st nxt halt).queue? q).map Queue.standing = some (x.ctx, nxt, halt, none, x.tail) := by
  have hq : ∀ (t : State) (f : Nat), (t.decFence f).queue? q = t.queue? q := fun t f => by
    unfold State.decFence
    split
    · rfl
    · split <;> rfl
  unfold State.endWait
  rw [hq, (State.reply_beside ..).queue, State.queue?_modQueue, if_pos rfl, hx]
  simp [Queue.standing, hd]

/-- A queue that is halted and was not being destroyed is HALTED with the status given, waits no more, and keeps its TAIL. -/
theorem State.haltQueue_standing {s : State} {q : Nat} {x : Queue} {st : Status} (hx : s.queue? q = some x) (hd : x.state ≠ .destroying) :
    ((s.haltQueue q st).queue? q).map Queue.standing = some (x.ctx, .halted, st, none, x.tail) := by
  unfold State.haltQueue
  simp only [hx, hd, if_false]
  split
  · exact State.endWait_standing hx hd
  · rename_i hw
    rw [State.queue?_modQueue, if_pos rfl, hx]
    simp [Queue.standing, hw]

/-! ## The tail doorbell -/

/-- The values that a queue takes no notice of. -/
theorem State.doorbell_ignored {s : State} {k : Nat} {v : Word} {x : Queue} (hx : s.queue? k = some x)
    (h : x.state = .destroying ∨ ¬((v - x.tail).toNat ≠ 0 ∧ (v - x.tail).toNat < 2 ^ 31)) : s.doorbell k v = s := by
  have hno : x.state = .destroying ∨ (v - x.tail).toNat = 0 ∨ 2 ^ 31 ≤ (v - x.tail).toNat := h.imp_right fun h => by omega
  simp only [State.doorbell, hx]
  rw [if_pos hno]

/-- The values that lie ahead of TAIL. -/
theorem State.doorbell_ahead {s : State} {k : Nat} {v : Word} {x : Queue} (hx : s.queue? k = some x) (hd : x.state ≠ .destroying)
    (ha : (v - x.tail).toNat ≠ 0 ∧ (v - x.tail).toNat < 2 ^ 31) :
    s.doorbell k v = if 2 ^ x.ring.log2 < (v - x.head).toNat then
        (if x.state = .halted then s else (s.haltQueue k .badParam).postEvent x.ctx (mkEv 7 .badParam (s.queueHandle k) 0 0 0))
      else s.modQueue k fun y => { y with tail := v } := by
  have hyes : ¬(x.state = .destroying ∨ (v - x.tail).toNat = 0 ∨ 2 ^ 31 ≤ (v - x.tail).toNat) := by
    rintro (h | h | h)
    · exact hd h
    · exact ha.1 h
    · omega
  simp only [State.doorbell, hx]
  rw [if_neg hyes]
  cases x.state <;> rfl

/-! ## Packets that do not issue -/

/-- A packet of a queue that has no turn, and of which none waits for the firmware, changes nothing. -/
theorem State.packet_noTurn {s : State} {cmd : Instr} {i : OpInfo} {h : Hdr} {op : State → Nat → Word → State × Ans}
    (hf : ∀ e ∈ s.objs.fwQ, e.queue ≠ h.q) (hx : ∀ x, s.queue? h.q = some x → s.turn h.q x = false) : s.packet cmd i h op = .next s := by
  have hline : s.fwHead.filter (fun e => s.pwr.ccUp && e.queue == h.q && e.code == i.code && e.hdr == h) = none := by
    rw [Option.filter_eq_none_iff]
    intro e he
    simp [hf e (List.mem_of_find?_eq_some he)]
  have htake : s.take i h = .idle s := by
    unfold State.take
    split
    · rfl
    · rename_i x hq
      simp [hline, State.canIssue, State.lookAt, hx x hq]
  unfold State.packet
  rw [htake]

/-- A queue that is not RUNNING has no turn. -/
theorem State.turn_notRunning {s : State} {q : Nat} {x : Queue} (h : x.state ≠ .running) : s.turn q x = false := by
  simp [State.turn, State.ready, State.fetchable, h]

/-- A queue has no turn while one that goes ahead of it is ready (R86). -/
theorem State.turn_behind {s : State} {q k : Nat} {x y : Queue} (hy : (k, y) ∈ s.objs.queues) (hr : s.ready k y = true)
    (h : y.cls = 1 ∧ x.cls ≠ 1 ∨ y.cls = x.cls ∧ s.roundPos x.cls k < s.roundPos x.cls q) : s.turn q x = false := by
  have hany : s.objs.queues.any (fun e =>
      ((e.2.cls == 1 && x.cls != 1) || (e.2.cls == x.cls && decide (s.roundPos x.cls e.1 < s.roundPos x.cls q))) && s.ready e.1 e.2) = true :=
    List.any_eq_true.mpr ⟨(k, y), hy, by simpa [hr] using h⟩
  unfold State.turn
  rw [hany]
  exact Bool.and_false _

/-- Settles O19: the page is the slice's own, so the write is `State.doorbell`; and a queue without a turn issues nothing. -/
theorem tailDoorbell : Obligations.TailDoorbell := by
  unfold Obligations.TailDoorbell
  refine ⟨?doorbell, ?notRunning, ?behind⟩
  case doorbell =>
    intro port ps tee k v s l x hport hps hx hl hsl hr ht w ahead ahead31
    have hw : w = .next (s.doorbell k v).finish := by
      simp only [w, exec_qeDbTailWrite, execQeDbTailWrite, hx, Option.map_some, hsl]
      exact onPage_owner hport hps hl hr ht
    rw [hw]
    refine ⟨fun hd => ?_, fun ha => ?_, fun hh ha hfull => ?_, fun hst ha hfull => ?_, fun hd ha hfit => ?_⟩
    · rw [State.doorbell_ignored hx (.inl hd)]
    · rw [State.doorbell_ignored hx (.inr ha)]
    · rw [State.doorbell_ahead hx (by simp [hh]) ha, if_pos hfull, if_pos hh]
    · have hd : x.state ≠ .destroying := by rcases hst with h | h | h <;> simp [h]
      have hh : x.state ≠ .halted := by rcases hst with h | h | h <;> simp [h]
      rw [State.doorbell_ahead hx hd ha, if_pos hfull, if_neg hh]
      refine ⟨rfl, ?_⟩
      have hst := State.haltQueue_standing (st := .badParam) hx hd
      cases hq : (s.haltQueue k .badParam).queue? k with
      | none => simp [hq] at hst
      | some y =>
        simp only [hq, Option.map_some, Queue.standing, Option.some.injEq, Prod.mk.injEq] at hst ⊢
        obtain ⟨-, hs, hh, -, htl⟩ := hst
        exact ⟨hs, hh, htl⟩
    · rw [State.doorbell_ahead hx hd ha, if_neg (Nat.not_lt.mpr hfit)]
  case notRunning => exact fun cmd i h op s hf hx => State.packet_noTurn hf fun x hq => State.turn_notRunning (hx x hq)
  case behind =>
    intro cmd i h op s x y k hx hf hy hr hahead
    refine State.packet_noTurn hf fun x' hq => ?_
    obtain rfl : x = x' := Option.some.inj (hx.symm.trans hq)
    exact State.turn_behind hy hr hahead

/-! ## The consumer count -/

/-- A consumer count that passes the producer count is ignored. -/
theorem State.evtCons_past {s : State} {c : Nat} {v : Word} {x : Ctx} (hx : s.ctx? c = some x) (h : (x.prod - x.cons).toNat < (x.prod - v).toNat) :
    s.evtCons c v = s := by
  simp only [State.evtCons, hx, h, if_true]

/-- A consumer count that does not pass the producer count is taken. -/
theorem State.evtCons_taken {s : State} {c : Nat} {v : Word} {x : Ctx} (hx : s.ctx? c = some x) (h : (x.prod - v).toNat ≤ (x.prod - x.cons).toNat) :
    let t := s.modCtx c fun y => { y with cons := v, armed := true }
    s.evtCons c v = (if v = x.prod then t
      else ((t.modCtx c fun y => { y with armed := false }).raiseVec x.slice x.vector).notifyLinks x.slice (s.ctxHandle c) x.prod).drain c := by
  intro t
  simp only [State.evtCons, hx, Nat.not_lt.mpr h, if_false]
  split <;> rfl

/-- Settles O20: the page is the slice's own, so the write is `State.evtCons`. -/
theorem consumerDoorbell : Obligations.ConsumerDoorbell := by
  unfold Obligations.ConsumerDoorbell
  intro port ps tee c v s l x hport hps hx hl hsl hr ht t
  have hw : exec (.qeDbEvtConsWrite (.host port ps tee) c v) s = .next (s.evtCons c v).finish := by
    simp only [exec_qeDbEvtConsWrite, execQeDbEvtConsWrite, hx, Option.map_some, hsl]
    exact onPage_owner hport hps hl hr ht
  rw [hw]
  refine ⟨fun hv => ?_, fun hv hle => ?_, fun hlt => by rw [State.evtCons_past hx hlt]⟩
  · rw [State.evtCons_taken hx (by simp [hv]), if_pos hv]
  · rw [State.evtCons_taken hx hle, if_neg hv]

end Sys2Proof.Machine
end

section
/-!
SUPPORT. An event's record in a ring in host memory, and its interrupt (R64, R66, R399).
-/

namespace Sys2Proof.Machine

open Sys2Proof

/-! ## An event record in host memory -/

/-- Little-endian bytes are as many as asked for. -/
theorem length_leBytes (n v : Nat) : (leBytes n v).length = n := by
  induction n generalizing v with
  | zero => rfl
  | succ n ih => simp [leBytes, ih]

/-- An event record takes 32 bytes (R63). -/
theorem evBytes_length (r : EvRec) (phase : Bool) : (evBytes r phase).length = 32 := by simp [evBytes, length_leBytes]

/-- A table entry that meets `p` as before leaves what the table holds of such entries. -/
theorem any_tset {α : Type} {t : Tab α} {j : Nat} {v w : α} {p : Nat × α → Bool} (h : tget t j = some v) (hp : p (j, w) = p (j, v)) :
    (tset t j w).any p = t.any p := by
  have hv : p (j, v) = true → t.any p = true := fun hj => List.any_eq_true.mpr ⟨_, tget_mem h, hj⟩
  induction t with
  | nil => cases h
  | cons e t ih =>
    obtain ⟨k, u⟩ := e
    simp only [tset]
    split
    · rw [List.any_cons, hp]
      cases hj : p (j, v) with
      | false => rfl
      | true => rw [hv hj]; rfl
    · split
      · rename_i hk
        subst hk
        obtain rfl : u = v := by simpa [tget] using h
        simp [hp]
      · rename_i hk
        have ht : tget t j = some v := by simpa [tget, hk] using h
        rw [List.any_cons, List.any_cons, ih ht fun hj => List.any_eq_true.mpr ⟨_, tget_mem ht, hj⟩]

/-- The vectors that are locked depend on the slices' bindings and interfaces, and a write to host memory leaves those as they are. -/
theorem State.lockedVec_hostPut (s : State) (c l port pasid addr : Nat) (d : List Byte) (p v : Nat) :
    ((s.hostPut c l port pasid addr d).lockedVec p v).isSome = (s.lockedVec p v).isSome := by
  obtain ⟨o, h⟩ := emits_eq (fun e : Nat × Nat => Out.host port pasid e.1 ((d.drop (e.1 - addr)).take e.2) (s.tee l)) (pieces 512 addr d.length) s
  unfold State.hostPut
  rw [h]
  simp only [State.lockedVec, Option.isSome_map, List.isSome_find?, State.account, State.modCtx, State.onObjs_slices, State.dirtyHost, State.modSlice,
    State.onSlices_slices, tmod]
  split
  · rename_i x hx
    exact any_tset hx rfl
  · rfl

/-- A write of at most 512 bytes goes out as one request (R393). -/
theorem State.hostPut_out {s : State} {c l port pasid addr : Nat} {d : List Byte} (h0 : d ≠ []) (h : d.length ≤ 512) :
    (s.hostPut c l port pasid addr d).out = .host port pasid addr d (s.tee l) :: s.out := by
  have hlen : 0 < d.length := List.length_pos_iff.mpr h0
  have hn : (d.length + 511) / 512 = 1 := by omega
  have hp : pieces 512 addr d.length = [(addr, d.length)] := by simp [pieces, hn, h]
  simp [State.hostPut, hp, State.account, State.modCtx, State.dirtyHost, State.modSlice, State.emit]

/-- A write to host memory leaves the ports as they are. -/
theorem State.hostPut_ports (s : State) (c l port pasid addr : Nat) (d : List Byte) : (s.hostPut c l port pasid addr d).ports = s.ports := by
  obtain ⟨o, h⟩ := emits_eq (fun e : Nat × Nat => Out.host port pasid e.1 ((d.drop (e.1 - addr)).take e.2) (s.tee l)) (pieces 512 addr d.length) s
  unfold State.hostPut
  rw [h]
  rfl

/-- A write to host memory changes its context's accounting alone. -/
theorem State.hostPut_ctx (s : State) (c l port pasid addr : Nat) (d : List Byte) : (s.hostPut c l port pasid addr d).ctx? c =
    (s.ctx? c).map fun x => { x with acct := { x.acct with host := x.acct.host + BitVec.ofNat 64 d.length } } := by
  obtain ⟨o, h⟩ := emits_eq (fun e : Nat × Nat => Out.host port pasid e.1 ((d.drop (e.1 - addr)).take e.2) (s.tee l)) (pieces 512 addr d.length) s
  unfold State.hostPut
  rw [h, State.account, State.ctx?_modCtx, if_pos rfl]
  rfl

/-- A write to host memory changes the slices' dirty records alone. -/
theorem State.hostPut_slice (s : State) (c l port pasid addr : Nat) (d : List Byte) (k : Nat) :
    ((s.hostPut c l port pasid addr d).slice? k).map (fun x => (x.port, x.vecBase)) = (s.slice? k).map fun x => (x.port, x.vecBase) := by
  obtain ⟨o, h⟩ := emits_eq (fun e : Nat × Nat => Out.host port pasid e.1 ((d.drop (e.1 - addr)).take e.2) (s.tee l)) (pieces 512 addr d.length) s
  unfold State.hostPut
  rw [h]
  exact map_tmod fun _ => rfl

section
variable {s : State} {c : Nat} {r : EvRec} {x : Ctx} {l : Slice}

/-- The state in which the record stands in the ring of context `x` in slot `c` and PROD has advanced, before any interrupt (R64). -/
def State.recorded (s : State) (c : Nat) (x : Ctx) (l : Slice) (r : EvRec) : State :=
  let slot := x.prod.toNat % 2 ^ x.ring.log2
  let phase := x.prod.toNat.testBit x.ring.log2
  (((s.modCtx c fun y => { y with held := y.held ++ [r] }).hostPut c x.slice l.port l.pasid (x.ring.addr + 32 * slot) (evBytes r phase)).emit
    (.event c slot phase r)).modCtx c fun y => { y with prod := y.prod + 1, armed := false }

/-- The record, then its event, are what goes out. -/
theorem State.recorded_out (s : State) (c : Nat) (x : Ctx) (l : Slice) (r : EvRec) :
    let slot := x.prod.toNat % 2 ^ x.ring.log2
    let phase := x.prod.toNat.testBit x.ring.log2
    (s.recorded c x l r).out =
      .event c slot phase r :: .host l.port l.pasid (x.ring.addr + 32 * slot) (evBytes r phase) (s.tee x.slice) :: s.out := by
  intro slot phase
  have h0 : evBytes r phase ≠ [] := List.ne_nil_of_length_pos (by simp [evBytes_length])
  have hput := State.hostPut_out (s := s.modCtx c fun y => { y with held := y.held ++ [r] }) (c := c) (l := x.slice) (port := l.port) (pasid := l.pasid)
    (addr := x.ring.addr + 32 * slot) h0 (by simp [evBytes_length])
  simp only [State.recorded, State.modCtx, State.onObjs_out, State.emit_out] at hput ⊢
  rw [hput]
  rfl

theorem State.recorded_ports (s : State) (c : Nat) (x : Ctx) (l : Slice) (r : EvRec) : (s.recorded c x l r).ports = s.ports := State.hostPut_ports _ c ..

theorem State.recorded_lockedVec (s : State) (c : Nat) (x : Ctx) (l : Slice) (r : EvRec) (p v : Nat) :
    ((s.recorded c x l r).lockedVec p v).isSome = (s.lockedVec p v).isSome := State.lockedVec_hostPut _ c ..

theorem State.recorded_slice (hl : s.slice? x.slice = some l) :
    ((s.recorded c x l r).slice? x.slice).map (fun y => (y.port, y.vecBase)) = some (l.port, l.vecBase) :=
  (State.hostPut_slice _ c ..).trans (congrArg (Option.map _) hl)

theorem State.recorded_ctx (hx : s.ctx? c = some x) :
    ((s.recorded c x l r).ctx? c).map (fun y => (y.prod, y.armed, y.state)) = some (x.prod + 1, false, x.state) := by
  simp only [State.recorded, State.ctx?_modCtx, if_true]
  rw [show ∀ (t : State) (o : Out), (t.emit o).ctx? c = t.ctx? c from fun _ _ => rfl, State.hostPut_ctx, State.ctx?_modCtx, if_pos rfl, hx]
  rfl

/-- An event whose ring in host memory has room is recorded, and raises the vector where the interrupt is armed. -/
theorem State.postEvent_room (hx : s.ctx? c = some x) (hst : x.state ≠ .destroying) (hh : x.held = [])
    (hroom : (x.prod - x.cons).toNat ≠ 2 ^ x.ring.log2) (hobj : x.ring.obj = 0) (hl : s.slice? x.slice = some l) (hats : (s.port l.port).atsOn = false)
    (hdma : s.dmaOk x.slice = true) (hpri : s.ports.any (fun p => p.2.pri.any (fun r => r.who == .record c)) = false)
    (hbad : s.ringBad.any (fun e => e.1 == c) = false) :
    let u := s.recorded c x l r
    s.postEvent c r = (if x.armed then (u.raiseVec x.slice x.vector).notifyLinks x.slice (s.ctxHandle c) (x.prod + 1) else u).modCtx c
      fun y => { y with held := [] } := by
  intro u
  let s1 := s.modCtx c fun y => { y with held := y.held ++ [r] }
  let x1 : Ctx := { x with held := [r] }
  have hx1 : s1.ctx? c = some x1 := by simp [s1, x1, hx, hh]
  have hraw : s1.postRaw c x1 r = (if x.armed then (u.raiseVec x.slice x.vector).notifyLinks x.slice (s.ctxHandle c) (x.prod + 1) else u, true) := by
    have hsl : s1.sliceOf c = x.slice := by simp [State.sliceOf, hx1, x1]
    have hl1 : s1.slice? x.slice = some l := hl
    have hats1 : (s1.port l.port).atsOn = false := hats
    have hhd : s1.ctxHandle c = s.ctxHandle c := by simp [State.ctxHandle, hx1, x1, hx]
    have hmiss : ∀ a d w, s1.hostMiss l.port l.pasid (some a) d w = (s1, .hit) := fun a d w => by simp [State.hostMiss, hats1]
    simp only [State.postRaw, State.writeRing, State.hostWrite, x1, hobj, if_true, hsl, hl1, hmiss, hhd]
    rfl
  have hnone : ¬((x1.prod - x1.cons).toNat = 2 ^ x1.ring.log2 ∨ s1.dmaOk x1.slice = false ∨ x1.state = .destroying ∨ s1.recordWaits c = true ∨
      s1.ringBad.any (fun e => e.1 == c) = true) := by
    rintro (h | h | h | h | h)
    · exact hroom h
    · exact Bool.false_ne_true (h.symm.trans hdma)
    · exact hst h
    · exact Bool.false_ne_true (hpri.symm.trans h)
    · exact Bool.false_ne_true (hbad.symm.trans h)
  have hgo : State.drainGo c 1 s1 = (s1.postRaw c x1 r).1.modCtx c fun y => { y with held := [] } := by
    rw [State.drainGo, hx1]
    simp only [x1, hraw]
    rw [if_neg hnone]
    rfl
  have hpost : s.postEvent c r = s1.drain c := by simp [State.postEvent, hx, hst, hh, s1]
  rw [hpost, State.drain, hx1]
  exact hgo.trans (by rw [hraw])

end

/-- An unmasked vector is sent. -/
theorem State.raiseVec_sent {s : State} {k v : Nat} {y : Slice} (hy : s.slice? k = some y) (hu : (s.port y.port).unmask.contains (y.vecBase + v) = true)
    (hf : (s.port y.port).fmask = false) : s.raiseVec k v = s.sendVec y.port (y.vecBase + v) := by
  simp only [State.raiseVec, hy, State.raisePort, hu, hf]
  rfl

/-- A masked vector becomes pending. -/
theorem State.raiseVec_pending {s : State} {k v : Nat} {y : Slice} (hy : s.slice? k = some y)
    (h : (s.port y.port).unmask.contains (y.vecBase + v) = false ∨ (s.port y.port).fmask = true) :
    ((s.raiseVec k v).port y.port).msixPnd.contains (y.vecBase + v) = true := by
  have hno : ((s.port y.port).unmask.contains (y.vecBase + v) && !(s.port y.port).fmask) = false := by
    rcases h with h | h <;> rw [h] <;> simp
  simp only [State.raiseVec, hy, State.raisePort, hno]
  simp

/-- Raising a vector changes no object. -/
theorem State.raiseVec_objs (s : State) (k v : Nat) : (s.raiseVec k v).objs = s.objs := by
  unfold State.raiseVec State.raisePort
  split
  · split <;> rfl
  · rfl

/-- Settles O52: `State.postEvent_room` says what the event does, and the interrupt changes neither the context nor what the ring's write sent. -/
theorem eventRecord : Obligations.EventRecord := by
  unfold Obligations.EventRecord
  intro s c r x l hx hst hh hroom hobj hl hats hdma hpri hbad slot phase t
  have ht : t = _ := State.postEvent_room hx hst hh hroom hobj hl hats hdma hpri hbad
  have hout := State.recorded_out s c x l r
  have hports := State.recorded_ports s c x l r
  have hctx := State.recorded_ctx (l := l) (r := r) hx
  have hslice := State.recorded_slice (c := c) (r := r) hl
  have hlock := State.recorded_lockedVec s c x l r
  generalize s.recorded c x l r = u at *
  have hport : ∀ p, u.port p = s.port p := fun p => by rw [State.port, hports]; rfl
  obtain ⟨y, hy, hyp⟩ := Option.map_eq_some_iff.mp hslice
  obtain ⟨hyport, hybase⟩ := Prod.mk.inj hyp
  obtain ⟨k, o, hk⟩ := (u.raiseVec x.slice x.vector).notifyLinks_linksOnly x.slice (s.ctxHandle c) (x.prod + 1)
  rw [hk] at ht
  refine ⟨?_, fun ha => ?_, fun ha hu hf => ?_, fun ha hm => ?_⟩
  · obtain ⟨z, hz, hzv⟩ := Option.map_eq_some_iff.mp hctx
    obtain ⟨hprod, harmed, hstate⟩ : z.prod = x.prod + 1 ∧ z.armed = false ∧ z.state = x.state := by simpa using hzv
    have hkept : ∀ k o, ({ u.raiseVec x.slice x.vector with links := k, out := o } : State).ctx? c = some z := fun k o => by
      rw [← hz, State.ctx?, State.ctx?, State.raiseVec_objs]
    rw [ht, State.ctx?_modCtx, if_pos rfl]
    split
    · rw [hkept]
      simp [hprod, harmed, hstate]
    · rw [hz]
      simp [hprod, harmed, hstate]
  · rw [ht, ha]
    exact hout
  · have hsent := State.raiseVec_sent (v := x.vector) hy (by rwa [hport, hyport, hybase]) (by rwa [hport, hyport])
    rw [ht, ha, if_pos rfl, hsent, ← hout, ← hlock, ← hyport, ← hybase]
    exact List.suffix_append _ _
  · rw [ht, ha, if_pos rfl, ← hyport, ← hybase]
    exact State.raiseVec_pending hy (by rwa [hport, hyport, hybase])

end Sys2Proof.Machine
end

section
/-!
SUPPORT. A signal against a fence (R57): the release of its waiters and notifications, and its fault (R59 to R61).
-/

namespace Sys2Proof.Machine

open Sys2Proof

/-! ## What the release of waiters leaves as it is -/

/-- From `s` to `t` contexts, slices and notifications stay, a queue's wait stays or ends, and a fence stays, but for its reference count, or goes. -/
structure Released (s t : State) : Prop where
  ctx : ∀ c, (t.ctx? c).map Ctx.standing = (s.ctx? c).map Ctx.standing
  slice : ∀ l, (t.slice? l).map Slice.state = (s.slice? l).map Slice.state
  queue : ∀ q z', t.queue? q = some z' → ∃ z, s.queue? q = some z ∧ z'.ctx = z.ctx ∧ (z'.wait = z.wait ∨ z'.wait = none)
  fence : ∀ k y', t.fence? k = some y' → ∃ y n, s.fence? k = some y ∧ y' = { y with refs := n }
  notes : t.objs.notes = s.objs.notes

theorem Released.refl (s : State) : Released s s :=
  ⟨fun _ => rfl, fun _ => rfl, fun _ z h => ⟨z, h, rfl, .inl rfl⟩, fun _ y h => ⟨y, y.refs, h, rfl⟩, rfl⟩

theorem Released.trans {a b c : State} (h : Released a b) (k : Released b c) : Released a c := by
  refine ⟨fun i => (k.ctx i).trans (h.ctx i), fun i => (k.slice i).trans (h.slice i), fun q z hz => ?_, fun i y hy => ?_, k.notes.trans h.notes⟩
  · obtain ⟨z1, hz1, hc1, hw1⟩ := k.queue q z hz
    obtain ⟨z2, hz2, hc2, hw2⟩ := h.queue q z1 hz1
    refine ⟨z2, hz2, hc1.trans hc2, ?_⟩
    rcases hw1 with hw1 | hw1
    · exact hw2.imp hw1.trans hw1.trans
    · exact .inr hw1
  · obtain ⟨y1, n1, hy1, rfl⟩ := k.fence i y hy
    obtain ⟨y2, n2, hy2, rfl⟩ := h.fence i y1 hy1
    exact ⟨y2, n1, hy2, rfl⟩

/-- The writing of records releases nothing. -/
theorem Beside.released {s t : State} (h : Beside s t) : Released s t := by
  refine ⟨h.ctx, h.slice, fun q z' hz' => ?_, fun k y hy => ⟨y, y.refs, ?_, rfl⟩, h.notes⟩
  · have hq := h.queue q
    rw [hz', Option.map_some, eq_comm, Option.map_eq_some_iff] at hq
    obtain ⟨z, hz, hst⟩ := hq
    simp only [Queue.standing, Prod.mk.injEq] at hst
    obtain ⟨hc, -, -, hw, -⟩ := hst
    exact ⟨z, hz, hc.symm, .inl hw.symm⟩
  · rw [← hy, State.fence?, State.fence?, h.fences]

theorem Released.foldl {α : Type} {f : State → α → State} {l : List α} {s : State} (hf : ∀ a x, Released a (f a x)) : Released s (l.foldl f s) := by
  induction l generalizing s with
  | nil => exact .refl s
  | cons x l ih => exact (hf s x).trans ih

theorem State.decFence_released (s : State) (k : Nat) : Released s (s.decFence k) := by
  unfold State.decFence
  split
  · exact .refl s
  · rename_i x hx
    split
    · refine ⟨fun _ => rfl, fun _ => rfl, fun _ z h => ⟨z, h, rfl, .inl rfl⟩, fun i y hy => ⟨y, y.refs, ?_, rfl⟩, rfl⟩
      simp only [State.fence?, State.onObjs_objs, tget_tdel] at hy
      split at hy
      · cases hy
      · exact hy
    · refine ⟨fun _ => rfl, fun _ => rfl, fun _ z h => ⟨z, h, rfl, .inl rfl⟩, fun i y hy => ?_, rfl⟩
      rw [State.fence?_modFence] at hy
      split at hy
      · rename_i hi
        obtain ⟨z, hz, rfl⟩ := Option.map_eq_some_iff.mp hy
        exact ⟨z, _, by rw [hi, hz], rfl⟩
      · exact ⟨y, y.refs, hy, rfl⟩

/-- The end of a wait. -/
theorem State.endWait_released (s : State) (q : Nat) (x : Queue) (w : Wait) (st : Status) (nxt : QState) (halt : Status) :
    Released s (s.endWait q x w st nxt halt) := by
  unfold State.endWait
  refine Released.trans ?_ ((State.reply_beside ..).released.trans (State.decFence_released ..))
  refine ⟨fun _ => rfl, fun _ => rfl, fun r z hz => ?_, fun _ y h => ⟨y, y.refs, h, rfl⟩, rfl⟩
  rw [State.queue?_modQueue] at hz
  split at hz
  · rename_i hr
    obtain ⟨y, hy, rfl⟩ := Option.map_eq_some_iff.mp hz
    exact ⟨y, by rw [hr, hy], rfl, .inr rfl⟩
  · exact ⟨z, hz, rfl, .inl rfl⟩

/-- A queue whose wait has ended waits no more. -/
theorem State.endWait_waits {s : State} {q : Nat} {x z : Queue} {w : Wait} {st : Status} {nxt : QState} {halt : Status}
    (h : (s.endWait q x w st nxt halt).queue? q = some z) : z.wait = none := by
  unfold State.endWait at h
  obtain ⟨y, hy, -, hw⟩ := ((State.reply_beside ..).released.trans (State.decFence_released ..)).queue q z h
  rw [State.queue?_modQueue, if_pos rfl] at hy
  obtain ⟨v, -, rfl⟩ := Option.map_eq_some_iff.mp hy
  simpa using hw

theorem State.wake_released (s : State) (q : Nat) : Released s (s.wake q) := by
  unfold State.wake
  split
  · exact .refl s
  · split
    · exact .refl s
    · split
      · exact (State.endWait_released ..).trans (State.postEvent_beside ..).released
      · split
        · exact State.endWait_released ..
        · exact .refl s

/-- A queue of a slice that goes on, looked at while its fence is FAULTED or its target reached, waits no more. -/
theorem State.wake_waits {s : State} {q : Nat} {x z : Queue} {w : Wait} {f : Fence} (hx : s.queue? q = some x) (hw : x.wait = some w)
    (hf : s.fence? w.fence = some f) (hgo : s.frozenSlice (s.sliceOf x.ctx) = false) (h : f.faulted = true ∨ w.target ≤ f.value)
    (hz : (s.wake q).queue? q = some z) : z.wait = none := by
  have hlook : ((s.queue? q).bind fun x => x.wait.bind fun w => (s.fence? w.fence).map fun f => (x, w, f)) = some (x, w, f) := by
    simp [hx, hw, hf]
  unfold State.wake at hz
  simp only [hlook, hgo] at hz
  by_cases hfl : f.faulted = true
  · simp only [hfl, if_true] at hz
    obtain ⟨y, hy, -, hyw⟩ := (State.postEvent_beside ..).released.queue q z hz
    have hnone := State.endWait_waits hy
    rwa [hnone, or_self] at hyw
  · simp only [hfl, h.resolve_left hfl, if_true] at hz
    exact State.endWait_waits hz

theorem Released.sliceOf {s t : State} (h : Released s t) (c : Nat) : t.sliceOf c = s.sliceOf c := by
  have hof : ∀ u : State, u.sliceOf c = ((u.ctx? c).map Ctx.standing).elim 0 (·.1) := fun u => by
    unfold State.sliceOf
    cases u.ctx? c <;> rfl
  rw [hof, hof, h.ctx]

theorem Released.frozenSlice {s t : State} (h : Released s t) (l : Nat) : t.frozenSlice l = s.frozenSlice l := by
  have hof : ∀ u : State, u.frozenSlice l = ((u.slice? l).map Slice.state).any (fun st => st == .quiescing || st == .quiesced) := fun u => by
    unfold State.frozenSlice
    cases u.slice? l <;> rfl
  rw [hof, hof, h.slice]

/-- A wait that is still there was there before, with its queue's context. -/
theorem Released.wait {s t : State} {q : Nat} {z : Queue} {w : Wait} (h : Released s t) (hz : t.queue? q = some z) (hw : z.wait = some w) :
    ∃ x, s.queue? q = some x ∧ x.wait = some w ∧ x.ctx = z.ctx := by
  obtain ⟨x, hx, hc, hwx⟩ := h.queue q z hz
  refine ⟨x, hx, ?_, hc.symm⟩
  rcases hwx with hwx | hwx
  · rw [← hwx, hw]
  · rw [hwx] at hw
    cases hw

/-- Queue `q` has been looked at on the way from `s` to `t`: a wait of it on fence `f` that is still there had no reason to end. -/
theorem wakes_wait {f q : Nat} {l : List Nat} {s : State} (hq : q ∈ l) {z : Queue} {w : Wait} {y' : Fence}
    (hz : (l.foldl State.wake s).queue? q = some z) (hw : z.wait = some w) (hf : w.fence = f) (hy : (l.foldl State.wake s).fence? f = some y')
    (hgo : s.frozenSlice (s.sliceOf z.ctx) = false) : ∃ y, s.fence? f = some y ∧ y.faulted = false ∧ y.value < w.target := by
  induction l generalizing s with
  | nil => cases hq
  | cons k l ih =>
    have hstep : Released s (s.wake k) := State.wake_released s k
    have hrest : Released (s.wake k) (l.foldl State.wake (s.wake k)) := .foldl State.wake_released
    obtain ⟨y, n, hys, rfl⟩ := (hstep.trans hrest).fence f y' hy
    rcases List.mem_cons.mp hq with rfl | hl
    · refine ⟨y, hys, ?_⟩
      by_contra hno
      have hends : y.faulted = true ∨ w.target ≤ y.value := by
        by_cases hfl : y.faulted = true
        · exact .inl hfl
        · exact .inr (BitVec.not_lt.mp fun hlt => hno ⟨Bool.eq_false_iff.mpr hfl, hlt⟩)
      obtain ⟨x, hx, hxw, hxc⟩ := (hstep.trans hrest).wait hz hw
      obtain ⟨x1, hx1, hx1w, -⟩ := hrest.wait hz hw
      have hnone := State.wake_waits hx hxw (hf ▸ hys) (hxc ▸ hgo) hends hx1
      rw [hnone] at hx1w
      cases hx1w
    · obtain ⟨y1, hy1, hfl, hlt⟩ := ih hl hz hy (by rw [hstep.sliceOf, hstep.frozenSlice, hgo])
      obtain ⟨y2, m, hy2, rfl⟩ := hstep.fence f y1 hy1
      exact ⟨y2, hy2, hfl, hlt⟩

/-- A queue that waits on a fence is one of its waiters. -/
theorem State.mem_waitersOf {s : State} {q f : Nat} {x : Queue} {w : Wait} (hx : s.queue? q = some x) (hw : x.wait = some w) (hf : w.fence = f) :
    q ∈ s.waitersOf f :=
  List.mem_map.mpr ⟨(q, x), List.mem_filter.mpr ⟨tget_mem hx, by simp [hw, hf]⟩, rfl⟩

/-- A fence that no queue waits on. -/
theorem State.waitersOf_nil {s : State} {f : Nat} (h : s.objs.queues.all (fun e => e.2.wait.all (fun w => w.fence != f)) = true) : s.waitersOf f = [] := by
  refine tkeys_nil fun e he => ?_
  have := List.all_eq_true.mp h e he
  cases hw : e.2.wait with
  | none => rfl
  | some w => simpa [hw] using this

/-! ## A signal that is taken -/

/-- A notification's event and the end of its reference. -/
theorem State.note_released (s : State) (c k : Nat) (r : EvRec) : Released s ((s.postEvent c r).decFence k) :=
  (State.postEvent_beside ..).released.trans (State.decFence_released ..)

/-- The states that the release of fence `f`'s waiters goes through: the queues are looked at, the notifications that are
reached go, their events are posted. -/
theorem State.releaseWaiters_steps {s : State} {f : Nat} {x : Fence} (hx : s.fence? f = some x) :
    Released s ((s.waitersOf f).foldl State.wake s) ∧
      Released (((s.waitersOf f).foldl State.wake s).onObjs fun o =>
          { o with notes := o.notes.filter (fun n => !(n.fence == f && decide (n.target ≤ x.value))) }) (s.releaseWaiters f) := by
  refine ⟨.foldl State.wake_released, ?_⟩
  simp only [State.releaseWaiters, hx]
  exact .foldl fun a n => State.note_released ..

/-- A fence with no waiter and no notification is released in vain. -/
theorem State.releaseWaiters_alone {s : State} {f : Nat} (hq : s.objs.queues.all (fun e => e.2.wait.all (fun w => w.fence != f)) = true)
    (hn : s.objs.notes.all (fun n => n.fence != f) = true) : s.releaseWaiters f = s := by
  have hno : ∀ n ∈ s.objs.notes, (n.fence == f) = false := fun n hm => by simpa using List.all_eq_true.mp hn n hm
  unfold State.releaseWaiters
  split
  · rfl
  · rename_i x _
    have hhit : s.objs.notes.filter (fun n => n.fence == f && decide (n.target ≤ x.value)) = [] :=
      List.filter_eq_nil_iff.mpr fun n hm => by simp [hno n hm]
    have hkeep : s.objs.notes.filter (fun n => !(n.fence == f && decide (n.target ≤ x.value))) = s.objs.notes :=
      List.filter_eq_self.mpr fun n hm => by simp [hno n hm]
    simp only [State.waitersOf_nil hq, hhit, List.foldl_nil, State.onObjs, hkeep]

/-- What holds once a fence's waiters have been released. -/
theorem State.releaseWaiters_spec {s : State} {f : Nat} {x : Fence} (hx : s.fence? f = some x) (ha : x.faulted = false) :
    let t := s.releaseWaiters f
    (∀ y, t.fence? f = some y → y.value = x.value ∧ y.faulted = false) ∧
      ((t.fence? f).isSome = true → ∀ q z w, t.queue? q = some z → z.wait = some w → s.frozenSlice (s.sliceOf z.ctx) = false → w.fence = f →
        x.value < w.target) ∧
      (∀ n ∈ t.objs.notes, n.fence = f → x.value < n.target) ∧ ∀ c, (t.ctx? c).map Ctx.standing = (s.ctx? c).map Ctx.standing := by
  intro t
  obtain ⟨h1, h2⟩ := State.releaseWaiters_steps hx
  refine ⟨fun y hy => ?_, fun hsome q z w hz hw hgo hf => ?_, fun n hn hf => ?_, fun c => (h2.ctx c).trans (h1.ctx c)⟩
  · obtain ⟨y1, n1, hy1, rfl⟩ := h2.fence f y hy
    obtain ⟨y2, n2, hy2, rfl⟩ := h1.fence f y1 hy1
    obtain rfl : x = y2 := Option.some.inj (hx.symm.trans hy2)
    exact ⟨rfl, ha⟩
  · obtain ⟨y, hy⟩ := Option.isSome_iff_exists.mp hsome
    obtain ⟨y1, -, hy1, -⟩ := h2.fence f y hy
    obtain ⟨z1, hz1, hz1w, hz1c⟩ := h2.wait hz hw
    obtain ⟨z0, hz0, hz0w, -⟩ := h1.wait hz1 hz1w
    obtain ⟨y0, hy0, -, hlt⟩ := wakes_wait (State.mem_waitersOf hz0 hz0w hf) hz1 hz1w hf hy1 (hz1c ▸ hgo)
    obtain rfl : x = y0 := Option.some.inj (hx.symm.trans hy0)
    exact hlt
  · rw [h2.notes, State.onObjs_objs, List.mem_filter] at hn
    simpa [hf] using hn.2

/-! ## A signal that faults its fence -/

/-- The states that a fence's fault goes through: it is FAULTED and its notifications go, their events are posted, the queues are looked at. -/
theorem State.faultFence_steps {s : State} {f : Nat} {x : Fence} {st : Status} {d : DWord} (hx : s.fence? f = some x) (ha : x.faulted = false) :
    ∃ u, Released ((s.modFence f fun y => { y with faulted := true, status := st, disp := d }).onObjs fun o =>
        { o with notes := o.notes.filter (fun n => n.fence != f) }) u ∧ s.faultFence f st d = (s.waitersOf f).foldl State.wake u := by
  refine ⟨_, ?_, by simp only [State.faultFence, hx, ha]; rfl⟩
  refine .foldl fun a n => ?_
  split
  · exact State.note_released ..
  · exact .refl a

/-- The fault of a fence with no waiter and no notification. -/
theorem State.faultFence_alone {s : State} {f : Nat} {x : Fence} {st : Status} {d : DWord} (hx : s.fence? f = some x) (ha : x.faulted = false)
    (hq : s.objs.queues.all (fun e => e.2.wait.all (fun w => w.fence != f)) = true) (hn : s.objs.notes.all (fun n => n.fence != f) = true) :
    s.faultFence f st d = s.modFence f fun y => { y with faulted := true, status := st, disp := d } := by
  have hkeep : s.objs.notes.filter (fun n => n.fence != f) = s.objs.notes := List.filter_eq_self.mpr (List.all_eq_true.mp hn)
  have hne : ∀ n ∈ s.objs.notes, n.fence ≠ f := fun n hm => by simpa using List.all_eq_true.mp hn n hm
  simp only [State.faultFence, hx, ha, State.waitersOf_nil hq, List.foldl_nil]
  rw [if_neg Bool.false_ne_true]
  refine (List.foldl_ext _ (fun a _ => a) _ fun a n hm => if_neg (hne n hm)).trans ((List.foldl_fixed _).trans ?_)
  simp only [State.onObjs, State.modFence, hkeep]

/-- What holds once a fence has been put into FAULTED. -/
theorem State.faultFence_spec {s : State} {f : Nat} {x : Fence} {st : Status} {d : DWord} (hx : s.fence? f = some x) (ha : x.faulted = false) :
    let t := s.faultFence f st d
    (∀ y, t.fence? f = some y → y.value = x.value ∧ y.faulted = true ∧ y.status = st) ∧
      ((t.fence? f).isSome = true → ∀ q z w, t.queue? q = some z → z.wait = some w → s.frozenSlice (s.sliceOf z.ctx) = false → w.fence ≠ f) ∧
      (∀ n ∈ t.objs.notes, n.fence ≠ f) ∧ ∀ c, (t.ctx? c).map Ctx.standing = (s.ctx? c).map Ctx.standing := by
  intro t
  obtain ⟨u, h1, ht⟩ := State.faultFence_steps (st := st) (d := d) hx ha
  have h2 : Released u t := by
    rw [show t = _ from ht]
    exact .foldl State.wake_released
  have hfence : ∀ y, u.fence? f = some y → y.value = x.value ∧ y.faulted = true ∧ y.status = st := fun y hy => by
    obtain ⟨y1, n1, hy1, rfl⟩ := h1.fence f y hy
    have hy2 : (s.modFence f fun y => { y with faulted := true, status := st, disp := d }).fence? f = some y1 := hy1
    rw [State.fence?_modFence, if_pos rfl, hx] at hy2
    obtain rfl := Option.some.inj hy2
    exact ⟨rfl, rfl, rfl⟩
  refine ⟨fun y hy => ?_, fun hsome q z w hz hw hgo hf => ?_, fun n hn => ?_, fun c => (h2.ctx c).trans (h1.ctx c)⟩
  · obtain ⟨y1, n1, hy1, rfl⟩ := h2.fence f y hy
    exact hfence y1 hy1
  · obtain ⟨y, hy⟩ := Option.isSome_iff_exists.mp hsome
    obtain ⟨z0, hz0, hz0w, -⟩ := (Released.trans h1 h2).wait hz hw
    rw [show t = _ from ht] at hz hy
    obtain ⟨y0, hy0, hok, -⟩ := wakes_wait (State.mem_waitersOf (s := s) hz0 hz0w hf) hz hw hf hy (by rw [h1.sliceOf, h1.frozenSlice]; exact hgo)
    exact Bool.false_ne_true (hok.symm.trans (hfence y0 hy0).2.1)
  · rw [h2.notes, h1.notes, State.onObjs_objs, List.mem_filter] at hn
    simpa using hn.2

/-! ## The four cases of R57 -/

/-- A context's state is part of its standing. -/
theorem ctxState_of_standing {s t : State} {c : Nat} (h : (t.ctx? c).map Ctx.standing = (s.ctx? c).map Ctx.standing) :
    (t.ctx? c).map Ctx.state = (s.ctx? c).map Ctx.state := by
  have hof : ∀ o : Option Ctx, o.map Ctx.state = (o.map Ctx.standing).map Prod.snd := fun o => by
    rw [Option.map_map]
    rfl
  rw [hof, hof, h]

/-- A signal above the fence's value that the fence may take. -/
theorem State.signal_taken {s : State} {f : Nat} {v : DWord} {x : Fence} (hx : s.fence? f = some x) (ha : x.faulted = false) (hv : x.value < v)
    (hb : v.toNat ≤ signalMax x.value) : s.signal f v = ((s.modFence f fun y => { y with value := v }).releaseWaiters f, .ok) := by
  simp only [State.signal, hx, ha]
  rw [if_neg Bool.false_ne_true, if_neg (BitVec.not_le.mpr hv), if_pos hb]

/-- A signal beyond what the fence may take. -/
theorem State.signal_beyond {s : State} {f : Nat} {v : DWord} {x : Fence} (hx : s.fence? f = some x) (ha : x.faulted = false) (hv : x.value < v)
    (hb : signalMax x.value < v.toNat) : s.signal f v = (s.faultFence f .badParam 0, .badParam) := by
  simp only [State.signal, hx, ha]
  rw [if_neg Bool.false_ne_true, if_neg (BitVec.not_le.mpr hv), if_neg (Nat.not_le.mpr hb)]

/-- A value beyond what the fence may take is above its value. -/
theorem lt_of_signalMax_lt {c v : DWord} (h : signalMax c < v.toNat) : c < v := by
  unfold signalMax at h
  have := c.isLt
  have := v.isLt
  rw [BitVec.lt_def]
  omega

/-- Settles O53: the four cases of R57, by what the release of the waiters and the fault of the fence leave. -/
theorem fenceSignal : Obligations.FenceSignal := by
  unfold Obligations.FenceSignal
  intro s f v x hx t bound alone
  have hfaulted : x.faulted = true → s.signal f v = (s, .faulted) := fun h => by simp [State.signal, hx, h]
  have hstale : x.faulted = false → v ≤ x.value → s.signal f v = (s.modFence f fun y => { y with stale := y.stale + 1 }, .stale) := fun h hv => by
    simp [State.signal, hx, h, hv]
  have hput : (s.modFence f fun y => { y with value := v }).fence? f = some { x with value := v } := by simp [hx]
  refine ⟨hfaulted, hstale, fun ha hv hb => ?_, fun ha hb => ?_, fun c => ?_⟩
  · have hsig := State.signal_taken hx ha hv hb
    obtain ⟨hfence, hwait, hnote, -⟩ := State.releaseWaiters_spec hput ha
    rw [show t = _ from congrArg Prod.fst hsig, hsig]
    exact ⟨rfl, hfence, fun h => State.releaseWaiters_alone h.1 h.2, hwait, hnote⟩
  · have hsig := State.signal_beyond hx ha (lt_of_signalMax_lt hb) hb
    obtain ⟨hfence, hwait, hnote, -⟩ := State.faultFence_spec (st := .badParam) (d := 0) hx ha
    rw [show t = _ from congrArg Prod.fst hsig, hsig]
    exact ⟨rfl, hfence, fun h => State.faultFence_alone hx ha h.1 h.2, hwait, hnote⟩
  · cases ha : x.faulted with
    | true => rw [show t = _ from congrArg Prod.fst (hfaulted ha)]
    | false =>
      by_cases hv : v ≤ x.value
      · rw [show t = _ from congrArg Prod.fst (hstale ha hv)]
        rfl
      · have hlt : x.value < v := BitVec.not_le.mp hv
        by_cases hb : v.toNat ≤ signalMax x.value
        · rw [show t = _ from congrArg Prod.fst (State.signal_taken hx ha hlt hb)]
          obtain ⟨-, -, -, hctx⟩ := State.releaseWaiters_spec hput ha
          exact ctxState_of_standing (hctx c)
        · rw [show t = _ from congrArg Prod.fst (State.signal_beyond hx ha hlt (Nat.not_le.mp hb))]
          obtain ⟨-, -, -, hctx⟩ := State.faultFence_spec (st := .badParam) (d := 0) hx ha
          exact ctxState_of_standing (hctx c)

end Sys2Proof.Machine
end

section
/-!
SUPPORT. A packet that is fetched and served at once, and the header checks in their order (R82, R516).
-/

namespace Sys2Proof.Machine

open Sys2Proof

/-! ## Serving at once -/

/-- A queue of which no packet waits for the firmware has none at the head of the firmware's line. -/
theorem State.fwHead_filter_none {s : State} {i : OpInfo} {h : Hdr} (hf : ∀ e ∈ s.objs.fwQ, e.queue ≠ h.q) :
    s.fwHead.filter (fun e => s.pwr.ccUp && e.queue == h.q && e.code == i.code && e.hdr == h) = none := by
  rw [Option.filter_eq_none_iff]
  intro e he
  simp [hf e (List.mem_of_find?_eq_some he)]

/-- A packet that issues, is fetched and need not wait for the firmware is served in the state that the fetch leaves (R46, R83, R86). -/
theorem State.packet_atOnce {s s1 s2 : State} {cmd : Instr} {i : OpInfo} {h : Hdr} {op : State → Nat → Word → State × Ans} {x : Queue}
    (hx : s.queue? h.q = some x) (hf : ∀ e ∈ s.objs.fwQ, e.queue ≠ h.q) (hst : s.stands i h x = true) (hi : s.canIssue h.q x h = true)
    (hm : s.fetchMiss h.q x (needOf h) = some (s1, false)) (hfw : isHw i.code = true ∨ s1.pwr.ccUp = true ∨ 15 < h.cont)
    (hr : (s1.takeTurn h.q x).fetchRing h.q x (needOf h) = (s2, true)) :
    s.packet cmd i h op = .next (s2.serve i h x.ctx x.head op).finish := by
  have hnow : (isHw i.code || s1.pwr.ccUp || decide (15 < h.cont)) = true := by simpa [or_assoc] using hfw
  have htake : s.take i h = .serve s2 x.ctx x.head := by
    simp only [State.take, hx, State.fwHead_filter_none hf, hst, hi, hm, hr, hnow]
    rfl
  rw [State.packet, htake]

/-- A CONT above 15 fails on the hardware path, whatever the opcode. -/
theorem State.serve_contAbove {s : State} {i : OpInfo} {h : Hdr} {c : Nat} {n : Word} {op : State → Nat → Word → State × Ans} (hc : 15 < h.cont) :
    s.serve i h c n op = s.failPacket true i h n (s.fenceOf h c) .badParam [] := by
  unfold State.serve
  rw [if_pos hc]

/-- A header check that fails ends the packet on the path of its opcode's family. -/
theorem State.serve_headerFails {s : State} {i : OpInfo} {h : Hdr} {c : Nat} {n : Word} {op : State → Nat → Word → State × Ans} {st : Status}
    (hc : h.cont ≤ 15) (hh : s.headerCheck i h c = some st) : s.serve i h c n op = s.failPacket (isHw i.code) i h n (s.fenceOf h c) st [] := by
  unfold State.serve
  rw [if_neg (Nat.not_lt.mpr hc), hh]

/-! ## The header checks -/

/-- CONT, the reserved fields and the flags' reserved bits are as the opcode's row has them. -/
abbrev OpInfo.CountsFit (i : OpInfo) (h : Hdr) : Prop :=
  i.contMin ≤ h.cont ∧ h.cont ≤ i.contMax ∧ h.rsvd = false ∧ i.oddBit = false ∧ h.flags.toNat < 8

/-- NOTIFY, TXN and FENCE stand only where the opcode and each other allow them. -/
abbrev OpInfo.FlagsFit (i : OpInfo) (h : Hdr) : Prop :=
  (h.flags.getLsbD 0 = true → i.notify = true ∧ h.fence ≠ 0) ∧ (h.flags.getLsbD 2 = true → i.stage = true ∧ h.fence = 0) ∧
    (i.noFence = true → h.fence = 0)

/-- The header checks of R516 in their order, those of the flags taken together. -/
theorem State.headerCheck_eq (s : State) (i : OpInfo) (h : Hdr) (c : Nat) : s.headerCheck i h c =
    if h.context ≠ s.ctxHandle c then some .badHandle
    else if i.assigned = false then some .badParam
    else if ¬i.CountsFit h then some .badParam
    else if ¬i.FlagsFit h then some .badParam
    else if ¬(i.admin = true → s.sliceOf c = 0) then some .denied
    else if h.fence ≠ 0 ∧ s.findFence c h.fence = none then some .badHandle
    else none := by
  have hcounts : (h.cont < i.contMin ∨ i.contMax < h.cont ∨ h.rsvd = true ∨ i.oddBit = true ∨ h.flags.toNat / 8 ≠ 0) ↔ ¬i.CountsFit h := by
    simp only [OpInfo.CountsFit, not_and_or, Nat.not_le, Bool.not_eq_false, Nat.not_lt, ne_eq, Nat.div_eq_zero_iff_lt (show 0 < 8 by decide)]
  have hflags : ((h.flags.getLsbD 0 && (!i.notify || h.fence == 0)) = true ∨ (h.flags.getLsbD 2 && (!i.stage || h.fence != 0)) = true ∨
      (i.noFence && h.fence != 0) = true) ↔ ¬i.FlagsFit h := by
    simp only [OpInfo.FlagsFit, Bool.and_eq_true, Bool.or_eq_true, Bool.not_eq_true', beq_iff_eq, bne_iff_ne]
    grind
  have hadmin : (i.admin && s.sliceOf c != 0) = true ↔ ¬(i.admin = true → s.sliceOf c = 0) := by simp
  unfold State.headerCheck
  simp only [hcounts, hadmin, ← hflags, ite_or, Bool.not_eq_true']

/-- Settles O50: the packet is served at once, and `State.headerCheck_eq` names the first check that fails. -/
theorem headerChecks : Obligations.HeaderChecks := by
  unfold Obligations.HeaderChecks
  intro cmd i h op s s1 s2 x hx hf hst hi n hm hfw hr fails names conts notify stage plain right
  have hpkt : s.packet cmd i h op = .next (s2.serve i h x.ctx x.head op).finish := State.packet_atOnce hx hf hst hi hm hfw hr
  have hfails : h.cont ≤ 15 → ∀ st, s2.headerCheck i h x.ctx = some st → fails (isHw i.code) st := fun hc st hh => by
    show s.packet cmd i h op = _
    rw [hpkt, State.serve_headerFails hc hh]
  refine ⟨fun hc => ?_, fun hc hn => hfails hc _ ?_, fun hc hn ha => hfails hc _ ?_, fun hc hn ha ho => hfails hc _ ?_,
    fun hc hn ha ho hl => hfails hc _ ?_, fun hc hn ha ho h1 h2 h3 hd => hfails hc _ ?_, fun hc hn ha ho h1 h2 h3 hd h0 hz => hfails hc _ ?_,
    fun t st => rfl⟩
  · show s.packet cmd i h op = _
    rw [hpkt, State.serve_contAbove hc]
  all_goals rw [State.headerCheck_eq]
  · exact if_pos hn
  · rw [if_neg (not_not.mpr hn), if_pos ha]
  · rw [if_neg (not_not.mpr hn), if_neg (by simp [ha]), if_pos ho]
  · rw [if_neg (not_not.mpr hn), if_neg (by simp [ha]), if_neg (not_not.mpr ho), if_pos hl]
  · rw [if_neg (not_not.mpr hn), if_neg (by simp [ha]), if_neg (not_not.mpr ho), if_neg (not_not.mpr ⟨h1, h2, h3⟩), if_pos hd]
  · rw [if_neg (not_not.mpr hn), if_neg (by simp [ha]), if_neg (not_not.mpr ho), if_neg (not_not.mpr ⟨h1, h2, h3⟩), if_neg (not_not.mpr hd),
      if_pos ⟨h0, hz⟩]

end Sys2Proof.Machine
end

section
/-!
SUPPORT. The packets of transactions and of the security engine (R87, R94, R97), and those whose opcode, KIND or MODE no table assigns (R81).
-/

namespace Sys2Proof.Machine

open Sys2Proof

/-! ## Transactions -/

/-- Settles O8: the checks of each opcode pass or fail as the clause says, and its effect is the state of the statement. -/
theorem transactionCommands : Obligations.TransactionCommands := by
  unfold Obligations.TransactionCommands
  refine ⟨?begins, ?commits, ?conflict, ?abort, ?timeout⟩
  case begins =>
    intro h s s1 c n f k hs ht hk g t
    refine State.packet_done _ hs ?_
    unfold opTxnBegin
    rw [check_bind (by simp [ht]), want_bind hk]
    rfl
  case commits =>
    intro h t s s1 s2 c n f k x hs hx hhit hcommit
    refine State.packet_done _ hs ?_
    simp only [opTxnCommit, hx, hhit, hcommit]
    rfl
  case conflict =>
    intro h t s s1 c n f k x hs hx hhit
    refine State.packet_failed _ hs ?_
    simp only [opTxnCommit, hx, hhit]
    rfl
  case abort =>
    intro h t s s1 c n f k x hs hx
    refine State.packet_done _ hs ?_
    rw [hx]
  case timeout =>
    intro k s t ht hl hlate
    have hdue : ¬ s.now < t.last + txnLimit := Nat.not_lt.mpr hlate
    simp [execTxnTimeout, ht, hl, hdue]

/-! ## Key rotation -/

/-- A context that its handle names in a slice stands in its slot. -/
theorem State.ctx?_of_findCtxIn {s : State} {l k : Nat} {h : Handle} {x : Ctx} (e : s.findCtxIn l h = some (k, x)) : s.ctx? k = some x := by
  obtain ⟨hfind, -⟩ := Option.filter_eq_some_iff.mp e
  unfold State.findCtx at hfind
  split at hfind
  · rename_i y hy
    split at hfind
    · cases hfind
      exact hy
    · cases hfind
  · cases hfind

/-- A rotation of a context in season `x.season` (R304). -/
theorem State.rotate_eq {s : State} {k : Nat} {x : Ctx} (hx : s.ctx? k = some x) :
    s.rotate k = ((s.installKey (.ctx k (x.season + 1))).modCtx k fun y =>
      { y with season := x.season + 1, prevLive := true, sweep := .running, lastRot := s.now }).raiseEdge 41 := by
  unfold State.rotate
  rw [hx]
  rfl

/-! ## Unassigned opcodes -/

/-- The header of an opcode that no table assigns is checked as such. -/
theorem unassignedInfo_other {a : RawArgs} (h : assignedOps.contains a.op = false) : unassignedInfo a = { code := a.op, assigned := false } := by
  have hne : ∀ k, assignedOps.contains k = true → a.op ≠ k := fun k hk e => Bool.false_ne_true (h.symm.trans (e ▸ hk))
  unfold unassignedInfo
  rw [if_neg (hne _ (by decide)), if_neg (hne _ (by decide))]

/-- An unassigned opcode, or a reserved KIND, is a packet whose own check fails. -/
theorem execUnassignedOpcode_other {h : Hdr} {a : RawArgs} {s : State} (ha : a.unassigned = true) (hkv : a.op ≠ 0x4B) :
    execUnassignedOpcode h a s = s.packet (.unassignedOpcode h a) (unassignedInfo a) h fun s _ _ => (s, .bad .badParam []) := by
  simp [execUnassignedOpcode, ha, hkv]

/-- A reserved MODE of KV_EVICT is a KV_EVICT packet with a decode of its own. -/
theorem execUnassignedOpcode_evict {h : Hdr} {a : RawArgs} {s : State} (hop : a.op = 0x4B) (hsel : 3 ≤ a.sel) :
    execUnassignedOpcode h a s =
      s.evictPacket (.unassignedOpcode h a) (unassignedInfo a) h a.obj a.seq a.sel a.newLen fun _ => kvModeDec := by
  simp [execUnassignedOpcode, RawArgs.unassigned, hop, hsel]

/-- KV_EVICT with a reserved MODE passes its other checks on a formatted KV_CACHE object, then fails (R192, R194). -/
theorem kvModeDec_fails {d : Disp} {m : Nat × Mo} {s t : State} {hd : List Byte} (hty : m.2.ty = 1) (hr : s.readMo m.2 .hub 0 48 = (t, .ok hd))
    (hf : imgNat hd 40 1 = 1) : kvModeDec d m s = .error (.st .badParam) t := by
  unfold kvModeDec
  rw [kvBind_ok (kvCheck_ok (by simp [hty])), kvBind_ok (kvOpen_ok hr)]
  exact kvBind_ok (kvFormatted_ok hf)

/-- Settles O14: the checks of KEY_ROTATE and ATTEST_REPORT pass; an unassigned opcode fails its header check, a reserved KIND or MODE its own. -/
theorem securityPackets : Obligations.SecurityPackets := by
  unfold Obligations.SecurityPackets
  refine ⟨?rotate, ?report, ?unassigned, ?kind, ?mode⟩
  case rotate =>
    intro h target s s1 c n f k x hs hx hrun hpause hact hseason
    refine State.packet_done _ hs ?_
    unfold opKeyRotate
    rw [want_bind hx, check_bind (by simp [hrun, hpause]), check_bind (by simpa [hact] using hseason), State.rotate_eq (State.ctx?_of_findCtxIn hx)]
    rfl
  case report =>
    intro h obj nonce s s1 s2 c n f k m x hs hm hx hwr hent hdest hlen body hw
    refine State.packet_done _ hs ?_
    have hok : ¬(m.len < reportLen s1.certLen x.log.length ∨ m.flags.getLsbD 1 = false) := by simp [hwr, hlen]
    simp only [opAttestReport, hm, hx, hent, hdest]
    rw [if_neg hok, if_neg Bool.false_ne_true, State.putResult_ok hw]
  case unassigned =>
    intro h a s s1 s2 x ha hx hf hst hi hm hfw hc hr hn
    have hinfo := unassignedInfo_other ha
    have hun : a.unassigned = true := by
      unfold RawArgs.unassigned
      rw [ha]
      rfl
    have hkv : a.op ≠ 0x4B := fun e => by simp [e, assignedOps] at ha
    have hcheck : s2.headerCheck (unassignedInfo a) h x.ctx = some .badParam := by
      rw [State.headerCheck_eq, if_neg (not_not.mpr hn), if_pos (by rw [hinfo])]
    have hfw' : isHw (unassignedInfo a).code = true ∨ s1.pwr.ccUp = true ∨ 15 < h.cont := by
      rw [hinfo, ← or_assoc]
      exact .inl (by simpa using hfw)
    rw [exec_unassignedOpcode, execUnassignedOpcode_other hun hkv, State.packet_atOnce hx hf hst hi hm hfw' hr, State.serve_headerFails hc hcheck, hinfo]
  case kind =>
    intro h a s s1 c n f hop hsel hs
    have hinfo : unassignedInfo a = resetRequestInfo a.sel a.seq := if_pos hop
    rw [exec_unassignedOpcode, execUnassignedOpcode_other (by simp [RawArgs.unassigned, hop, hsel]) (by simp [hop]), hinfo]
    exact State.packet_failed _ hs rfl
  case mode =>
    intro h a s s1 s2 c n f k m hd hop hsel hs hm hma hty hr hfm
    have hinfo : unassignedInfo a = kvEvictInfo a.obj a.seq a.sel (num 4 a.newLen) a.cookie := by simp [unassignedInfo, hop]
    rw [exec_unassignedOpcode, execUnassignedOpcode_evict hop hsel, hinfo]
    refine State.packet_failed _ hs ?_
    simp only [hm, hma, kvAnswer]
    rw [kvModeDec_fails hty hr hfm]
    rfl

end Sys2Proof.Machine
end

section
/-!
SUPPORT. The record of a reply in host memory (R78, R79).
-/

namespace Sys2Proof.Machine

open Sys2Proof

/-- A reply takes 32 bytes (R78). -/
theorem replyBytes_length (tag : Word) (st : Status) (op flags : Nat) (phase : Bool) (res : List Nat) :
    (replyBytes tag st op flags phase res).length = 32 := by
  simp [replyBytes, length_leBytes]

/-- A write of at most 512 bytes goes to host memory as one request (R393). -/
theorem State.hostPut_single {s : State} {c l port pasid addr : Nat} {d : List Byte} (h0 : 0 < d.length) (h : d.length ≤ 512) :
    s.hostPut c l port pasid addr d = ((s.emit (.host port pasid addr d (s.tee l))).dirtyHost l addr d.length).account c
      fun y => { y with host := y.host + BitVec.ofNat 64 d.length } := by
  have hn : (d.length + 511) / 512 = 1 := by omega
  have hp : pieces 512 addr d.length = [(addr, d.length)] := by simp [pieces, hn, h]
  simp [State.hostPut, hp]

/-- A record in a ring in host memory, on a port without ATS, is written at once. -/
theorem State.writeRing_host {s : State} {c off : Nat} {r : Ring} {d : List Byte} {l : Slice} (hr : r.obj = 0)
    (hl : s.slice? (s.sliceOf c) = some l) (ha : (s.port l.port).atsOn = false) :
    s.writeRing c r off d = (s.hostPut c (s.sliceOf c) l.port l.pasid (r.addr + off) d, .done) := by
  have hmiss : s.hostMiss l.port l.pasid (some (r.addr + off)) d (.record c) = (s, .hit) := by simp [State.hostMiss, ha]
  simp only [State.writeRing, hr, if_true, State.hostWrite, hl, hmiss]

/-- Settles O51: a slice without writes holds the reply, and else the ring's write is one request of 32 bytes. -/
theorem replyRecord : Obligations.ReplyRecord := by
  unfold Obligations.ReplyRecord
  intro s q n tag op st flags res x l hx hobj hl hats hpri
  refine ⟨fun hdma => ?_, replyBytes_length .., fun hdma => ?_⟩
  · simp only [State.reply, hx]
    rw [if_pos (.inl hdma)]
  · have hwaits : ¬(s.dmaOk (s.sliceOf x.ctx) = false ∨ s.recordWaits x.ctx = true) := by simp [hdma, State.recordWaits, hpri]
    have hlen := replyBytes_length tag st op flags (n.toNat.testBit x.ring.log2) res
    simp only [State.reply, hx]
    rw [if_neg hwaits, State.writeRing_host hobj hl hats, State.hostPut_single (by omega) (by omega), hlen]
    rfl

end Sys2Proof.Machine
end

section
/-!
SUPPORT. The dispatch packets (R92, R171, R387, R517), and the commands of the engines: bundles, barriers and mover operations (R153 to R177).
-/

namespace Sys2Proof.Machine

open Sys2Proof

/-! ## Dispatches -/

/-- An object that a handle names is found where the handle may be null, too. -/
theorem State.findMoOpt_found {s : State} {c : Nat} {h : Handle} {x : Nat × Mo} (h0 : h ≠ 0) (hx : s.findMo c h = some x) :
    s.findMoOpt c h = .ok (some x) := by
  rw [State.findMoOpt, if_neg h0, hx]
  rfl

/-- A save area of the right type that has a slot for each engine passes its check. -/
theorem saveArea_fits {sv count : Nat} {m : Mo} (hty : m.ty = 4) (hl : saveSlot * count ≤ m.len) :
    (some (sv, m)).filter (fun m => m.2.ty == 4 && decide (saveSlot * count ≤ m.2.len)) = some (sv, m) := by
  rw [Option.filter_some, if_pos (by simp [hty, hl])]

/-- Settles O11: every check of R517, and of R387, passes in its order, and the packet is entered by `State.accept`. -/
theorem dispatchPackets : Obligations.DispatchPackets := by
  unfold Obligations.DispatchPackets
  refine ⟨?dispatch, ?remote⟩
  case dispatch =>
    intro h a s s1 s2 c n f g sv x m bs p t hs hg hsave hsv hbs hmaint hact hp hmin hmax hcls hemin hemax hent hfmt hty hlen hbind hbufs hnote d
    have hfmt' : (!x.fmtMask.getLsbD 9 || s1.brg.lCq4) = true := by simpa [imp_iff_not_or] using hfmt
    have hbufs' : x.bufs.all (fun e => e.optional || thas t e.index) = true := by
      refine List.all_eq_true.mpr fun e he => ?_
      cases ho : e.optional
      · simpa using hbufs e he ho
      · rfl
    refine State.packet_done _ hs ?_
    unfold opDispatch
    rw [want_bind hg, except_bind (State.findMoOpt_found hsave hsv), except_bind hbs, check_bind (by simp [hmaint]), check_bind (by simpa using hact),
      want_bind hp, check_bind (by simp [hmin, hmax]), check_bind hcls, check_bind (by simp [hemin, hemax, hent]), check_bind hfmt',
      want_bind (saveArea_fits hty hlen), except_bind hbind, check_bind hbufs', except_bind hnote]
    rfl
  case remote =>
    intro h a s s1 s2 c n f i j x y l b hs hx hy hlic hl hup hrd hlen hwr hb hseal hnote
    have hlink : (s1.link? a.link).any (fun x => x.up && x.rdisp) = true := by simp [hl, hup, hrd]
    have hseal' : (!s1.confSlice (s1.sliceOf c) || s1.sealSession (s1.address a.link)) = true := by simpa [imp_iff_not_or] using hseal
    refine State.packet_done _ hs ?_
    unfold opDispatchRemote
    rw [want_bind hx, want_bind hy, check_bind hlic, check_bind hlink, check_bind (by simpa using hlen), check_bind hwr, want_bind hb,
      check_bind hseal', except_bind hnote]
    rfl

/-! ## A bundle whose code is there -/

/-- An engine whose code is in the store comes to its bundle. -/
theorem execBundleIssue_resident {ref : DWord} {k : Nat} {s s1 : State} {d : Disp} {g : Program} {e e0 : Engine} (hd : s.disp? ref = some d)
    (hg : s.dispProg d = some g) (he : tget d.engs k = some e) (hi : d.issues e = true) (hpc : e.pc < g.bundles)
    (hf : s.fetchCode g (d.clusterOf k) e = (s1, .ok e0)) (hr : e0.resident g = true) :
    exec (.bundleIssue ref k) s = s1.issueAt d g k e0 := by
  simp only [exec_bundleIssue, execBundleIssue, hd, hg, he, hi, Nat.not_le.mpr hpc, hf, hr, Bool.not_true, Bool.false_eq_true, if_false, if_true]

/-- Bit 0 of a bundle's header is bit 0 of the bundle. -/
theorem bits_header (b : Nat) : bits (bits b 0 16) 0 1 = bits b 0 1 := by
  unfold bits
  omega

/-- The dispatch runs, or it is to stop and an engine at a bundle with header `hdr` goes on until the limit of 40 us (R176). -/
def Disp.goesOn (d : Disp) (now hdr : Nat) : Prop := d.state = .running ∨ d.state = .stopping ∧ bits hdr 0 1 = 0 ∧ now < d.preAt + 4000

/-- An engine that goes on stops neither at a checkpoint nor at the limit. -/
theorem Disp.goesOn.noStop {d : Disp} {now hdr : Nat} (h : d.goesOn now hdr) :
    ¬(d.state = .stopping ∧ bits hdr 0 1 = 1 ∧ now ≤ d.preAt + usTicks 40) ∧ ¬(d.state = .stopping ∧ d.preAt + usTicks 40 ≤ now) := by
  obtain hrun | ⟨-, hcp, hnow⟩ := h
  · simp [hrun]
  · refine ⟨fun hc => by omega, fun hc => ?_⟩
    have h40 : d.preAt + 4000 ≤ now := hc.2
    omega

/-- A header with a reserved bit faults the engine. -/
theorem State.issueAt_reserved {s : State} {d : Disp} {g : Program} {k : Nat} {e : Engine} (hgo : d.goesOn s.now (bits (e.bundle g) 0 16))
    (hres : bits (e.bundle g) 0 16 &&& 0xE020 ≠ 0) : s.issueAt d g k e = .next (s.engFault d.ref k e.pc { cause := 3 }).finish := by
  unfold State.issueAt
  rw [if_neg hgo.noStop.1, if_neg hgo.noStop.2, if_pos hres]

/-- An engine that goes on, its waits being met, issues a bundle that is no BARRIER. -/
theorem State.issueAt_issues {s : State} {d : Disp} {g : Program} {k : Nat} {e : Engine} (hgo : d.goesOn s.now (bits (e.bundle g) 0 16))
    (hres : bits (e.bundle g) 0 16 &&& 0xE020 = 0)
    (hready : e.ready (bits (e.bundle g) 0 16) (if bits (bits (e.bundle g) 0 16) 1 1 = 1 then bits (e.bundle g) 16 4 else 0) = true)
    (hbar : ¬(bits (bits (e.bundle g) 0 16) 4 1 = 1 ∧ bits (e.bundle g) 192 6 = 0x13)) :
    s.issueAt d g k e = .next (s.issueBundle d g k e).finish := by
  unfold State.issueAt
  rw [if_neg hgo.noStop.1, if_neg hgo.noStop.2, if_neg (not_not.mpr hres), if_neg (by simp [hready]), if_neg hbar]

/-- An engine of a running dispatch, its waits being met, waits at a BARRIER bundle that passes its checks. -/
theorem State.issueAt_barrier {s : State} {d : Disp} {g : Program} {k : Nat} {e : Engine} (hrun : d.state = .running)
    (hres : bits (e.bundle g) 0 16 &&& 0xE020 = 0)
    (hready : e.ready (bits (e.bundle g) 0 16) (if bits (bits (e.bundle g) 0 16) 1 1 = 1 then bits (e.bundle g) 16 4 else 0) = true)
    (hbar : bits (bits (e.bundle g) 0 16) 4 1 = 1 ∧ bits (e.bundle g) 192 6 = 0x13)
    (hctl : ctlCheck (s.env d g k) e (bits (e.bundle g) 192 32) (bits (e.bundle g) 224 32) e.pc = .ok ()) :
    s.issueAt d g k e = .next (s.setEng d.ref k { e with barrier := some (bits (e.bundle g) 224 4) }) := by
  have hgo : d.goesOn s.now (bits (e.bundle g) 0 16) := .inl hrun
  unfold State.issueAt
  rw [if_neg hgo.noStop.1, if_neg hgo.noStop.2, if_neg (not_not.mpr hres), if_neg (by simp [hready]), if_pos hbar]
  simp only [hctl, hrun, reduceCtorEq, if_false]

/-- An engine of a dispatch that is to stop stops at a checkpoint bundle until the limit of 40 us (R176). -/
theorem State.issueAt_checkpoint {s : State} {d : Disp} {g : Program} {k : Nat} {e : Engine} (hst : d.state = .stopping)
    (hcp : bits (bits (e.bundle g) 0 16) 0 1 = 1) (hnow : s.now ≤ d.preAt + 4000) :
    s.issueAt d g k e = .next (s.setEng d.ref k { e with stop := match g.cpAt e.pc with | some i => .cheap i | none => .full }) :=
  if_pos ⟨hst, hcp, hnow⟩

/-- An engine of a dispatch that is to stop stops fully once 40 us have passed (R177). -/
theorem State.issueAt_full {s : State} {d : Disp} {g : Program} {k : Nat} {e : Engine} (hst : d.state = .stopping) (hpre : d.preAt + 4000 ≤ s.now)
    (hcp : bits (bits (e.bundle g) 0 16) 0 1 = 0 ∨ d.preAt + 4000 < s.now) :
    s.issueAt d g k e = .next (s.setEng d.ref k { e with stop := .full }) := by
  have hno : ¬(d.state = .stopping ∧ bits (bits (e.bundle g) 0 16) 0 1 = 1 ∧ s.now ≤ d.preAt + usTicks 40) := by
    intro ⟨_, h1, hle⟩
    have hle' : s.now ≤ d.preAt + 4000 := hle
    omega
  unfold State.issueAt
  rw [if_neg hno, if_pos ⟨hst, hpre⟩]

/-- A bundle without mover work issues whole and counts its progress (R156). -/
theorem State.issueBundle_whole {s : State} {d : Disp} {g : Program} {k : Nat} {e e1 : Engine}
    (h : bundleWhole (s.env d g k) s e (e.bundle g) = .ok (e1, none)) :
    s.issueBundle d g k e = (((s.drew (e.underWay + 1)).setEng d.ref k { e1 with barrier := none }).account d.ctx fun a =>
      { a with progressHs := a.progressHs + 1 + BitVec.ofNat 64 (s.drew (e.underWay + 1)).peek }).drew 1 := by
  simp only [State.issueBundle, State.tryBundle, h]

/-- A bundle that fails faults its engine (R174). -/
theorem State.issueBundle_fault {s : State} {d : Disp} {g : Program} {k : Nat} {e : Engine} {f : EFault}
    (h : bundleWhole (s.env d g k) s e (e.bundle g) = .error f) : s.issueBundle d g k e = s.engFault d.ref k e.pc f := by
  simp only [State.issueBundle, State.tryBundle, h]

/-! ## The barrier's release -/

/-- The bundles that wait at a barrier issue together once every engine of the dispatch waits (R158). -/
theorem execBarrierRelease_all {ref : DWord} {id : Nat} {s : State} {d : Disp} {g : Program} (hd : s.disp? ref = some d) (hg : s.dispProg d = some g)
    (hne : d.waitingAt id ≠ []) (hh : ∀ e ∈ d.engs, e.2.halted = false) (hrun : d.state = .running) (hall : (d.waitingAt id).length = d.count) :
    execBarrierRelease ref id s = .next ((s.issueHeld ref g (d.waitingAt id)).1.faultAll d (s.issueHeld ref g (d.waitingAt id)).2).finish := by
  obtain ⟨j, l, hw⟩ := List.exists_cons_of_ne_nil hne
  have hany : ¬d.engs.any (fun e => e.2.halted) = true := by simpa using hh
  rw [hw] at hall ⊢
  simp only [execBarrierRelease, hd, hg, hw]
  rw [if_neg hany, if_pos ⟨hrun, hall⟩]

/-- A barrier that an engine which has halted can no longer reach faults the first engine that waits at it (R159). -/
theorem execBarrierRelease_halted {ref : DWord} {id k : Nat} {s : State} {d : Disp} {g : Program} {e : Engine} (hd : s.disp? ref = some d)
    (hg : s.dispProg d = some g) (hk : (d.waitingAt id).head? = some k) (he : tget d.engs k = some e) (hh : ∃ x ∈ d.engs, x.2.halted = true) :
    execBarrierRelease ref id s = .next (s.engFault ref k e.pc { cause := 0x0F }).finish := by
  obtain ⟨l, hw⟩ := List.head?_eq_some_iff.mp hk
  have hany : d.engs.any (fun e => e.2.halted) = true := List.any_eq_true.mpr hh
  simp only [execBarrierRelease, hd, hg, hw]
  rw [if_pos hany, he]
  rfl

/-- Settles O27: an engine whose code is there does what `State.issueAt` says of its bundle; the other commands have their one effect. -/
theorem engineCommands : Obligations.EngineCommands := by
  unfold Obligations.EngineCommands
  refine ⟨?whole, ?fails, ?loading, ?noCode, ?pastEnd, ?barrier, ?reserved, ?stops, ?release, ?halted, ?mover⟩
  case whole =>
    intro ref k s s1 d g e e0 e1 hd hg he hi hpc hf hr b hdr hgo hres hready hbar hb s2
    rw [execBundleIssue_resident hd hg he hi hpc hf hr, State.issueAt_issues hgo hres hready hbar, State.issueBundle_whole hb]
  case fails =>
    intro ref k s s1 d g e e0 f hd hg he hi hpc hf hr b hdr hgo hres hready hbar hb
    rw [execBundleIssue_resident hd hg he hi hpc hf hr, State.issueAt_issues hgo hres hready hbar, State.issueBundle_fault hb]
  case loading =>
    intro ref k s s1 d g e e0 hd hg he hi hpc hf hr
    simp [execBundleIssue, hd, hg, he, hi, Nat.not_le.mpr hpc, hf, hr]
  case noCode =>
    intro ref k s s1 d g e a hd hg he hi hpc hf
    simp [execBundleIssue, hd, hg, he, hi, Nat.not_le.mpr hpc, hf]
  case pastEnd =>
    intro ref k s d g e hd hg he hi hpc
    simp [execBundleIssue, hd, hg, he, hi, hpc]
  case barrier =>
    intro ref k s s1 d g e e0 hd hg he hi hrun hpc hf hr b hdr hres hready hctl hop hcheck
    rw [execBundleIssue_resident hd hg he hi hpc hf hr, State.issueAt_barrier hrun hres hready ⟨hctl, hop⟩ hcheck]
  case reserved =>
    intro ref k s s1 d g e e0 hd hg he hi hpc hf hr hres hgo
    have hgo' : d.goesOn s1.now (bits (e0.bundle g) 0 16) := by rwa [Disp.goesOn, bits_header]
    rw [execBundleIssue_resident hd hg he hi hpc hf hr, State.issueAt_reserved hgo' hres]
  case stops =>
    intro ref k s s1 d g e e0 hd hg he hi hst hpc hf hr hdr
    rw [execBundleIssue_resident hd hg he hi hpc hf hr]
    exact ⟨State.issueAt_checkpoint hst, State.issueAt_full hst⟩
  case release =>
    intro ref id s d g hd hg hne hh hrun hall
    exact execBarrierRelease_all hd hg hne hh hrun hall
  case halted =>
    intro ref id k s d g e hd hg hk he hh
    exact execBarrierRelease_halted hd hg hk he hh
  case mover =>
    intro ref k tag i s s1 d e m hd he l hl hfin
    simp only [exec_moverOpComplete, execMoverOpComplete, hd, he]
    rw [hl]
    simp only [hfin]

end Sys2Proof.Machine
end

section
/-!
SUPPORT. The packets of KV caches (R189 to R195): each opcode's decode passes its checks in the order of R194, and its work packet is entered.
-/

namespace Sys2Proof.Machine

open Sys2Proof

/-! ## Steps of a decode -/

/-- A step of a decode that answers hands its value and state to the steps after it. -/
theorem kvBind_then {α β : Type} {x : KvD α} {g : α → KvD β} {s t : State} {a : α} {r : EStateM.Result KvStop State β} (h : x s = .ok a t)
    (hg : g a t = r) : (x >>= g) s = r :=
  (kvBind_ok h).trans hg

/-- So does a step of two ways, where both ways go on alike. -/
theorem kvIte_then {α β : Type} {p : Prop} [Decidable p] {x y : KvD α} {g : α → KvD β} {s t : State} {a : α}
    {r : EStateM.Result KvStop State β} (h : (if p then x s else y s) = .ok a t) (hg : g a t = r) : (if p then x >>= g else y >>= g) s = r := by
  by_cases hp : p
  · rw [if_pos hp] at h ⊢
    exact kvBind_then h hg
  · rw [if_neg hp] at h ⊢
    exact kvBind_then h hg

/-- A write of the object that is made is a step of a decode. -/
theorem KvEnv.wr_ok {e : KvEnv} {off : Nat} {d : List Byte} {s t : State} (h : s.writeMo e.mo e.who off d = (t, .ok ())) :
    kvDo (e.wr off d) s = .ok () t := by
  refine kvDo_ok ?_
  simp only [KvEnv.wr, kvIo, h]

/-! ## KV_APPEND and KV_ATTEND -/

/-- Settles O12: the checks of each decode pass one after another; the append sets the sequence's length as its last step, the attend's work keeps the
sequences and lengths that its decode has read (log entry 93). -/
theorem kvRecordPackets : Obligations.KvRecordPackets := by
  unfold Obligations.KvRecordPackets
  refine ⟨?append, ?attend⟩
  case append =>
    intro h a s s1 s2 s3 s4 s5 s6 c n f k j m src hd st len t hs hm hsrc hmaint hact hpol hcls hty hsrcty hwr hseal hr hfmt e x last need
      hnlay hlayers hseq hcount h65535 hform halign hfit hlen hpos hmax hlacks hneed hnote hset
    refine State.packet_done _ hs ?_
    simp only [hm, hsrc, hmaint]
    refine kvAnswer_ok ?_
    unfold kvAppendDec
    refine kvBind_then (kvPolder_ok hact hpol hcls) (kvBind_then (kvCheck_ok (by simp [hty, hsrcty])) ?_)
    refine kvBind_then (kvCheck_ok (by simp [hwr, hseal])) (kvBind_then (kvOpen_ok hr) ?_)
    refine kvBind_then (kvFormatted_ok hfmt) (kvBind_then (kvCheck_ok ?params) (kvBind_then hlen ?_))
    case params =>
      simp only [Bool.and_eq_true, decide_eq_true_eq, beq_iff_eq, and_assoc]
      exact ⟨hnlay, hlayers, hseq, hcount, h65535, hform, halign, hfit⟩
    refine kvBind_then (kvCheck_ok (Bool.and_eq_true_iff.mpr ⟨decide_eq_true hpos, decide_eq_true hmax⟩)) (kvBind_then hlacks ?_)
    exact kvBind_then (kvReserve_ok hneed) (kvBind_then (kvNotify_ok hnote) (kvBind_then hset rfl))
  case attend =>
    intro h a s s1 s2 s3 s4 c n f k j m src res hd qs hs hm hsrc hres hmaint hact hpol hcls hty hsrcty hresok hr hfmt e x
      hlayer hnq h1024 hqoff hroff hret hopts hout6 hout8 hspecial hzero hqfit hiff hrfit hqueries hport hnote
    have hresty : res.all (fun r => r.2.ty == 0) = true := (Option.all_eq_true _ _).mpr fun r he => beq_iff_eq.mpr (hresok r he).1
    have hreswr : res.all (fun r => r.2.flags.getLsbD 1) = true := (Option.all_eq_true _ _).mpr fun r he => (hresok r he).2
    have hresfit : res.all (fun r => decide (a.rOff + a.nq * x.rs a.outFmt a.opts ≤ r.2.len)) = true :=
      (Option.all_eq_true _ _).mpr fun r he => decide_eq_true (hrfit r he)
    have hdest : (a.ret == 1) = (a.results == 0) := by
      rw [Bool.eq_iff_iff, beq_iff_eq, beq_iff_eq]
      exact hiff
    refine State.packet_done _ hs ?_
    simp only [hm, hsrc, hres, hmaint]
    refine kvAnswer_ok ?_
    unfold kvAttendDec
    refine kvBind_then (kvPolder_ok hact hpol hcls) (kvBind_then (kvCheck_ok (by simp [hty, hsrcty, hresty])) ?_)
    refine kvBind_then (kvCheck_ok hreswr) (kvBind_then (kvOpen_ok hr) ?_)
    refine kvBind_then (kvFormatted_ok hfmt) (kvBind_then (kvCheck_ok ?params) (kvBind_then hqueries ?_))
    case params =>
      simp only [Bool.and_eq_true, decide_eq_true_eq, beq_iff_eq, Bool.not_eq_true', and_assoc]
      exact ⟨hlayer, hnq, h1024, hqoff, hroff, hret, hopts, hout6, hout8, hspecial, hzero, hqfit, hdest, hresfit⟩
    rw [kvGet_bind]
    exact kvBind_then (kvCheck_ok (by simpa using hport)) (kvBind_then (kvNotify_ok hnote) rfl)

/-! ## KV_FORK and KV_EVICT -/

/-- KV_EVICT's shared form, where its decode passes. -/
theorem State.evictPacket_done {s s1 t : State} {cmd : Instr} {i : OpInfo} {h : Hdr} {obj : Handle} {seq mode newLen c k : Nat}
    {dec : Nat → Disp → Nat × Mo → KvD Disp} {n : Word} {f : Option Nat} {m : Mo} {d : Disp} (hs : s.served i h = some (s1, c, n, f))
    (hm : s1.findMo c obj = some (k, m)) (hmaint : s1.brg.maint = false)
    (hd : dec c (s1.kvDisp h c n (.evict k seq mode newLen) [k]) (k, m) s1 = .ok d t) :
    s.evictPacket cmd i h obj seq mode newLen dec = .next ((t.accept d).done i h n f (leNats 8 d.ref.toNat)) := by
  refine State.packet_done _ hs ?_
  simp only [hm, hmaint]
  exact kvAnswer_ok hd

/-- RELEASE and TRUNCATE pass their checks on a sequence in use; a sealed object does not stop them, which is the model's choice (log entry 243). -/
theorem kvEvictDec_ok {h : Hdr} {c k seq mode newLen len : Nat} {cookie : DWord} {s1 s2 s3 s4 s5 : State} {n : Word} {w : Work} {m : Mo}
    {hd : List Byte} (hty : m.ty = 1) (hr : s1.readMo m .hub 0 48 = (s2, .ok hd)) (hfmt : imgNat hd 40 1 = 1)
    (hseq : seq < (s1.kvAt h n k m hd).geo.slots) (hlen : (s1.kvAt h n k m hd).seqLen seq s2 = .ok (1, len) s3) (hnew : mode = 0 ∨ newLen ≤ len)
    (hnote : s3.notify h c cookie = .ok s4)
    (hset : (if mode = 0 then (s1.kvAt h n k m hd).setSeq seq 0 0 s4 else (s1.kvAt h n k m hd).setSeq seq 1 newLen s4) = .ok () s5) :
    kvEvictDec h c seq mode newLen cookie (s1.kvDisp h c n w [k]) (k, m) s1 =
      .ok { s1.kvDisp h c n w [k] with state := .running, kvHead := hd } s5 := by
  unfold kvEvictDec
  refine kvBind_then (kvCheck_ok (by simp [hty])) (kvBind_then (kvOpen_ok hr) (kvBind_then (kvFormatted_ok hfmt) ?_))
  refine kvBind_then (kvCheck_ok (decide_eq_true hseq)) (kvBind_then hlen (kvBind_then (kvCheck_ok rfl) ?_))
  exact kvBind_then (kvCheck_ok (by simpa using hnew)) (kvBind_then (kvNotify_ok hnote) (kvIte_then hset rfl))

/-- Settles O13: the checks of each decode pass one after another, and its last step writes the directory: the child's entry, the sequence's entry, or
the header and every entry. -/
theorem kvDirectoryPackets : Obligations.KvDirectoryPackets := by
  unfold Obligations.KvDirectoryPackets
  refine ⟨?fork, ?release, ?truncate, ?format⟩
  case fork =>
    intro h obj parent child pfx cookie s s1 s2 s3 s4 s5 s6 c n f k m hd len qlen hs hm hmaint hty hwr hseal hr hfmt e x need
      hparent hchild hplen hclen hne hpfx hneed hnote hset
    refine State.packet_done _ hs ?_
    simp only [hm, hmaint]
    have hslots : (decide (parent < x.slots) && decide (child < x.slots)) = true :=
      Bool.and_eq_true_iff.mpr ⟨decide_eq_true hparent, decide_eq_true hchild⟩
    refine kvAnswer_ok ?_
    unfold kvForkDec
    refine kvBind_then (kvCheck_ok (by simp [hty])) (kvBind_then (kvCheck_ok (by simp [hwr, hseal])) ?_)
    refine kvBind_then (kvOpen_ok hr) (kvBind_then (kvFormatted_ok hfmt) (kvBind_then (kvCheck_ok hslots) ?_))
    refine kvBind_then hplen (kvBind_then hclen (kvBind_then (kvCheck_ok (by simp [hne])) (kvBind_then (kvCheck_ok (decide_eq_true hpfx)) ?_)))
    exact kvBind_then (kvReserve_ok hneed) (kvBind_then (kvNotify_ok hnote) (kvBind_then hset rfl))
  case release =>
    intro h obj seq cookie s s1 s2 s3 s4 s5 c n f k m hd len hs hm hmaint hty hr hfmt e hseq hlen hnote hset
    exact State.evictPacket_done hs hm hmaint (kvEvictDec_ok hty hr hfmt hseq hlen (.inl rfl) hnote hset)
  case truncate =>
    intro h obj seq newLen cookie s s1 s2 s3 s4 s5 c n f k m hd len hs hm hmaint hty hr hfmt e hseq hlen hnew hnote hset
    exact State.evictPacket_done hs hm hmaint (kvEvictDec_ok hty hr hfmt hseq hlen (.inr hnew) hnote hset)
  case format =>
    intro h obj cookie s s1 s2 s3 s4 s5 c n f k m hd hs hm hmaint hty hr hst e x free head hmagic hok hfirst hnote hhead hdir
    refine State.evictPacket_done hs hm hmaint ?_
    unfold kvFormatDec
    refine kvBind_then (kvCheck_ok (by simp [hty])) (kvBind_then (kvOpen_ok hr) ?_)
    refine kvBind_then (kvCheck_ok (Bool.and_eq_true_iff.mpr ⟨decide_eq_true hst, beq_iff_eq.mpr hmagic⟩)) (kvBind_then (kvCheck_ok ?params) ?_)
    case params =>
      simp only [Bool.and_eq_true, decide_eq_true_eq, beq_self_eq_true, true_and]
      exact ⟨hok, hfirst⟩
    exact kvBind_then (kvNotify_ok hnote) (kvBind_then (KvEnv.wr_ok hhead) (kvIte_then hdir (kvBind_then (a := ()) rfl rfl)))

end Sys2Proof.Machine
end

section
/-!
SUPPORT. One sector access of a context through a leaf: the owner's check (R212), FRESH frames (R210), and that a write reads back (R301, R302).
-/

namespace Sys2Proof.Machine

open Sys2Proof

/-! ## One sector access -/

/-- The bytes of a write read back. -/
theorem memRead_memPut (m : List Host.Cell) (a : Nat) (d : List Byte) : memRead (memPut m a d) a d.length = d := by
  rw [memRead_eq]
  refine List.ext_getElem (by simp) fun i _ h => ?_
  rw [List.getElem_map, List.getElem_range, memGet_memPut_in m a i h]

@[simp] theorem State.sampleAccess_objs (s : State) (lpf k : Nat) (who : By) : (s.sampleAccess lpf k who).objs = s.objs := by
  obtain ⟨a, b, h⟩ := sampleAccess_eq s lpf k who
  rw [h]

/-- A read of a sector that verifies, in a frame of the context that lies on a stack, gives the bytes that stand there (R302). -/
theorem State.readPiece_verified {s : State} {c lpf k : Nat} {f : Frame} {x : Ctx} (who : By) (cva n : Nat) (w : Bool) (hf : s.frame? lpf = some f)
    (ho : f.owner = some c) (hk : f.st.home = some k) (hx : s.ctx? c = some x) (hok : s.sectorOk x lpf cva = true) :
    (s.readPiece c who (.pool lpf w) cva n).2 = .ok (memRead s.pool.mem (65536 * lpf + cva % 65536) n) := by
  unfold State.readPiece
  simp only [hf, hx, ho, ne_eq, not_true_eq_false, if_false, hok, if_true]
  cases hst : f.st with
  | fresh | lost => rw [hst] at hk; cases hk
  | bound | moving => rfl

/-- What names the key of a context's sectors (R301). -/
def Ctx.sectorKey (x : Ctx) : Nat × Nat := (x.nonce, x.season)

/-- Accounting leaves the sectors' keys. -/
theorem State.account_sectorKey (s : State) (c d : Nat) (f : Acct → Acct) :
    ((s.account c f).ctx? d).map Ctx.sectorKey = (s.ctx? d).map Ctx.sectorKey := map_tmod fun _ => rfl

/-- What a write of one sector's bytes to a context's own frame leaves where it succeeds: the bytes put in a frame that lies on a stack, bound by the
write where it was FRESH, and the context with the key that they were written under. -/
structure Written (s t : State) (c lpf cva : Nat) (d : List Byte) (x : Ctx) (f : Frame) (k : Nat) : Prop where
  frame : t.frame? lpf = some f
  owner : f.owner = some c
  home : f.st.home = some k
  key : (t.ctx? c).map Ctx.sectorKey = some x.sectorKey
  mem : t.pool.mem = memPut s.pool.mem (65536 * lpf + cva % 65536) d
  tag : tget t.pool.tags (lpf * 256 + bits cva 8 8) = some { nonce := x.nonce, season := x.season, cva := cva / 256 }
  bad : t.pool.bad ⊆ s.pool.bad

/-- The bytes put into a frame `f` that lies on stack `k`, sampled, logged and accounted for. -/
theorem Written.of_put {s s1 t : State} {c lpf cva k : Nat} {d : List Byte} {x : Ctx} {f : Frame} (hf : s1.frame? lpf = some f)
    (ho : f.owner = some c) (hk : f.st.home = some k) (hkey : (t.ctx? c).map Ctx.sectorKey = some x.sectorKey)
    (hmem : s1.pool.mem = s.pool.mem) (hbad : s1.pool.bad = s.pool.bad) (hv : t.view = (s1.putSector x lpf cva d).view) :
    Written s t c lpf cva d x f k where
  frame := by
    have h : t.pool.frames = s1.pool.frames := congrArg PoolView.frames hv
    unfold State.frame?
    rw [h]
    exact hf
  owner := ho
  home := hk
  key := hkey
  mem := by
    rw [← hmem]
    exact congrArg PoolView.mem hv
  tag := by
    have h : t.pool.tags = tset s1.pool.tags (lpf * 256 + bits cva 8 8) { nonce := x.nonce, season := x.season, cva := cva / 256 } :=
      congrArg PoolView.tags hv
    rw [h, tget_tset, if_pos rfl]
  bad := by
    have h : t.pool.bad = if d.length = 256 then s1.pool.bad.filter (· != lpf * 256 + bits cva 8 8) else s1.pool.bad := congrArg PoolView.bad hv
    rw [h, hbad]
    split
    · exact List.filter_subset_self _
    · exact List.Subset.refl _

/-- A frame that is neither FRESH nor lost lies on a stack. -/
theorem FrSt.home_of_placed {st : FrSt} (hl : st ≠ .lost) (hf : st ≠ .fresh) : st.home = some (st.home.getD 0) := by
  cases st with
  | fresh => exact absurd rfl hf
  | lost => exact absurd rfl hl
  | bound | moving => rfl

/-- A write that succeeds has put its bytes into a frame of the context. -/
theorem State.writePiece_written {s t : State} {c lpf cva : Nat} {who : By} {pref : Option Nat} {w : Bool} {d : List Byte}
    (h : s.writePiece c who pref (.pool lpf w) cva d = (t, .ok ())) : ∃ x f k, Written s t c lpf cva d x f k := by
  unfold State.writePiece at h
  split at h
  case h_1 _ _ _ hleaf => cases hleaf
  case h_2 lpf w hleaf =>
    cases hleaf
    split at h
    case h_2 => cases h
    case h_1 f x hf hx =>
      split at h
      · cases h
      · rename_i hw
        have ho : f.owner = some c := by
          simp only [Bool.or_eq_true, bne_iff_ne, ne_eq, not_or, not_not] at hw
          exact hw.2
        extract_lets i put at h
        have hview : ∀ s1 k, (put s1 k).view = (s1.putSector x lpf cva d).view := fun s1 k => by simp [put, State.putSector, i]
        have hkey : ∀ s1 k, ((put s1 k).ctx? c).map Ctx.sectorKey = (s1.ctx? c).map Ctx.sectorKey := fun s1 k =>
          (State.account_sectorKey ..).trans (by simp [State.ctx?, State.dirtyFrame, State.modSlice])
        split at h
        case h_1 => cases h
        case h_2 =>
          split at h
          case h_2 => cases h
          case h_1 s1 k hb =>
            cases h
            obtain ⟨tags, g, -, rfl⟩ := State.bindFrame_eq hb
            have hf1 : ((s.onPool fun p => { p with tags := tags }).modFrame lpf fun f => { f with st := .bound k }).frame? lpf =
                some { f with st := .bound k } := by
              rw [State.frame?_modFrame, if_pos rfl]
              exact congrArg _ hf
            have hx1 : ((((s.onPool fun p => { p with tags := tags }).modFrame lpf fun f => { f with st := .bound k }).account c g).ctx? c).map
                Ctx.sectorKey = some x.sectorKey := (State.account_sectorKey ..).trans (congrArg (Option.map _) hx)
            exact ⟨x, _, k, .of_put hf1 ho rfl ((hkey _ k).trans hx1) rfl rfl (hview _ k)⟩
        case h_3 hlost hfresh =>
          extract_lets k at h
          split at h
          · cases h
            exact ⟨x, f, k, .of_put hf ho (FrSt.home_of_placed hlost hfresh) ((hkey s k).trans (congrArg (Option.map _) hx)) rfl rfl (hview s k)⟩
          · cases h

/-- The context reads back what it wrote (R302): the sector is tagged with its current season, at this address. -/
theorem Written.readBack {s t : State} {c lpf cva k : Nat} {d : List Byte} {x : Ctx} {f : Frame} (h : Written s t c lpf cva d x f k) (who : By) (w : Bool)
    (hb : s.pool.bad.contains (lpf * 256 + bits cva 8 8) = false) : (t.readPiece c who (.pool lpf w) cva d.length).2 = .ok d := by
  obtain ⟨y, hy, hkey⟩ := Option.map_eq_some_iff.mp h.key
  obtain ⟨hn, hs⟩ : y.nonce = x.nonce ∧ y.season = x.season := Prod.mk.inj hkey
  have hbad : t.pool.bad.contains (lpf * 256 + bits cva 8 8) = false := by
    simp only [List.contains_eq_mem, decide_eq_false_iff_not] at hb ⊢
    exact mt (@h.bad _) hb
  have hok : t.sectorOk y lpf cva = true := by
    simp only [State.sectorOk, hbad, h.tag]
    simp [Ctx.tagOk, hn, hs]
  rw [State.readPiece_verified who cva _ w h.frame h.owner h.home hy hok, h.mem, memRead_memPut]

/-- Settles O54: the owner's check comes first; a write that succeeds tags its sector with the context's season, and only its bytes change. -/
theorem sectorAccess : Obligations.SectorAccess := by
  unfold Obligations.SectorAccess
  refine ⟨?other, ?fresh, ?written⟩
  case other =>
    intro s c who pref lpf cva n w d f x hx hf ho
    simp [State.readPiece, State.writePiece, hf, hx, ho]
  case fresh =>
    intro s c who lpf cva n w f x hx hf ho hst
    simp [State.readPiece, hf, hx, ho, hst]
  case written =>
    intro s t c who who' pref lpf cva w w' d hbad hlen hw
    obtain ⟨x, f, k, hwr⟩ := State.writePiece_written hw
    refine ⟨hwr.readBack who' w' hbad, fun a ha => ?_⟩
    rw [hwr.mem]
    exact memGet_memPut_out _ ha

end Sys2Proof.Machine
end

section
/-!
SUPPORT. Register writes on a path that reaches their register (R507): the register rows, and the frame commands with their checks (R218, R219).
-/

namespace Sys2Proof.Machine

open Sys2Proof

/-! ## The register rows -/

/-- A write of an array's register, on a path that reaches it. -/
theorem onReg_reaches {p : Path} {s : State} {ok : Bool} {off : Nat} {f : State → State} (hok : ok = true) (hp : p.wf = true)
    (hr : s.reaches p off true = true) : s.onReg p ok off f = .next (f s).finish := by
  rw [hok, onReg_has]
  exact onBar0_reaches hp hr

/-- A write of a register of a licensed link, on a path that reaches it. -/
theorem onLink_reaches {p : Path} {s : State} {l o : Nat} {f : State → State} (hl : l < 48) (hlic : s.linkLicensed l = true) (hp : p.wf = true)
    (hr : s.reaches p (0x80000 + 256 * l + o) true = true) : s.onLink p l o f = .next (f s).finish := by
  unfold State.onLink
  rw [onReg_reaches (decide_eq_true hl) hp hr, if_pos hlic]

/-- Settles O16: each row is a write of its register. -/
theorem registerRows : Obligations.RegisterRows := by
  unfold Obligations.RegisterRows
  intro p s cmd off f hrow hp hr
  rcases hrow with ⟨b, rfl, rfl, rfl⟩ | ⟨l, v, hl, rfl, rfl, rfl⟩ | ⟨l, v, hl, rfl, rfl, rfl⟩ | ⟨q, k, w, v, hq, hk, hw, rfl, rfl, rfl⟩ | ⟨rfl, rfl, rfl⟩ |
    ⟨v, rfl, rfl, rfl⟩ | ⟨w, b, hw, rfl, rfl, rfl⟩ | ⟨w, b, hw, rfl, rfl, rfl⟩ | ⟨w, b, hw, rfl, rfl, rfl⟩ | ⟨w, b, hw, rfl, rfl, rfl⟩ |
    ⟨l, hl, hlic, rfl, hlink⟩ | ⟨l, b, hl, hlic, rfl, rfl, rfl⟩ | ⟨rfl, rfl, rfl⟩ | ⟨rfl, rfl, rfl⟩
  case _ => rw [exec_hubS0Go, execHubS0Go, onBar0_reaches hp hr]
  case _ => rw [exec_sliceRebind, execSliceRebind, Nat.add_zero, onReg_reaches (decide_eq_true hl) hp hr]
  case _ => rw [exec_sliceRebind, execSliceRebind, onReg_reaches (decide_eq_true hl) hp hr]
  case _ =>
    have hoff : 0x10000 + 0x400 * q + 0x40 + 16 * k + 4 * w = 0x10040 + 0x400 * q + 16 * k + 4 * w := by omega
    rw [exec_hubHpwinWrite, execHubHpwinWrite, hoff, onReg_reaches (decide_eq_true ⟨hq, hk, hw⟩) hp hr]
  case _ => rw [exec_pleInvGo, execPleInvGo, onBar0_reaches hp hr]
  case _ => rw [exec_pleReqDoneWrite, execPleReqDoneWrite, onBar0_reaches hp hr, if_pos rfl]
  case _ => rw [exec_evcPendSetWrite, execEvcPendSetWrite, onReg_reaches (decide_eq_true hw) hp hr]
  case _ => rw [exec_evcPendClrWrite, execEvcPendClrWrite, onReg_reaches (decide_eq_true hw) hp hr]
  case _ => rw [exec_evcMaskSetWrite, execEvcMaskSetWrite, onReg_reaches (decide_eq_true hw) hp hr]
  case _ => rw [exec_evcMaskClrWrite, execEvcMaskClrWrite, onReg_reaches (decide_eq_true hw) hp hr]
  case _ =>
    have hctrl : s.reaches p (0x80000 + 256 * l + 8) true = true := by
      rw [show 0x80000 + 256 * l + 8 = 0x80008 + 256 * l by omega]
      exact hr
    rcases hlink with ⟨rfl, rfl⟩ | ⟨rfl, rfl⟩ | ⟨rfl, rfl⟩ | ⟨rfl, rfl⟩
    · rw [exec_lnkCtrlRetrain, execLnkCtrlRetrain, onLink_reaches hl hlic hp hctrl]
    · rw [exec_lnkCtrlWidthGo, execLnkCtrlWidthGo, onLink_reaches hl hlic hp hctrl]
    · rw [exec_lnkCtrlRekey, execLnkCtrlRekey, onLink_reaches hl hlic hp hctrl]
    · rw [exec_lnkCtrlDown, execLnkCtrlDown, onLink_reaches hl hlic hp hctrl]
  case _ => rw [exec_lnkCfgEnableWrite, execLnkCfgEnableWrite, onLink_reaches hl hlic hp hr]
  case _ => rw [exec_lnkTopoLock, execLnkTopoLock, onBar0_reaches hp hr]
  case _ => rw [exec_pwrCcsleepReq, execPwrCcsleepReq, onBar0_reaches hp hr]

/-! ## The frame commands -/

section
variable {s t : State}

/-- BACK's checks in the order of R219, then its effect. -/
theorem State.backCmd_ok {b : Back} {m : Mo} (hfr : s.pool.frozen = false) (hin : s.fcmdInRange = true)
    (hb : s.pool.backs.find? (fun b => BitVec.ofNat 32 b.req == s.pool.fReq) = some b) (hm : s.mo? b.mo = some m)
    (hn : b.backed + s.fcmdCount ≤ b.frames) (hfree : ∀ k ∈ s.fcmdFrames, thas s.pool.frames k = false)
    (hroom : s.backed + s.fcmdCount ≤ s.placeable s.pool.embank) :
    s.backCmd = .ok ((s.putFresh s.fcmdFrames (Frame.new (some m.ctx) b.mo (if m.ty = 1 then 0 else m.policy) b.req)).onPool fun q =>
      { q with backs := q.backs.map fun x => if x.req = b.req then { x with backed := x.backed + s.fcmdCount } else x }) := by
  have hall : (s.fcmdFrames.all fun k => !thas s.pool.frames k) = true := by simpa using hfree
  unfold State.backCmd
  rw [check_bind (by simp [hfr]), check_bind hin, want_bind hb, want_bind hm, check_bind (decide_eq_true hn), check_bind hall,
    check_bind (decide_eq_true hroom)]
  rfl

/-- TABLE's checks, then its effect. -/
theorem State.tableCmd_ok (hfr : s.pool.frozen = false) (hin : s.fcmdInRange = true) (hfree : ∀ k ∈ s.fcmdFrames, thas s.pool.frames k = false)
    (hroom : s.backed + s.fcmdCount ≤ s.placeable s.pool.embank) : s.tableCmd = .ok (s.putFresh s.fcmdFrames (Frame.new none 0 1 0)) := by
  have hall : (s.fcmdFrames.all fun k => !thas s.pool.frames k) = true := by simpa using hfree
  unfold State.tableCmd
  rw [check_bind (by simp [hfr]), check_bind hin, check_bind hall, check_bind (decide_eq_true hroom)]
  rfl

/-- UNTABLE's checks, then its effect. -/
theorem State.untableCmd_ok (hin : s.fcmdInRange = true) (htab : ∀ k ∈ s.fcmdFrames, ∃ f, s.frame? k = some f ∧ f.owner = none) :
    s.untableCmd = .ok (s.unback s.fcmdFrames) := by
  have hall : (s.fcmdFrames.all fun k => (s.frame? k).any fun f => f.owner.isNone) = true := by
    refine List.all_eq_true.mpr fun k hk => ?_
    obtain ⟨f, hf, ho⟩ := htab k hk
    simp [hf, ho]
  unfold State.untableCmd
  rw [check_bind hin, check_bind hall]
  rfl

/-- QUERY of a bound frame of a context, while not Sealed (R218). -/
theorem State.queryCmd_bound {f : Frame} {c a : Nat} (hc : s.pool.fCount = 1) (hin : s.fcmdInRange = true) (hf : s.frame? s.pool.fLpf = some f)
    (ho : f.owner = some c) (hst : f.st = .bound a) (hsec : s.sen.sec = 0) :
    s.queryCmd = .ok (s.onPool fun q => { q with rStack := a, rState := 2, rOwner := c }) := by
  have hcode : f.code = 2 := by simp [Frame.code, ho, hst]
  unfold State.queryCmd
  rw [check_bind (by simp [hc]), check_bind hin]
  simp only [hf, hsec, hcode, ho, hst, bne_self_eq_false, Bool.false_and, Bool.false_eq_true, if_false, if_true]
  rfl

/-- QUERY of a table frame: STATE 5, no owner and a free STACK (R218; log entry 106). -/
theorem State.queryCmd_table {f : Frame} (hc : s.pool.fCount = 1) (hin : s.fcmdInRange = true) (hf : s.frame? s.pool.fLpf = some f)
    (ho : f.owner = none) : s.queryCmd = .ok ((s.drew 1).onPool fun q => { q with rStack := s.peek % 32, rState := 5, rOwner := 0 }) := by
  have hcode : f.code = 5 := by simp [Frame.code, ho]
  unfold State.queryCmd
  rw [check_bind (by simp [hc]), check_bind hin]
  simp only [hf, hcode, ho, Option.any_none, Bool.and_false, Bool.false_eq_true, if_false]
  rfl

/-- A frame command whose checks pass has its effect and the status OK. -/
theorem State.fcmd_ok {p : Path} {cmd : State → Except Status State} (hp : p.wf = true) (hr : s.reaches p 0x34008 true = true) (h : cmd s = .ok t) :
    (s.onBar0 p 0x34008 fun s => s.fcmdDone (cmd s)) = .next (t.onPool fun q => { q with fStat := .ok }).finish := by
  rw [onBar0_reaches hp hr, h]
  rfl

end

/-- Settles O18: each command's register is reached and its checks pass. -/
theorem frameCommands : Obligations.FrameCommands := by
  unfold Obligations.FrameCommands
  refine ⟨?back, ?table, ?untable, ?bound, ?tableQuery⟩
  case back =>
    intro p s b m hp hr hfr hin hb hm hn hfree hroom
    rw [exec_back, execBack, State.fcmd_ok hp hr (State.backCmd_ok hfr hin hb hm hn hfree hroom)]
    rfl
  case table =>
    intro p s hp hr hfr hin hfree hroom
    rw [exec_table, execTable, State.fcmd_ok hp hr (State.tableCmd_ok hfr hin hfree hroom)]
  case untable =>
    intro p s hp hr hin htab
    rw [exec_untable, execUntable, State.fcmd_ok hp hr (State.untableCmd_ok hin htab)]
  case bound =>
    intro p s f c a hp hr hc hin hf ho hst hsec
    rw [exec_query, execQuery, State.fcmd_ok hp hr (State.queryCmd_bound hc hin hf ho hst hsec)]
    rfl
  case tableQuery =>
    intro p s f hp hr hc hin hf ho
    rw [exec_query, execQuery, State.fcmd_ok hp hr (State.queryCmd_table hc hin hf ho)]
    rfl

end Sys2Proof.Machine
end

section
/-!
SUPPORT. The key timers (R304 to R306), the placement engine's events (R224 to R234), and the reset values.
-/

namespace Sys2Proof.Machine

open Sys2Proof

/-! ## The key timers -/

/-- The end of a sweep that meets no unreadable sector (R305). -/
theorem State.endSweep_readable {s : State} {c : Nat} {x : Ctx} (h : ∀ i ∈ s.oldSectors c x, i ∉ s.pool.bad) :
    let s1 := s.onPool fun p => { p with tags := (s.oldSectors c x).foldl (fun t i => tmod t i fun y => { y with season := x.season }) p.tags }
    let s2 := (s1.modCtx c fun y => { y with sweep := .none, prevLive := false }).destroyKeys (· == .ctx c (x.season - 1))
    s.endSweep c x = ((tkeys s2.pool.stks (·.inSvc)).foldl (fun a k => a.raiseEdge (768 + 8 * k + 3)) s2).raiseEdge 41 := by
  have hnone : (s.oldSectors c x).find? s.pool.bad.contains = none := List.find?_eq_none.mpr fun i hi => by simpa using h i hi
  unfold State.endSweep
  simp only [hnone]

/-- Settles O31: a rotation that is due, and the end of a sweep that no sluice holds. -/
theorem keyTimers : Obligations.KeyTimers := by
  unfold Obligations.KeyTimers
  refine ⟨?rotate, ?sweep⟩
  case rotate =>
    intro c s x hx hact hsw hival hlive hdue hseason
    have hall : (s.slice? x.slice).all (fun l => l.state == .active) = true := by simpa [Option.all_eq_true] using hlive
    simp only [exec_autoKeyRotate, execAutoKeyRotate, hx]
    rw [if_pos (by simpa [hact, hsw, hival, hall, hdue] using hseason), State.rotate_eq hx]
  case sweep =>
    intro c s x hx hsw hheld hbad
    simp only [exec_sweepComplete, execSweepComplete, hx]
    rw [if_pos ⟨hsw, hheld⟩, State.endSweep_readable hbad]

/-! ## The placement engine's events -/

/-- A placement move that has been made (R226). -/
theorem State.moved_placement {s : State} {m : Move} (he : m.evac = false) :
    let c := stepCount (s.sen.sec != 0) 1000000 s.now s.pool.moved s.pool.movedHid s.pool.movedAt
    s.moved m = ((s.modFrame m.lpf fun f => match f.st with | .moving _ b => { f with st := .bound b } | _ => f).remapped m.lpf).onPool fun p =>
      { p with stats := tset p.stats m.lpf { tgetD p.stats m.lpf Stat.zero with age := 0 }, moved := c.1, movedHid := c.2.1, movedAt := c.2.2 } := by
  unfold State.moved
  simp only [he]
  rfl

theorem State.raiseEdge_pool (s : State) (i : Nat) : (s.raiseEdge i).pool = s.pool := rfl
theorem State.modStack_moves (s : State) (k : Nat) (f : Stack → Stack) : (s.modStack k f).pool.moves = s.pool.moves := rfl

/-- Settles O32: each event's conditions hold, and its effect is the state of the statement. -/
theorem placementEvents : Obligations.PlacementEvents := by
  unfold Obligations.PlacementEvents
  refine ⟨?epoch, ?start, ?copied, ?invalidated, ?retrained, ?failed, ?unreadable⟩
  case epoch =>
    intro s
    rfl
  case start =>
    intro k s q m s0 hn
    simp only [exec_moveStart, execMoveStart]
    rw [hn]
  case copied =>
    intro lpf s m hm he hgood hheld
    obtain rfl : m.lpf = lpf := by simpa using List.find?_some hm
    simp only [exec_moveCopyDone, execMoveCopyDone, hm, hgood, hheld, Bool.false_eq_true, if_false]
    exact congrArg (fun t : State => Host.Outcome.next t.finish) (State.moved_placement he)
  case invalidated =>
    intro s c b n hj
    simp only [exec_invalidationDone, execInvalidationDone, hj]
  case retrained =>
    intro k s x hx
    simp only [exec_stackPhyTrainingLoss, execStackPhyTrainingLoss, hx]
    rfl
  case failed =>
    intro k s x hx h2
    have h3 : 3 ≤ x.fails + 1 := Nat.succ_le_succ h2
    simp only [exec_stackPhyTrainingLoss, execStackPhyTrainingLoss, hx, Bool.false_eq_true, if_false, h3, if_true]
  case unreadable =>
    intro k lpf i s x f hi hx hf hst hb hmv
    have hix : lpf * 256 + i = 256 * lpf + i := by rw [Nat.mul_comm]
    have hhere : (decide (i < 256) && f.st.home == some k) = true := by simp [hi, hst, FrSt.home]
    have hnote : (s.onPool fun p => { p with bad := if p.bad.contains (256 * lpf + i) then p.bad else (256 * lpf + i) :: p.bad }) =
        s.onPool fun p => { p with bad := (256 * lpf + i) :: p.bad } := by
      simp only [State.onPool, hb, Bool.false_eq_true, if_false]
    simp only [exec_uncorrectableRead, execUncorrectableRead, hx, hf, hhere, if_true, hix, hnote, State.raiseEdge_pool, State.modStack_moves,
      State.onPool_pool, hmv]

/-! ## The reset values -/

/-- Settles O49: the reset state is a concrete one, whose registers evaluate to these values. -/
theorem resetValues : Obligations.ResetValues := by
  unfold Obligations.ResetValues
  decide

end Sys2Proof.Machine
end

section
/-!
SUPPORT. The supply, power and temperature commands: what each leaves as it was (R475, R478 to R487), and what each does (R263, R428, R433).
-/

namespace Sys2Proof.Machine

open Sys2Proof

/-! ## Notices and wakes -/

theorem State.raiseVec_eq (s : State) (l v : Nat) : ∃ q o, s.raiseVec l v = { s with ports := q, out := o } := by
  unfold State.raiseVec State.raisePort
  split
  · split
    · exact ⟨s.ports, _, rfl⟩
    · exact ⟨_, s.out, rfl⟩
  · exact ⟨s.ports, s.out, rfl⟩

/-- A notice of nonempty is a source, a vector or an output (R432). -/
theorem State.noteNonempty_eq (s : State) (m : Nat) : ∃ v q o, s.noteNonempty m = { s with evc := v, ports := q, out := o } := by
  unfold State.noteNonempty
  split
  · exact ⟨_, s.ports, s.out, rfl⟩
  · obtain ⟨q, o, h⟩ := s.raiseVec_eq 0 (s.mbox 0).vector
    exact ⟨s.evc, q, o, h⟩
  · exact ⟨s.evc, s.ports, _, rfl⟩

/-- A wake loads microcode, where the cluster was in Deep, and gives the notice that waits (R433, R448). -/
theorem State.wakeCluster_eq (s : State) (c : Nat) : ∃ p b v l q o,
    s.wakeCluster c = { s with pwr := p, mbx := b, evc := v, brg := { s.brg with loaded := l }, ports := q, out := o } := by
  have hload : ∃ p l, ((if (s.clu c).st = 3 then s.loadUcode c else s).setClu c 1).dashed [c] =
      { s with pwr := p, brg := { s.brg with loaded := l } } := by
    split
    · exact ⟨_, _, rfl⟩
    · exact ⟨_, s.brg.loaded, rfl⟩
  obtain ⟨p, l, hl⟩ := hload
  unfold State.wakeCluster
  split
  · exact ⟨s.pwr, s.mbx, s.evc, s.brg.loaded, s.ports, s.out, rfl⟩
  · simp only [hl]
    split
    · obtain ⟨v, q, o, h⟩ := State.noteNonempty_eq
        (State.modMbox { s with pwr := p, brg := { s.brg with loaded := l } } (12 + c) fun x => { x with wake := false }) (12 + c)
      exact ⟨p, _, v, l, q, o, h⟩
    · exact ⟨p, s.mbx, s.evc, l, s.ports, s.out, rfl⟩

/-! ## Voltage, power and temperature -/

/-- A voltage request changes the request, when it was made and the bus's error (R470, R471). -/
theorem State.vstep_eq (s : State) (ok : Bool) : ∃ a v l o,
    s.vstep ok = { s with pwr := { s.pwr with avsErr := a, vreq := v, lastV := l }, out := o } := by
  have hsame : ∃ a v l o, s = { s with pwr := { s.pwr with avsErr := a, vreq := v, lastV := l }, out := o } :=
    ⟨s.pwr.avsErr, s.pwr.vreq, s.pwr.lastV, s.out, rfl⟩
  unfold State.vstep
  extract_lets p w r
  split
  · split
    · exact ⟨false, s.pwr.vreq, s.pwr.lastV, s.out, rfl⟩
    · exact hsame
  · split
    · exact hsame
    · split
      · exact ⟨s.pwr.avsErr, r, s.now, _, rfl⟩
      · exact ⟨true, s.pwr.vreq, s.pwr.lastV, s.out, rfl⟩

/-- The sources of the dies are all that a temperature step changes outside the power state (R485). -/
theorem State.hotSources_eq (s : State) : ∃ v, s.hotSources = { s with evc := v } := by
  unfold State.hotSources
  refine List.foldlRecOn (motive := fun a : State => ∃ v, a = { s with evc := v }) _ _ ⟨s.evc, rfl⟩ fun a ha e _ => ?_
  obtain ⟨v, rfl⟩ := ha
  exact ⟨_, rfl⟩

/-- The contexts whose energy a measurement counts keep everything but their accounts (R264). -/
theorem State.countEnergy_eq (l : List Nat) (s : State) : ∃ x f,
    l.foldl (fun a c => (a.drew 1).account c fun y => { y with energyUj := y.energyUj + BitVec.ofNat 64 (Config.energy a.free) }) s =
      { s with objs := { s.objs with ctxs := x }, free := f } := by
  refine List.foldlRecOn (motive := fun a : State => ∃ x f, a = { s with objs := { s.objs with ctxs := x }, free := f }) _ _
    ⟨s.objs.ctxs, s.free, rfl⟩ fun a ha c _ => ?_
  obtain ⟨x, f, rfl⟩ := ha
  exact ⟨_, _, rfl⟩

/-- A measurement of `uw` microwatts: above the limit the power ceiling falls by 10 (R484, R264). -/
theorem State.measurePower_eq (s : State) (mv uw : Nat) : ∃ p x f,
    s.measurePower mv uw = { s with pwr := p, objs := { s.objs with ctxs := x }, free := f } ∧
      (s.pwr.plim * 1000000 < uw → p.pceil = s.pwr.pceil - 10) ∧ p.meas = mv ∧ p.energy = s.pwr.energy + uw := by
  unfold State.measurePower
  extract_lets p avg lim sus hot cool calm ceil full s1
  obtain ⟨x, f, h⟩ := State.countEnergy_eq ((s1.sched.disps.filter (·.holds)).map (·.ctx)).dedup s1
  refine ⟨s1.pwr, x, f, h, fun hlim => ?_, rfl, rfl⟩
  have hhot : hot = true := by simp [hot, lim, p, hlim]
  exact if_pos hhot

/-- The clusters whose rate monitors count (R475). -/
abbrev State.rated (s : State) : List Nat := s.actives.filter (fun c => decide ((s.clu c).st ≤ 1))

/-- The clusters below their floors are all that a rate update changes outside the almanac (R475). -/
theorem State.slowRates_eq (s : State) (mhz cs : List Nat) : ∃ v,
    cs.foldl (fun a c => if mhz.getD c 0 < a.rateFloor c then a.raiseEdge (256 + 16 * c + 5) else a) s = { s with evc := v } := by
  refine List.foldlRecOn (motive := fun a : State => ∃ v, a = { s with evc := v }) _ _ ⟨s.evc, rfl⟩ fun a ha c _ => ?_
  obtain ⟨v, rfl⟩ := ha
  split
  · exact ⟨_, rfl⟩
  · exact ⟨v, rfl⟩

/-- A rate update rewrites the almanac's rate, which is the lowest of the averages unless the block is Sealed; GENERATION stays (R72, R475). -/
theorem execRateUpdate_eq (mhz : List Nat) (s : State) : ∃ v f r m n,
    execRateUpdate mhz s = .next { s with evc := v, free := f, alm := { s.alm with rate := r, sum := m, cnt := n } } ∧
      ∀ k, s.sen.sec = 0 → (s.rated.map (fun c => mhz.getD c 0)).min? = some k → r = k := by
  obtain ⟨v, hv⟩ := s.slowRates_eq mhz s.rated
  unfold execRateUpdate
  extract_lets on s2
  split
  rename_i s3 r hr
  have hlow : (∃ f, s3 = { s with evc := v, free := f }) ∧ ∀ k, (on.map (fun c => mhz.getD c 0)).min? = some k → r = k := by
    split at hr
    · rename_i m hm
      obtain ⟨rfl, rfl⟩ := Prod.mk.inj hr
      exact ⟨⟨s.free, hv⟩, fun k hk => Option.some.inj (hm.symm.trans hk)⟩
    · rename_i hm
      obtain ⟨rfl, -⟩ := Prod.mk.inj hr
      exact ⟨⟨s.free + 1, congrArg (·.drew 1) hv⟩, fun k hk => nomatch hm.symm.trans hk⟩
  obtain ⟨⟨f, rfl⟩, hlow⟩ := hlow
  refine ⟨v, f, ?_⟩
  extract_lets a
  split
  · exact ⟨_, _, _, rfl, fun k _ hk => hlow k hk⟩
  · rename_i hsec
    split
    all_goals exact ⟨_, _, _, rfl, fun k h0 _ => absurd h0 hsec⟩

/-- The thermal ceiling and the throttle after a step that read `temps` are those of `q` (R485). -/
abbrev Pwr.CeilingStep (p : Pwr) (temps : List Nat) (q : Pwr) : Prop :=
  ((∃ x ∈ temps, p.tthr < x) → q.tceil = max 600 (p.tceil - 5)) ∧ ((∀ x ∈ temps, x + 2 ≤ p.tthr) → q.tceil = min 850 (p.tceil + 5)) ∧
    q.throt = if temps.any (fun x => decide (105 < x)) then min 7 (p.throt + 1) else p.throt - 1

/-- The thermal ceiling falls by 5 where a die is above THR, and rises by 5 where all are 2 degrees below (R485). -/
theorem State.thermal_eq (s : State) (temps : List Nat) : ∃ p v,
    s.thermal temps = { s with pwr := p, evc := v } ∧ s.pwr.CeilingStep temps p := by
  obtain ⟨v, hv⟩ := State.hotSources_eq (s.onPwr _)
  refine ⟨_, v, hv, fun hhot => if_pos (by simpa using hhot), fun hcool => ?_, rfl⟩
  have hnot : ¬ temps.any (fun t => decide (s.pwr.tthr < t)) = true := by
    simp only [List.any_eq_true, decide_eq_true_eq, not_exists, not_and, Nat.not_lt]
    exact fun t ht => (Nat.le_add_right t 2).trans (hcool t ht)
  exact (if_neg hnot).trans (if_pos (by simpa using hcool))

/-- A temperature step is the thermal ceiling's, then a voltage request (R470, R485). -/
theorem execThermalCeilingStep_eq (temps : List Nat) (s : State) : ∃ p v f o,
    execThermalCeilingStep temps s = .next { s with pwr := p, evc := v, free := f, out := o } ∧ s.pwr.CeilingStep temps p := by
  obtain ⟨p, v, ht, hfields⟩ := s.thermal_eq temps
  obtain ⟨a, r, n, o, ho⟩ := State.vstep_eq ((s.thermal temps).drew 1) ((s.thermal temps).peek % 2 == 1)
  rw [ht] at ho
  refine ⟨{ p with avsErr := a, vreq := r, lastV := n }, v, s.free + 1, o, ?_, hfields⟩
  rw [execThermalCeilingStep, ht, ho]
  rfl

/-- A power measurement is recorded, then a voltage request is made (R470, R484). -/
theorem execPowerMeasurement_eq (mv ma : Nat) (ok : Bool) (s : State) : ∃ p x f o,
    execPowerMeasurement mv ma ok s = .next { s with pwr := p, objs := { s.objs with ctxs := x }, free := f, out := o } ∧
      (s.pwr.plim * 1000000 < mv * ma → p.pceil = s.pwr.pceil - 10) ∧ p.meas = mv ∧ p.amps = ma ∧ p.energy = s.pwr.energy + mv * ma := by
  obtain ⟨p, x, f, hm, hceil, hmeas, hen⟩ := s.measurePower_eq mv (mv * ma)
  obtain ⟨a, r, n, o, ho⟩ := State.vstep_eq ((s.measurePower mv (mv * ma)).onPwr fun p => { p with amps := ma }) ok
  rw [hm] at ho
  refine ⟨{ p with amps := ma, avsErr := a, vreq := r, lastV := n }, x, f, o, ?_, hceil, hmeas, rfl, hen⟩
  rw [execPowerMeasurement, hm, ho]
  rfl

/-! ## What each command leaves as it was -/

theorem execThermalCeilingStep_frame {l : List Nat} {s t : State} (h : execThermalCeilingStep l s = .next t) :
    t = { s with pwr := t.pwr, evc := t.evc, free := t.free, out := t.out } := by
  obtain ⟨p, v, f, o, hr, -⟩ := execThermalCeilingStep_eq l s
  obtain rfl := Host.Outcome.next.inj (h.symm.trans hr)
  rfl

theorem execRateUpdate_frame {l : List Nat} {s t : State} (h : execRateUpdate l s = .next t) :
    t = { s with pwr := t.pwr, evc := t.evc, alm := t.alm, free := t.free } ∧ t.alm.gen = s.alm.gen := by
  obtain ⟨v, f, r, m, n, hr, -⟩ := execRateUpdate_eq l s
  obtain rfl := Host.Outcome.next.inj (h.symm.trans hr)
  exact ⟨rfl, rfl⟩

theorem execPowerMeasurement_frame {mv ma : Nat} {ok : Bool} {s t : State} (h : execPowerMeasurement mv ma ok s = .next t) :
    t = { s with pwr := t.pwr, objs := t.objs, free := t.free, out := t.out } ∧ t.objs = { s.objs with ctxs := t.objs.ctxs } := by
  obtain ⟨p, x, f, o, hr, -⟩ := execPowerMeasurement_eq mv ma ok s
  obtain rfl := Host.Outcome.next.inj (h.symm.trans hr)
  exact ⟨rfl, rfl⟩

theorem execSupplyWarn_frame {s t : State} (h : execSupplyWarn s = .next t) : t = { s with pwr := t.pwr, evc := t.evc, sched := t.sched } := by
  unfold execSupplyWarn at h
  split at h
  · obtain rfl := Host.Outcome.next.inj h
    rfl
  · obtain rfl := Host.Outcome.next.inj h
    split <;> rfl

theorem execSupplyClear_frame {s t : State} (h : execSupplyClear s = .next t) : t = { s with pwr := t.pwr, evc := t.evc, sched := t.sched } := by
  unfold execSupplyClear at h
  split at h <;> (obtain rfl := Host.Outcome.next.inj h; rfl)

theorem execClusterNapEntry_frame {c : Nat} {s t : State} (h : execClusterNapEntry c s = .next t) : t = { s with pwr := t.pwr } := by
  unfold execClusterNapEntry at h
  split at h <;> (obtain rfl := Host.Outcome.next.inj h; rfl)

theorem execClusterDeepEntry_frame {c : Nat} {s t : State} (h : execClusterDeepEntry c s = .next t) :
    t = { s with pwr := t.pwr, brg := t.brg } ∧ t.brg = { s.brg with loaded := t.brg.loaded } := by
  unfold execClusterDeepEntry at h
  split at h <;> (obtain rfl := Host.Outcome.next.inj h; exact ⟨rfl, rfl⟩)

theorem execClusterWake_frame {c : Nat} {s t : State} (h : execClusterWake c s = .next t) :
    t = { s with pwr := t.pwr, mbx := t.mbx, evc := t.evc, brg := t.brg, ports := t.ports, out := t.out } ∧
      t.brg = { s.brg with loaded := t.brg.loaded } := by
  unfold execClusterWake at h
  split at h
  · obtain ⟨p, b, v, l, q, o, hw⟩ := s.wakeCluster_eq c
    rw [hw] at h
    obtain rfl := Host.Outcome.next.inj h
    exact ⟨rfl, rfl⟩
  · obtain rfl := Host.Outcome.next.inj h
    exact ⟨rfl, rfl⟩

theorem execClusterWake_notDue {c : Nat} {s : State} (h : s.wakeDue c = false) : execClusterWake c s = .next s := by
  simp [execClusterWake, h]

theorem execControlClusterDown_frame {s t : State} (h : execControlClusterDown s = .next t) : t = { s with pwr := t.pwr, evc := t.evc } := by
  unfold execControlClusterDown at h
  split at h <;> (obtain rfl := Host.Outcome.next.inj h; rfl)

/-- Settles O59: each command's frame is its lemma above. -/
theorem powerFrame : Obligations.PowerFrame := by
  unfold Obligations.PowerFrame
  intro c s t h
  refine ⟨?thermal, ?rate, ?power, ?supply, ?nap, ?deep, ?wake, ?down⟩
  case thermal =>
    rintro ⟨l, rfl⟩
    exact execThermalCeilingStep_frame h
  case rate =>
    rintro ⟨l, rfl⟩
    exact execRateUpdate_frame h
  case power =>
    rintro ⟨mv, ma, ok, rfl⟩
    exact execPowerMeasurement_frame h
  case supply =>
    rintro (rfl | rfl)
    · exact execSupplyWarn_frame h
    · exact execSupplyClear_frame h
  case nap =>
    rintro ⟨n, rfl⟩
    exact execClusterNapEntry_frame h
  case deep =>
    rintro ⟨n, rfl⟩
    exact execClusterDeepEntry_frame h
  case wake =>
    rintro n rfl
    obtain ⟨ht, hb⟩ := execClusterWake_frame h
    exact ⟨ht, hb, fun hn => Host.Outcome.next.inj (h.symm.trans (execClusterWake_notDue hn))⟩
  case down =>
    rintro rfl
    exact execControlClusterDown_frame h

/-! ## What wakes, and what waits for the control cluster -/

/-- A message for the cluster's CSQ, or a start that the scheduler makes next on its engines, makes a wake due (R482). -/
theorem State.wakeDue_of {s : State} {c k : Nat} {d : Disp} {p : Polder} {es : List Nat}
    (h : (s.mbox (12 + c)).wake = true ∨
      (k, p) ∈ s.sched.polders ∧ thas s.sched.resets k = false ∧ s.nextStart k p = some (d, some es) ∧ ∃ e ∈ es, e / 16 = c) :
    s.wakeDue c = true := by
  rcases h with hmsg | ⟨hp, hr, hn, e, he, hc⟩
  · simp [State.wakeDue, hmsg]
  · refine Bool.or_eq_true_iff.mpr (.inr (List.any_eq_true.mpr ⟨(k, p), hp, ?_⟩))
    simp only [hn, hr, Bool.not_false, Bool.true_and, List.any_eq_true, beq_iff_eq]
    exact ⟨e, he, hc⟩

/-- No firmware packet is in service where each is answered or waits in the line (R481). -/
theorem State.serving_false {s : State} (h : ∀ e ∈ s.objs.queues, e.2.fwBusy = none ∨ ∃ w ∈ s.objs.fwQ, w.queue = e.1) : s.serving = false := by
  refine List.any_eq_false.mpr fun e he => ?_
  rcases h e he with hnone | ⟨w, hw, hq⟩
  · simp [hnone]
  · have hline : s.objs.fwQ.any (fun w => w.queue == e.1) = true := List.any_eq_true.mpr ⟨w, hw, by simp [hq]⟩
    simp [hline]

/-- The notices that waited for the control cluster change no object and no power state (R433). -/
theorem State.giveNotices_objs_pwr (l : List (Nat × Mbox)) (s : State) :
    let t := l.foldl (fun a e => (a.modMbox e.1 fun x => { x with wake := false }).noteNonempty e.1) s
    t.objs = s.objs ∧ t.pwr = s.pwr := by
  refine List.foldlRecOn (motive := fun a : State => a.objs = s.objs ∧ a.pwr = s.pwr) _ _ ⟨rfl, rfl⟩ fun a ha e _ => ?_
  obtain ⟨v, q, o, h⟩ := State.noteNonempty_eq (a.modMbox e.1 fun x => { x with wake := false }) e.1
  rw [h]
  exact ha

/-- The control cluster is up after a wake for a cause that stands, and the objects are as they were. -/
theorem State.ccUp_woken {s : State} (hdown : s.pwr.ccUp = false) (hwakes : s.ccWakes = true) :
    s.ccUp.objs = s.objs ∧ s.ccUp.pwr.ccUp = true := by
  unfold State.ccUp
  rw [if_pos (by simp [hdown, hwakes])]
  exact ⟨(State.giveNotices_objs_pwr _ _).1, congrArg Pwr.ccUp (State.giveNotices_objs_pwr _ _).2⟩

/-- An empty line leaves the firmware nothing to serve. -/
theorem State.lineServe_empty {s : State} (h : s.objs.fwQ = []) : s.lineServe = s := by
  unfold State.lineServe
  rw [h]
  exact ite_self s

/-- The firmware serves the one packet of its line that it may take. -/
theorem State.lineServe_one {s t : State} {e w : FwWait} (hup : s.pwr.ccUp = true) (hline : s.objs.fwQ = [w]) (hhead : s.fwHead = some e)
    (hserve : firmware e.cmd s = .next t) : s.lineServe = t := by
  unfold State.lineServe
  rw [if_pos hup, hline]
  simp only [List.length_singleton, State.lineGo, hhead, hserve]

/-- A firmware packet that issues while the control cluster is down is fetched, and waits (R83, R428). -/
theorem State.packet_waits {s s1 s2 : State} {cmd : Instr} {i : OpInfo} {h : Hdr} {op : State → Nat → Word → State × Ans} {x : Queue}
    (hdown : s.pwr.ccUp = false) (hfw : isHw i.code = false) (hcont : h.cont ≤ 15) (hx : s.queue? h.q = some x) (hst : s.stands i h x = true)
    (hi : s.canIssue h.q x h = true) (hm : s.fetchMiss h.q x (needOf h) = some (s1, false)) (hdown1 : s1.pwr.ccUp = false)
    (hr : (s1.takeTurn h.q x).fetchRing h.q x (needOf h) = (s2, true)) :
    s.packet cmd i h op = .next (s2.fwWait { queue := h.q, count := x.head, code := i.code, hdr := h, cmd := cmd }).finish := by
  have hnone : s.fwHead.filter (fun e => s.pwr.ccUp && e.queue == h.q && e.code == i.code && e.hdr == h) = none := by simp [hdown]
  have hlater : (isHw i.code || s1.pwr.ccUp || decide (15 < h.cont)) = false := by simp [hfw, hdown1, hcont]
  have htake : s.take i h = .wait s2 x.head := by
    simp only [State.take, hx, hnone, hst, hi, hm, hr, hlater]
    rfl
  rw [State.packet, htake]

/-- Settles O41: each event's conditions hold, and its effect is the state of the statement, or has its fields. -/
theorem powerEvents : Obligations.PowerEvents := by
  unfold Obligations.PowerEvents
  refine ⟨?warn, ?dipAgain, ?dipEnd, ?clear, ?power, ?thermal, ?rate, ?nap, ?deep, ?wake, ?down, ?ccUp, ?ccServes, ?fwWaits⟩
  case warn =>
    intro s hdip hwarn
    simp only [exec_supplyWarn, execSupplyWarn, hdip, hwarn, Bool.false_eq_true, if_false]
  case dipAgain =>
    intro s hdip hwarn
    simp only [exec_supplyWarn, execSupplyWarn, hdip, hwarn, Bool.false_eq_true, if_false, if_true]
  case dipEnd =>
    intro mv ticks s hdip s1
    simp only [exec_dipEnd, execDipEnd, hdip, Bool.not_true, Bool.false_eq_true, if_false]
    rfl
  case clear =>
    intro s hwarn hdip hlong
    have hlate : decide (s.now < s.pwr.hyst + usTicks 100) = false := decide_eq_false (Nat.not_lt.mpr hlong)
    simp only [exec_supplyClear, execSupplyClear, hwarn, hdip, hlate]
    rfl
  case power =>
    intro mv ma ok s hlim
    obtain ⟨p, x, f, o, hr, hceil, hrest⟩ := execPowerMeasurement_eq mv ma ok s
    exact ⟨_, hr, hceil hlim, hrest⟩
  case thermal =>
    intro temps s
    obtain ⟨p, v, f, o, hr, hfields⟩ := execThermalCeilingStep_eq temps s
    exact ⟨_, hr, hfields⟩
  case rate =>
    intro mhz m s hsec hmin
    obtain ⟨v, f, r, n, k, hr, hlow⟩ := execRateUpdate_eq mhz s
    exact ⟨_, hr, hlow m hsec hmin, rfl⟩
  case nap =>
    intro c s hidle hmay hon hlong
    have hlate : (s.clu c).since + usTicks s.pwr.napDly ≤ s.now := by unfold usTicks; omega
    simp only [exec_clusterNapEntry, execClusterNapEntry]
    rw [if_pos ⟨hidle, hmay, hon, hlate⟩]
    rfl
  case deep =>
    intro c s hnap hmay hon hlong
    have hlate : (s.clu c).since + usTicks (1000 * s.pwr.deepDly) ≤ s.now := by unfold usTicks; omega
    simp only [exec_clusterDeepEntry, execClusterDeepEntry]
    rw [if_pos ⟨hnap, hmay, hon, hlate⟩]
    rfl
  case wake =>
    intro c k d p es s hact hwarn hmaint hcause
    have hdue : s.wakeDue c = true := State.wakeDue_of hcause
    simp only [exec_clusterWake, execClusterWake, hdue, hact, hwarn, hmaint, Bool.not_false, Bool.and_true, if_true]
  case down =>
    intro s hreq hup hsleep hidle
    simp only [exec_controlClusterDown, execControlClusterDown]
    rw [if_pos (by simpa [hreq, hup, State.serving_false hidle] using hsleep)]
    rfl
  case ccUp =>
    intro s hdown hwakes hline t1 t
    have hnone : s.ccUp.objs.fwQ = [] := by rw [(State.ccUp_woken hdown hwakes).1, hline]
    simp only [exec_controlClusterWake, execControlClusterWake, thenLine]
    rw [State.lineServe_empty hnone, State.ccUp, if_pos (by simp [hdown, hwakes])]
  case ccServes =>
    intro s t e hdown hwakes hline hhead hserve
    obtain ⟨hobjs, hup⟩ := State.ccUp_woken hdown hwakes
    have hone : s.ccUp.objs.fwQ = [e] := by rw [hobjs, hline]
    simp only [exec_controlClusterWake, execControlClusterWake, thenLine]
    rw [State.lineServe_one hup hone hhead hserve]
  case fwWaits =>
    intro h init s s1 s2 x i op hdown hfw hcont hx hst hi hm hd hr e
    have hneed : needOf h = h.cont + 1 := if_pos hcont
    exact State.packet_waits hdown hfw hcont hx hst hi (hneed ▸ hm) hd (hneed ▸ hr)

end Sys2Proof.Machine
end

section
/-!
SUPPORT. The scheduler's timers (R244, R253 to R259, R268).
-/

namespace Sys2Proof.Machine

open Sys2Proof

/-- The later runs of a mask stand in the order of their starts. -/
theorem laterRuns_sorted (m : BitVec 64) (d : Nat) : (laterRuns m d).Pairwise fun a b => a.2 < b.2 :=
  List.pairwise_map.mpr (List.Pairwise.filter _ (List.pairwise_map.mpr (List.pairwise_lt_range.imp fun h => Nat.succ_lt_succ h)))

/-- The first run that meets a condition is the one that no earlier run that meets it precedes. -/
theorem laterRuns_find {m : BitVec 64} {day d n : Nat} {q : Nat × Nat → Bool} (hmem : (d, n) ∈ laterRuns m day) (hq : q (d, n) = true)
    (hfirst : ∀ e ∈ laterRuns m day, e.2 < n → q e = false) : (laterRuns m day).find? q = some (d, n) := by
  obtain ⟨as, bs, hl⟩ := List.append_of_mem hmem
  have hsorted := laterRuns_sorted m day
  rw [hl, List.pairwise_append] at hsorted
  obtain ⟨-, -, hbefore⟩ := hsorted
  refine List.find?_eq_some_iff_append.mpr ⟨hq, as, bs, hl, fun e he => ?_⟩
  simp [hfirst e (hl ▸ List.mem_append_left _ he) (hbefore e he (d, n) List.mem_cons_self)]

/-- Settles O30: each timer's conditions hold, and its effect is the state of the statement. -/
theorem schedulerTimers : Obligations.SchedulerTimers := by
  unfold Obligations.SchedulerTimers
  refine ⟨?boundary, ?eve, ?charge, ?slowdown⟩
  case boundary =>
    intro k s p hp hday s1 s2 s3 s4 s5
    simp only [exec_dayBoundary, execDayBoundary, hp]
    rw [if_neg (Nat.not_lt.mpr hday)]
    rfl
  case eve =>
    intro k c s p a d n hp ha start hmem hlater heve hnone hfirst
    have hdue : (laterRuns (a.days &&& p.nFeast) p.day).find? (fun x => decide (s.now < start x.2) &&
        !p.resv.any (fun r => r.ctx == c && r.at_ == start x.2)) = some (d, n) := by
      refine laterRuns_find hmem (by simpa [hlater] using hnone) fun e he hn => ?_
      rcases hfirst e he hn with hpast | ⟨r, hr, hc, hat⟩
      · simp [Nat.not_lt.mpr hpast]
      · have hheld : p.resv.any (fun r => r.ctx == c && r.at_ == start e.2) = true := List.any_eq_true.mpr ⟨r, hr, by simp [hc, hat]⟩
        simp [hheld]
    simp only [exec_eveStart, execEveStart, hp, ha]
    rw [hdue]
    exact if_pos heve
  case charge =>
    intro k s
    rfl
  case slowdown =>
    intro l s s1
    rfl

end Sys2Proof.Machine
end

section
/-!
SUPPORT. The end of the work of KV packets (R195, R203, R266, R376).
-/

namespace Sys2Proof.Machine

open Sys2Proof

/-- A step of KV work that succeeds, then the rest. -/
theorem kvM_bind_ok {α β : Type} {x : KvM α} {g : α → KvM β} {s t : State} {a : α} (h : x s = .ok a t) : (x >>= g) s = g a t := by
  show EStateM.bind x g s = _
  unfold EStateM.bind
  rw [h]

/-- A KV packet that runs, and that no earlier packet of its object blocks, may end (R195, R203). -/
theorem kvMayEnd {s : State} {d : Disp} (hst : d.state = .running ∨ d.state = .stopping) (hfree : s.kvBlocked d = false) :
    (!(d.state == .running || d.state == .stopping) || s.kvBlocked d) = false := by
  have hrun : (d.state == .running || d.state == .stopping) = true := by simpa using hst
  rw [hrun, hfree]
  rfl

/-- A confidential slice's results go out only under a seal. -/
theorem sealReady {s : State} {l c a : Nat} (h : s.confSlice l = false ∨ (s.ensureSeal c a).isSome = true) :
    (s.confSlice l && (s.ensureSeal c a).isNone) = false := by
  rcases h with h | h
  · simp [h]
  · simp [Option.isNone_eq_false_iff.mpr h]

/-- Settles O29: the packet may end, and its work succeeds; what follows turns on the opcode and on where its results go. -/
theorem kvCompletion : Obligations.KvCompletion := by
  unfold Obligations.KvCompletion
  refine ⟨?plain, ?stored, ?sent, ?acknowledged⟩
  case plain =>
    intro ref s t d m k r hd hm hk hst hfree hsent hnot hwork u
    simp only [exec_kvOpComplete, execKvOpComplete, hd, hm, Option.bind_some, hk, kvMayEnd hst hfree, hsent, Bool.false_eq_true, if_false]
    rw [kvM_bind_ok hwork]
    cases hw : d.work with
    | attend a qs => exact absurd hw (hnot a qs)
    | _ => simp only [u, hw]; rfl
  case stored =>
    intro ref s t u d a qs m k r hd hw hm hk hst hfree hsent hret hwork hstore
    simp only [exec_kvOpComplete, execKvOpComplete, hd, hm, Option.bind_some, hk, kvMayEnd hst hfree, hsent, Bool.false_eq_true, if_false]
    rw [kvM_bind_ok hwork]
    simp only [hw, hret, if_true]
    rw [kvM_bind_ok hstore]
    rfl
  case sent =>
    intro ref s t d a qs m k r hd hw hm hk hst hfree hsent hret hwork u hseal
    have hlink : ¬ a.ret = 0 := by rw [hret]; decide
    simp only [exec_kvOpComplete, execKvOpComplete, hd, hm, Option.bind_some, hk, kvMayEnd hst hfree, hsent, Bool.false_eq_true, if_false]
    rw [kvM_bind_ok hwork]
    simp only [hw, hlink, if_false]
    exact if_neg (Bool.eq_false_iff.mp (sealReady hseal))
  case acknowledged =>
    intro ref s d m k hd hm hk hst hfree hsent hstores
    simp only [exec_kvOpComplete, execKvOpComplete, hd, hm, Option.bind_some, hk, kvMayEnd hst hfree, hsent, Bool.false_eq_true, if_false, if_true,
      hstores]

end Sys2Proof.Machine
end

section
/-!
SUPPORT. The whole resets (R290, R438 to R441, R462, R463, R485, R488).
-/

namespace Sys2Proof.Machine

open Sys2Proof

/-- A supply reset leaves no time for the last writes of R290. -/
theorem execBlockReset_supply (b : Boot) (s : State) : execBlockReset 1 b s = .next (s.blockBoot 1 false b) := by
  unfold execBlockReset
  rw [if_pos (by decide), if_pos rfl]

/-- A commanded or internal block reset makes the last writes of R290 first. -/
theorem execBlockReset_lost {n : Nat} (hn : n = 2 ∨ n = 3) (b : Boot) (s : State) :
    execBlockReset n b s = .next (s.deviceLost.blockBoot n false b) := by
  have hcause : 1 ≤ n ∧ n ≤ 3 := by omega
  have hsupply : n ≠ 1 := by omega
  unfold execBlockReset
  rw [if_pos hcause, if_neg hsupply]

/-- A die that has stood at the trip temperature for 1 ms trips (R485). -/
theorem execThermalTrip_due {s : State} {die t : Nat} (hdie : die < 5) (hhot : tget s.pwr.hot die = some t) (ht : t + 100000 ≤ s.now) (b : Boot) :
    execThermalTrip die b s = .next (s.deviceLost.blockBoot 2 true b) := by
  have hdue : (decide (die < 5) && (tget s.pwr.hot die).any (fun t => decide (t + 100000 ≤ s.now))) = true := by
    simp [hdie, hhot, ht]
  unfold execThermalTrip
  exact if_pos hdue

/-- Settles O40: each cause's conditions hold; a supply reset alone is not preceded by the last writes, and a watchdog's expiry turns on how many core
resets lie within the second. -/
theorem wholeResets : Obligations.WholeResets := by
  unfold Obligations.WholeResets
  refine ⟨?mgmtBlock, ?mgmtCold, ?cold, ?release, ?supplyCause, ?otherCauses, ?fatal, ?supply, ?trip, ?watchdog⟩
  case mgmtBlock =>
    intro k b s hsess
    exact if_pos hsess
  case mgmtCold =>
    intro k b s hsess
    exact if_pos hsess
  case cold =>
    intro s
    rfl
  case release =>
    intro b s hheld
    simp only [exec_coldResetRelease, execColdResetRelease, if_pos hheld]
  case supplyCause =>
    intro b s
    exact execBlockReset_supply b s
  case otherCauses =>
    intro n b s hn
    exact execBlockReset_lost hn b s
  case fatal =>
    intro b s
    rfl
  case supply =>
    intro mv ticks b s hup
    exact if_neg hup
  case trip =>
    intro die t b s hdie hhot ht
    exact execThermalTrip_due hdie hhot ht b
  case watchdog =>
    intro n b s hn l t
    simp only [exec_watchdogExpiry, execWatchdogExpiry, if_neg (Nat.not_le.mpr hn)]
    by_cases heighth : 8 ≤ l.length
    · rw [if_pos heighth, if_pos heighth]
    · rw [if_neg heighth, if_neg heighth]

end Sys2Proof.Machine
end

section
/-!
SUPPORT. The fuses (R330, R338), and the packets of resets, known-answer runs and retirement (R98, R233, R453, R457).
-/

namespace Sys2Proof.Machine

open Sys2Proof

/-! ## The fuses -/

/-- Settles O48: `Keeps`, which every step has, holds the fuses. -/
theorem fusesOneWay : Obligations.FusesOneWay := by
  unfold Obligations.FusesOneWay
  intro s t h
  obtain ⟨r, -, -, -, -, hsvn, hburnt, hrevoked, -⟩ := step_keeps h
  exact ⟨hsvn, hburnt, hrevoked⟩

/-! ## Resets, known-answer runs and retirement -/

/-- Settles O15: the checks of each opcode pass, and its effect is the state of the statement. -/
theorem maintenancePackets : Obligations.MaintenancePackets := by
  unfold Obligations.MaintenancePackets
  refine ⟨?engine, ?cluster, ?polder, ?inner, ?kat, ?retire⟩
  case engine =>
    intro h e s s1 c n f hs hact hreset
    refine State.packet_done _ hs ?_
    rw [check_bind hact, check_bind (by simpa using hreset)]
    rfl
  case cluster =>
    intro h k s s1 c n f hs hact hreset
    refine State.packet_done _ hs ?_
    rw [check_bind hact, check_bind (by simpa using hreset)]
    rfl
  case polder =>
    intro h k s s1 c n f x hs hx hreset hopen p
    refine State.packet_putOff _ hs ?_
    simp only [opResetPolder, hx, hreset, hopen]
    rfl
  case inner =>
    intro h kat s s1 c n f hs hnone
    refine State.packet_done _ hs ?_
    rw [check_bind (b := 0 == 0) rfl, check_bind (by simp [hnone])]
    rfl
  case kat =>
    intro h k r s s1 c n f hs hmaint hact hcarries hreset t
    refine State.packet_done _ hs ?_
    unfold opKatRun
    rw [check_bind (by simp [hmaint]), check_bind hact, check_bind (by simp [hcarries, hreset])]
    rfl
  case retire =>
    intro h k s s1 c n f x hs hx hsvc hret hwait hlast p
    refine State.packet_putOff _ hs ?_
    have hstays : ¬(!x.inSvc || x.retiring || x.wait || decide (s1.lasting.length ≤ 1)) = true := by
      simpa [hsvc, hret, hwait] using Nat.lt_of_succ_le hlast
    simp only [opStackRetire, hx, if_neg hstays, p]
    cases s1.fenceOf h c <;> rfl

end Sys2Proof.Machine
end

section
/-!
SUPPORT. The security and management commands leave the rest of the block as it was (R293, R322, R330, R333 to R338, R412 to R414).
-/

namespace Sys2Proof.Machine

open Sys2Proof

/-! ## SPDM -/

/-- A place that answers SPDM runs the request; elsewhere nothing happens, or a host port asks for a retry (R411, R441, R456). -/
theorem State.spdmAt_next {s t : State} {w : SessWhere} {f : State → State} (h : s.spdmAt w f = .next t) : t = f s ∨ ∃ o, t = { s with out := o } := by
  obtain rfl := Host.Outcome.next.inj h
  cases w with
  | hostPort p =>
    dsimp only
    split
    · exact .inr ⟨s.out, rfl⟩
    · split
      · exact .inl rfl
      · exact .inr ⟨_, rfl⟩
  | link l =>
    dsimp only
    split
    · exact .inl rfl
    · exact .inr ⟨s.out, rfl⟩
  | mgmt =>
    dsimp only
    split
    · exact .inr ⟨s.out, rfl⟩
    · exact .inl rfl

/-- What an SPDM request leaves as it was, outside a session where `outside` holds: it may change its session, and count what it draws (R293, R322). -/
structure SpdmFrame (s : State) (outside : Prop) (r : SpdmReq) (t : State) : Prop where
  block : t = { s with sen := t.sen, free := t.free, out := t.out }
  engine : t.sen = { s.sen with sessions := t.sen.sessions, drbg := t.sen.drbg }
  ids : t.sen.sessions.map (·.id) = s.sen.sessions.map (·.id)
  others : r ≠ .keyUpdate → r ≠ .heartbeat → t.sen.sessions = s.sen.sessions
  anonymous : outside → t.sen.sessions = s.sen.sessions
  draws : needsDraw r = false → t.free = s.free ∧ t.sen.drbg = s.sen.drbg

section
variable {s t : State} {outside : Prop} {r : SpdmReq}

theorem SpdmFrame.out (o : List Out) : SpdmFrame s outside r { s with out := o } :=
  ⟨rfl, rfl, rfl, fun _ _ => rfl, fun _ => rfl, fun _ => ⟨rfl, rfl⟩⟩

theorem SpdmFrame.emit (h : SpdmFrame s outside r t) (o : Out) : SpdmFrame s outside r (t.emit o) :=
  ⟨congrArg (·.emit o) h.block, h.engine, h.ids, h.others, h.anonymous, h.draws⟩

/-- A signature draws a nonce and a secret number. -/
theorem SpdmFrame.signed (hr : needsDraw r = true) (d : List Byte) : SpdmFrame s outside r (s.signed d).1 :=
  ⟨rfl, rfl, rfl, fun _ _ => rfl, fun _ => rfl, fun hn => absurd hr (Bool.not_eq_true _ ▸ hn)⟩

/-- A key update or a heartbeat changes sessions under their ids. -/
theorem SpdmFrame.session {f : Sess → Sess} (hr : r = .keyUpdate ∨ r = .heartbeat) (ho : ¬outside) (hf : ∀ x, (f x).id = x.id) :
    SpdmFrame s outside r (s.onSen fun y => { y with sessions := y.sessions.map f }) := by
  refine ⟨rfl, rfl, ?_, fun hupdate hbeat => (hr.elim hupdate hbeat).elim, fun h => absurd h ho, fun _ => ⟨rfl, rfl⟩⟩
  simp [hf]

end

/-- The answer to an SPDM request in session `k`. -/
theorem State.spdmAnswer_frame (s : State) (w : SessWhere) (k : Option Sess) (r : SpdmReq) : SpdmFrame s (k = none) r (s.spdmAnswer w k r).1 := by
  have hsame : SpdmFrame s (k = none) r s := .out s.out
  cases r with
  | version => exact hsame
  | capabilities => exact hsame
  | algorithms => exact hsame
  | digests => exact hsame
  | certificate slot off len => exact hsame
  | interfaceReport id => exact hsame
  | challenge slot =>
    unfold State.spdmAnswer
    dsimp only
    split
    · exact .signed rfl (sha384Bytes s.slot0)
    · exact hsame
  | measurements i sig =>
    unfold State.spdmAnswer
    dsimp only
    split
    · exact hsame
    · rename_i d hd
      cases sig with
      | false => exact hsame
      | true =>
        rw [if_pos rfl]
        split
        · exact .signed rfl d
        · exact hsame
  | keyUpdate =>
    cases k with
    | none => exact hsame
    | some x => exact .session (.inl rfl) nofun fun z => by split <;> rfl
  | heartbeat =>
    cases k with
    | none => exact hsame
    | some x => exact .session (.inr rfl) nofun fun z => by split <;> rfl

theorem execGetMeasurements_frame {w : SessWhere} {k : Option Nat} {r : SpdmReq} {s t : State} (h : execGetMeasurements w k r s = .next t) :
    SpdmFrame s (k = none) r t := by
  rcases State.spdmAt_next h with rfl | ⟨o, rfl⟩
  · dsimp only
    split
    · exact .out s.out
    · split
      · exact .out _
      · split
        · exact .out _
        · have ha := s.spdmAnswer_frame w (k.bind (s.inSess w)) r
          exact .emit ⟨ha.block, ha.engine, ha.ids, ha.others, fun hk => ha.anonymous (by rw [hk]; rfl), ha.draws⟩ _
  · exact .out o

theorem execKeyExchange_frame {w : SessWhere} {l : Option Handle} {p : Nat × Nat} {b : Bool} {f r : Nat} {o : Bool} {s t : State}
    (h : execKeyExchange w l p b f r o s = .next t) :
    t = { s with sen := t.sen, free := t.free, out := t.out } ∧
      t.sen = { s.sen with sessions := t.sen.sessions, nextSess := t.sen.nextSess, drbg := t.sen.drbg } ∧ s.sen.sessions <+: t.sen.sessions := by
  rcases State.spdmAt_next h with rfl | ⟨o, rfl⟩
  · dsimp only
    split
    · exact ⟨rfl, rfl, ⟨[], List.append_nil _⟩⟩
    · split
      · exact ⟨rfl, rfl, ⟨[], List.append_nil _⟩⟩
      · exact ⟨rfl, rfl, ⟨_, rfl⟩⟩
  · exact ⟨rfl, rfl, ⟨[], List.append_nil _⟩⟩

/-! ## Debug and the entropy source -/

/-- The debug commands change the debug port's state, and a token that is answered draws a challenge (R293, R333). -/
theorem execDebugTokenLoad_frame {k : Token} {s t : State} (h : execDebugTokenLoad k s = .next t) :
    t = { s with sen := t.sen, free := t.free } ∧ t.sen = { s.sen with dbg := t.sen.dbg, drbg := t.sen.drbg } := by
  unfold execDebugTokenLoad at h
  dsimp only at h
  split at h <;> (obtain rfl := Host.Outcome.next.inj h; exact ⟨rfl, rfl⟩)

/-! ## The management port -/

/-- A message of the management port is output alone (R411). -/
theorem State.mctp_eq (s : State) (b : List Nat) : ∃ o, s.mctp b = { s with out := o } := by
  refine List.foldlRecOn (motive := fun a : State => ∃ o, a = { s with out := o }) _ _ ⟨s.out, rfl⟩ fun a ha e _ => ?_
  obtain ⟨o, rfl⟩ := ha
  exact ⟨_, rfl⟩

/-- What an MCTP control request leaves as it was: an address that is given stays (R412). -/
def MctpFrame (s t : State) : Prop :=
  t = { s with mmc := t.mmc, free := t.free, out := t.out } ∧ t.mmc = { s.mmc with eid := t.mmc.eid, addr := t.mmc.addr } ∧
    (s.mmc.addr.isSome = true → t.mmc.addr = s.mmc.addr)

theorem MctpFrame.i3cAddr (s : State) (a : Nat) : MctpFrame s (s.i3cAddr a) := by
  unfold State.i3cAddr
  split
  · exact ⟨rfl, rfl, fun _ => rfl⟩
  · rename_i hnone
    exact ⟨rfl, rfl, fun hs => absurd hs hnone⟩

theorem MctpFrame.mctp (s : State) (n : Nat) (b : List Nat) : MctpFrame s ((s.drew n).mctp b) := by
  obtain ⟨o, h⟩ := (s.drew n).mctp_eq b
  rw [h]
  exact ⟨rfl, rfl, fun _ => rfl⟩

theorem MctpFrame.setEid (s : State) (b : List Nat) (e : Nat) : MctpFrame s { s.mctp b with mmc := { s.mmc with eid := e } } := by
  obtain ⟨o, h⟩ := s.mctp_eq b
  rw [h]
  exact ⟨rfl, rfl, fun _ => rfl⟩

theorem execMctpControl_frame {u : Nat} {r : MctpReq} {s t : State} (h : execMctpControl u r s = .next t) : MctpFrame s t := by
  have hsame : MctpFrame s s := ⟨rfl, rfl, fun _ => rfl⟩
  obtain rfl := Host.Outcome.next.inj h
  split
  · exact hsame
  · split
    · exact .i3cAddr s _
    · exact .i3cAddr s _
    · split
      · exact hsame
      · split
        · exact .setEid s _ _
        · exact .mctp s 0 _
        · exact .mctp s 16 _
        · exact .mctp s 4 _
        · exact .mctp s 0 _
        · exact hsame

/-- A component that verifies changes the store alone (R413). -/
theorem State.stageComponent_eq (s : State) (c : Component) : ∃ m, s.stageComponent c = { s with mmc := { s.mmc with staged := m } } := by
  unfold State.stageComponent
  split
  · exact ⟨_, rfl⟩
  · exact ⟨s.mmc.staged, rfl⟩

/-- A vendor-defined command of a management session has its effect, or changes nothing but the answers (R414). -/
theorem State.onMgmt_next {s t : State} {k : Nat} {claim ok : Bool} {f : State → State} (h : s.onMgmt k claim ok f = .next t) :
    t = (f s).answerMgmt k true ∨ ∃ o, t = { s with out := o } := by
  unfold State.onMgmt at h
  split at h
  · split at h
    · exact .inl (Host.Outcome.next.inj h).symm
    · exact .inr ⟨_, (Host.Outcome.next.inj h).symm⟩
  · exact .inr ⟨s.out, (Host.Outcome.next.inj h).symm⟩

/-- What a PLDM request leaves as it was (R413). -/
def PldmFrame (r : PldmReq) (s t : State) : Prop :=
  t = { s with mmc := t.mmc, out := t.out } ∧ t.mmc = { s.mmc with staged := t.mmc.staged } ∧ ((∀ x, r ≠ .update x) → t.mmc = s.mmc)

theorem PldmFrame.out (r : PldmReq) (s : State) (o : List Out) : PldmFrame r s { s with out := o } := ⟨rfl, rfl, fun _ => rfl⟩

theorem PldmFrame.staged (c : Component) (s : State) (m : Store) (o : List Out) :
    PldmFrame (.update c) s { s with mmc := { s.mmc with staged := m }, out := o } :=
  ⟨rfl, rfl, fun hne => absurd rfl (hne c)⟩

theorem execPldmFirmwareUpdate_frame {k : Nat} {r : PldmReq} {s t : State} (h : execPldmFirmwareUpdate k r s = .next t) : PldmFrame r s t := by
  have hsame : PldmFrame r s s := .out r s s.out
  have hanswer (d : Option (List Nat)) (h : (if s.mgmt k false then .next (s.spdm (some k) d) else .next s : Result) = .next t) : PldmFrame r s t := by
    split at h <;> (obtain rfl := Host.Outcome.next.inj h; exact .out r s _)
  unfold execPldmFirmwareUpdate at h
  split at h
  · obtain rfl := Host.Outcome.next.inj h
    split
    · rename_i c
      obtain ⟨m, hm⟩ := s.stageComponent_eq c
      split
      · rw [hm]
        exact .staged c s m s.out
      · exact hsame
    · exact hsame
  · cases r with
    | types => exact hanswer _ h
    | sensor n => exact hanswer _ h
    | update c =>
      rcases State.onMgmt_next h with rfl | ⟨o, rfl⟩
      · obtain ⟨m, hm⟩ := s.stageComponent_eq c
        rw [hm]
        exact .staged c s m _
      · exact .out _ s o

/-- What the vendor-defined commands of the slots and of the security version leave as it was (R330, R338). -/
def FuseFrame (s t : State) : Prop :=
  t = { s with sen := t.sen, out := t.out } ∧
    t.sen = { s.sen with svn := t.sen.svn, burnt := t.sen.burnt, revoked := t.sen.revoked, digests := t.sen.digests }

theorem FuseFrame.onMgmt {s t : State} {k : Nat} {claim ok : Bool} {f : Sen → Sen} (h : s.onMgmt k claim ok (·.onSen f) = .next t)
    (hf : f s.sen = { s.sen with svn := (f s.sen).svn, burnt := (f s.sen).burnt, revoked := (f s.sen).revoked, digests := (f s.sen).digests }) :
    FuseFrame s t := by
  rcases State.onMgmt_next h with rfl | ⟨o, rfl⟩
  · exact ⟨rfl, hf⟩
  · exact ⟨rfl, rfl⟩

/-- Settles O58: each command's frame is its lemma above. -/
theorem securityFrame : Obligations.SecurityFrame := by
  unfold Obligations.SecurityFrame
  intro c s t h
  refine ⟨?debug, ?entropy, ?spdm, ?exchange, ?mctp, ?pldm, ?fuses⟩
  case debug =>
    rintro (⟨k, rfl⟩ | rfl | rfl)
    · exact execDebugTokenLoad_frame h
    · obtain rfl := Host.Outcome.next.inj h
      exact ⟨rfl, rfl⟩
    · obtain rfl := Host.Outcome.next.inj h
      exact ⟨rfl, rfl⟩
  case entropy =>
    rintro (rfl | rfl) <;> (obtain rfl := Host.Outcome.next.inj h; exact ⟨rfl, rfl⟩)
  case spdm =>
    rintro w k r rfl
    obtain ⟨hblock, hengine, hids, hothers, hanonymous, hdraws⟩ := execGetMeasurements_frame h
    exact ⟨hblock, hengine, hids, hothers, hanonymous, hdraws⟩
  case exchange =>
    rintro ⟨w, l, p, b, f, r, o, rfl⟩
    exact execKeyExchange_frame h
  case mctp =>
    rintro u r rfl
    exact execMctpControl_frame h
  case pldm =>
    rintro k r rfl
    exact execPldmFirmwareUpdate_frame h
  case fuses =>
    rintro (⟨k, d, rfl⟩ | ⟨k, l, d, g, o, rfl⟩ | ⟨k, l, g, o, rfl⟩ | ⟨k, n, g, o, rfl⟩) <;> exact FuseFrame.onMgmt h rfl

end Sys2Proof.Machine
end

section
/-!
SUPPORT. The link events (R346, R351 to R358, R361 to R366): what each does on a link that is up, and a training on one that is down.
-/

namespace Sys2Proof.Machine

open Sys2Proof

/-! ## Training -/

section
variable {s : State} {l : Nat} {x : Link} {far : FarEnd}

/-- A link that is down, may train and waits for no retry trains as the checks of its far end come out (R346, R347). -/
theorem State.train_eq (hx : s.link? l = some x) (hup : x.up = false) (hmay : s.mayTrain l x = true) (hretry : ∀ t, x.retry = some t → t ≤ s.now) :
    s.train l far =
      let s1 := s.emit (.hello l (s.hello l x))
      let s2 := ((s1.shake l).drew 3).asked 2
      match s.trainCheck l x far with
      | .error r =>
        (if r ≤ 3 then s else if r = 7 then s1 else s2).modLink l fun y => { y with state := 1, reason := r, retry := some (s.now + 10000000) }
      | .ok n => (s2.modLink l fun _ => s.trained l n x far).linkChanged l := by
  have hgo : ¬(x.up || !s.mayTrain l x || x.retry.any (fun t => decide (s.now < t))) = true := by
    simpa [hup, hmay, Option.any_eq_true] using hretry
  unfold State.train
  rw [hx]
  exact if_neg hgo

end

/-! ## Data flits -/

/-- The link with the symbols that FEC has corrected in the flit that arrives, of the lane and the number that the next free value names (R363). -/
abbrev State.symsNoted (s : State) (x : Link) : Link := x.noteSyms (s.peek / 16 % max x.lanes 1) (s.peek % 16) s.now

section
variable {s : State} {l : Nat} {x : Link} {f : Flit}

theorem execDataFlitReceived_up (hx : s.link? l = some x) (hup : x.up = true) : execDataFlitReceived l f s = .next (s.dataFlit l x f).finish := by
  simp only [execDataFlitReceived, hx, hup, if_true]

/-- A flit in order, under a held key, is accepted (R351 to R353). -/
theorem State.dataFlit_accepted (hx : s.link? l = some x) (hfec : f.fecOk = true) (htag : x.tagGood f = true) (hseq : f.seq = x.expSeq)
    (hunrep : x.unrep + 1 < 64) (hfreed : (x.accept f).freedDue = false) (hquiet : (s.symsNoted x).noisy = false) :
    s.dataFlit l x f = (((s.drew 1).modLink l fun _ => s.symsNoted x).modLink l fun z => { z.accept f with unrepT := some (z.unrepT.getD s.now) }) := by
  have hlink : ∀ g h : Link → Link, (((s.drew 1).modLink l g).modLink l h).link? l = some (h (g x)) :=
    fun g h => link_modLink (link_modLink (s := s.drew 1) hx)
  unfold State.dataFlit
  simp only [hfec, htag, hquiet, hseq, hlink, Bool.not_true, Bool.false_and, Bool.or_self, Bool.false_eq_true, if_false, if_true]
  refine if_neg ?_
  rw [Bool.or_eq_true, decide_eq_true_eq, not_or]
  exact ⟨Nat.not_le.mpr hunrep, ne_true_of_eq_false hfreed⟩

/-- A flit with an uncorrectable codeword asks for a replay, and for a narrower link where its lane is noisy or lost (R351, R363). -/
theorem State.dataFlit_damaged (hfec : f.fecOk = false) :
    let lost := decide (s.peek / 128 % 2 = 1)
    let s0 := (s.drew 1).modLink l fun _ => s.symsNoted x
    s.dataFlit l x f = (if (s.symsNoted x).noisy = true ∨ lost = true then s0.narrow l lost else s0).sendNak l := by
  unfold State.dataFlit
  simp only [hfec, Bool.not_false, Bool.true_and, Bool.or_eq_true, if_true]

end

/-! ## Control flits -/

/-- Credits that come back leave the replies that are owed (R355). -/
theorem Link.credits_owed (x : Link) (freed : List Nat) : (x.credits freed).owed = x.owed := by
  refine List.foldlRecOn (motive := fun y : Link => y.owed = x.owed) _ _ rfl fun y hy e _ => ?_
  exact hy

section
variable {s : State} {l : Nat} {x : Link} {f : CtlFlit}

theorem execControlFlitReceived_up (hx : s.link? l = some x) (hup : x.up = true) : execControlFlitReceived l f s = .next (s.ctlFlit l x f).finish := by
  simp only [execControlFlitReceived, hx, hup, if_true]

/-- A flit without a reply answers no request. -/
theorem State.farReply_none (h : f.reply = 0) : s.farReply l f = s := by
  unfold State.farReply
  split
  · exact if_pos (.inl (by simp [h]))
  · rfl

/-- A flit without a request makes none. -/
theorem State.farRequest_none (h : f.reqKind = 0) : s.farRequest l f = s := by
  unfold State.farRequest
  split
  · rfl
  · simp only [h]

/-- An acknowledgement releases its flits and returns their credits (R355). -/
theorem State.ctlFlit_ack {d : Nat} (hx : s.link? l = some x) (htag : f.tagOk = true) (hkey : x.keyHeld f.kph = true) (hack : f.ackValid = true)
    (hnak : f.nak = false) (hd : x.ackCount f.ack = some d) (hreq : f.reqKind = 0) (hreply : f.reply = 0) (howed : x.owed = []) :
    s.ctlFlit l x f = (s.modLink l fun y => (y.release d s.now).credits f.freed).pumpLink l := by
  have hnone : ((x.release d s.now).credits f.freed).owed = [] := (Link.credits_owed _ _).trans howed
  unfold State.ctlFlit
  simp only [htag, hkey, hack, hnak, hd, State.farReply_none hreply, State.farRequest_none hreq, link_modLink hx, Option.elim_some, hnone,
    List.foldl_nil, Bool.and_self, Bool.not_true, Bool.or_false, Bool.false_eq_true, if_false, if_true]

/-- An ACK outside the window takes the link down with PROTOCOL (R355). -/
theorem State.ctlFlit_outside (htag : f.tagOk = true) (hkey : x.keyHeld f.kph = true) (hack : f.ackValid = true ∨ f.nak = true)
    (hd : x.ackCount f.ack = none) : s.ctlFlit l x f = s.linkFall l 8 := by
  unfold State.ctlFlit
  simp only [htag, hkey, Bool.or_eq_true, hack, hd, Bool.and_self, Bool.not_true, Bool.false_eq_true, if_false, if_true]

/-- A control flit that does not verify is a tag failure (R356). -/
theorem State.ctlFlit_bad (h : f.tagOk = false ∨ x.keyHeld f.kph = false) : s.ctlFlit l x f = s.tagFailure l x := by
  have hbad : (!(f.tagOk && x.keyHeld f.kph)) = true := by
    rcases h with h | h <;> simp [h]
  unfold State.ctlFlit
  exact if_pos hbad

end

/-! ## The statement -/

/-- Settles O33: a link that is up does what the flit or the event brings, as the lemmas above say for the flits. -/
theorem linkEvents : Obligations.LinkEvents := by
  unfold Obligations.LinkEvents
  refine ⟨?trains, ?fails, ?accepted, ?damaged, ?ack, ?outside, ?bad, ?idle, ?report, ?replay, ?rekeyTx, ?rekeyRx, ?retrained, ?notRetrained, ?width,
    ?down, ?training⟩
  case trains =>
    intro l n far s x hx hup hmay hretry hok
    rw [exec_linkTrainingStart, execLinkTrainingStart, State.train_eq hx hup hmay hretry]
    simp only [hok]
  case fails =>
    intro l r far s x hx hup hmay hretry herr s1
    rw [exec_linkTrainingStart, execLinkTrainingStart, State.train_eq hx hup hmay hretry]
    simp only [herr, s1]
  case accepted =>
    intro l f s x hx hup hfec htag hseq hunrep hfreed y hquiet
    rw [exec_dataFlitReceived, execDataFlitReceived_up hx hup, State.dataFlit_accepted hx hfec htag hseq hunrep hfreed hquiet]
  case damaged =>
    intro l f s x hx hup hfec y lost s0
    rw [exec_dataFlitReceived, execDataFlitReceived_up hx hup, State.dataFlit_damaged hfec]
  case ack =>
    intro l d f s x hx hup htag hkey hack hnak hd hreq hreply howed
    rw [exec_controlFlitReceived, execControlFlitReceived_up hx hup, State.ctlFlit_ack hx htag hkey hack hnak hd hreq hreply howed]
  case outside =>
    intro l f s x hx hup htag hkey hack hd
    rw [exec_controlFlitReceived, execControlFlitReceived_up hx hup, State.ctlFlit_outside htag hkey hack hd]
  case bad =>
    intro l f s x hx hup hbad
    rw [exec_controlFlitReceived, execControlFlitReceived_up hx hup, State.ctlFlit_bad hbad]
  case idle =>
    intro l s
    rfl
  case report =>
    intro l s x hx hup hdue f
    simp only [exec_controlFlitSend, execControlFlitSend, State.sendCtl, hx, hup, hdue, Bool.and_self, if_true, f]
  case replay =>
    intro l s x hx hup hflits hlate
    have hdue : (x.up && !x.flits.isEmpty && decide (x.lastAck + usTicks 8 ≤ s.now)) = true := by simp [hup, hflits, usTicks, hlate]
    simp only [exec_replayTimeout, execReplayTimeout, hx, hdue, if_true]
  case rekeyTx =>
    intro l s x hx hup
    rfl
  case rekeyRx =>
    intro l s
    rfl
  case retrained =>
    intro l far s x hx hup hsig hphy hlanes
    have hok : (far.signal && far.phy && lanesFor x.full (min far.lanes (x.goal.getD 8)) != 0) = true := by simp [hsig, hphy, hlanes]
    simp only [exec_retrain, execRetrain, State.retrainLink, hx, hup, hok, Bool.not_true, Bool.false_eq_true, if_false, if_true]
  case notRetrained =>
    intro l far s x hx hup hbad
    have hno : ¬(far.signal && far.phy && lanesFor x.full (min far.lanes (x.goal.getD 8)) != 0) = true := by
      rcases hbad with h | h <;> simp [h]
    simp only [exec_retrain, execRetrain, State.retrainLink, hx, hup, if_neg hno, Bool.not_true, Bool.false_eq_true, if_false]
  case width =>
    intro l w s x hx hup hw hfull
    have hok : (x.up && (w == 2 || w == 4 || w == 8) && decide (w ≤ x.full)) = true := by simpa [hup, hfull, or_assoc] using hw
    simp only [exec_widthChange, execWidthChange, State.setLanes, hx, hok, if_true]
  case down =>
    intro l r s
    rfl
  case training =>
    intro l s
    rfl

end Sys2Proof.Machine
end

section
/-!
SUPPORT. CXL.mem accesses (R404 to R406): the decoder that claims an address, and what a context window and the table decoder do.
-/

namespace Sys2Proof.Machine

open Sys2Proof

/-! ## The decoder -/

/-- Decoder `e`, a number with its base and size in 256 MiB, maps an address (R404). -/
def hdmMaps (hpa : Nat) (e : Nat × Nat × Nat) : Bool :=
  decide (e.1 < 8) && decide (e.2.1 * 2 ^ 28 ≤ hpa) && decide (hpa < (e.2.1 + e.2.2) * 2 ^ 28)

theorem hdmMaps_iff {hpa : Nat} {e : Nat × Nat × Nat} :
    hdmMaps hpa e = true ↔ e.1 < 8 ∧ e.2.1 * 2 ^ 28 ≤ hpa ∧ hpa < (e.2.1 + e.2.2) * 2 ^ 28 := by
  rw [hdmMaps, Bool.and_eq_true, Bool.and_eq_true, decide_eq_true_eq, decide_eq_true_eq, decide_eq_true_eq, and_assoc]

/-- The first decoder that maps an address claims an access inside a sector. -/
theorem State.hdmHit_of_find {s : State} {q hpa n : Nat} {e : Nat × Nat × Nat} (hcxl : (s.port q).cxl = true) (hsec : hpa % 256 + n ≤ 256)
    (hfind : (s.port q).hdm.find? (hdmMaps hpa) = some e) : s.hdmHit q hpa n = some (e.1, hpa - e.2.1 * 2 ^ 28) := by
  have hgo : ¬(!(s.port q).cxl || decide (256 < hpa % 256 + n)) = true := by simpa [hcxl] using hsec
  exact (if_neg hgo).trans (congrArg (Option.map fun e => (e.1, hpa - e.2.1 * 2 ^ 28)) hfind)

/-- Where one entry alone satisfies a predicate, it is what a search finds. -/
theorem find?_only {α : Type} {l : List α} {p : α → Bool} {a : α} (ha : a ∈ l) (hp : p a = true) (honly : ∀ e ∈ l, p e = true → e = a) :
    l.find? p = some a := by
  obtain ⟨e, he⟩ := Option.isSome_iff_exists.mp (List.find?_isSome.mpr ⟨a, ha, hp⟩)
  rw [he, honly e (List.mem_of_find?_eq_some he) (List.find?_some he)]

/-! ## Accesses -/

section
variable {s s1 : State} {q hpa n k off c base : Nat} {d : List Byte}

/-- A read through a window of a context that is not confidential is the context's own read (R405). -/
theorem State.cxlRead_window (hhit : s.hdmHit q hpa n = some (k, off)) (hk : k ≠ 0) (hwin : s.winCtx q k = some (c, base))
    (hconf : s.confSlice (s.sliceOf c) = false) (hread : s.readCtx c (.edge (16 + q)) (base + off) n = (s1, .ok d)) :
    s.cxlRead q hpa n = (s1.account c fun y => { y with host := y.host + BitVec.ofNat 64 n }, some d) := by
  obtain ⟨k, rfl⟩ := Nat.exists_eq_succ_of_ne_zero hk
  simp only [State.cxlRead, hhit, hwin, State.winAccess, hconf, hread, Bool.false_eq_true, if_false]

/-- A read through the administration port's decoder is the table's (R406). -/
theorem State.cxlRead_table (hhit : s.hdmHit q hpa n = some (0, off)) (hadmin : s.adminPort q = true) (hoff : off < 2 ^ 42) :
    s.cxlRead q hpa n = (s.sampleTable (off / 65536) (.edge (16 + q)), s.readTable (off / 65536) (off % 65536) n) := by
  have hserved : (s.adminPort q && decide (off < 2 ^ 42)) = true := by rw [hadmin, decide_eq_true hoff]; rfl
  simp only [State.cxlRead, hhit]
  exact if_pos hserved

/-- A write through a window of a context that is not confidential is the context's own write (R405). -/
theorem State.cxlWrite_window (hhit : s.hdmHit q hpa d.length = some (k, off)) (hk : k ≠ 0) (hwin : s.winCtx q k = some (c, base))
    (hconf : s.confSlice (s.sliceOf c) = false) (hwr : s.writable c (base + off) d.length = true)
    (hwrite : s.writeCtx c (.edge (16 + q)) none (base + off) d = (s1, .ok ())) :
    s.cxlWrite q hpa d = (s1.account c fun y => { y with host := y.host + BitVec.ofNat 64 d.length }, true) := by
  obtain ⟨k, rfl⟩ := Nat.exists_eq_succ_of_ne_zero hk
  simp only [State.cxlWrite, hhit, hwin, State.winAccess, hconf, hwr, hwrite, Bool.not_true, Bool.false_eq_true, if_false, Option.isSome_some]

/-- A write through the administration port's decoder is the table's (R406). -/
theorem State.cxlWrite_table {g : Frame} (hhit : s.hdmHit q hpa d.length = some (0, off)) (hadmin : s.adminPort q = true) (hoff : off < 2 ^ 42)
    (hg : s.frame? (off / 65536) = some g) (hown : g.owner = none) :
    s.cxlWrite q hpa d = s.writeTable (.edge (16 + q)) (off / 65536) (off % 65536) d := by
  have hserved : (s.adminPort q && decide (off < 2 ^ 42) && (s.frame? (off / 65536)).any (fun f => f.owner.isNone)) = true := by
    rw [hadmin, decide_eq_true hoff, hg, Option.any_some, hown]
    rfl
  simp only [State.cxlWrite, hhit]
  exact if_pos hserved

/-! ## The commands -/

theorem execCxlMemRead_ready (hq : q < 4) (hready : s.brg.ready = true) (hread : s.cxlRead q hpa n = (s1, some d)) :
    execCxlMemRead q hpa n s = .next (s1.emit (.data q d)).finish := by
  simp only [execCxlMemRead, Nat.not_le.mpr hq, hready, hread, Bool.not_true, Bool.false_eq_true, if_false]

theorem execCxlMemRead_fails (hq : q < 4) (hready : s.brg.ready = true) (hread : s.cxlRead q hpa n = (s1, none)) :
    execCxlMemRead q hpa n s = .next ((s1.memFails q hpa).emit (.data q (List.replicate n 0xFF))).finish := by
  simp only [execCxlMemRead, Nat.not_le.mpr hq, hready, hread, Bool.not_true, Bool.false_eq_true, if_false]

theorem execCxlMemWrite_ready (hq : q < 4) (hready : s.brg.ready = true) (hwrite : s.cxlWrite q hpa d = (s1, true)) :
    execCxlMemWrite q hpa d s = .next s1.finish := by
  simp only [execCxlMemWrite, Nat.not_le.mpr hq, hready, hwrite, Bool.not_true, Bool.false_eq_true, if_false]

theorem execCxlMemWrite_fails (hq : q < 4) (hready : s.brg.ready = true) (hwrite : s.cxlWrite q hpa d = (s1, false)) :
    execCxlMemWrite q hpa d s = .next (s1.memFails q hpa).finish := by
  simp only [execCxlMemWrite, Nat.not_le.mpr hq, hready, hwrite, Bool.not_true, Bool.false_eq_true, if_false]

end

/-- Settles O36: the decoder that claims the address says where the access goes, and it succeeds or is counted there. -/
theorem cxlMemory : Obligations.CxlMemory := by
  unfold Obligations.CxlMemory
  refine ⟨?decoder, ?windowRead, ?tableRead, ?unclaimed, ?windowWrite, ?tableWrite, ?notReady⟩
  case decoder =>
    intro q hpa n k base size s hcxl hsec hk hmem hlo hhi hothers hone
    refine State.hdmHit_of_find hcxl hsec (find?_only hmem (hdmMaps_iff.mpr ⟨hk, hlo, hhi⟩) fun e he hmaps => ?_)
    obtain ⟨-, hle, hlt⟩ := hdmMaps_iff.mp hmaps
    refine hone e he (by_contra fun hne => ?_)
    exact (hothers e he hne).elim (Nat.not_lt.mpr hle) (Nat.not_le.mpr hlt)
  case windowRead =>
    intro q hpa n k off c base s s1 d hq hready hhit hk hwin hconf hread
    exact execCxlMemRead_ready hq hready (State.cxlRead_window hhit hk hwin hconf hread)
  case tableRead =>
    intro q hpa off n s d hq hready hhit hadmin hoff hread
    exact execCxlMemRead_ready hq hready ((State.cxlRead_table hhit hadmin hoff).trans (by rw [hread]))
  case unclaimed =>
    intro q hpa n s d hq hready t
    constructor
    · intro hhit
      exact execCxlMemRead_fails hq hready (by rw [State.cxlRead, hhit])
    · intro hhit
      exact execCxlMemWrite_fails hq hready (by rw [State.cxlWrite, hhit])
  case windowWrite =>
    intro q hpa k off c base s s1 d hq hready hhit hk hwin hconf hwr hwrite
    exact execCxlMemWrite_ready hq hready (State.cxlWrite_window hhit hk hwin hconf hwr hwrite)
  case tableWrite =>
    intro q hpa off s s1 d g hq hready hhit hadmin hoff hg hown hwrite
    exact execCxlMemWrite_ready hq hready ((State.cxlWrite_table hhit hadmin hoff hg hown).trans hwrite)
  case notReady =>
    intro q hpa n s d hq hready
    have hq' : ¬ 4 ≤ q := Nat.not_le.mpr hq
    constructor
    · simp only [exec_cxlMemRead, execCxlMemRead, if_neg hq', hready]
      rfl
    · simp only [exec_cxlMemWrite, execCxlMemWrite, if_neg hq', hready]
      rfl

end Sys2Proof.Machine
end

section
/-!
SUPPORT. Debug and the entropy source (R293, R333 to R335), and the interfaces of confidential slices (R316 to R321, R400 to R402).
-/

namespace Sys2Proof.Machine

open Sys2Proof

/-! ## Debug and the entropy source -/

/-- Settles O26: a token is answered as the entropy source and its own checks stand, and an open port is closed. -/
theorem debugAndEntropy : Obligations.DebugAndEntropy := by
  unfold Obligations.DebugAndEntropy
  refine ⟨?valid, ?invalid, ?noEntropy, ?close, ?expiry, ?fail, ?recover⟩
  case valid =>
    intro k s hent hok trace
    simp only [exec_debugTokenLoad, execDebugTokenLoad, hent, hok, Bool.false_eq_true, if_false, if_true, trace]
  case invalid =>
    intro k s hent hok
    simp only [exec_debugTokenLoad, execDebugTokenLoad, hent, hok, Bool.false_eq_true, if_false]
  case noEntropy =>
    intro k s hent
    simp only [exec_debugTokenLoad, execDebugTokenLoad, hent, if_true]
  case close =>
    intro s hopen
    simp only [exec_dbgCtrlClose, execDbgCtrlClose, State.onSen, hopen, if_true]
    rfl
  case expiry =>
    intro s hopen hdue
    have hends : (s.sen.dbg.unlocked && decide (s.sen.dbg.expiry ≤ s.now)) = true := by simp [hopen, hdue]
    simp only [exec_debugLifetimeExpiry, execDebugLifetimeExpiry, State.onSen, hends, if_true]
    rfl
  case fail =>
    intro s
    rfl
  case recover =>
    intro s
    rfl

/-! ## Requests in a session -/

section
variable {s s1 : State} {q k l : Nat} {id : IfaceId}

/-- An answered request in a session of the port (R402). -/
theorem State.tdisp_ok {f : State → State × Except Nat (List Nat)} {r : List Nat} (hsess : s.sessOn q k = true)
    (hf : f (s.raiseEdge (928 + 8 * q + 3)) = (s1, .ok r)) : s.tdisp q k f = .next (s1.spdm (some k) (some r)).finish := by
  simp only [State.tdisp, hsess, hf, if_true]

/-- A refused request in a session of the port (R402). -/
theorem State.tdisp_error {f : State → State × Except Nat (List Nat)} {e : Nat} (hsess : s.sessOn q k = true)
    (hf : f (s.raiseEdge (928 + 8 * q + 3)) = (s1, .error e)) : s.tdisp q k f = .next (s1.emit (.spdm (k + 1) false (leNats 4 e))).finish := by
  simp only [State.tdisp, hsess, hf, if_true]

/-- A request about an interface that there is. -/
theorem State.onIface_ok {f : State → Nat → Tdi → State × Except Nat (List Nat)} {r : List Nat} (hsess : s.sessOn q k = true)
    (hl : (s.raiseEdge (928 + 8 * q + 3)).iface q id = some l)
    (hf : f (s.raiseEdge (928 + 8 * q + 3)) l ((s.raiseEdge (928 + 8 * q + 3)).tdi l) = (s1, .ok r)) :
    s.onIface q k id f = .next (s1.spdm (some k) (some r)).finish :=
  State.tdisp_ok hsess (by simp only [hl, hf])

theorem State.onIface_error {f : State → Nat → Tdi → State × Except Nat (List Nat)} {e : Nat} (hsess : s.sessOn q k = true)
    (hl : (s.raiseEdge (928 + 8 * q + 3)).iface q id = some l)
    (hf : f (s.raiseEdge (928 + 8 * q + 3)) l ((s.raiseEdge (928 + 8 * q + 3)).tdi l) = (s1, .error e)) :
    s.onIface q k id f = .next (s1.emit (.spdm (k + 1) false (leNats 4 e))).finish :=
  State.tdisp_error hsess (by simp only [hl, hf])

/-- A request about an interface that there is not receives INVALID_INTERFACE (R401). -/
theorem State.onIface_none {f : State → Nat → Tdi → State × Except Nat (List Nat)} (hsess : s.sessOn q k = true)
    (hl : (s.raiseEdge (928 + 8 * q + 3)).iface q id = none) :
    s.onIface q k id f = .next ((s.raiseEdge (928 + 8 * q + 3)).emit (.spdm (k + 1) false (leNats 4 0x101))).finish :=
  State.tdisp_error hsess (by simp only [hl, badIface])

/-- A key set is programmed for a direction (R400). -/
theorem Ide.km_prog {x : Ide} {ks : Nat} {tx : Bool} (hks : ks < 2) :
    x.km ks tx false = some { x with progd := (ks, tx) :: x.progd.filter (· != (ks, tx)) } := by
  rw [Ide.km, if_neg (Nat.not_le.mpr hks), if_neg Bool.false_ne_true]

/-- A direction takes up a key set that is programmed for it (R400). -/
theorem Ide.km_go {x : Ide} {ks : Nat} {tx : Bool} (hks : ks < 2) (hprogd : x.progd.contains (ks, tx) = true) :
    x.km ks tx true = some (if tx = true then { x with tx := some ks } else { x with rx := some ks }) := by
  rw [Ide.km, if_neg (Nat.not_le.mpr hks), if_pos rfl, if_pos hprogd]

/-- A claim of a confidential slice that lies on another port is answered as its state, its claim and its binding value stand, in that order (R320). -/
theorem execBindClaim_named {x : Slice} {value : Nat} {r : List Nat} (hsess : s.sessOn q k = true) (hfunc : id.func = 0) (hrest : id.rest = 0)
    (hx : (s.raiseEdge (928 + 8 * q + 3)).findSlice id.slice = some (l, x)) (hconf : x.conf = true) (hport : x.port ≠ q)
    (hanswer : let a := s.raiseEdge (928 + 8 * q + 3)
      let t := a.tdi l
      (if x.state ≠ .quiesced then (a, .ok [2])
        else if t.claimed then (a, .ok [3])
        else if t.state ≠ 3 ∨ t.binding ≠ value then (a, .ok [1])
        else (a.modTdi l fun y => { y with claimed := true, claimPort := q, claimSess := some k }, .ok [0]) : State × Except Nat (List Nat)) =
          (s1, .ok r)) :
    execBindClaim q k (Config.vendorId % 65536) 1 id value s = .next (s1.spdm (some k) (some r)).finish := by
  have hcmd : ¬(Config.vendorId % 65536 ≠ Config.vendorId % 65536 ∨ 1 ≠ 1) := by simp
  have hnamed : (if id.func = 0 ∧ id.rest = 0 then
      ((s.raiseEdge (928 + 8 * q + 3)).findSlice id.slice).filter (fun e => e.2.conf && e.2.port != q) else none) = some (l, x) := by
    rw [if_pos ⟨hfunc, hrest⟩, hx, Option.filter_some, if_pos (by simp [hconf, hport])]
  refine State.tdisp_ok hsess ((if_neg hcmd).trans ?_)
  rw [hnamed]
  exact hanswer

end

/-- Settles O38: the session is the port's, so each request is answered from the interface that it names. -/
theorem interfaceCommands : Obligations.InterfaceCommands := by
  unfold Obligations.InterfaceCommands
  refine ⟨?lock, ?start, ?busy, ?stop, ?none, ?claim, ?key, ?foreign, ?linkKey, ?lost⟩
  case lock =>
    intro q k l id s hsess s1 hl hst hscrub htx hrx
    have hopen : ¬((s1.tdi l).state ≠ 1 ∨ (s1.tdi l).scrubbed = true) := by simp [hst, hscrub]
    have hlive : (s1.tdi l).ide.live = true := by simp [Ide.live, htx, hrx]
    rw [exec_lockInterface, execLockInterface]
    exact State.onIface_ok hsess hl ((if_neg hopen).trans (if_pos hlive))
  case start =>
    intro q k l id s hsess hent s1 hl hst hown s2
    rw [exec_startInterface, execStartInterface, if_neg (by simp [hent])]
    exact State.onIface_ok hsess hl ((if_neg (not_not.mpr hst)).trans (if_pos hown))
  case busy =>
    intro q k id s hsess hent
    exact if_pos (by rw [hent, hsess]; rfl)
  case stop =>
    intro q k l id s hsess s1 hl hown hst
    rw [exec_stopInterface, execStopInterface]
    refine State.onIface_ok hsess hl ((if_neg (not_not.mpr hown)).trans ?_)
    dsimp only
    rw [if_pos hst]
  case none =>
    intro q k id cmd s hsess hcmd s1 hl
    rcases hcmd with rfl | ⟨rfl, hent⟩ | rfl
    · rw [exec_lockInterface, execLockInterface]
      exact State.onIface_none hsess hl
    · rw [exec_startInterface, execStartInterface, if_neg (by simp [hent])]
      exact State.onIface_none hsess hl
    · rw [exec_stopInterface, execStopInterface]
      exact State.onIface_none hsess hl
  case claim =>
    intro q k l value id s x hsess s1 t hfunc hrest hx hconf hport
    refine ⟨fun hst => ?_, fun hst hclaimed => ?_, fun hst hclaimed hother => ?_, fun hst hclaimed hrun hbinding => ?_⟩
    · exact execBindClaim_named hsess hfunc hrest hx hconf hport (if_pos hst)
    · exact execBindClaim_named hsess hfunc hrest hx hconf hport ((if_neg (not_not.mpr hst)).trans (if_pos hclaimed))
    · exact execBindClaim_named hsess hfunc hrest hx hconf hport
        ((if_neg (not_not.mpr hst)).trans ((if_neg (ne_true_of_eq_false hclaimed)).trans (if_pos hother)))
    · have hmatch : ¬(t.state ≠ 3 ∨ t.binding ≠ value) := by simp [hrun, hbinding]
      exact execBindClaim_named hsess hfunc hrest hx hconf hport
        ((if_neg (not_not.mpr hst)).trans ((if_neg (ne_true_of_eq_false hclaimed)).trans (if_neg hmatch)))
  case key =>
    intro q k l ks tx id s hsess s1 hl hks hst
    have hunlocked : ¬(ks < 2 ∧ ((s1.tdi l).state = 2 ∨ (s1.tdi l).state = 3) ∧ (s1.tdi l).sess ≠ some k) := by simp [hst]
    constructor
    · rw [exec_ideKmKeyProg, execIdeKmKeyProg]
      refine State.onIface_ok hsess hl ((if_neg hunlocked).trans ?_)
      rw [Ide.km_prog hks]
    · intro hprogd
      rw [exec_ideKmKeyProg, execIdeKmKeyProg]
      refine State.onIface_ok hsess hl ((if_neg hunlocked).trans ?_)
      rw [Ide.km_go hks hprogd]
  case foreign =>
    intro q k l ks tx go id s hsess s1 hl hks hst hown
    rw [exec_ideKmKeyProg, execIdeKmKeyProg]
    exact State.onIface_error hsess hl (if_pos ⟨hks, hst, hown⟩)
  case linkKey =>
    intro q k ks tx s hsess hks s1
    rw [exec_ideKmKeyProg, execIdeKmKeyProg]
    refine State.tdisp_ok hsess ?_
    rw [Ide.km_prog hks]
  case lost =>
    intro q l h s hl
    simp only [exec_ideIntegrityFailure, execIdeIntegrityFailure, hl]

end Sys2Proof.Machine
end

section
/-!
SUPPORT. SPDM (R294, R322, R323, R331, R414) and the management port (R330, R338, R412, R413): what each request is answered with.
-/

namespace Sys2Proof.Machine

open Sys2Proof

/-! ## The places of SPDM -/

section
variable {s : State} {q : Nat} {f : State → State}

theorem State.spdmAt_host (hq : q < 4) (hready : s.brg.ready = true) : s.spdmAt (.hostPort q) f = .next (f s) := by
  simp only [State.spdmAt, if_neg (Nat.not_le.mpr hq), hready, if_true]

theorem State.spdmAt_hostNotReady (hq : q < 4) (hready : s.brg.ready = false) : s.spdmAt (.hostPort q) f = .next (s.emit (.retryStatus q)) := by
  simp only [State.spdmAt, if_neg (Nat.not_le.mpr hq), hready, Bool.false_eq_true, if_false]

theorem State.spdmAt_mgmt (hfw : s.mmcFailed = false) (hstage : s.brg.stage ≠ 0) (haddr : s.mmc.addr.isSome = true) :
    s.spdmAt .mgmt f = .next (f s) := by
  have hserves : ¬(s.mmcFailed || s.brg.stage == 0 || s.mmc.addr.isNone) = true := by
    obtain ⟨a, ha⟩ := Option.isSome_iff_exists.mp haddr
    simp [hfw, hstage, ha]
  exact congrArg _ (if_neg hserves)

/-- A request to a host port that travels in an open session, or outside one, is answered; one that needs randomness while there is none gets BUSY
(R293, R322). -/
theorem execGetMeasurements_host {k : Option Nat} {r : SpdmReq} (hq : q < 4) (hready : s.brg.ready = true)
    (hk : ∀ j, k = some j → ∃ x, s.inSess (.hostPort q) j = some x) :
    execGetMeasurements (.hostPort q) k r s =
      let a := s.spdmAnswer (.hostPort q) (k.bind (s.inSess (.hostPort q))) r
      .next (if (needsDraw r && s.sen.entropy) = true then s.spdmBusy k else a.1.spdm k (a.2.map fun b => b.map (·.toNat))) := by
  have hopen : ¬(k.isSome && (k.bind (s.inSess (.hostPort q))).isNone) = true := by
    cases k with
    | none => simp
    | some j =>
      obtain ⟨x, hx⟩ := hk j rfl
      simp [hx]
  exact (State.spdmAt_host hq hready).trans (congrArg _ (if_neg hopen))

end

/-- The end of a session that is not a link endpoint's leaves the seal keys (R294, R314). -/
theorem State.endSession_notLink {s : State} {k : Nat} {x : Sess} (hx : s.sen.sessions.find? (fun x => x.id == k) = some x)
    (hplace : ∀ l, x.at_ ≠ .link l) : s.endSession k = s.endSessions (fun y => y.id == k) := by
  rw [State.endSession, hx]
  dsimp only
  split
  · rename_i l hl
    exact absurd hl (hplace l)
  · rfl

/-! ## Vendor-defined commands -/

/-- A command of a management session is accepted, with its effect (R414). -/
theorem State.onMgmt_ok {s : State} {k : Nat} {claim ok : Bool} {f : State → State} (hsess : s.mgmt k claim = true) (hok : ok = true) :
    s.onMgmt k claim ok f = .next ((f s).emit (.spdm (k + 1) true [])) := by
  rw [State.onMgmt, if_pos hsess, if_pos hok]
  rfl

/-- A command of a management session is refused (R414). -/
theorem State.onMgmt_refused {s : State} {k : Nat} {claim ok : Bool} {f : State → State} (hsess : s.mgmt k claim = true) (hok : ok = false) :
    s.onMgmt k claim ok f = .next (s.emit (.spdm (k + 1) false [])) := by
  rw [State.onMgmt, if_pos hsess, if_neg (ne_true_of_eq_false hok)]
  rfl

/-! ## The management port -/

/-- A message of two bytes is one packet, announced by an in-band interrupt (R411, R412). -/
theorem State.mctp_two (s : State) (a b : Nat) : s.mctp [a, b] = (s.emit .inBand).emit (.mctp [a, b]) := by
  have hone : pieces 64 0 [a, b].length = [(0, 2)] := by simp [pieces]
  rw [State.mctp, hone]
  rfl

/-- A component that verifies is staged (R332, R413). -/
theorem State.stageComponent_verified {s : State} {c : Component} {m : Store} (h : s.sen.verified s.mmc.staged c = some m) :
    s.stageComponent c = { s with mmc := { s.mmc with staged := m } } := by
  simp only [State.stageComponent, h]

/-- Settles O39: each request comes from a place that serves it, and is answered from what the block holds. -/
theorem sessionsAndManagement : Obligations.SessionsAndManagement := by
  unfold Obligations.SessionsAndManagement
  refine ⟨?measurements, ?claimSession, ?outside, ?exchange, ?ends, ?mctp, ?component, ?ownFirmware, ?claimSlot, ?burnSlot, ?revokeSlot, ?burnSvn,
    ?session, ?notReady, ?signed, ?pldm⟩
  case measurements =>
    intro q i k s hq hready hk
    rw [exec_getMeasurements, execGetMeasurements_host hq hready hk]
    cases hm : s.measures (k.bind (s.inSess (.hostPort q))) i <;> simp [needsDraw, State.spdmAnswer, hm]
  case claimSession =>
    intro i j g x s hfw hstage haddr hx hclaim
    rw [exec_getMeasurements, execGetMeasurements, State.spdmAt_mgmt hfw hstage haddr]
    simp [hx, hclaim, State.spdm]
  case outside =>
    intro i g s hfw hstage haddr
    rw [exec_getMeasurements, execGetMeasurements, State.spdmAt_mgmt hfw hstage haddr]
    rfl
  case exchange =>
    intro self chain share leaf root s hok hfw hstage haddr hent own
    rw [exec_keyExchange, execKeyExchange, State.spdmAt_mgmt hfw hstage haddr]
    refine congrArg _ ((if_neg (ne_true_of_eq_false hent)).trans (if_neg ?_))
    simp [hok]
  case ends =>
    intro k x s hx hplace
    rw [exec_sessionEnd, execSessionEnd, State.endSession_notLink hx hplace]
    rfl
  case mctp =>
    intro e a unit s hstage hunit
    refine ⟨fun haddr => ?_, fun haddr => ⟨?_, ?_⟩⟩
    · have hserved : ¬(s.mmc.addr.isNone || decide (256 < unit)) = true := by
        obtain ⟨b, hb⟩ := Option.isSome_iff_exists.mp haddr
        simpa [hb] using hunit
      constructor
      · refine congrArg _ ((if_neg hstage).trans ((if_neg hserved).trans ?_))
        dsimp only
        rw [State.mctp_two]
      · exact congrArg _ ((if_neg hstage).trans ((if_neg hserved).trans (State.mctp_two ..)))
    · exact congrArg _ ((if_neg hstage).trans (if_pos (by rw [haddr]; rfl)))
    · refine congrArg _ ((if_neg hstage).trans (if_neg ?_))
      rw [haddr]
      exact Bool.false_ne_true
  case component =>
    intro k c t s hfw hsess
    rw [exec_pldmFirmwareUpdate, execPldmFirmwareUpdate, if_neg (ne_true_of_eq_false hfw)]
    constructor
    · intro hv
      refine (State.onMgmt_ok hsess (by rw [hv]; rfl)).trans ?_
      rw [State.stageComponent_verified hv]
    · intro hv
      exact State.onMgmt_refused hsess (by rw [hv]; rfl)
  case ownFirmware =>
    intro k i s hfw hc
    have hv : s.sen.verified s.mmc.staged (.image 3 i) = some { s.mmc.staged with mmcFw := some i } := if_pos hc
    rw [exec_pldmFirmwareUpdate, execPldmFirmwareUpdate, if_pos hfw]
    exact congrArg _ (State.stageComponent_verified hv)
  case claimSlot =>
    intro k digest s hsess hburnt hroot
    rw [exec_claimSlot, execClaimSlot]
    refine State.onMgmt_ok hsess ?_
    simpa [hburnt] using hroot
  case burnSlot =>
    intro k slot digest signer s hsess hslot hlive hburnt
    rw [exec_burnSlot, execBurnSlot]
    exact State.onMgmt_ok hsess (by rw [decide_eq_true hslot, hlive, hburnt]; rfl)
  case revokeSlot =>
    intro k slot signer s hsess hslot hlive hlast
    rw [exec_revokeSlot, execRevokeSlot]
    exact State.onMgmt_ok hsess (by simp [hslot, hlive, hlast])
  case burnSvn =>
    intro k svn signer s hsess hsvn hlive
    rw [exec_burnSvn, execBurnSvn]
    exact State.onMgmt_ok hsess (by simp [hsvn, hlive])
  case session =>
    intro q k x s hq hready hx each
    have hk : ∀ j, some k = some j → ∃ y, s.inSess (.hostPort q) j = some y := fun j hj => ⟨x, Option.some.inj hj ▸ hx⟩
    constructor <;>
    · rw [exec_getMeasurements, execGetMeasurements_host hq hready hk, Option.bind_some, hx]
      rfl
  case notReady =>
    intro q k r s hq hready
    rw [exec_getMeasurements, execGetMeasurements, State.spdmAt_hostNotReady hq hready]
  case signed =>
    intro q i d s hq hready hcert hd body
    rw [exec_getMeasurements, execGetMeasurements_host (k := none) hq hready nofun, Option.bind_none]
    simp only [State.spdmAnswer, hd, hcert, if_true]
    rfl
  case pldm =>
    intro k n v s hfw hsess
    constructor
    · rw [exec_pldmFirmwareUpdate, execPldmFirmwareUpdate, if_neg (ne_true_of_eq_false hfw)]
      exact if_pos hsess
    · intro hv
      rw [exec_pldmFirmwareUpdate, execPldmFirmwareUpdate, if_neg (ne_true_of_eq_false hfw)]
      exact (if_pos hsess).trans (by rw [hv]; rfl)

end Sys2Proof.Machine
end

section
/-!
SUPPORT. The messages that a link brings (R366, R367, R369 to R374, R376, R377, R379, R386 to R389): where a message goes, the checks of a request in
their order, and what each message does.
-/

namespace Sys2Proof.Machine

open Sys2Proof

/-! ## Arrival -/

/-- A message is taken with the destination that it names. -/
theorem State.taken_dst (s : State) (l ty : Nat) (x : Link) (m : Msg) : (s.taken l ty x m).dst = m.dst := by
  unfold State.taken
  split <;> rfl

section
variable {s : State} {l ty : Nat} {m : Msg} {x : Link} {f : State → Link → Msg → State}

/-- A message for this node is applied. -/
theorem State.arrive_local (hx : s.link? l = some x) (hup : x.up = true) (hok : msgAgrees (s.taken l ty x m) = true)
    (hdst : (s.taken l ty x m).dst = s.address 0xFF) : s.arrive l ty m f = .next (f s x (s.taken l ty x m)).finish :=
  arrive_here hx hup hok ((s.taken_dst l ty x m).symm.trans hdst)

/-- A header that disagrees is a protocol error (R371). -/
theorem State.arrive_disagrees (hx : s.link? l = some x) (hup : x.up = true) (hbad : msgAgrees (s.taken l ty x m) = false) :
    s.arrive l ty m f = .next (s.linkFall l 8).finish := by
  simp only [State.arrive, hx, hup, hbad, Bool.not_true, Bool.not_false, Bool.false_eq_true, if_false, if_true]

/-- A message for another destination goes on (R379). -/
theorem State.arrive_elsewhere (hx : s.link? l = some x) (hup : x.up = true) (hok : msgAgrees (s.taken l ty x m) = true)
    (hdst : (s.taken l ty x m).dst ≠ s.address 0xFF) : s.arrive l ty m f = .next (s.transit l x (s.taken l ty x m)).finish := by
  simp only [State.arrive, hx, hup, hok, hdst, Bool.not_true, Bool.false_eq_true, if_false]

end

/-! ## Transit -/

section
variable {s s1 : State} {l : Nat} {q : Msg} {x : Link} {sent : Bool}

/-- A message in transit is sent on, a strict request within the budget of its link, and is lost where it is unroutable (R367, R373, R379). -/
theorem State.transit_sends (hkind : q.mtype ≠ 0x09 ∨ s.isHere q.dst = false)
    (hsent : let b := if q.flags.getLsbD 0 = true ∧ isCpl q.mtype = false then s.strictBudget l x q else (s, true)
      b.1.sendMsg 0 q (!b.2) = (s1, sent)) : s.transit l x q = if sent = true then s1 else s1.lostMsg q := by
  have hgoes : ¬(q.mtype = 0x09 ∧ s.isHere q.dst = true) := by
    rintro ⟨hty, hhere⟩
    exact hkind.elim (absurd hty) (ne_true_of_eq_false · hhere)
  rw [State.transit, if_neg hgoes]
  simp only [Bool.and_eq_true, Bool.not_eq_true', hsent]
  cases sent <;> rfl

/-- A PATH_LOST for an attach link of this node becomes a completion with LINK_DOWN (R367). -/
theorem State.transit_pathLost (hty : q.mtype = 0x09) (hhere : s.isHere q.dst = true) : s.transit l x q =
    s.plainCpl 0 { q with src := q.dst, tag := q.addr.toNat % 65536, binding := q.addr.toNat / 65536 % 65536 } false .linkDown :=
  if_pos ⟨hty, hhere⟩

end

/-! ## The checks of a request, in their order (R372) -/

/-- A request passes the checks, for context `c`, its class and its message in the clear: whatever its type does is done in state `t`. -/
def State.Admits (s : State) (l : Nat) (x : Link) (q : Msg) (t : State) (c : Nat) (st : Bool) (q2 : Msg) : Prop :=
  ∀ act : State → Nat → Bool → Msg → State, s.request l x q act = act t c st q2

section
variable {s s0 s1 s2 : State} {l c : Nat} {x : Link} {q q2 : Msg} {y : Ctx} {b : Binding} {st : Bool} {act : State → Nat → Bool → Msg → State}

/-- A slice that there is, is ACTIVE, as the check reads it. -/
theorem slice_active (hslice : ∀ z, s.slice? c = some z → z.state = .active) : (s.slice? c).all (fun k => k.state == .active) = true :=
  (Option.all_eq_true _ _).mpr fun z hz => beq_iff_eq.mpr (hslice z hz)

theorem State.request_unbound {e : Status} (hst : s.strictNow l x q = (s0, st)) (hb : s0.bindingOf q = .error e) :
    s.request l x q act = s0.plainCpl 0 q st e := by
  simp only [State.request, hst, hb]

theorem State.request_notActive (hst : s.strictNow l x q = (s0, st)) (hb : s0.bindingOf q = .ok (c, y, b))
    (hslice : ∃ z, s0.slice? y.slice = some z ∧ z.state ≠ .active) : s.request l x q act = s0.plainCpl y.slice q st .busy := by
  obtain ⟨z, hz, hstate⟩ := hslice
  simp only [State.request, hst, hb, hz, Option.all_some, beq_eq_false_iff_ne.mpr hstate, Bool.not_false, if_true]

theorem State.request_policed (hst : s.strictNow l x q = (s0, st)) (hb : s0.bindingOf q = .ok (c, y, b))
    (hslice : ∀ z, s0.slice? y.slice = some z → z.state = .active) (hpay : s0.police l y.slice q = none) :
    s.request l x q act = s0.plainCpl y.slice q st .busy := by
  simp only [State.request, hst, hb, slice_active hslice, hpay, Bool.not_true, Bool.false_eq_true, if_false]

theorem State.request_sealFails {e : Status} {missing : Bool} (hst : s.strictNow l x q = (s0, st)) (hb : s0.bindingOf q = .ok (c, y, b))
    (hslice : ∀ z, s0.slice? y.slice = some z → z.state = .active) (hpay : s0.police l y.slice q = some s1)
    (hseal : s1.sealCheck c q = .error (e, missing)) :
    s.request l x q act = (if missing = true then s1.portFault c l (accDike q.addr.toNat) else s1).plainCpl y.slice q st e := by
  simp only [State.request, hst, hb, slice_active hslice, hpay, hseal, Bool.not_true, Bool.false_eq_true, if_false]

theorem State.request_admits (hst : s.strictNow l x q = (s0, st)) (hb : s0.bindingOf q = .ok (c, y, b))
    (hslice : ∀ z, s0.slice? y.slice = some z → z.state = .active) (hpay : s0.police l y.slice q = some s1)
    (hseal : s1.sealCheck c q = .ok (s2, q2)) : s.Admits l x q s2 c st q2 := by
  intro act
  simp only [State.request, hst, hb, slice_active hslice, hpay, hseal, Bool.not_true, Bool.false_eq_true, if_false]

end

/-! ## Accesses (R316, R372) -/

section
variable {s s2 s3 : State} {l c : Nat} {x : Link} {q q2 : Msg} {st : Bool} {access : State → Nat → Msg → State × Except AccErr (List Byte)}

/-- What an admitted access gives is answered with OK. -/
theorem State.memRequest_ok {d : List Byte} (hadm : s.Admits l x q s2 c st q2)
    (hrun : s2.confSlice (s2.sliceOf c) = true → (s2.tdi (s2.sliceOf c)).state = 3) (hacc : access s2 c q2 = (s3, .ok d)) :
    s.memRequest l x q access = s3.cplFor c q st .ok d := by
  have hopen : ¬(s2.confSlice (s2.sliceOf c) && (s2.tdi (s2.sliceOf c)).state != 3) = true := by simpa using hrun
  refine (hadm _).trans ?_
  simp only [if_neg hopen, hacc]

/-- An admitted access that a dike refuses faults its context and is answered with DENIED. -/
theorem State.memRequest_denied {a : Nat} (hadm : s.Admits l x q s2 c st q2) (hconf : s2.confSlice (s2.sliceOf c) = false)
    (hacc : access s2 c q2 = (s2, .error (accDike a))) :
    s.memRequest l x q access = (s2.portFault c l (accDike a)).plainCpl (s2.sliceOf c) q st .denied := by
  refine (hadm _).trans ?_
  simp only [hconf, hacc, Bool.false_and, Bool.false_eq_true, if_false]
  rfl

end

/-- MEM_RD, MEM_WR and RDISP_DONE arrive as requests, each of its own type. -/
theorem exec_request {l ty : Nat} {m : Msg} {cmd : Instr}
    (hcmd : ty = 0x01 ∧ cmd = .memRd l m ∨ ty = 0x02 ∧ cmd = .memWr l m ∨ ty = 0x19 ∧ cmd = .rdispDone l m) :
    ∃ act : Link → Msg → State → Nat → Bool → Msg → State, ∀ s, exec cmd s = s.arrive l ty m fun s x m => s.request l x m (act x m) := by
  rcases hcmd with ⟨rfl, rfl⟩ | ⟨rfl, rfl⟩ | ⟨rfl, rfl⟩
  · exact ⟨_, fun _ => exec_memRd⟩
  · exact ⟨_, fun _ => exec_memWr⟩
  · exact ⟨_, fun _ => exec_rdispDone⟩

/-- Settles O34: the message arrives here, and the first check that fails, or the access, sets the answer. -/
theorem linkMemoryRequests : Obligations.LinkMemoryRequests := by
  unfold Obligations.LinkMemoryRequests
  refine ⟨?read, ?write, ?writeDenied, ?refused⟩
  case read =>
    intro l m q2 s s0 s1 s2 s3 x c y b st d hx hup q hok hdst hst hb hslice hpay hseal hrun hread
    rw [exec_memRd, execMemRd, State.arrive_local hx hup hok hdst,
      State.memRequest_ok (State.request_admits hst hb hslice hpay hseal) hrun hread]
  case write =>
    intro l m q2 s s0 s1 s2 s3 x c y b st hx hup q hok hdst hst hb hslice hpay hseal hrun hwr hwrite
    rw [exec_memWr, execMemWr, State.arrive_local hx hup hok hdst,
      State.memRequest_ok (s3 := s3.linkBytes c q2.len) (d := []) (State.request_admits hst hb hslice hpay hseal) hrun]
    simp only [hwr, hwrite, Bool.not_true, Bool.false_eq_true, if_false]
  case writeDenied =>
    intro l m q2 s s0 s1 s2 x c y b st hx hup q hok hdst hst hb hslice hpay hseal hconf hwr
    rw [exec_memWr, execMemWr, State.arrive_local hx hup hok hdst,
      State.memRequest_denied (a := q2.addr.toNat) (State.request_admits hst hb hslice hpay hseal) hconf]
    simp only [hwr, Bool.not_false, if_true]
  case refused =>
    intro l ty m cmd s s0 x st hcmd hx hup q
    obtain ⟨act, hexec⟩ := exec_request hcmd
    rw [hexec]
    refine ⟨State.arrive_disagrees hx hup, fun hok hdst hst => ?_⟩
    rw [State.arrive_local hx hup hok hdst]
    refine ⟨fun e hb => ?_, fun c y b hb => ⟨fun hslice => ?_, fun hslice => ⟨fun hpay => ?_, fun s1 hpay e missing hseal => ?_⟩⟩⟩
    · rw [State.request_unbound hst hb]
    · rw [State.request_notActive hst hb hslice]
    · rw [State.request_policed hst hb hslice hpay]
    · rw [State.request_sealFails hst hb hslice hpay hseal]

/-! ## Remote dispatch (R387 to R389) -/

/-- A remote dispatch is sent where its link is up and has a free slot. -/
theorem execRdispSend_sends {s : State} {l k : Nat} {x : Link} {d : Disp} {a : RemoteArgs} (hx : s.link? l = some x) (hup : x.up = true)
    (hheld : s.heldRemote l = some d) (hslot : (List.range 256).find? (fun k => !thas x.slots k) = some k) (hwork : d.work = .remote a) :
    execRdispSend l s = .next (s.sendRdisp l k d a).finish := by
  simp only [execRdispSend, hx, hheld, hslot, hwork, hup, if_true]

/-- A remote dispatch of a slice that is not quiesced ends with TIMEOUT once the link's time has passed. -/
theorem execRdispTimeout_due {s : State} {l k t : Nat} {x : Link} {ref : DWord} (hx : s.link? l = some x) (hslot : tget x.slots k = some (ref, t))
    (hslice : ∀ d z, s.disp? ref = some d → s.slice? (s.sliceOf d.ctx) = some z → z.state = .active) (hlate : t + 100000 * x.rdto ≤ s.now) :
    execRdispTimeout l k s = .next ((s.raiseEdge (576 + 4 * l + 3)).linkFault ref l 6 .timeout).finish := by
  have hrun : (s.disp? ref).any (fun d => (s.slice? (s.sliceOf d.ctx)).any (fun k => k.state != .active)) = false := by
    simpa [Option.any_eq_false] using fun d hd z hz => hslice d z hd hz
  have hdue : ¬s.now < t + usTicks (1000 * x.rdto) := by
    unfold usTicks
    omega
  simp only [execRdispTimeout, hx, hslot, hrun, hdue, decide_false, Bool.or_self, Bool.false_eq_true, if_false]

/-! ## Result stores (R367, R376) -/

/-- A result store that ends with a failure faults its context. -/
theorem State.storeEnds_fails {s : State} {l tag : Nat} {ref : DWord} {e : Status} (he : e ≠ .ok) :
    s.storeEnds l tag ref e = ((s.modLink l fun y => { y with rstores := tdel y.rstores tag }).modDisp ref fun d =>
      { d with stores := d.stores - 1 }).linkFault ref l 5 e :=
  if_neg he

/-- Settles O35: the message arrives here, or goes on, and does what its own checks give. Two answers are the model's reading (DEDUCED): a doorbell of a
confidential context without a seal faults that context, and one whose seal fails is only counted (log entry 142); a SECURED message without a session
is dropped (log entry 140). -/
theorem linkMessages : Obligations.LinkMessages := by
  unfold Obligations.LinkMessages
  refine ⟨?doorbell, ?ignored, ?completion, ?storeLate, ?pathLost, ?sends, ?done, ?doneLate, ?secured, ?reserved, ?forward, ?lostHere⟩
  case doorbell =>
    intro l m q2 s s1 x c k y b z hx hup q hok hdst hb hseal hq hctx
    have hown : (s1.findQueue (BitVec.ofNat 32 q.addr.toNat)).filter (fun e => e.2.ctx == c) = some (k, z) := by
      rw [hq, Option.filter_some, if_pos (beq_iff_eq.mpr hctx)]
    rw [exec_doorbell, execDoorbell, State.arrive_local hx hup hok hdst]
    simp only [hb, hseal, hown, q]
  case ignored =>
    intro l m s x hx hup q ignore hok hdst
    rw [exec_doorbell, execDoorbell, State.arrive_local hx hup hok hdst]
    refine ⟨fun e hb => ?_, fun c y b e missing hb hseal => ?_⟩
    · simp only [hb, ignore, q]
    · simp only [hb, hseal, ignore, q]
  case completion =>
    intro l m s x ref hx hup q hok hdst hstore hcode
    rw [exec_cpl, execCpl, State.arrive_local hx hup hok hdst]
    simp only [hstore, hcode, State.storeEnds, if_true, q]
  case storeLate =>
    intro ref s l tag hlate
    have hticks : ∀ n, usTicks (1000 * n) = 100000 * n := fun n => by unfold usTicks; omega
    simp only [exec_resultStoreTimeout, execResultStoreTimeout, hticks, hlate, State.storeEnds_fails (e := .timeout) nofun]
  case pathLost =>
    intro l m s x ref hx hup q hok hdst hstore
    rw [exec_pathLost, execPathLost, State.arrive_local hx hup hok hdst]
    simp only [hstore, State.storeEnds_fails (e := .linkDown) nofun, q]
  case sends =>
    intro l k s x d a hx hup hheld hslot hwork
    rw [exec_rdispSend, execRdispSend_sends hx hup hheld hslot hwork]
  case done =>
    intro l c m q2 s s0 s1 s2 x y b st e d hx hup q hok hdst hst hb hslice hpay hseal hslot hd hctx t
    have hwork : (tget x.slots q.tag).bind (fun e => (s2.disp? e.1).filter (fun d => d.ctx == c)) = some d := by
      rw [hslot, Option.bind_some, hd, Option.filter_some, if_pos (beq_iff_eq.mpr hctx)]
    rw [exec_rdispDone, execRdispDone, State.arrive_local hx hup hok hdst, State.request_admits hst hb hslice hpay hseal]
    simp only [hwork, State.freeRdisp, t, q]
  case doneLate =>
    intro l k t s x ref hx hslot hslice hlate
    rw [exec_rdispTimeout, execRdispTimeout_due hx hslot hslice hlate]
  case secured =>
    intro l m s x hx hup q hok hdst
    rw [exec_secured, execSecured, State.arrive_local hx hup hok hdst]
  case reserved =>
    intro l m s s0 x st hx hup q hok hdst hst
    rw [exec_reservedMtype, execReservedMtype, State.arrive_local hx hup hok hdst]
    simp only [hst, q]
  case forward =>
    intro l m s s1 x sent hx hup q hok hdst hkind b hsent
    rw [exec_messageForward, execMessageForward, State.arrive_elsewhere hx hup hok hdst, State.transit_sends hkind hsent]
  case lostHere =>
    intro l m s x hx hup q hok hdst hhere
    have hty : q.mtype = 0x09 := by
      unfold q State.taken
      split <;> rfl
    rw [exec_pathLost, execPathLost, State.arrive_elsewhere hx hup hok hdst, State.transit_pathLost hty hhere]

end Sys2Proof.Machine
end

section
/-!
SUPPORT. The queue of commands and the end of one (spec/95): a step takes the first command, no command touches those behind it, and a settled state stays
as it is.
-/

namespace Sys2Proof.Machine

open Sys2Proof

/-! ## The queue -/

/-- With a command waiting, a step runs it without it in the queue. -/
theorem step_command {s : State} {c : Instr} {r : List Instr} (h : s.pending = c :: r) : step s = exec c { s with pending := r } := by
  unfold step
  rw [h]

/-- With no command waiting, a step passes 10 ns. -/
theorem step_idle {s : State} (h : s.pending = []) : step s = .next s.tick := by
  unfold step
  rw [h]

/-- What every operation keeps includes the commands that wait. -/
theorem Keeps.pending {s t : State} (h : Keeps s t) : t.pending = s.pending := by
  obtain ⟨-, -, -, hpending, -⟩ := h
  exact hpending

/-- Settles O43: a step with a command waiting. -/
theorem stepRunsCommand : Obligations.StepRunsCommand := fun _ _ _ h => step_command h

/-- Settles O44: every command keeps what `Keeps` names, the waiting commands among it. -/
theorem queueLeftAlone : Obligations.QueueLeftAlone := fun c s t h => ((exec_keeps c s).out t h).pending

/-! ## The end of a command in a settled state -/

section
variable {s : State}

/-- With no polder reset under way, none ends. -/
theorem State.resetEnds_quiet (h : s.sched.resets = []) : s.resetEnds = s := by
  unfold State.resetEnds
  rw [h, List.foldl_nil]

/-- With no slice quiescing, no quiesce ends. -/
theorem State.quiesceEnds_quiet (h : ∀ e ∈ s.slices.tab, e.2.state ≠ .quiescing) : s.quiesceEnds = s := by
  have hnone : tkeys s.slices.tab (fun x => x.state == .quiescing) = [] := tkeys_nil fun e he => beq_eq_false_iff_ne.mpr (h e he)
  unfold State.quiesceEnds
  rw [hnone, List.foldl_nil]

/-- With no retirement under way or waiting, none ends or begins. -/
theorem State.retireEnds_quiet (h : ∀ e ∈ s.pool.stks, e.2.retiring = false ∧ e.2.wait = false) : s.retireEnds = s := by
  have hretiring : tkeys s.pool.stks (·.retiring) = [] := tkeys_nil fun e he => (h e he).1
  have hwait : tkeys s.pool.stks (·.wait) = [] := tkeys_nil fun e he => (h e he).2
  simp only [State.retireEnds, State.retireGo, hretiring, hwait]

/-- With earlier work under way before every FENCE_SIGNAL, none is applied (R84). -/
theorem State.flushAll_quiet (h : ∀ e ∈ s.objs.queues, ∀ p ∈ e.2.signals, s.earlierWork e.1 p.order = true) : s.flushAll = s := by
  have hnone : s.objs.queues.find? (fun e => e.2.signals.any fun p => !s.earlierWork e.1 p.order) = none := by
    simpa [List.find?_eq_none] using fun k x hx p hp => h (k, x) hx p hp
  unfold State.flushAll
  cases (s.objs.queues.map fun e => e.2.signals.length).sum with
  | zero => rfl
  | succ n => simp only [State.flushGo, hnone]

/-- A settled state is the end of its command: each of the six parts of the end finds nothing to do. -/
theorem State.finish_quiet (h : Quiet s) : s.finish = s := by
  obtain ⟨hparked, hrings, hresets, hquiesce, hretire, hsignals⟩ := h
  unfold State.finish
  rw [State.settle_quiet hrings, State.resetEnds_quiet hresets, State.quiesceEnds_quiet hquiesce, State.retireEnds_quiet hretire,
    State.flushAll_quiet hsignals, State.showParked, if_pos hparked]

/-- A settled state is settled 10 ns later. -/
theorem Quiet.later (h : Quiet s) : Quiet { s with now := s.now + 1 } := h

/-- The engines noted as in use leave a settled state settled. -/
theorem Quiet.busyAt (h : Quiet s) (b : List (Nat × Nat)) : Quiet (s.onSched fun x => { x with busyAt := b }) := h

end

/-- Settles O45: nothing settles, so that the clock, and at a boundary the engines in use, are all that an idle step changes (R328). -/
theorem quietEnd : Obligations.QuietEnd := by
  unfold Obligations.QuietEnd
  refine ⟨fun s h => State.finish_quiet h, fun s h hidle hnow => ?between, fun s h hidle hnow => ?boundary⟩
  case between =>
    rw [step_idle hidle, State.tick]
    exact congrArg _ ((congrArg State.finish (if_neg hnow)).trans (State.finish_quiet h.later))
  case boundary =>
    rw [step_idle hidle, State.tick]
    exact congrArg _ ((congrArg State.finish (if_pos hnow)).trans (State.finish_quiet (h.later.busyAt _)))

end Sys2Proof.Machine
end

section
/-!
SUPPORT. The event concentrator and the mailboxes (spec/13): the source that a core claims, the end of a claim, wired inputs, sends and receives.
-/

namespace Sys2Proof.Machine

open Sys2Proof

/-! ## Sources, cores and wires are changed apart -/

section
variable (s : State) (i j : Nat)

@[simp] theorem State.src_emit (o : Out) : (s.emit o).src j = s.src j := rfl
@[simp] theorem State.src_modCore (f : Core → Core) : (s.modCore i f).src j = s.src j := rfl
@[simp] theorem State.src_modWire (f : Wire → Wire) : (s.modWire i f).src j = s.src j := rfl
@[simp] theorem State.core_emit (o : Out) : (s.emit o).core j = s.core j := rfl
@[simp] theorem State.core_modSrc (f : Src → Src) : (s.modSrc i f).core j = s.core j := rfl
@[simp] theorem State.wire_modSrc (f : Src → Src) : (s.modSrc i f).wire j = s.wire j := rfl

end

/-! ## The source that a core claims (R422) -/

section
variable {s : State} {n i : Nat}

/-- The better of the best source so far and source `i`: `i` where it is eligible and has the higher priority, or the same and the lower ID. -/
def State.betterClaim (s : State) (n : Nat) (a : Option Nat) (i : Nat) : Option Nat :=
  if s.eligible n i then
    match a with
    | none => some i
    | some j => if (s.src j).prio < (s.src i).prio ∨ ((s.src j).prio = (s.src i).prio ∧ i < j) then some i else a
  else a

/-- A core claims the best of the sources. -/
theorem State.claimable_eq_foldl (s : State) (n : Nat) : s.claimable n = (s.evc.srcs.map (·.1)).foldl (s.betterClaim n) none := rfl

/-- No eligible source comes before source `i`. -/
def State.FirstClaim (s : State) (n i : Nat) : Prop :=
  ∀ j, s.eligible n j = true → (s.src j).prio < (s.src i).prio ∨ (s.src j).prio = (s.src i).prio ∧ i ≤ j

theorem State.betterClaim_ineligible (h : s.eligible n i = false) (a : Option Nat) : s.betterClaim n a i = a := by
  unfold State.betterClaim
  rw [if_neg (by simp [h])]

/-- The best source so far is an eligible one. -/
theorem State.betterClaim_eligible {a : Option Nat} (ha : ∀ j ∈ a, s.eligible n j = true) : ∀ j ∈ s.betterClaim n a i, s.eligible n j = true := by
  unfold State.betterClaim
  split
  case isFalse => exact ha
  case isTrue hi =>
    have hsome : ∀ j ∈ some i, s.eligible n j = true := fun j hj => Option.mem_some.mp hj ▸ hi
    split
    · exact hsome
    · split
      · exact hsome
      · exact ha

/-- The first source takes over from any other eligible one. -/
theorem State.betterClaim_first (hi : s.eligible n i = true) (hfirst : s.FirstClaim n i) {a : Option Nat} (ha : ∀ j ∈ a, s.eligible n j = true) :
    s.betterClaim n a i = some i := by
  unfold State.betterClaim
  rw [if_pos hi]
  cases a with
  | none => rfl
  | some j =>
    dsimp only
    split
    case isTrue => rfl
    case isFalse hno =>
      have hji := hfirst j (ha j rfl)
      rw [show j = i by omega]

/-- No other source takes over from the first. -/
theorem State.betterClaim_of_first (hfirst : s.FirstClaim n i) (j : Nat) : s.betterClaim n (some i) j = some i := by
  cases hj : s.eligible n j with
  | false => exact State.betterClaim_ineligible hj _
  | true =>
    have hij := hfirst j hj
    unfold State.betterClaim
    rw [if_pos hj]
    exact if_neg (by omega)

/-- The first of the sources is the one that the core claims. -/
theorem State.claimable_first (hmem : ∃ e ∈ s.evc.srcs, e.1 = i) (hi : s.eligible n i = true) (hfirst : s.FirstClaim n i) : s.claimable n = some i := by
  obtain ⟨before, after, hsplit⟩ := List.append_of_mem (List.mem_map.mpr hmem)
  have hbefore : ∀ j ∈ before.foldl (s.betterClaim n) none, s.eligible n j = true :=
    List.foldlRecOn (motive := fun a : Option Nat => ∀ j ∈ a, s.eligible n j = true) _ _ nofun fun _ ha _ _ => State.betterClaim_eligible ha
  rw [State.claimable_eq_foldl, hsplit, List.foldl_append, List.foldl_cons, State.betterClaim_first hi hfirst hbefore]
  exact List.foldl_fixed' (State.betterClaim_of_first hfirst) after

/-- With no source eligible a core claims none. -/
theorem State.claimable_none (h : ∀ i, s.eligible n i = false) : s.claimable n = none := by
  rw [State.claimable_eq_foldl]
  exact List.foldl_fixed' (fun i => State.betterClaim_ineligible (h i) none) _

/-- A claim of source `i`. -/
theorem State.claim_some (h : s.claimable n = some i) :
    s.claim n = ((s.modSrc i fun y => { y with pend := false, active := true }).modCore n fun c =>
      { c with stack := (i, c.run) :: c.stack, run := (s.src i).prio }).emit (.value (.core n) (i + 65536 * (s.src i).prio)) := by
  simp only [State.claim, h]

/-- A claim read with nothing to claim returns 0. -/
theorem State.claim_none (h : s.claimable n = none) : s.claim n = s.emit (.value (.core n) 0) := by
  simp only [State.claim, h]

/-- A core that runs makes its claim. -/
theorem exec_evcClaimRead_up (hn : n < 8) (hup : s.pwr.ccUp = true) : exec (.evcClaimRead n) s = .next (s.claim n) := by
  rw [exec_evcClaimRead, execEvcClaimRead, if_pos ⟨hn, hup⟩]

end

/-- Settles O21: the source that comes first is the claimable one. -/
theorem claimRead : Obligations.ClaimRead := by
  unfold Obligations.ClaimRead
  refine ⟨fun n i s hn hup hmem hi hfirst => ?_, fun n s hn hup hnone => ?_⟩
  · rw [exec_evcClaimRead_up hn hup, State.claim_some (State.claimable_first hmem hi hfirst)]
  · rw [exec_evcClaimRead_up hn hup, State.claim_none (State.claimable_none hnone)]

/-! ## The end of a claim (R423) -/

section
variable {s : State} {n i r : Nat} {t : List (Nat × Nat)}

/-- The ID of the claim at the top of the stack ends it. -/
theorem State.eoi_top (h : (s.core n).stack = (i, r) :: t) : s.eoi n i = (s.modCore n fun c => { c with stack := t, run := r }).unclaim i := by
  simp only [State.eoi, h, if_true]

/-- Any other ID, and any ID while the stack is empty, sets EOI_ERR. -/
theorem State.eoi_other (h : ∀ e, (s.core n).stack.head? = some e → e.1 ≠ i) : s.eoi n i = s.modCore n fun c => { c with eoiErr := true } := by
  unfold State.eoi
  split
  case h_1 j _ _ hstack =>
    have hji : j ≠ i := h _ (by rw [hstack, List.head?_cons])
    rw [if_neg hji]
  case h_2 => rfl

/-- A core that runs ends its claim. -/
theorem exec_evcEoiWrite_up (hn : n < 8) (hup : s.pwr.ccUp = true) : exec (.evcEoiWrite n i) s = .next (s.eoi n (i % 2048)) := by
  rw [exec_evcEoiWrite, execEvcEoiWrite, if_pos ⟨hn, hup⟩]

end

/-- Settles O22: the ID is compared with the top of the stack. -/
theorem endOfInterrupt : Obligations.EndOfInterrupt := by
  unfold Obligations.EndOfInterrupt
  refine ⟨fun n i r t s hn hup hi hstack => ?_, fun n i s hn hup hi hother => ?_⟩
  · rw [exec_evcEoiWrite_up hn hup, Nat.mod_eq_of_lt hi, State.eoi_top hstack]
    rfl
  · rw [exec_evcEoiWrite_up hn hup, Nat.mod_eq_of_lt hi, State.eoi_other hother]

/-! ## Wired inputs (R427) -/

section
variable {s : State} {i n : Nat} {level : Bool}

/-- A level input's source follows its filtered level. -/
theorem State.driveWire_level (h : (s.wire i).mode ≤ 1) (old : Bool) : s.driveWire i old = s.setCond (1 + i) (s.wire i).asserted := by
  simp only [State.driveWire, h, if_true]

/-- An input in HIGH mode has its condition while its filtered level is high. -/
theorem State.driveWire_high (hf : (s.wire i).filt ≠ 0) (hm : (s.wire i).mode = 0) (old : Bool) :
    s.driveWire i old = s.setCond (1 + i) (s.wire i).filtered := by
  rw [State.driveWire_level (by omega)]
  simp [Wire.asserted, hm, bne_iff_ne.mpr hf]

/-- An input in LOW mode has it while that level is low. -/
theorem State.driveWire_low (hf : (s.wire i).filt ≠ 0) (hm : (s.wire i).mode = 1) (old : Bool) :
    s.driveWire i old = s.setCond (1 + i) !(s.wire i).filtered := by
  rw [State.driveWire_level (by omega)]
  simp [Wire.asserted, hm, bne_iff_ne.mpr hf]

/-- With FILT 0 a level input is inactive. -/
theorem State.driveWire_inactive (hf : (s.wire i).filt = 0) (hm : (s.wire i).mode ≤ 1) (old : Bool) : s.driveWire i old = s.setCond (1 + i) false := by
  rw [State.driveWire_level hm]
  simp [Wire.asserted, hf]

/-- An edge input raises its source at its edge: the rising one in mode 2, else the falling one. -/
theorem State.driveWire_edge (h : 2 ≤ (s.wire i).mode) (old : Bool) :
    s.driveWire i old = if old ≠ (s.wire i).filtered ∧ (s.wire i).filtered = ((s.wire i).mode == 2) then s.raiseEdge (1 + i) else s := by
  have hedge : ¬(s.wire i).mode ≤ 1 := by omega
  unfold State.driveWire
  simp [hedge]

/-- A filtered level that has not changed is no edge. -/
theorem State.driveWire_noEdge (h : 2 ≤ (s.wire i).mode) : s.driveWire i (s.wire i).filtered = s := by
  rw [State.driveWire_edge h]
  exact if_neg fun hne => hne.1 rfl

/-- A level that has stood FILT samples passes the filter. -/
theorem exec_wiredInputChange_passes (hi : i < 32) (hf : (s.wire i).filt ≠ 0) (hn : (s.wire i).filt ≤ n) :
    exec (.wiredInputChange i level n) s =
      .next ((s.modWire i fun x => { x with raw := level, filtered := level }).driveWire i (s.wire i).filtered) := by
  have hpass : ((s.wire i).filt != 0 && decide ((s.wire i).filt ≤ n)) = true := by simp [hf, hn]
  simp only [exec_wiredInputChange, execWiredInputChange, if_pos hi, hpass, if_true]

/-- Before that, and with FILT 0, the filtered level stays. -/
theorem exec_wiredInputChange_stays (hi : i < 32) (h : (s.wire i).filt = 0 ∨ n < (s.wire i).filt) :
    exec (.wiredInputChange i level n) s = .next ((s.modWire i fun x => { x with raw := level }).driveWire i (s.wire i).filtered) := by
  have hstays : ((s.wire i).filt != 0 && decide ((s.wire i).filt ≤ n)) = false := by
    rcases h with h | h <;> simp [h]
  simp only [exec_wiredInputChange, execWiredInputChange, if_pos hi, hstays, Bool.false_eq_true, if_false]

end

/-- Settles O23: the filter passes the level or not, and the mode says what the filtered level does. That the condition of a level source is absent with
FILT 0, in LOW mode too, is the model's reading of R427 (log entry 113, DEDUCED). -/
theorem wiredInputs : Obligations.WiredInputs := by
  unfold Obligations.WiredInputs
  intro i level n s hi w t r
  have ht : t.wire i = { w with raw := level, filtered := level } := (State.wire_modWire ..).trans (if_pos rfl)
  have hr : r.wire i = { w with raw := level } := (State.wire_modWire ..).trans (if_pos rfl)
  have hpass (hf : w.filt ≠ 0) (hn : w.filt ≤ n) : exec (.wiredInputChange i level n) s = .next (t.driveWire i w.filtered) :=
    exec_wiredInputChange_passes hi hf hn
  have hstay (h : w.filt = 0 ∨ n < w.filt) : exec (.wiredInputChange i level n) s = .next (r.driveWire i w.filtered) :=
    exec_wiredInputChange_stays hi h
  refine ⟨?high, ?low, ?rising, ?falling, ?highStays, ?lowStays, ?inactive, ?noEdge⟩
  case high =>
    intro hf hn hm
    rw [hpass hf hn, State.driveWire_high (by rwa [ht]) (by rwa [ht]), ht]
  case low =>
    intro hf hn hm
    rw [hpass hf hn, State.driveWire_low (by rwa [ht]) (by rwa [ht]), ht]
  case rising =>
    intro hf hn hm
    rw [hpass hf hn, State.driveWire_edge (by rw [ht, hm]), ht]
    cases level <;> simp [hm]
  case falling =>
    intro hf hn hm
    have hedge : 2 ≤ w.mode := by omega
    have hm2 : w.mode ≠ 2 := by omega
    rw [hpass hf hn, State.driveWire_edge (by rwa [ht]), ht]
    cases level <;> simp [hm2]
  case highStays =>
    intro hf hn hm
    rw [hstay (.inr hn), State.driveWire_high (by rwa [hr]) (by rwa [hr]), hr]
  case lowStays =>
    intro hf hn hm
    rw [hstay (.inr hn), State.driveWire_low (by rwa [hr]) (by rwa [hr]), hr]
  case inactive =>
    intro hf hm
    rw [hstay (.inl hf), State.driveWire_inactive (by rwa [hr]) (by rwa [hr])]
  case noEdge =>
    intro hf hm
    have hfil : (r.wire i).filtered = w.filtered := by rw [hr]
    rw [hstay hf, ← hfil, State.driveWire_noEdge (by rwa [hr])]

/-! ## What they leave alone (R421 to R423, R427) -/

section
variable {s : State} {n i j : Nat}

/-- A claim changes the bits of the source that it takes and the stack of its core, and answers. -/
theorem State.claim_frame (s : State) (n : Nat) : let t := s.claim n
    t = { s with evc := t.evc, out := t.out } ∧ t.evc.wires = s.evc.wires ∧ (∀ m, m ≠ n → t.core m = s.core m) ∧
      ∀ j, s.claimable n ≠ some j → t.src j = s.src j := by
  intro t
  cases hc : s.claimable n with
  | none =>
    rw [show t = _ from State.claim_none hc]
    exact ⟨rfl, rfl, fun _ _ => rfl, fun _ _ => rfl⟩
  | some i =>
    rw [show t = _ from State.claim_some hc]
    refine ⟨rfl, rfl, fun m hm => by simp [hm], fun j hj => ?_⟩
    have hji : j ≠ i := fun h => hj (congrArg some h.symm)
    simp [hji]

/-- The end of a claim changes the bits of the source named and the stack of its core. -/
theorem State.eoi_frame (s : State) (n i : Nat) : let t := s.eoi n i
    t = { s with evc := t.evc } ∧ t.evc.wires = s.evc.wires ∧ (∀ m, m ≠ n → t.core m = s.core m) ∧ ∀ j, j ≠ i → t.src j = s.src j := by
  intro t
  by_cases htop : ∃ r l, (s.core n).stack = (i, r) :: l
  case pos =>
    obtain ⟨r, l, hstack⟩ := htop
    rw [show t = _ from State.eoi_top hstack, State.unclaim]
    exact ⟨rfl, rfl, fun m hm => by simp [hm], fun j hj => by simp [hj]⟩
  case neg =>
    have hother : ∀ e, (s.core n).stack.head? = some e → e.1 ≠ i := by
      rintro ⟨_, r⟩ he rfl
      obtain ⟨l, hstack⟩ := List.head?_eq_some_iff.mp he
      exact htop ⟨r, l, hstack⟩
    rw [show t = _ from State.eoi_other hother]
    exact ⟨rfl, rfl, fun m hm => by simp [hm], fun _ _ => rfl⟩

/-- A wired input drives its own source alone. -/
theorem State.driveWire_eq (s : State) (i : Nat) (old : Bool) : s.driveWire i old = s ∨ ∃ f, s.driveWire i old = s.modSrc (1 + i) f := by
  unfold State.driveWire
  extract_lets w
  split
  · exact .inr ⟨_, rfl⟩
  · split
    · exact .inr ⟨_, rfl⟩
    · exact .inl rfl

/-- A change of a wired input changes the wire and its source. -/
theorem State.driveWire_modWire_frame (s : State) (i : Nat) (old : Bool) (f : Wire → Wire) : let t := (s.modWire i f).driveWire i old
    t = { s with evc := t.evc } ∧ t.evc.cores = s.evc.cores ∧ (∀ m, m ≠ i → t.wire m = s.wire m) ∧ ∀ j, j ≠ i + 1 → t.src j = s.src j := by
  intro t
  rcases State.driveWire_eq (s.modWire i f) i old with h | ⟨g, h⟩
  · rw [show t = _ from h]
    exact ⟨rfl, rfl, fun m hm => by simp [hm], fun _ _ => rfl⟩
  · rw [show t = _ from h]
    exact ⟨rfl, rfl, fun m hm => by simp [hm], fun j hj => by simp [Nat.add_comm 1 i, hj]⟩

end

/-- Settles O57: each command has the frame of its operation, or does nothing. -/
theorem eventFrame : Obligations.EventFrame := by
  unfold Obligations.EventFrame
  refine fun n i b s t => ⟨fun h => ?claim, fun h => ?eoi, fun h => ?wire⟩
  case claim =>
    obtain rfl := Host.Outcome.next.inj h
    split
    · exact State.claim_frame s n
    · exact ⟨rfl, rfl, fun _ _ => rfl, fun _ _ => rfl⟩
  case eoi =>
    obtain rfl := Host.Outcome.next.inj h
    split
    · exact State.eoi_frame s n (i % 2048)
    · exact ⟨rfl, rfl, fun _ _ => rfl, fun _ _ => rfl⟩
  case wire =>
    obtain rfl := Host.Outcome.next.inj h
    split
    · exact State.driveWire_modWire_frame s n _ _
    · exact ⟨rfl, rfl, fun _ _ => rfl, fun _ _ => rfl⟩

/-! ## Mailboxes (R431, R435) -/

section
variable {s : State} {who : Party} {m width : Nat} {msg w : DWord} {r : List DWord}

/-- A party that reaches the mailbox unit sends to one of the 64 mailboxes. -/
theorem exec_mbxSend_reaches (hm : m < 64) (hw : who.wf = true) (hr : s.partyReaches who = true) :
    exec (.mbxSend who m width msg) s = .next (s.mbxSend who m width msg) := by
  simp only [exec_mbxSend, execMbxSend, hw, hr, hm, Bool.not_true, Bool.false_eq_true, if_false, if_true]

/-- A party that reaches the mailbox unit receives from one of the 64 mailboxes. -/
theorem exec_mbxRecv_reaches (hm : m < 64) (hw : who.wf = true) (hr : s.partyReaches who = true) :
    exec (.mbxRecv who m width) s = .next ((s.mbxRecv who m width).1.emit (.recv m who (s.mbxRecv who m width).2)).finish := by
  simp only [exec_mbxRecv, execMbxRecv, hw, hr, hm, Bool.not_true, Bool.false_eq_true, if_false, if_true]

/-- An 8-byte send of the mailbox's sender, where there is room and the cluster is active. -/
theorem State.mbxSend_enters (hroom : (s.mbox m).msgs.length < 8) (hdead : s.mbxDead m = false) :
    s.mbxSend (mbxSender m) m 8 msg = s.mbxPush m msg := by
  unfold State.mbxSend
  exact if_neg (by simp [hdead, hroom])

/-- Every other send. -/
theorem State.mbxSend_refused (h : who ≠ mbxSender m ∨ width ≠ 8 ∨ 8 ≤ (s.mbox m).msgs.length ∨ s.mbxDead m = true) :
    s.mbxSend who m width msg = s.modMbox m fun x => { x with serr := true } := if_pos h

/-- An 8-byte receive of the mailbox's receiver takes the oldest message. -/
theorem State.mbxRecv_takes (hmsgs : (s.mbox m).msgs = w :: r) :
    let s1 := s.modMbox m fun x => { x with msgs := r }
    let s2 := if r = [] then (if mbxReceiver m = .control then s1.setCond (64 + m) false else s1).noteSender m 1 else s1
    s.mbxRecv (mbxReceiver m) m 8 = (if m = 0 then s2.pump else if m = 1 then s2.notice w else s2, w) := by
  unfold State.mbxRecv
  simp only [hmsgs]
  exact if_neg (by simp)

/-- Every other receive returns 0. -/
theorem State.mbxRecv_refused (h : who ≠ mbxReceiver m ∨ width ≠ 8 ∨ (s.mbox m).msgs = []) :
    s.mbxRecv who m width = (s.modMbox m fun x => { x with rerr := true }, 0) := by
  unfold State.mbxRecv
  split
  case h_1 w r hmsgs =>
    refine if_pos ?_
    rcases h with h | h | h
    · exact .inl h
    · exact .inr h
    · cases hmsgs.symm.trans h
  case h_2 => rfl

/-- A notice of the pool driver enters mailbox 1, and the firmware takes what waits there (R433, R435). -/
theorem State.pdNotice_taken (hready : s.brg.ready = true) (hroom : (s.mbox 1).msgs.length < 8) (hup : (s.mbxPush 1 w).pwr.ccUp = true) :
    s.pdNotice w = ((s.mbxPush 1 w).drainNotices 8).finish := by
  have hsend : s.mbxSend .pool 1 8 w = s.mbxPush 1 w := State.mbxSend_enters hroom rfl
  have hreach : s.partyReaches .pool = true := hready
  unfold State.pdNotice
  simp only [hreach, hsend, hup, if_true]

end

/-- Settles O24: each access meets the conditions of R431 or is refused. That the firmware takes the pool driver's notices at the receive of mailbox 1, and
within PD_ATTACH and PD_DETACH, is the model's reading of R435 (log entries 114 and 189, DEDUCED). -/
theorem mailboxCommands : Obligations.MailboxCommands := by
  unfold Obligations.MailboxCommands
  refine ⟨?send, ?sendRefused, ?receive, ?receiveRefused, ?notices⟩
  case send =>
    intro m msg s hm hw hr hroom hdead
    rw [exec_mbxSend_reaches hm hw hr, State.mbxSend_enters hroom hdead]
  case sendRefused =>
    intro who m width msg s hm hw hr h
    rw [exec_mbxSend_reaches hm hw hr, State.mbxSend_refused h]
  case receive =>
    intro m w r s hm hw hr hmsgs s1 s2
    rw [exec_mbxRecv_reaches hm hw hr, State.mbxRecv_takes hmsgs]
  case receiveRefused =>
    intro who m width s hm hw hr h
    rw [exec_mbxRecv_reaches hm hw hr, State.mbxRecv_refused h]
  case notices =>
    intro cmd w s hcmd hready _ hroom hup
    rcases hcmd with ⟨rfl, rfl⟩ | ⟨rfl, rfl⟩
    · rw [exec_pdAttach, execPdAttach, State.pdNotice_taken hready hroom hup]
    · rw [exec_pdDetach, execPdDetach, State.pdNotice_taken hready hroom hup]

end Sys2Proof.Machine
end

section
/-!
SUPPORT. Register writes on a path that does not reach their register (R507, R508), and the places of an uncorrectable SRAM error (R497).
-/

namespace Sys2Proof.Machine

open Sys2Proof

/-- A write of an array's register, on a path that does not reach it. -/
theorem onReg_denied {p : Path} {s : State} {ok : Bool} {off : Nat} {f : State → State} (hp : p.wf = true) (hr : s.reaches p off true = false) :
    s.onReg p ok off f = .next (s.deny p) := onBar0_denied hp hr

/-- Settles O17: each row is a write of its register, which the path does not reach. -/
theorem deniedRegisterRows : Obligations.DeniedRegisterRows := by
  unfold Obligations.DeniedRegisterRows
  intro p s cmd off hrow hp hr
  have hdenied : exec cmd s = .next (s.deny p) := by
    rcases hrow with ⟨rfl, rfl⟩ | ⟨rfl, rfl⟩ | ⟨rfl, rfl⟩ | ⟨rfl, rfl⟩ | ⟨b, rfl, rfl⟩ | ⟨rfl, rfl⟩ | ⟨n, v, rfl, rfl⟩ | ⟨l, hl, rfl, rfl⟩ |
      ⟨rfl, rfl⟩ | ⟨rfl, rfl⟩
    case _ => rw [exec_back, execBack, onBar0_denied hp hr]
    case _ => rw [exec_table, execTable, onBar0_denied hp hr]
    case _ => rw [exec_untable, execUntable, onBar0_denied hp hr]
    case _ => rw [exec_query, execQuery, onBar0_denied hp hr]
    case _ => rw [exec_hubS0Go, execHubS0Go, onBar0_denied hp hr]
    case _ => rw [exec_pleInvGo, execPleInvGo, onBar0_denied hp hr]
    case _ => rw [exec_pleReqDoneWrite, execPleReqDoneWrite, onBar0_denied hp hr]
    case _ =>
      have hctrl : s.reaches p (0x80000 + 256 * l + 8) true = false := by
        rw [show 0x80000 + 256 * l + 8 = 0x80008 + 256 * l by omega]
        exact hr
      rw [exec_lnkCtrlDown, execLnkCtrlDown, State.onLink, onReg_denied hp hctrl]
    case _ => rw [exec_lnkTopoLock, execLnkTopoLock, onBar0_denied hp hr]
    case _ => rw [exec_pwrCcsleepReq, execPwrCcsleepReq, onBar0_denied hp hr]
  rw [hdenied]
  -- What the statement says of each kind of path is what `State.deny` does.
  cases p <;> rfl

/-- An error in a part that the block has, `n` such parts being there, has its effect. -/
theorem outcome_of_lt {n i : Nat} {s t : State} (h : i < n) : (.next (if n ≤ i then s else t) : Result) = .next t :=
  congrArg Host.Outcome.next (if_neg (Nat.not_le.mpr h))

/-- Settles O42: the block has the engine or cluster; the hub and the key store are one each. -/
theorem sramErrors : Obligations.SramErrors := by
  unfold Obligations.SramErrors
  refine ⟨?engine, ?staging, ?kvPartial, ?save, ?csq, ?device⟩
  case engine => exact fun e st a b s he => outcome_of_lt he
  case staging => exact fun c a b s hc => outcome_of_lt hc
  case kvPartial => exact fun c a ref b s hc => outcome_of_lt hc
  case save => exact fun c a ref b s hc => outcome_of_lt hc
  case csq => exact fun c a b s hc => outcome_of_lt hc
  case device =>
    intro w a b s hw
    rcases hw with rfl | rfl
    · rfl
    · rfl

end Sys2Proof.Machine
end

section
/-!
SUPPORT. Host ports (spec/12): an unmasked MSI-X vector (R399), translations and page requests (R397, R398), the loss and return of a port (R394, R408).
-/

namespace Sys2Proof.Machine

open Sys2Proof

section
variable {s : State} {q v id : Nat} {r : Pri} {f : State → Pri → State}

/-! ## MSI-X -/

/-- A pending vector is sent unless the function is masked. -/
theorem State.sendPending_one_sent (hpend : (s.port q).msixPnd.contains v = true) (hmask : (s.port q).fmask = false) (hlock : s.lockedVec q v = none) :
    s.sendPending q [v] = (s.modPort q fun x => { x with msixPnd := x.msixPnd.filter (· != v) }).emit (.msix q v false) := by
  have hfree : (s.modPort q fun x => { x with msixPnd := x.msixPnd.filter (· != v) }).lockedVec q v = none := hlock
  simp only [State.sendPending, hmask, Bool.false_eq_true, if_false, List.filter_cons, hpend, if_true, List.filter_nil, List.foldl_cons, List.foldl_nil,
    State.sendVec, hfree, Option.isSome_none]

/-- A vector that is not pending, or whose function is masked, sends nothing. -/
theorem State.sendPending_one_none (h : (s.port q).msixPnd.contains v = false ∨ (s.port q).fmask = true) : s.sendPending q [v] = s := by
  unfold State.sendPending
  split
  case isTrue => rfl
  case isFalse hmask =>
    have hpend : (s.port q).msixPnd.contains v = false := h.resolve_right hmask
    rw [List.filter_cons, hpend, if_neg Bool.false_ne_true, List.filter_nil, List.foldl_nil]

/-- A masked vector outside every locked window is unmasked. -/
theorem exec_msixVectorUnmask_masked (hq : q < 4) (hv : v < 2048) (hready : s.brg.ready = true) (hmasked : (s.port q).unmask.contains v = false)
    (hlock : s.lockedVec q v = none) :
    exec (.msixVectorUnmask q v) s = .next ((s.modPort q fun x => { x with unmask := v :: x.unmask }).sendPending q [v]).finish := by
  simp only [exec_msixVectorUnmask, execMsixVectorUnmask, hq, hv, hready, State.unmask, hmasked, hlock, and_self, Bool.false_eq_true, if_false, if_true]

/-! ## Page requests -/

/-- An outstanding page request leaves the port's table and meets its end. -/
theorem State.endPri_found (h : (s.port q).pri.find? (fun r => r.id == id) = some r) :
    s.endPri q id f = f (s.modPort q fun x => { x with pri := x.pri.filter (fun y => y.id != id) }) r := by
  simp only [State.endPri, h]

/-- An outstanding page request fails once TO_MS has passed. -/
theorem exec_priTimeout_late (h : (s.port q).pri.find? (fun r => r.id == id) = some r) (hlate : r.since + 100000 * (s.port q).toMs ≤ s.now) :
    exec (.priTimeout q id) s = .next ((s.modPort q fun x => { x with pri := x.pri.filter (fun y => y.id != id) }).priFails q r).finish := by
  have hdue : ¬s.now < r.since + usTicks (1000 * (s.port q).toMs) := by
    unfold usTicks
    omega
  simp only [exec_priTimeout, execPriTimeout, h, if_neg hdue, State.endPri_found h]

end

/-! ## Rates and widths (R393) -/

theorem hostRate_of {rate width : Nat} (hlo : 1 ≤ rate) (hhi : rate ≤ 6) (hw : width = 1 ∨ width = 2 ∨ width = 4 ∨ width = 8 ∨ width = 16) :
    hostRate rate width = true := by
  have hmem : width ∈ [1, 2, 4, 8, 16] := by simpa using hw
  simp only [hostRate, decide_eq_true hlo, decide_eq_true hhi, List.contains_iff_mem.mpr hmem, Bool.and_self]

/-- Settles O37: each command's conditions hold. That a port's loss clears Command, BARs, enables, function mask, HDM decoders, IDE keys and the MSI-X
state with the port's controller is the model's reading of R394 and R408 (log entry 152, DEDUCED). -/
theorem hostPortCommands : Obligations.HostPortCommands := by
  unfold Obligations.HostPortCommands
  refine ⟨?unmask, ?loss, ?linkUp, ?invalidation, ?response, ?timeout⟩
  case unmask =>
    intro q v s hq hv hready hmasked hlock t
    have hport : t.port q = { s.port q with unmask := v :: (s.port q).unmask } := (State.port_modPort ..).trans (if_pos rfl)
    have hpnd : (t.port q).msixPnd = (s.port q).msixPnd := by rw [hport]
    have hfmask : (t.port q).fmask = (s.port q).fmask := by rw [hport]
    rw [exec_msixVectorUnmask_masked hq hv hready hmasked hlock]
    refine ⟨fun hpend hmask => ?_, fun h => ?_⟩
    · rw [State.sendPending_one_sent (s := t) (by rwa [hpnd]) (by rwa [hfmask]) hlock]
    · rw [State.sendPending_one_none (s := t) (by rwa [hpnd, hfmask])]
  case loss =>
    intro q why s hq s1 s2
    rw [exec_hostPortLoss, execHostPortLoss, if_neg (Nat.not_le.mpr hq)]
    refine ⟨fun h => if_neg ?_, fun hadmin hready => if_pos ?_⟩
    · rcases h with h | h <;> simp [h]
    · rw [hready, hadmin, Bool.and_self]
  case linkUp =>
    intro q rate width cxl s hq hlo hhi hw
    simp only [exec_hostPortLinkUp, execHostPortLinkUp, decide_eq_false (Nat.not_le.mpr hq), hostRate_of hlo hhi hw, Bool.not_true, Bool.or_self,
      Bool.false_eq_true, if_false]
  case invalidation =>
    intro q pasid base n s hq
    rw [exec_atsInvalidation, execAtsInvalidation, if_neg (Nat.not_le.mpr hq)]
  case response =>
    intro q id r s _ hr t
    simp only [exec_priResponse, execPriResponse, State.endPri_found hr, t, and_self]
  case timeout =>
    intro q id r s _ hr hlate
    exact exec_priTimeout_late hr hlate

end Sys2Proof.Machine
end
